-- ==== Sys2Proof/Word.lean ====
section
/-! DEFINITION. The word types of the KVA-7420 model (00 R6, 03 R74). Anything the manual adds, shifts
or masks is a bit vector; keys and counts are natural numbers. -/

namespace Sys2Proof

/-- A byte of pad, of device memory or of a packet (00 R6). -/
abbrev Byte := BitVec 8

/-- A 16-bit structure field. -/
abbrev Half := BitVec 16

/-- A 32-bit register, lane or counter. -/
abbrev Word := BitVec 32

/-- A 64-bit scalar register or header field. -/
abbrev DWord := BitVec 64

/-- The bits [53:0] of a Suerian instruction word: predicate and class-specific fields (03 R82). -/
abbrev Operand := BitVec 54

end Sys2Proof
end

