-- ==== Sys2Proof/Config.lean ====
section
/-! DEFINITION. What an implementation fixes and the manual does not state: opaque constants with no
body, so that no proof can see their values (each is named in a row of notes/assumptions). -/

namespace Sys2Proof

/-- Which of the two FP32 neighbours of the exact value a special function returns (02 R70, R71: the
tables are fixed for each behaviour level and are not given; the result lies within one unit in the
last place). The first argument numbers the function. FREE VALUE, log entry 3. -/
opaque Config.sfuUp : Nat → Word → Bool

/-- Which of the two FP32 neighbours of the exact value the inverse normal function of INIT returns
(08 R239, by the table method of 02 R70). FREE VALUE, log entry 3. -/
opaque Config.ndtriUp : Word → Bool

/-- A lane of ISHL (0) or ISHR (1) whose count is 32 or more (03 R86 states no count mask for INT32 lanes).
FREE VALUE, log entry 8. -/
opaque Config.wideShift : Nat → Word → Word → Word

/-- Repair rows of one bank of an HBM pseudo-channel (05 R137, R150 name them and give no count).
FREE VALUE, log entry 4. -/
opaque Config.repairRows : Nat → Nat

/-- A byte of entropy (17 R496). The manual gives the source and no value. FREE VALUE, log entry 5. -/
opaque Config.entropy : Nat → Byte

/-- The manual's internal layout of data it calls internal to the device, as one number for each use
(11 R323 VC4 descriptor; 14 R434 failing address of a self-test). FREE VALUE, log entry 6. -/
opaque Config.internalDatum : Nat → Nat

/-- Any value the manual leaves open where the machine goes on: applied to the counter of free values
that State holds, it gives a fresh value each time. FREE VALUE, log entry 7. -/
opaque Config.fresh : Nat → Nat

/-- The sign of a NaN in SIGN_MOMENTUM (09 R268 gives sign for numbers). FREE VALUE, log entry 37. -/
opaque Config.signNan : Word → Word

/-- The number that DETAIL of COLL_ABORT gives for a cause (11 R347 names causes without numbers): 0 trip,
1 member lost, 2 reset of the unit. FREE VALUE, log entry 42. -/
opaque Config.abortCause : Nat → BitVec 8

/-- The 64-byte result record of a self-test (14 R434 says what it gives and not where): opcode, pass bit, failing
address or lane, and duration in µs. FREE VALUE, log entry 6. -/
opaque Config.testRecord : Nat → Bool → Nat → Nat → BitVec 512

/-- KIND of the events that 17 R488 and R496 name without a code: 0 BANK_FALLBACK, 1 ENTROPY_FAIL. FREE VALUE,
log entry 43. -/
opaque Config.eventKind : Nat → BitVec 16

end Sys2Proof
end

