-- ==== Sys2Proof/Syntax.lean ====
section
/-! DEFINITION. The commands of the block: one constructor for each row of the opcode table. Suerian
instructions (03 R86) are issue events at a tile; the rest are Genrun commands, messages, register
accesses, signals and the events of the chapters named. -/

namespace Sys2Proof

/-- A Genrun command's place: its function, local submission queue and SEQ (12 R354, R359). -/
structure CmdRef where
  fn : Fin 513
  sq : Nat
  seq : Word
  deriving DecidableEq, Repr

/-- What a Patina re-plan reads (14 R435, R436). -/
structure PlanReading where
  /-- lowest passing canary voltage by compute die, with its pads, in mV -/
  canary : List Nat
  /-- (pseudo-channel, retention ratio × 100) -/
  ratios : List (Nat × Nat)
  /-- (link, eye height in mV) -/
  eyes : List (Nat × Nat)
  /-- by compute die, the lowest compute rail voltage that meets the floor, in mV -/
  rails : List Nat
  deriving DecidableEq, Repr

/-- What a read or a scrub found in a granule: its error class is that of 05 R518. -/
inductive Finding where
  | clean
  | correctable (syndrome : Nat)
  | uncorrectable (syndrome : Nat)
  deriving DecidableEq, Repr

/-- A Zhoti frame (11 R321) without its CRC. -/
structure Frame where
  type : Nat
  vc : Nat
  hop : Nat
  detour : Bool
  first : Bool
  lseq : Nat
  lack : Nat
  credits : Nat
  creditVc : Nat
  src : Nat
  dst : Nat
  owner : Nat
  sseq : Nat
  flow : Nat
  ctx : Nat
  payload : List Byte
  deriving DecidableEq, Repr

/-- The part of a tile command that another module's interpreter starts here (12 R370, 13 R395), or the tiles
that the placement engine assigned to one of this module's own. -/
structure TilePart where
  /-- rank of the interpreter -/
  home : Nat
  opcode : Nat
  params : List Byte
  /-- the program image from its first byte; empty where this module reads it at IMAGE_TVA -/
  image : List Byte
  /-- every tile of the command as (rank, module tile index), in rank and index order -/
  tiles : List (Nat × Nat)
  deriving DecidableEq, Repr

/-- A collective contribution with its descriptor (11 R340): values are FP32; none is an empty node (02 R61)
or an excluded position. Phase 1 is the all-gather of a two-phase all-reduce (11 R341). -/
structure CollPart where
  member : Nat
  phase : Nat
  kind : Nat
  fmt : Nat
  rows : Nat
  rowLen : Nat
  c : Nat
  h : Nat
  data : List (Option Word)
  deriving DecidableEq, Repr

/-- A page-ship header (07 R214) without its format code, which is the model's. -/
structure PageHeader where
  tenant : Nat
  layer : Nat
  model : Nat
  tag : Nat
  version : Nat
  /-- page-list entry, or 0xFFFF_FFFF for slot contents -/
  block : Nat
  positions : Nat
  kind : Nat
  src : Nat
  dst : Nat
  seq : Nat
  deriving DecidableEq, Repr

/-- A committed token record (07 R198). -/
structure TokRec where
  token : Nat
  version : Nat
  logprob : Word
  draft : Bool
  deriving DecidableEq, Repr

/-- A step's update of an output area on its way to the anchor (07 R199). -/
structure OutputUpdate where
  tenant : Nat
  tag : Nat
  home : Nat
  outTva : Nat
  first : Nat
  records : List TokRec
  /-- the 64 header bytes, or the 128 bytes of a score result -/
  header : List Byte
  deriving DecidableEq, Repr

/-- What a step program leaves for one request (07 R207): its result pairs, the drafts that a draft model
proposed, the values of a score, and this member's key-value writes as (layer, offset, bytes) with the
offset counted from the start of the slot; past 64 KiB it lies in a provisional page. -/
structure StepResult where
  tag : Nat
  pairs : List (Nat × Word)
  drafts : List Nat
  values : List Word
  writes : List (Nat × Nat × List Byte)
  deriving DecidableEq, Repr

/-- Partials of one tensor on this member (09 R264, R270). -/
structure TensorPartials where
  w2 : Word
  g2 : Word
  u2 : Word
  mg2 : Word
  nonfinite : Nat
  sat : Nat
  skipped : Bool
  deriving DecidableEq, Repr

def TensorPartials.zero : TensorPartials := ⟨0, 0, 0, 0, 0, 0, false⟩

/-- A parameter group (09 R256): OPT and the scalars s0–s15. -/
structure ParamGroup where
  opt : Nat
  s : List Word
  deriving DecidableEq, Repr

/-- A custom update program (09 R266). -/
structure UpdateProgram where
  phaseA : List DWord
  phaseB : List DWord
  red0 : Nat
  red1 : Nat
  deriving DecidableEq, Repr

/-- The options that LEARN_SETUP sets (09 R256). -/
structure LearnSetup where
  skipBlocks : Bool
  buddy : Bool
  gradGroups : List Nat
  seed : DWord
  clipNorm : Word
  noiseEma : Word
  programs : List UpdateProgram
  groupMap : List Nat
  groups : List ParamGroup
  deriving DecidableEq, Repr

/-- A GO record (09 R272). -/
structure GoRecord where
  version : Nat
  step : Nat
  clip : Word
  lrScale : Word
  setup : LearnSetup
  deriving DecidableEq, Repr

/-- A Freeze as its coordinator plans it (10 R298 to R302): source version, and the pools that receive parts. -/
structure FreezePlan where
  tenant : Nat
  model : Nat
  version : Nat
  foil : Bool
  overlap : Bool
  /-- the tenant was in LEARN: the pools form at publication -/
  fromLearn : Bool
  width : Nat
  prefillPool : List Nat
  decodePool : List Nat
  cachePool : List Nat
  deriving DecidableEq, Repr

/-- READY of a member (09 R272): Σ G2 and non-finite elements, with its waits in µs. -/
structure ReadyRec where
  rank : Nat
  g2 : Word
  nonfinite : Nat
  ckptWaitUs : Nat
  mirrorWaitUs : Nat
  deriving DecidableEq, Repr

/-- DONE of a member (09 R270, R273): partials by tensor, and counts for the report. -/
structure DoneRec where
  rank : Nat
  partials : List (Nat × TensorPartials)
  blocksSkipped : Nat
  undoRedos : Nat
  sweepUs : Nat
  unattributed : Nat
  deriving DecidableEq, Repr

/-- IDENT (11 R327). -/
structure IdentRec where
  serial : DWord
  row : Nat
  col : Nat
  rank : Nat
  role : Nat
  index : Nat
  fwMajor : Nat
  level : Nat
  deriving DecidableEq, Repr

/-- Where a remote access lands on this module (11 R323): tenant memory, a DPA, or the mirror that this
module keeps for its buddy's gradient shards (09 R265), with the offset from the first of them. -/
inductive RemoteAddr where
  | tva (tenant addr : Nat)
  | dpa (addr : Nat)
  | mirror (tenant model offset : Nat)
  deriving DecidableEq, Repr

/-- What a module receives of a weight image (17 R497). Decryption, tags and digests are the security engine's:
their outcomes come with the data. -/
inductive ImageItem where
  /-- the header; HEADER_TAG verifies; TABLE_DIGEST is that of the model's tensor table -/
  | head (bytes : List Byte) (tagOk digestOk : Bool)
  /-- a segment: its header, its ciphertext and its plaintext; none where TAG fails -/
  | seg (header cipher : List Byte) (plain : Option (List Byte))
  /-- IMAGE_LEN bytes have been read -/
  | last
  deriving DecidableEq, Repr

/-- A firmware image in a bank (17 R487). The cause is that of SEC_BOOT_STAT.FAIL; 0 is valid. -/
structure FwImage where
  cause : Nat
  major : Nat
  minor : Nat
  levelMax : Nat
  svn : Nat
  digest : Nat
  deriving DecidableEq, Repr

/-- The domain configuration record (17 R491). -/
structure DomainRecord where
  size : Nat
  rowsM1 : Nat
  colsM1 : Nat
  row : Nat
  col : Nat
  levelCeil : Nat
  spares : BitVec 64
  rankMap : List DWord
  /-- (BAR0 offset, value) -/
  settings : List (Nat × Word)
  digest : Nat
  deriving DecidableEq, Repr

/-- A payload that a firmware update transferred (17 R490). -/
inductive FwPayload where
  | controller (i : FwImage)
  | package (i : FwImage)
  | record (r : DomainRecord)
  | board (pmd : BitVec 12) (digest : Nat)
  deriving DecidableEq, Repr

/-- What ELECTED carries to one module (13 R398, R399): the outcome of its admission, the domain as the coordinator
sees it, and what an admitted module lacks: the record, current configuration fields, image keys and allocations. -/
structure Admission where
  /-- quarantine cause; 0 admits -/
  cause : Nat
  members : BitVec 64
  quarantined : BitVec 64
  lost : BitVec 64
  anchor : Nat
  noHost : Bool
  level : Nat
  epoch : Nat
  time : Nat
  record : Option DomainRecord
  /-- (tenant, FIELD_ID, value, epoch) -/
  config : List (Nat × Nat × Nat × Nat)
  /-- image keys by (tenant, KEY_ID) -/
  keys : List ((Nat × Nat) × List Byte)
  allocs : List (Nat × BitVec 64)
  deriving DecidableEq, Repr

/-- The commands. -/
inductive Instr where
  /-- NOP (R86): CTRL NOP instruction issues and does nothing. -/
  | nop (t : Fin 160) (w : Operand)
  /-- JMP (R86): CTRL JMP continues at TARGET, or raises ILLEGAL_INSTRUCTION for a bad target. -/
  | jmp (t : Fin 160) (w : Operand)
  /-- LOOP (R86): CTRL LOOP decrements SA and branches to TARGET while SA is not zero. -/
  | loop (t : Fin 160) (w : Operand)
  /-- SEG (R79): SEG waits until all fences are idle or done and nothing is outstanding, then starts a new segment and restarts the segment timer. -/
  | seg (t : Fin 160) (w : Operand)
  /-- END (R86): END waits for outstanding operations, ORs the flag word into the command summary and ends the tile's program. -/
  | endProg (t : Fin 160) (w : Operand)
  /-- TRAP (R86): TRAP raises the TRAP exception with IMM[15:0] as detail. -/
  | trap (t : Fin 160) (w : Operand)
  /-- FLAGRD (R86): FLAGRD copies the flag word into a scalar register. -/
  | flagrd (t : Fin 160) (w : Operand)
  /-- FLAGCLR (R86): FLAGCLR clears the flag bits selected by IMM. -/
  | flagclr (t : Fin 160) (w : Operand)
  /-- ADD (R86): SCALAR ADD computes SA plus SB modulo 2^64. -/
  | add (t : Fin 160) (w : Operand)
  /-- SUB (R86): SCALAR SUB computes SA minus SB modulo 2^64. -/
  | sub (t : Fin 160) (w : Operand)
  /-- MUL (R86): SCALAR MUL keeps the low 64 bits of SA times SB. -/
  | mul (t : Fin 160) (w : Operand)
  /-- AND (R86): SCALAR AND computes the bitwise and of SA and SB. -/
  | and (t : Fin 160) (w : Operand)
  /-- OR (R86): SCALAR OR computes the bitwise or of SA and SB. -/
  | or (t : Fin 160) (w : Operand)
  /-- XOR (R86): SCALAR XOR computes the bitwise xor of SA and SB. -/
  | xor (t : Fin 160) (w : Operand)
  /-- SHL (R86): SCALAR SHL shifts SA left by SB[5:0]. -/
  | shl (t : Fin 160) (w : Operand)
  /-- SHR (R86): SCALAR SHR shifts SA right logically by SB[5:0]. -/
  | shr (t : Fin 160) (w : Operand)
  /-- SRA (R86): SCALAR SRA shifts SA right arithmetically by SB[5:0]. -/
  | sra (t : Fin 160) (w : Operand)
  /-- MOVHI (R86): MOVHI builds a 64-bit value from IMM as the high word and SA[31:0] as the low word. -/
  | movhi (t : Fin 160) (w : Operand)
  /-- CMPEQ (R86): CMPEQ writes the equality of SA and SB to a predicate. -/
  | cmpeq (t : Fin 160) (w : Operand)
  /-- CMPLT (R86): CMPLT writes the signed less-than of SA and SB to a predicate. -/
  | cmplt (t : Fin 160) (w : Operand)
  /-- CMPLTU (R86): CMPLTU writes the unsigned less-than of SA and SB to a predicate. -/
  | cmpltu (t : Fin 160) (w : Operand)
  /-- LDS (R86): LDS loads 64 bits from an aligned pad address into a scalar register. -/
  | lds (t : Fin 160) (w : Operand)
  /-- STS (R86): STS stores a scalar register to 64 bits of pad. -/
  | sts (t : Fin 160) (w : Operand)
  /-- RDTIME (R86): RDTIME reads device time in ns into a scalar register. -/
  | rdtime (t : Fin 160) (w : Operand)
  /-- DLOAD (R86): DLOAD loads a 128-byte descriptor from pad into a slot and resets its cursor. -/
  | dload (t : Fin 160) (w : Operand)
  /-- DSTORE (R86): DSTORE stores a descriptor slot to 128 bytes of pad. -/
  | dstore (t : Fin 160) (w : Operand)
  /-- DSETW (R86): DSETW sets one 32-bit word of a descriptor. -/
  | dsetw (t : Fin 160) (w : Operand)
  /-- DADDW (R86): DADDW adds to one 32-bit word of a descriptor modulo 2^32. -/
  | daddw (t : Fin 160) (w : Operand)
  /-- DRESET (R86): DRESET sets the cursor of a descriptor slot. -/
  | dreset (t : Fin 160) (w : Operand)
  /-- VLD (R92): VLD loads the next 512 walk elements widened to FP32 into a vector register and advances the cursor. -/
  | vld (t : Fin 160) (w : Operand)
  /-- VST (R92): VST narrows and stores a vector register to the next 512 walk elements and advances the cursor. -/
  | vst (t : Fin 160) (w : Operand)
  /-- PADCOPY (R86): PADCOPY copies and converts every element of one walk into another in enumeration order. -/
  | padcopy (t : Fin 160) (w : Operand)
  /-- MMA (R93): MMA multiplies two descriptor walks into an accumulator bank in normal mode or Assay. -/
  | mma (t : Fin 160) (w : Operand)
  /-- STORE (R95): TENSOR STORE converts a bank's value, with optional c_in, and writes it through a descriptor. -/
  | store (t : Fin 160) (w : Operand)
  /-- ZERO (R95): ZERO opens a normal-mode reduction of zeros in a bank. -/
  | zero (t : Fin 160) (w : Operand)
  /-- FADD (R57): FP32 lane addition. -/
  | fadd (t : Fin 160) (w : Operand)
  /-- FSUB (R57): FP32 lane subtraction. -/
  | fsub (t : Fin 160) (w : Operand)
  /-- FMUL (R57): FP32 lane multiplication. -/
  | fmul (t : Fin 160) (w : Operand)
  /-- FFMA (R57): FP32 lane fused multiply-add rounded once. -/
  | ffma (t : Fin 160) (w : Operand)
  /-- FDIV (R57): FP32 lane division, correctly rounded, with DZ and INV rules. -/
  | fdiv (t : Fin 160) (w : Operand)
  /-- FSQRT (R57): FP32 lane square root, correctly rounded. -/
  | fsqrt (t : Fin 160) (w : Operand)
  /-- FMAX (R57): FP32 lane maximum, with NaN and signed-zero rules. -/
  | fmax (t : Fin 160) (w : Operand)
  /-- FMIN (R57): FP32 lane minimum, with NaN and signed-zero rules. -/
  | fmin (t : Fin 160) (w : Operand)
  /-- FNEG (R86): Exact lane negation. -/
  | fneg (t : Fin 160) (w : Operand)
  /-- FABS (R86): Exact lane absolute value. -/
  | fabs (t : Fin 160) (w : Operand)
  /-- FCMPLT (R86): Lane less-than compare written to a lane mask. -/
  | fcmplt (t : Fin 160) (w : Operand)
  /-- SEL (R86): Lane selection between two vector registers by a lane mask. -/
  | sel (t : Fin 160) (w : Operand)
  /-- IADD (R86): INT32 lane addition modulo 2^32. -/
  | iadd (t : Fin 160) (w : Operand)
  /-- ISUB (R86): INT32 lane subtraction modulo 2^32. -/
  | isub (t : Fin 160) (w : Operand)
  /-- IMUL (R86): INT32 lane multiplication modulo 2^32. -/
  | imul (t : Fin 160) (w : Operand)
  /-- IAND (R86): INT32 lane bitwise and. -/
  | iand (t : Fin 160) (w : Operand)
  /-- IOR (R86): INT32 lane bitwise or. -/
  | ior (t : Fin 160) (w : Operand)
  /-- IXOR (R86): INT32 lane bitwise xor. -/
  | ixor (t : Fin 160) (w : Operand)
  /-- ISHL (R86): INT32 lane left shift. -/
  | ishl (t : Fin 160) (w : Operand)
  /-- ISHR (R86): INT32 lane right shift. -/
  | ishr (t : Fin 160) (w : Operand)
  /-- IOTA (R86): Writes each lane's index plus an offset. -/
  | iota (t : Fin 160) (w : Operand)
  /-- CVTIF (R516): Converts INT32 lanes to FP32 in the selected rounding mode. -/
  | cvtif (t : Fin 160) (w : Operand)
  /-- CVTFI (R516): Converts FP32 lanes to INT32 with saturation and flags. -/
  | cvtfi (t : Fin 160) (w : Operand)
  /-- EXP (R71): Special-function exponential per lane. -/
  | exp (t : Fin 160) (w : Operand)
  /-- LOG (R71): Special-function natural logarithm per lane. -/
  | log (t : Fin 160) (w : Operand)
  /-- SIGMOID (R71): Special-function sigmoid per lane. -/
  | sigmoid (t : Fin 160) (w : Operand)
  /-- TANH (R71): Special-function tanh per lane. -/
  | tanh (t : Fin 160) (w : Operand)
  /-- GELU (R71): Special-function erf-based GELU per lane. -/
  | gelu (t : Fin 160) (w : Operand)
  /-- GELU_TANH (R71): Special-function tanh-approximated GELU per lane. -/
  | geluTanh (t : Fin 160) (w : Operand)
  /-- SILU (R71): Special-function SiLU per lane. -/
  | silu (t : Fin 160) (w : Operand)
  /-- RECIP (R71): Special-function reciprocal per lane. -/
  | recip (t : Fin 160) (w : Operand)
  /-- RSQRT (R71): Special-function reciprocal square root per lane. -/
  | rsqrt (t : Fin 160) (w : Operand)
  /-- SOFTPLUS (R71): Special-function softplus per lane. -/
  | softplus (t : Fin 160) (w : Operand)
  /-- ERF (R71): Special-function erf per lane. -/
  | erf (t : Fin 160) (w : Operand)
  /-- SOFTMAX (R72): Row softmax from one walk into another. -/
  | softmax (t : Fin 160) (w : Operand)
  /-- LOGSOFTMAX (R72): Row log-softmax from one walk into another. -/
  | logsoftmax (t : Fin 160) (w : Operand)
  /-- RMSNORM (R72): Row RMS normalisation with gain. -/
  | rmsnorm (t : Fin 160) (w : Operand)
  /-- LAYERNORM (R72): Row layer normalisation with gain and offset. -/
  | layernorm (t : Fin 160) (w : Operand)
  /-- RSUM (R116): One sum per row, to a walk or accumulated into a bank. -/
  | rsum (t : Fin 160) (w : Operand)
  /-- RMAX (R116): One maximum per row. -/
  | rmax (t : Fin 160) (w : Operand)
  /-- RDOT (R117): One dot product per row of DX with DG, to a walk or a bank. -/
  | rdot (t : Fin 160) (w : Operand)
  /-- CVT (R97): Converts one walk into another format, choosing block scales and the BFP4 per-tensor scale. -/
  | cvt (t : Fin 160) (w : Operand)
  /-- RSETCTX (R86): Sets a random context's seed and stream. -/
  | rsetctx (t : Fin 160) (w : Operand)
  /-- RUNIF (R235): Writes index-bound random words for the next 512 logical indices into a vector register. -/
  | runif (t : Fin 160) (w : Operand)
  /-- DROP (R238): Applies an index-bound drop-out mask and scale to a walk. -/
  | drop (t : Fin 160) (w : Operand)
  /-- INIT (R239): Fills a walk with uniform, normal or truncated-normal draws. -/
  | init (t : Fin 160) (w : Operand)
  /-- SAMPLE (R241): Draws one candidate per row by top-k, top-p and Gumbel-max and reports log-probabilities. -/
  | sample (t : Fin 160) (w : Operand)
  /-- FWAIT (R102): Waits on one fence, or raises its stored exception. -/
  | fwait (t : Fin 160) (w : Operand)
  /-- FWAITALL (R86): Waits for all fences without closing the segment. -/
  | fwaitall (t : Fin 160) (w : Operand)
  /-- CWAIT (R103): Waits until a counter reaches a value modulo 2^32. -/
  | cwait (t : Fin 160) (w : Operand)
  /-- CSET (R103): Sets a counter. -/
  | cset (t : Fin 160) (w : Operand)
  /-- CADD (R103): Adds to a counter modulo 2^32. -/
  | cadd (t : Fin 160) (w : Operand)
  /-- CSIGNAL (R103): Sends an increment to a counter of another tile of the command. -/
  | csignal (t : Fin 160) (w : Operand)
  /-- GET (R98): Starts a transfer from tenant memory into pad and arms a fence. -/
  | get (t : Fin 160) (w : Operand)
  /-- PUT (R99): Starts a transfer from pad into the command's staging pages and arms a fence. -/
  | put (t : Fin 160) (w : Operand)
  /-- PADGET (R100): Starts a transfer from another tile's pad into this pad. -/
  | padget (t : Fin 160) (w : Operand)
  /-- PADPUT (R100): Starts a transfer from this pad into another tile's pad. -/
  | padput (t : Fin 160) (w : Operand)
  /-- ATOMADD (R86): Starts FP32 atomic additions into tenant memory in arrival order. -/
  | atomadd (t : Fin 160) (w : Operand)
  /-- CPFX (R104): Collective prefix fused with the next MMA, STORE or PADCOPY, arming a fence and sending contributions. -/
  | cpfx (t : Fin 160) (w : Operand)
  /-- DMA_TRANSFER_DONE (R101): An asynchronous DMA transfer lands, setting its fence DONE or FAILED and incrementing the counter. -/
  | dmaTransferDone (t : Fin 160) (fence : Fin 64)
  /-- COUNTER_ARRIVAL (R103): A counter increment arrives at a tile and may end a CWAIT. -/
  | counterArrival (loc : DWord) (ct : Fin 32) (amount : Word)
  /-- COLLECTIVE_DONE (R108): A member's collective result lands and its own contribution is sent, setting the fence DONE. -/
  | collectiveDone (t : Fin 160) (fence : Fin 64)
  /-- SEGMENT_OVERRUN (R80): The segment timer passes the segment limit and the tile raises SEGMENT_OVERRUN. -/
  | segmentOverrun (t : Fin 160)
  /-- PREEMPTION (R81): A pending pre-emption takes effect when every tile is at a boundary or blocked, killing and requeueing the command. -/
  | preemption (c : CmdRef)
  /-- MIGRATION_COPY_DONE (R133): A migration copy completes, the mapping switches, translations are invalidated and the source is freed. -/
  | migrationCopyDone (tenant : Fin 512) (unit : Nat)
  /-- PATROL_SCRUB (R151): The patrol scrubber reads a granule, correcting or handling uncorrectable errors. -/
  | patrolScrub (granule : Nat) (found : Finding)
  /-- SCRUB_PASS_OVERDUE (R151): A scrub pass does not finish within its period and sets the tier's behind bit. -/
  | scrubPassOverdue (store : Fin 3)
  /-- RESTORATION_DONE (R155): A restoration rewrites the granule from an intact copy, or leaves it poisoned, and releases waiting accesses. -/
  | restorationDone (granule : Nat) (remote : Option (Bool × List Byte))
  /-- ROW_REPAIR (R150): A row with three correctable errors in 24 hours is repaired by post-package repair at the next step boundary. -/
  | rowRepair (pc : Fin 1024) (row : Nat)
  /-- MEM_MAPOUT_REQ (R138): A PF0 write of GO requests map-out of a pseudo-channel and starts the drain of its die region. -/
  | memMapoutReq (v : Word)
  /-- MAPOUT_TAKES_EFFECT (R138): At the step boundary after the region is empty, new dead and live lists take effect and capacity is reduced. -/
  | mapoutTakesEffect (die : Fin 4)
  /-- DIE_REGION_RETIRE (R139): A drained die region needing more than 16 map-outs or whose stack failed is retired. -/
  | dieRegionRetire (die : Fin 4)
  /-- CXL_PORT_FAILED (R145): An expander loses its link or reports a fatal error, poisoning its granules and starting restorations. -/
  | cxlPortFailed (port : Fin 8)
  /-- BAR4_READ (R392): A host read through BAR4 of the tenant's device memory. -/
  | bar4Read (tenant : Fin 512) (offset : Nat) (len : Nat)
  /-- BAR4_WRITE (R392): A host write through BAR4 applied to the committed entry. -/
  | bar4Write (tenant : Fin 512) (offset : Nat) (data : List Byte)
  /-- HEAT_SAMPLE (R162): At each sample period core 2 reads and clears HEAT, ages LAST_USE and decides promotions. -/
  | heatSample
  /-- MEM_ALLOC (R166): Allocates a TVA range of 2 MiB units in HBM or bulk. -/
  | memAlloc (c : CmdRef)
  /-- MEM_FREE (R365): Unmaps a range at commit. -/
  | memFree (c : CmdRef)
  /-- MEM_HINT (R174): Sets pin, prefer-HBM, prefer-bulk, never-evict or clear hints on units. -/
  | memHint (c : CmdRef)
  /-- PLACE_REPORT (R191): Writes the tenant's placement report and tier map. -/
  | placeReport (c : CmdRef)
  /-- FOIL_LEASE (R177): Grants, switches or releases a Foil lease. -/
  | foilLease (c : CmdRef)
  /-- LEASE_STREAM_DONE (R178): Streaming of a Foil layout into lease units completes. -/
  | leaseStreamDone (tenant : Fin 512)
  /-- LEASE_SWAP (R178): At the decode step boundary, mappings swap so reads resolve to bonded SRAM and the lease becomes ACTIVE. -/
  | leaseSwap (tenant : Fin 512)
  /-- LEASE_RELEASE (R178): At the step boundary a RELEASING lease unmaps and frees its units. -/
  | leaseRelease (tenant : Fin 512)
  /-- ACT_POLICY (R182): At a learning step boundary AUTO saved tensors are decided as keep, offload or recompute. -/
  | actPolicy (tenant : Fin 512) (measured : List (Nat × Nat))
  /-- REBALANCE (R187): Modules move between prefill and decode at the decode step boundary after the imbalance count reaches 3. -/
  | rebalance (tenant : Fin 512) (tPre : Nat) (tDec : Nat)
  /-- CACHE_POOL_RESIZE (R188): One module moves into or out of the cache pool after three boundaries of high or low use. -/
  | cachePoolResize (tenant : Fin 512) (used : Nat) (avail : Nat) (tPre : Nat) (tDec : Nat)
  /-- STAGE_REBALANCE (R189): The slowest pipeline stage gives a boundary layer to a neighbour. -/
  | stageRebalance (tenant : Fin 512) (times : List Nat)
  /-- POOL_JOIN (R190): A module that changed pool joins its new pool at the first step boundary after its share is in place. -/
  | poolJoin (tenant : Fin 512) (rank : Fin 64)
  /-- ALLOC_CHANGE (R185): A TNT_ALLOC write takes effect at the coordinator's next step boundary, adding or removing ranks. -/
  | allocChange (tenant : Fin 512) (shards : List (Nat × List Byte × List Byte))
  /-- GEN_SUBMIT (R197): Admits a generation request, copies its prompt and looks up the prefix tree. -/
  | genSubmit (c : CmdRef)
  /-- GEN_CANCEL (R225): Cancels a request, at once in immediate mode or queued for the next boundary. -/
  | genCancel (c : CmdRef)
  /-- BOUNDARY_CANCEL (R226): A cancel held in boundary mode is processed at the request's next step boundary. -/
  | boundaryCancel (tenant : Fin 512) (tag : Nat)
  /-- GEN_PHASE (R227): Requests a switch between generate and score phases. -/
  | genPhase (c : CmdRef)
  /-- PHASE_SWITCH (R227): After live requests are finalised, the tenant switches phase at the next step boundary. -/
  | phaseSwitch (tenant : Fin 512)
  /-- GEN_SCORE (R228): Admits a score request. -/
  | genScore (c : CmdRef)
  /-- GEN_STATS (R231): Writes generation statistics. -/
  | genStats (c : CmdRef)
  /-- PREFILL_STEP (R212): A prefill step takes requests and chunks from its admission queue and commits keys, values and first tokens. -/
  | prefillStep (tenant : Fin 512) (rank : Fin 64) (results : List StepResult) (cache : Fin 64)
  /-- DECODE_STEP (R222): A decode step runs a group's batch, commits tokens, installs pages, and finalises terminal requests. -/
  | decodeStep (tenant : Fin 512) (rank : Fin 64) (results : List StepResult) (cache : Fin 64)
  /-- SCORE_STEP (R228): A score step runs score chunks and writes results at finalisation. -/
  | scoreStep (tenant : Fin 512) (rank : Fin 64) (results : List StepResult)
  /-- OUTPUT_AREA_COMMIT (R199): The anchor receives a step's records and header and commits them to the output area. -/
  | outputAreaCommit (remote : Option OutputUpdate)
  /-- PAGE_SHIP (R214): A page-ship message lands at the destination module. -/
  | pageShip (h : PageHeader) (data : List Byte) (poison : List Nat) (place : Nat)
  /-- REQ_STARVED (R220): A request or GEN_SUBMIT waits longer than STARVE_MS. -/
  | reqStarved (tenant : Fin 512) (tag : Option Nat)
  /-- POOL_STARVED (R220): A pool runs no step for STARVE_MS while requests wait. -/
  | poolStarved (tenant : Fin 512) (pool : Fin 2)
  /-- LEARN_SETUP (R256): Sets a model's optimiser and step options. -/
  | learnSetup (c : CmdRef) (part : Option (Fin 512 × Nat × LearnSetup))
  /-- LEARN_STEP (R257): Runs one microbatch program across the learning pool. -/
  | learnStep (c : CmdRef) (part : Option TilePart)
  /-- LEARN_UPDATE (R260): Closes a step and starts the update commit by sending PREPARE. -/
  | learnUpdate (c : CmdRef)
  /-- PREPARE (R272): A member receives PREPARE and replies READY once its conditions hold. -/
  | prepare (tenant : Fin 512) (model version : Nat)
  /-- READY (R272): The coordinator receives READY; after the last one it decides GO or SKIP. -/
  | ready (tenant : Fin 512) (model : Nat) (r : ReadyRec)
  /-- PREPARE_TIMEOUT (R255): No READY arrives within PREPARE_MS and the update aborts with gradients kept. -/
  | prepareTimeout (tenant : Fin 512) (model : Nat)
  /-- GO (R272): A member stores the GO record, acknowledges it and starts its sweep. -/
  | go (tenant : Fin 512) (model : Nat) (g : GoRecord)
  /-- UPDATE_BLOCK (R277): An update engine writes undo entry, new state, tags and weights for one block. -/
  | updateBlock (tenant : Fin 512) (model tensor block : Nat) (upto : Fin 5)
  /-- DONE (R273): The coordinator receives a member's DONE and sends COMMIT after the last. -/
  | done (tenant : Fin 512) (model : Nat) (r : DoneRec)
  /-- LEARN_COMMIT (R273): A member receives COMMIT, swaps to version n+1, zeroes gradients and starts the buddy checkpoint. -/
  | learnCommit (tenant : Fin 512) (model version : Nat)
  /-- CKPT_DONE (R274): A buddy checkpoint copy of the new version completes and the mirror is released. -/
  | ckptDone (tenant : Fin 512) (model : Nat) (held : Option (List Byte))
  /-- TAKEOVER_COPY_DONE (R275): The copies to the spare complete and the interrupted protocol resumes. -/
  | takeoverCopyDone (tenant : Fin 512) (model : Nat) (copied : Option (List Byte × Option (List Byte)))
  /-- EXCHANGE_RERUN (R276): After takeover the kept LEARN_STEP commands are re-run on the new membership. -/
  | exchangeRerun (tenant : Fin 512) (model status : Nat) (writes : List (Nat × List Byte)) (work : List (Nat × Nat × Nat × Nat))
  /-- SWEEP_RESUME (R278): A stopped sweep resumes from its open undo entries. -/
  | sweepResume (tenant : Fin 512) (model : Nat) (copies : List (Nat × Nat × List Byte × List Byte × List Byte))
  /-- MODEL_CREATE (R285): Creates a model with its tensor table and step programs. -/
  | modelCreate (c : CmdRef) (part : Option (Fin 512 × List Byte × List Byte × List (Option (List Byte))))
  /-- MODEL_LOAD (R290): Loads an encrypted weight image over relay chains into a layout. -/
  | modelLoad (c : CmdRef)
  /-- FREEZE (R298): Converts the learning version into the generation layout and publishes it. -/
  | freeze (c : CmdRef) (part : Option (Nat × FreezePlan))
  /-- THAW (R306): Ends generation or scoring and applies the in-flight policy. -/
  | thaw (c : CmdRef)
  /-- VERSION_HOLD (R294): Takes or releases a tenant hold on a version. -/
  | versionHold (c : CmdRef)
  /-- VERSION_QUERY (R295): Writes a model's version record. -/
  | versionQuery (c : CmdRef)
  /-- MODEL_DELETE (R296): Drops the published pointer and holds and frees the learning layout. -/
  | modelDelete (c : CmdRef)
  /-- RESHARD_PART (R300): A converted part arrives on VC4 and is written to staging. -/
  | reshardPart (tenant : Fin 512) (model tensor src unit : Nat) (t : Word) (data : Option (List Byte))
  /-- LANDED (R301): The coordinator receives LANDED; after the last, it sends PUBLISH. -/
  | landed (tenant : Fin 512) (model : Nat) (rank : Fin 64)
  /-- PUBLISH (R301): A module swaps staging in, writes its generation map and moves the published pointer. -/
  | publish (tenant : Fin 512) (model version : Nat)
  /-- LAYOUT_RELEASE (R293): A generation layout whose count reached zero is released at the next step boundary. -/
  | layoutRelease (tenant : Fin 512) (model version : Nat)
  /-- THAW_DONE (R297): At the step boundary with no live request but parked or queued, pools dissolve into the learning pool. -/
  | thawDone (tenant : Fin 512)
  /-- DRAIN_LIMIT (R310): DRAIN_LIMIT_MS passes and the fallback policy is applied. -/
  | drainLimit (tenant : Fin 512) (model : Option Nat)
  /-- LINK_TRAINING_DONE (R327): PMD training of a link completes and the link moves to ALIGN. -/
  | linkTrainingDone (l : Fin 96)
  /-- LINK_TRAINING_TIMEOUT (R327): Training does not complete in 200 ms; after the third attempt the link fails. -/
  | linkTrainingTimeout (l : Fin 96)
  /-- FEC_ALIGN_LOCK (R327): FEC alignment locks with no uncorrectable codeword for 1 ms and IDENT is sent. -/
  | fecAlignLock (l : Fin 96)
  /-- ALIGN_TIMEOUT (R327): No FEC lock within 10 ms returns the link to TRAINING. -/
  | alignTimeout (l : Fin 96)
  /-- IDENT (R327): A peer IDENT frame is received and checked against the port plan. -/
  | ident (l : Fin 96) (r : IdentRec)
  /-- RECAL (R329): A due group recalibration starts when the per-die limit allows, stopping eight links. -/
  | recal (g : Fin 12) (temp : Int)
  /-- RECAL_DONE (R327): Recalibration completes and the links resume. -/
  | recalDone (g : Fin 12)
  /-- RECAL_TIMEOUT (R327): Recalibration exceeds 200 µs and the link enters RETRAIN. -/
  | recalTimeout (l : Fin 96)
  /-- RETRAIN (R330): A retrain trigger stops a link and starts retraining. -/
  | retrain (l : Fin 96) (cause : Fin 4) (uncorr : Nat)
  /-- RETRAIN_DONE (R327): Retraining, alignment and IDENT complete with the same peer. -/
  | retrainDone (l : Fin 96) (serial : DWord)
  /-- RETRAIN_ATTEMPT_FAIL (R327): A retrain attempt fails after 5 ms; the third consecutive failure fails the link. -/
  | retrainAttemptFail (l : Fin 96)
  /-- LINK_NOT_READY (R328): No link to a peer reaches UP within 10 ms of a transmit in initial training. -/
  | linkNotReady (peer : Nat) (cs : List CmdRef)
  /-- DETOUR_SWITCH (R332): After 20 µs without an UP link, traffic to a peer switches to a detour. -/
  | detourSwitch (peer : Nat) (reported : List Nat)
  /-- PEER_UNREACHABLE (R330): A peer that no path reaches for 50 ms is reported to the coordinator. -/
  | peerUnreachable (peer : Nat)
  /-- FEC_DEGRADE (R331): A link's corrected-codeword ratio exceeds 1e-3 over one second. -/
  | fecDegrade (l : Fin 96) (corrected : Nat) (total : Nat)
  /-- FRAME_TRANSMIT (R334): A link direction chooses and sends its next frame under the VC and deficit round-robin rules. -/
  | frameTransmit (l : Fin 96) (inject : List Frame)
  /-- DATA (R326): A DATA frame is received, checked and delivered in SSEQ order or forwarded. -/
  | dataFrame (l : Fin 96) (f : Frame) (err : Fin 3)
  /-- LINK (R324): A LINK frame carrying credits and acknowledgement is received. -/
  | linkFrame (l : Fin 96) (f : Frame) (err : Fin 3)
  /-- NAK (R325): A NAK is received and the sender re-sends from the expected frame. -/
  | nak (l : Fin 96) (f : Frame)
  /-- REPLAY_TIMEOUT (R325): LACK does not advance for 4 µs and unacknowledged frames are re-sent. -/
  | replayTimeout (l : Fin 96)
  /-- E2E_ACK (R332): An end-to-end acknowledgement of detoured frames is received; direct sending resumes when all are acknowledged. -/
  | e2eAck (dst : Nat) (vc : Fin 5) (sseq : Nat)
  /-- PADPUT_MSG (R323): A PADPUT message is delivered to the target tile's pad. -/
  | padputMsg (c : CmdRef) (loc : DWord) (width : Nat) (codes : List (Int × Nat)) (ct : Option (Fin 32))
  /-- PADGET_REQUEST (R323): A PADGET request message is served from the target pad. -/
  | padgetRequest (c : CmdRef) (loc : DWord) (dm : BitVec 1024) (origin : Fin 64) (tile : Fin 160) (fence : Fin 64)
  /-- PADGET_DATA (R323): PADGET data arrives at the requester's pad. -/
  | padgetData (c : CmdRef) (tile : Fin 160) (fence : Fin 64) (codes : List (Nat × Nat)) (err : Option (Nat × Nat))
  /-- CSIGNAL_MSG (R323): A CSIGNAL message applies an increment to the located tile's counter. -/
  | csignalMsg (c : CmdRef) (loc : DWord) (ct : Fin 32) (amount : Word)
  /-- MEMORY_WRITE (R323): A remote memory write message is applied. -/
  | memoryWrite (target : RemoteAddr) (data : List Byte)
  /-- MEMORY_READ_REQUEST (R323): A remote memory read request is served. -/
  | memoryReadRequest (target : RemoteAddr) (len : Nat) (origin : Fin 64) (tag : Nat)
  /-- MEMORY_READ_DATA (R323): Remote memory read data arrives at the requester. -/
  | memoryReadData (dpa : Nat) (data : List Byte) (poison : List Nat)
  /-- IMAGE_RELAY (R407): A weight image segment arrives on a relay chain, is passed on and decrypted if held locally. -/
  | imageRelay (c : CmdRef) (params : List Byte) (item : ImageItem)
  /-- COLL_GROUP_CREATE (R336): Creates a collective group over a pool. -/
  | collGroupCreate (c : CmdRef) (stage : List Nat) (grid : List (Nat × Nat × List Nat)) (part : Option (Fin 512 × List Byte))
  /-- COLL_GROUP_DESTROY (R338): Destroys a collective group. -/
  | collGroupDestroy (c : CmdRef) (part : Option (Fin 512 × Nat))
  /-- COLL_GROUP_REFORMED (R338): Partitions are formed again at the step boundary of a membership change. -/
  | collGroupReformed (tenant : Fin 512) (g : Fin 256) (stage : List Nat) (grid : List (Nat × Nat × List Nat))
  /-- COLL_CONTRIBUTION (R340): A collective contribution arrives, is checked and reduced or stored. -/
  | collContribution (c : CmdRef) (group lane seq : Nat) (part : CollPart)
  /-- COLL_FAIL (R343): A COLL_FAIL message sets the named fence FAILED. -/
  | collFail (c : CmdRef) (group lane seq code : Nat)
  /-- COLL_TIMEOUT (R345): A collective's timer passes TIMEOUT_US. -/
  | collTimeout (t : Fin 160) (fence : Fin 64)
  /-- HEAT_NOTICE (R346): A heat notice is received and the instance's timer is held. -/
  | heatNotice (c : CmdRef) (group lane seq : Nat) (level unit : Nat)
  /-- HEAT_NOTICE_RENEWAL (R346): A heat notice is renewed every 250 µs while the condition and instance last. -/
  | heatNoticeRenewal
  /-- HEAT_NOTICE_HOLD_END (R346): 500 µs after the last notice the held collective timer runs again. -/
  | heatNoticeHoldEnd (t : Fin 160) (fence : Fin 64)
  /-- COLL_ABORT (R347): A COLL_ABORT message sets the fence FAILED and the command is killed and re-run. -/
  | collAbort (inst : Option (CmdRef × Nat × Nat × Nat)) (cause : Fin 3) (lost : Fin 64)
  /-- MODULE_RESETTING (R417): The coordinator receives MODULE_RESETTING and holds the loss declaration for up to 2 s. -/
  | moduleResetting (rank : Fin 64)
  /-- MODULE_RESET_HOLD_EXPIRY (R417): A resetting module does not return within 2 s and is declared lost. -/
  | moduleResetHoldExpiry (rank : Fin 64)
  /-- NOP_COMMAND (R364): Genrun NOP completes OK at its turn in the commit order. -/
  | nopCommand (c : CmdRef)
  /-- SQ_CREATE (R356): Creates a submission queue. -/
  | sqCreate (c : CmdRef)
  /-- SQ_DESTROY (R356): Stops fetching from a queue and completes after fetched commands reply. -/
  | sqDestroy (c : CmdRef)
  /-- CQ_CREATE (R356): Creates a completion queue. -/
  | cqCreate (c : CmdRef)
  /-- CQ_DESTROY (R356): Destroys a completion queue with no bound SQ. -/
  | cqDestroy (c : CmdRef)
  /-- CONFIG_SET (R377): Validates and stages configuration fields for phased application. -/
  | configSet (c : CmdRef)
  /-- CONFIG_GET (R380): Writes the current configuration field values. -/
  | configGet (c : CmdRef)
  /-- ACCOUNT_READ (R374): Writes the tenant's accounting counters. -/
  | accountRead (c : CmdRef)
  /-- EVENT_RING (R405): Replaces the function's event ring. -/
  | eventRing (c : CmdRef)
  /-- TENANT_RESET (R421): PF0 resets one tenant on every module of the domain. -/
  | tenantReset (c : CmdRef) (part : Option (Fin 512 × Bool))
  /-- CAPTURE_READ (R434): Copies a capture record to PF0. -/
  | captureRead (c : CmdRef)
  /-- PATINA_REPLAN (R436): PF0 requests a Patina re-plan. -/
  | patinaReplan (c : CmdRef) (r : Option PlanReading)
  /-- DOMAIN_STATUS (R409): Writes the domain status record or rechecks quarantined ranks. -/
  | domainStatus (c : CmdRef)
  /-- MEM_COPY (R394): Copies between host and device memory through staging and commit. -/
  | memCopy (c : CmdRef) (host : Option (List Byte × Bool))
  /-- TILE_RUN (R366): Runs one program image on tiles of a pool. -/
  | tileRun (c : CmdRef) (others : List Nat) (part : Option TilePart)
  /-- RND_FILL (R367): Writes generator words for consecutive indices. -/
  | rndFill (c : CmdRef)
  /-- DIAG_ECHO (R367): Copies its user bytes to a TVA. -/
  | diagEcho (c : CmdRef)
  /-- TILE_SELF_TEST (R434): Self-test 0x0F10 of tile logic and pad. -/
  | tileSelfTest (c : CmdRef) (result : Option (Bool × Nat × Nat))
  /-- ENGINE_SELF_TEST (R434): Self-test 0x0F11 of an engine. -/
  | engineSelfTest (c : CmdRef) (result : Option (Bool × Nat × Nat))
  /-- HBM_PC_SELF_TEST (R434): Self-test 0x0F20 of an HBM pseudo-channel. -/
  | hbmPcSelfTest (c : CmdRef) (result : Option (Bool × Nat × Nat))
  /-- BSRAM_SELF_TEST (R434): Self-test 0x0F21 march of a die's bonded SRAM. -/
  | bsramSelfTest (c : CmdRef) (result : Option (Bool × Nat × Nat))
  /-- LINK_LOOPBACK_TEST (R434): Self-test 0x0F30 link loopback. -/
  | linkLoopbackTest (c : CmdRef) (result : Option (Bool × Nat × Nat))
  /-- SQ_TAIL_DOORBELL (R357): A write of an SQ tail doorbell makes entries available for fetch. -/
  | sqTailDoorbell (f : Fin 513) (idx : Nat) (v : Word)
  /-- CQ_HEAD_DOORBELL (R357): A write of a CQ head doorbell returns completion slots. -/
  | cqHeadDoorbell (f : Fin 513) (idx : Nat) (v : Word)
  /-- CMD_FETCH (R368): Core 0 fetches one command from a pending SQ and checks its header and duplicates. -/
  | cmdFetch (die : Fin 4) (data : List Byte)
  /-- DEADLINE_MISSED (R371): Device time passes a command's DEADLINE before it starts. -/
  | deadlineMissed (c : CmdRef)
  /-- STRIDE_CHARGE (R372): Every 10 µs engine charges advance tenants' pass values. -/
  | strideCharge (c : CmdRef) (cls : Fin 3) (us : Nat)
  /-- CMD_SLICE_EXPIRY (R373): A command runs past CMD_SLICE while another tenant waits and is pre-empted. -/
  | cmdSliceExpiry (c : CmdRef) (waiter : CmdRef)
  /-- VOTE (R370): The interpreter receives VOTEs and decides COMMIT or ABORT. -/
  | vote (c : CmdRef) (rank : Fin 64) (status detail flags : Nat) (counts : List (Nat × Nat))
  /-- COMMIT (R370): A module receives COMMIT, makes its atomic mapping swap and acknowledges. -/
  | commit (c : CmdRef)
  /-- ABORT (R370): A module receives ABORT and discards its staging. -/
  | abort (c : CmdRef)
  /-- COMMIT_ACK (R370): The interpreter receives acknowledgements and posts the reply after the last. -/
  | commitAck (c : CmdRef) (rank : Fin 64)
  /-- CQ_COALESCE_TIMEOUT (R358): COAL_US passes after the first unsignalled reply and an interrupt is raised. -/
  | cqCoalesceTimeout (f : Fin 513) (cq : Nat)
  /-- APPLY (R379): A module receives APPLY and applies the phase's fields at the tenant's next step boundary. -/
  | apply (tenant : Fin 512) (epoch : Nat) (fs : List (Nat × Nat))
  /-- APPLIED (R379): The coordinator receives APPLIED; after the last, the phase takes effect at its epoch. -/
  | applied (tenant : Fin 512) (epoch : Nat) (rank : Fin 64)
  /-- HOST_LINK_CHANGE (R388): The host port retrains to another rate or width. -/
  | hostLinkChange (gen : Fin 8) (width : Fin 32)
  /-- ATS_INVALIDATION (R393): The host invalidates a translation, completed within 10 µs or after pending host writes. -/
  | atsInvalidation (f : Fin 513) (iova len : Nat) (refused : Bool)
  /-- FUNCTION_LEVEL_RESET (R389): A VF function-level reset resets the tenant; on PF0 it resets PF0's queues. -/
  | functionLevelReset (f : Fin 513)
  /-- VF_ENABLE_CHANGE (R390): Lowering NumVFs or clearing VF Enable resets tenants that no longer exist. -/
  | vfEnableChange (numVfs : Fin 513) (enable : Bool)
  /-- ANCHOR_HOST_RESET (R396): A conventional or hot reset or link-down of the anchor's port resets every tenant of the domain. -/
  | anchorHostReset (kind : Fin 3)
  /-- FORMATION_START (R397): Formation begins on a link majority, after 2 s, on coordinator loss or on a join request. -/
  | formationStart (cause : Fin 4)
  /-- FORM (R397): A FORM record is received and used for ACCEPT and admission. -/
  | form (record : List Byte)
  /-- ACCEPT (R398): A candidate receives ACCEPT and becomes coordinator at M acceptances. -/
  | accept (rank : Fin 64) (round : Nat)
  /-- ELECTED (R398): A module receives ELECTED and is admitted or quarantined under R399. -/
  | elected (coord : Fin 64) (round : Nat) (a : Admission)
  /-- ROUND_TIMEOUT (R398): No ELECTED arrives within 5 ms and the next round begins. -/
  | roundTimeout
  /-- COORDINATOR_REACH_LOSS (R398): A coordinator that fails to reach M modules for 50 ms ceases to be coordinator. -/
  | coordinatorReachLoss
  /-- MINORITY (R400): A member reaching fewer than M ranks for 50 ms kills tenant contexts and enters MINORITY. -/
  | minority
  /-- MAJORITY_REGAINED (R400): A MINORITY module reaches M ranks again and re-enters FORMING. -/
  | majorityRegained
  /-- MEMBER_LOST (R401): The coordinator declares a rank lost, aborting collectives, re-running commands and poisoning peer pages. -/
  | memberLost (rank : Fin 64) (cause : Fin 3)
  /-- TIME_SYNC (R402): Each 1 ms two-way timestamp exchange adjusts rate or steps device time. -/
  | timeSync (offset : Int)
  /-- HST_EVT_HEAD (R405): A write of the event-ring head returns entries. -/
  | hstEvtHead (f : Fin 513) (v : Word)
  /-- EVENT_COALESCE_TIMEOUT (R405): 100 µs after the first unsignalled record an event interrupt is raised. -/
  | eventCoalesceTimeout (f : Fin 513)
  /-- HANG (R427): A Doldrums sample finds a busy unit without progress for the window and declares it hung. -/
  | hang (level : Fin 5) (unit : Fin 65536)
  /-- SUSPECT_REPLAY (R429): A hang suspect's command is run alone on the unit and judged guilty or innocent. -/
  | suspectReplay (level : Fin 5) (unit : Fin 65536) (hangs : Bool)
  /-- CAPTURE_TAKEN (R432): Collection of a capture record completes and it is copied to the capture store. -/
  | captureTaken (record : Nat) (sections : List (Nat × List Byte))
  /-- FLT_RESET_TILE (R415): PF0 write of FLT_RESET resets a tile domain. -/
  | fltResetTile (tile : Fin 65536)
  /-- FLT_RESET_ENGINE (R415): PF0 write of FLT_RESET resets an engine domain. -/
  | fltResetEngine (u : Fin 65536)
  /-- FLT_RESET_LINK_GROUP (R416): PF0 write of FLT_RESET resets a link group through RETRAIN. -/
  | fltResetLinkGroup (g : Fin 65536)
  /-- FLT_RESET_DIE (R417): PF0 write of FLT_RESET resets a compute die. -/
  | fltResetDie (d : Fin 65536)
  /-- FLT_RESET_MODULE (R417): PF0 write of FLT_RESET resets the module. -/
  | fltResetModule
  /-- RESET_DONE (R418): A reset of a domain completes its post-reset check, or escalates. -/
  | resetDone (level : Fin 7) (unit : Fin 65536) (ok : Bool)
  /-- TENANT_RESET_DONE (R421): A tenant reset completes on every module. -/
  | tenantResetDone (tenant : Fin 512)
  /-- PATINA_MEASURE (R435): Path-delay monitors are read every 10 s. -/
  | patinaMeasure (margins : List Int)
  /-- EYE_MEASURE (R435): Link eye heights are measured every 10 minutes; a link below floor is retrained. -/
  | eyeMeasure (l : Fin 96) (mv : Nat)
  /-- PATINA_DAILY_REPLAN (R436): Every 24 power-on hours a Patina re-plan runs. -/
  | patinaDailyReplan (r : PlanReading)
  /-- REPLAN_APPLY (R436): Re-planned settings and any clock step take effect at the next step boundary. -/
  | replanApply
  /-- POWER_ON_HOUR (R444): Each power-on hour PAT_HOURS and PAT_OUT_HOURS are updated and rated excursions reported. -/
  | powerOnHour (outside : BitVec 5)
  /-- GOVERNOR_SAMPLE (R449): Every 10 µs regulator reports drive the power prediction and clock or duty reductions. -/
  | governorSample (pkgW inputW : Fin 4096) (mj : Nat) (tc : Fin 256) (predicted : List Nat) (steps : Nat)
  /-- GOVERNOR_RELEASE (R450): After 100 µs at least 50 W below limits, the duty cycle ends and clocks rise in steps. -/
  | governorRelease
  /-- INPUT_VOLTAGE (R446): The input voltage enters or leaves a band. -/
  | inputVoltage (v : Fin 65536) (long : Bool)
  /-- PWR_CAP_WRITE (R447): A write of PWR_CAP sets a new sustained limit within 1 ms. -/
  | pwrCapWrite (v : Word)
  /-- STACK_TEMP_SAMPLE (R451): Every 1 ms a stack's Tj sets its thermal level, ceiling, cap or trip. -/
  | stackTempSample (k : Fin 16) (tj : Int)
  /-- TRIP_TIMEOUT (R454): A tripped stack not below 100 °C within 60 s withdraws the module with a class 4 fault. -/
  | tripTimeout (unit : Fin 20)
  /-- DIE_TEMP_SAMPLE (R455): Every 1 ms die Tj lowers or raises ceilings, pauses Re-shard Engines or trips. -/
  | dieTempSample (d : Fin 6) (tj : Int)
  /-- THERMAL_SHUTDOWN (R455): The 120 °C comparator switches the regulators off and asserts FAULT_N. -/
  | thermalShutdown
  /-- POWER_ON (R478): VIN reaches 48 V and the standby start-up begins. -/
  | powerOn
  /-- PWR_EN_RISE (R478): PWR_EN rises and the main rails start in order. -/
  | pwrEnRise
  /-- PWR_EN_FALL (R476): PWR_EN falls and the module powers down as on power loss. -/
  | pwrEnFall
  /-- PERST_N_FALL (R475): PERST_N falls, a module reset with capture and MODULE_RESETTING. -/
  | perstNFall
  /-- PERST_N_RELEASE (R478): PERST_N is released, straps latch and the package reset is released. -/
  | perstNRelease (refclk : Bool)
  /-- STARTUP_READY (R480): Admission and training complete and SIG_STAT.READY is set. -/
  | startupReady
  /-- FAULT_SEEN (R473): FAULT_N reads low while the module does not drive it. -/
  | faultSeen
  /-- FAULT_MASKED (R473): FAULT_N low for 1 s continuously masks the input. -/
  | faultMasked
  /-- FAULT_UNMASKED (R473): FAULT_N high for 1 s continuously unmasks the input. -/
  | faultUnmasked
  /-- TICK_IN_EDGE (R471): A TICK_IN rising edge is captured and may discipline the timebase rate. -/
  | tickInEdge
  /-- TICK_LOST (R473): TICK_IN has no valid edge for 2 s and the timebase free-runs. -/
  | tickLost
  /-- TICK_OUT (R471): Device time crosses a whole second and TICK_OUT pulses. -/
  | tickOut
  /-- SMB_STUCK (R474): An SMBus line is low beyond 35 ms and recovery clocking starts. -/
  | smbStuck (scl sda : Bool)
  /-- SMB_RECOVERY_CHECK (R474): 1 ms after the STOP the port recovers or is isolated. -/
  | smbRecoveryCheck (scl sda : Bool)
  /-- SMB_REJOINED (R474): Both lines high for 1 s return an isolated port to service. -/
  | smbRejoined
  /-- SMB_REJOIN (R483): A write of SIG_CTRL.SMB_REJOIN returns an isolated or locked port to service. -/
  | smbRejoin (tickOut : Bool)
  /-- UART_RX_STUCK (R473): UART_RX low beyond 1 s masks console input until it is high for 100 ms. -/
  | uartRxStuck (high : Bool)
  /-- STRAP_CHANGED (R469): A strap contact changes after its latch. -/
  | strapChanged (anchor compat : Bool) (addr : BitVec 2)
  /-- FIRMWARE_UPDATE (R490): A PLDM firmware update transfers and verifies a component into the inactive bank. -/
  | firmwareUpdate (p : FwPayload)
  /-- GET_MEASUREMENTS (R493): An SPDM GET_MEASUREMENTS request is answered with measurement blocks. -/
  | getMeasurements (f : Fin 513) (mctp : Bool) (index : Fin 8)
  /-- IMAGE_KEY_SET (R495): A tenant sets an image key and it is sent to every member. -/
  | imageKeySet (t : Fin 512) (k : Fin 16) (key : Vector Byte 32) (relayed : Bool)
  /-- IMAGE_KEY_DESTROY (R495): A tenant destroys an image key. -/
  | imageKeyDestroy (t : Fin 512) (k : Fin 16) (relayed : Bool)
  /-- DEBUG_UNLOCK (R496): PF0 requests a signed debug unlock that takes effect at the next module reset. -/
  | debugUnlock (tokenOk : Bool)
  /-- STOP_INTERFACE (R494): TDISP STOP_INTERFACE resets the tenant and returns the TDI to CONFIG_UNLOCKED. -/
  | stopInterface (t : Fin 512)
  /-- ENTROPY_FAIL (R496): An entropy health test fails and key generation stops. -/
  | entropyFail
  /-- CMD_ADMQ_EN (R386): A write of ENABLE enables the administration pair and locks the RWL registers. -/
  | cmdAdmqEn (f : Fin 513) (v : Word)
  /-- CFG_LOCK (R513): Setting ID_GLB_CTRL.CFG_LOCK locks covered RW fields until module reset. -/
  | cfgLock (v : Word)
  /-- ID_ACC_CLR (R513): A write of CLEAR zeroes the access count and log. -/
  | idAccClr (f : Fin 513) (v : Word)
  /-- LNK_GRP_RECAL (R353): A write of LNK_GRP_CMD.RECAL makes a recalibration due. -/
  | lnkGrpRecal (g : Fin 12)
  /-- LNK_GRP_RESET (R353): A write of LNK_GRP_CMD.RESET resets a link group into initial training. -/
  | lnkGrpReset (g : Fin 12)
  /-- LNK_GRP_DISABLE (R353): A write of LNK_GRP_CMD.DISABLE holds a group's links in DISABLED. -/
  | lnkGrpDisable (g : Fin 12)
  /-- REGISTER_WRITE (R506): A write to a register with no row of its own is checked, logged, staged or applied field by field. -/
  | registerWrite (f : Fin 513) (bar2 : Bool) (offset : Nat) (data : List (Option Byte))
  /-- UNALIGNED_READ (R505): An unaligned register read completes with Unsupported Request and is logged. -/
  | unalignedRead (f : Fin 513) (bar2 : Bool) (offset : Nat) (be : List Bool)
  /-- BRIDGE_TRAINING_LOST (R21): A die-to-die bridge loses training and raises a die-level fault, with its traffic held at the sender. -/
  | bridgeTrainingLost (die : Fin 4) (iod : Fin 2)
  /-- LINK_GROUP_RESET_RELEASED (R478): At start-up the control cores release the link group resets, and used ports move from DISABLED into TRAINING. -/
  | linkGroupResetReleased (g : Fin 12)
  /-- HOST_LINK_UP (R388): The host port first completes PCIe training at start-up and the device becomes visible. -/
  | hostLinkUp (gen : Fin 8) (width : Fin 32)
  /-- HBM_STACK_TRAINED (R137): Training of an HBM stack completes at start-up, and channels that failed are mapped out. -/
  | hbmStackTrained (k : Fin 16) (failed : List (Fin 32))
  /-- CXL_PORT_TRAINED (R143): A CXL port finishes training at start-up and is left in service, empty or refused, with CXL_PORT_REFUSED raised. -/
  | cxlPortTrained (p : Fin 8) (device : Option (Nat × Nat × Nat × Bool))
  /-- TAP_INSTRUCTION (R477): An IEEE 1149.1 instruction such as EXTEST, CLAMP or HIGHZ is loaded through the test access port. -/
  | tapInstruction (trstHigh : Bool) (ir : Fin 7)
  /-- READ_LATCH (R507): A 32-bit read of the low word of a 64-bit register latches the high word for the next read. -/
  | readLatch (f : Fin 513) (bar2 : Bool) (offset : Nat) (be : List Bool)
  /-- KEY_EXCHANGE (R492): An SPDM KEY_EXCHANGE establishes a session on a function's DOE mailbox or on MCTP, within the session limits. -/
  | keyExchange (f : Fin 513) (mctp : Bool)
  /-- END_SESSION (R495): An SPDM END_SESSION ends a session and leaves the tenant's image keys in place. -/
  | endSession (f : Fin 513) (mctp : Bool)
  /-- LOCK_INTERFACE (R494): A TDISP LOCK_INTERFACE moves a TDI to CONFIG_LOCKED and freezes the VF's BAR, MSI-X and PASID settings. -/
  | lockInterface (t : Fin 512)
  /-- START_INTERFACE (R494): A TDISP START_INTERFACE moves a locked TDI to RUN. -/
  | startInterface (t : Fin 512)
  /-- FIRMWARE_ACTIVATION (R490): PLDM activation of a transferred component restarts the management controller on its new bank, or marks package or record activation pending. -/
  | firmwareActivation (component : Fin 4)
  deriving DecidableEq, Repr

end Sys2Proof
end

