-- ==== Sys2Proof/Machine/Flags.lean ====
section
/-! DEFINITION. The numeric flags of a tile (02 R54): sticky bits, gathered beside a result. -/

namespace Sys2Proof.Machine

def flagINV : Word := 1
def flagDZ : Word := 2
def flagOVF : Word := 4
def flagSATF : Word := 8
def flagUNF : Word := 16

/-- A computation that sets numeric flags. -/
abbrev Flagged := StateM Word

def raiseFlag (f : Word) : Flagged Unit := fun w => ((), w ||| f)

/-- Runs from no flag. -/
def Flagged.go {α : Type} (x : Flagged α) : α × Word := x.run 0

end Sys2Proof.Machine
end

