-- ==== Sys2Proof/Machine/Float.lean ====
section
/-! DEFINITION. Number formats, exact values, rounding and FP32 arithmetic (02 R34 to R40, R50 to R57,
R516). A value is decoded exactly, computed exactly and rounded once. -/

namespace Sys2Proof.Machine

/-- What a format has beside its finite values (02 R37). -/
inductive Special where
  | ieee      -- infinities and NaN
  | nanOnly   -- E4M3: NaN at the all-ones code, no infinity
  | none      -- neither
  deriving DecidableEq, Repr

/-- A floating-point element format (02 R36, R37). -/
structure Fmt where
  ebits : Nat
  mbits : Nat
  bias : Nat
  signed : Bool
  special : Special
  deriving DecidableEq, Repr

def fp32 : Fmt := ⟨8, 23, 127, true, .ieee⟩
def bf16 : Fmt := ⟨8, 7, 127, true, .ieee⟩
def fp16 : Fmt := ⟨5, 10, 15, true, .ieee⟩
def e4m3 : Fmt := ⟨4, 3, 7, true, .nanOnly⟩
def e5m2 : Fmt := ⟨5, 2, 15, true, .ieee⟩
def e3m2 : Fmt := ⟨3, 2, 3, true, .none⟩
def e2m3 : Fmt := ⟨2, 3, 1, true, .none⟩
def e2m1 : Fmt := ⟨2, 1, 1, true, .none⟩
def m8s : Fmt := ⟨5, 2, 23, true, .none⟩
def m8u : Fmt := ⟨5, 3, 24, false, .none⟩

/-- The width of a format's code in bits. -/
def Fmt.width (f : Fmt) : Nat := f.ebits + f.mbits + (if f.signed then 1 else 0)

/-- The largest exponent code that holds finite values. -/
def Fmt.topExp (f : Fmt) : Nat :=
  match f.special with
  | .ieee => 2 ^ f.ebits - 2
  | _ => 2 ^ f.ebits - 1

/-- The mantissa field of the largest finite value (02 R37). -/
def Fmt.topMan (f : Fmt) : Nat :=
  match f.special with
  | .nanOnly => 2 ^ f.mbits - 2
  | _ => 2 ^ f.mbits - 1

/-- The exact value of an element: a NaN, an infinity, or ± man × 2^exp (a zero keeps its sign). -/
inductive FV where
  | nan
  | inf (neg : Bool)
  | fin (neg : Bool) (man : Nat) (exp : Int)
  deriving DecidableEq, Repr

def FV.zero : FV := .fin false 0 0

def FV.isNan : FV → Bool
  | .nan => true
  | _ => false

def FV.isInf : FV → Bool
  | .inf _ => true
  | _ => false

def FV.isFinite : FV → Bool
  | .fin .. => true
  | _ => false

/-- A zero of either sign. -/
def FV.isZero : FV → Bool
  | .fin _ m _ => m == 0
  | _ => false

def FV.neg : FV → Bool
  | .nan => false
  | .inf n => n
  | .fin n _ _ => n

/-- The same magnitude with the other sign; a NaN stays. -/
def FV.negate : FV → FV
  | .nan => .nan
  | .inf n => .inf (!n)
  | .fin n m e => .fin (!n) m e

def FV.abs : FV → FV
  | .nan => .nan
  | .inf _ => .inf false
  | .fin _ m e => .fin false m e

/-- The code of a format as an exact value (02 R36, R37). -/
def Fmt.decode (f : Fmt) (code : Nat) : FV :=
  let man := code % 2 ^ f.mbits
  let e := code / 2 ^ f.mbits % 2 ^ f.ebits
  let neg := f.signed && (code / 2 ^ (f.mbits + f.ebits) % 2 == 1)
  let top := 2 ^ f.ebits - 1
  if f.special == .ieee && e == top then
    if man == 0 then .inf neg else .nan
  else if f.special == .nanOnly && e == top && man == 2 ^ f.mbits - 1 then .nan
  else if e == 0 then .fin neg man (1 - (f.bias : Int) - f.mbits)
  else .fin neg (man + 2 ^ f.mbits) ((e : Int) - f.bias - f.mbits)

/-- The positive canonical NaN of a format that has one (02 R39). -/
def Fmt.nanCode (f : Fmt) : Nat :=
  match f.special with
  | .ieee => (2 ^ f.ebits - 1) * 2 ^ f.mbits + 2 ^ (f.mbits - 1)
  | .nanOnly => 2 ^ (f.ebits + f.mbits) - 1
  | .none => 0

def Fmt.signBit (f : Fmt) (neg : Bool) : Nat :=
  if f.signed && neg then 2 ^ (f.ebits + f.mbits) else 0

def Fmt.infCode (f : Fmt) (neg : Bool) : Nat :=
  f.signBit neg + (2 ^ f.ebits - 1) * 2 ^ f.mbits

/-- The code of ± the largest finite value. -/
def Fmt.maxCode (f : Fmt) (neg : Bool) : Nat :=
  f.signBit neg + f.topExp * 2 ^ f.mbits + f.topMan

/-- Rounding modes (02 R50). -/
inductive RMode where
  | rne | rtz | rdn | rup | sr
  deriving DecidableEq, Repr

/-- The rounding-mode field; the reserved codes have no mode (02 R50). -/
def RMode.ofCode : Nat → Option RMode
  | 0 => some .rne
  | 1 => some .rtz
  | 2 => some .rdn
  | 3 => some .rup
  | 4 => some .sr
  | _ => none

/-- floor(log2(n / d)) for n, d > 0. -/
def log2Frac (n d : Nat) : Int :=
  let k : Int := (Nat.log2 n : Int) - Nat.log2 d
  let ge := if k ≥ 0 then n ≥ d * 2 ^ k.toNat else n * 2 ^ (-k).toNat ≥ d
  if ge then k else k - 1

/-- A magnitude n / d divided by 2^k, as a fraction. -/
def scaleFrac (n d : Nat) (k : Int) : Nat × Nat :=
  if k ≥ 0 then (n, d * 2 ^ k.toNat) else (n * 2 ^ (-k).toNat, d)

/-- The integer that a non-negative fraction rounds to, for a value of the given sign. `r` is the
16-bit integer of stochastic rounding (02 R50, R52). -/
def roundNat (mode : RMode) (neg : Bool) (r n d : Nat) : Nat :=
  let q := n / d
  let rem := n % d
  match mode with
  | .rne => if 2 * rem > d || (2 * rem == d && q % 2 == 1) then q + 1 else q
  | .rtz => q
  | .rdn => if neg && rem != 0 then q + 1 else q
  | .rup => if !neg && rem != 0 then q + 1 else q
  | .sr => (n * 65536 + r * d) / (d * 65536)

/-- A rounded result: its code and the flags it sets. -/
structure Rounded where
  code : Nat
  flags : Word
  deriving DecidableEq, Repr

/-- What a finite overflow delivers (02 R53, rows 1 to 3). -/
def Fmt.overflow (f : Fmt) (mode : RMode) (sat neg : Bool) : Rounded :=
  if sat then ⟨f.maxCode neg, flagSATF⟩
  else
    match f.special with
    | .none => ⟨f.maxCode neg, flagSATF⟩
    | .nanOnly => ⟨f.nanCode, flagOVF⟩
    | .ieee =>
      match mode with
      | .rne | .sr => ⟨f.infCode neg, flagOVF⟩
      | .rtz => ⟨f.maxCode neg, flagOVF⟩
      | .rdn => if neg then ⟨f.infCode true, flagOVF⟩ else ⟨f.maxCode false, flagOVF⟩
      | .rup => if neg then ⟨f.maxCode true, flagOVF⟩ else ⟨f.infCode false, flagOVF⟩

/-- A magnitude n / d with a sign, rounded to the format (02 R50 to R53). A zero magnitude gives the
signed zero with no flag; a non-zero one that rounds to zero sets UNF. -/
def Fmt.roundMag (f : Fmt) (mode : RMode) (sat : Bool) (r : Nat) (neg : Bool) (n d : Nat) : Rounded :=
  if n == 0 then ⟨f.signBit neg, 0⟩
  else
    let e := max (log2Frac n d) (1 - (f.bias : Int))
    let (sn, sd) := scaleFrac n d (e - f.mbits)
    let q := roundNat mode neg r sn sd
    if q == 0 then ⟨f.signBit neg, flagUNF⟩
    else
      -- (q, e - mbits) as exponent and mantissa fields
      let (q', e') := if q ≥ 2 ^ (f.mbits + 1) then (q / 2, e + 1) else (q, e)
      let sub := q' < 2 ^ f.mbits
      let ef : Nat := if sub then 0 else (e' + f.bias).toNat
      let mf := if sub then q' else q' - 2 ^ f.mbits
      if ef > f.topExp || (ef == f.topExp && mf > f.topMan) then f.overflow mode sat neg
      else ⟨f.signBit neg + ef * 2 ^ f.mbits + mf, 0⟩

/-- A finite exact value as a fraction of its magnitude. -/
def fracOf (man : Nat) (exp : Int) : Nat × Nat :=
  if exp ≥ 0 then (man * 2 ^ exp.toNat, 1) else (man, 2 ^ (-exp).toNat)

/-- Conversion of an exact value to a scalar format, with the infinity, NaN and negative rows of
02 R53. -/
def Fmt.convert (f : Fmt) (mode : RMode) (sat : Bool) (r : Nat) (x : FV) : Rounded :=
  match x with
  | .nan =>
    match f.special with
    | .none => ⟨0, flagINV⟩
    | _ => ⟨f.nanCode, 0⟩
  | .inf neg =>
    if !f.signed && neg then ⟨0, flagINV⟩
    else
      match f.special with
      | .none => ⟨f.maxCode neg, flagSATF⟩
      | .nanOnly => if sat then ⟨f.maxCode neg, flagSATF⟩ else ⟨f.nanCode, flagOVF⟩
      | .ieee => if sat then ⟨f.maxCode neg, flagSATF⟩ else ⟨f.infCode neg, 0⟩
  | .fin neg man exp =>
    if !f.signed && neg then
      if man == 0 then ⟨0, 0⟩ else ⟨0, flagINV⟩
    else
      let (n, d) := fracOf man exp
      f.roundMag mode sat r neg n d

/-! Exact arithmetic on values. -/

/-- The signed integer of a finite value at a common exponent not above its own. -/
def alignInt (neg : Bool) (man : Nat) (exp base : Int) : Int :=
  let m : Int := (man : Int) * 2 ^ (exp - base).toNat
  if neg then -m else m

/-- A signed integer at an exponent as a value; `zneg` is the sign of an exact zero. -/
def ofInt (zneg : Bool) (n : Int) (exp : Int) : FV :=
  if n == 0 then .fin zneg 0 0
  else .fin (n < 0) n.natAbs exp

/-- The exact product (02 R54: Inf × 0 is a NaN). -/
def FV.mul : FV → FV → FV
  | .nan, _ => .nan
  | _, .nan => .nan
  | .inf a, .inf b => .inf (a != b)
  | .inf a, .fin b m _ => if m == 0 then .nan else .inf (a != b)
  | .fin b m _, .inf a => if m == 0 then .nan else .inf (a != b)
  | .fin a m e, .fin b n g => .fin (a != b) (m * n) (e + g)

/-- The exact sum of two values, with the zero signs of 02 R40 under the rounding mode. -/
def FV.add (mode : RMode) : FV → FV → FV
  | .nan, _ => .nan
  | _, .nan => .nan
  | .inf a, .inf b => if a == b then .inf a else .nan
  | .inf a, _ => .inf a
  | _, .inf b => .inf b
  | .fin a m e, .fin b n g =>
    let base := min e g
    let s := alignInt a m e base + alignInt b n g base
    let zneg := if m == 0 && n == 0 && a == b then a else mode == .rdn
    ofInt zneg s base

/-- The exact sum of a list of products: −0 only if every product is −0 (02 R40); NaN if a product is
NaN or infinities of both signs meet (02 R61). An empty list sums to +0. -/
def exactSum (xs : List FV) : FV :=
  if xs.any FV.isNan then .nan
  else
    let pos := xs.any fun x => x == .inf false
    let neg := xs.any fun x => x == .inf true
    if pos && neg then .nan
    else if pos then .inf false
    else if neg then .inf true
    else
      let base := xs.foldl (fun b x => match x with | .fin _ _ e => min b e | _ => b) 0
      let s := xs.foldl (fun (t : Int) x =>
        match x with | .fin n m e => t + alignInt n m e base | _ => t) 0
      ofInt (!xs.isEmpty && xs.all fun x => x.neg) s base

/-- The sign of the comparison of two values that are not NaN: a − b. -/
def FV.cmp (a b : FV) : Ordering :=
  match a, b with
  | .inf x, .inf y => if x == y then .eq else if x then .lt else .gt
  | .inf x, _ => if x then .lt else .gt
  | _, .inf y => if y then .gt else .lt
  | .fin x m e, .fin y n g =>
    let base := min e g
    let s := alignInt x m e base - alignInt y n g base
    if s < 0 then .lt else if s == 0 then .eq else .gt
  | _, _ => .eq

/-! FP32 values as 32-bit words. -/

/-- An FP32 word as an exact value. -/
def fv (w : Word) : FV := fp32.decode w.toNat

/-- An FP32 result word with its flags. -/
structure FRes where
  val : Word
  flags : Word
  deriving DecidableEq, Repr

def nan32 : Word := 0x7FC00000#32
def one32 : Word := 0x3F800000#32
def negInf32 : Word := 0xFF800000#32
def posInf32 : Word := 0x7F800000#32

/-- Rounding an arithmetic result to FP32: only a finite overflow is governed by SAT; an infinite
result that arises from an infinite operand is delivered (02 R57). -/
def toF32 (mode : RMode) (sat : Bool) (x : FV) : FRes :=
  match x with
  | .inf neg => ⟨BitVec.ofNat 32 (fp32.infCode neg), 0⟩
  | x =>
    let r := fp32.convert mode sat 0 x
    ⟨BitVec.ofNat 32 r.code, r.flags⟩

/-- INV when a NaN is produced from operands none of which is NaN (02 R54). -/
def invFlag (result : FV) (operandNan : Bool) : Word :=
  if result.isNan && !operandNan then flagINV else 0

def faddF (mode : RMode) (sat : Bool) (a b : Word) : FRes :=
  let x := FV.add mode (fv a) (fv b)
  let r := toF32 mode sat x
  ⟨r.val, r.flags ||| invFlag x ((fv a).isNan || (fv b).isNan)⟩

def fnegW (a : Word) : Word := if (fv a).isNan then nan32 else a ^^^ 0x80000000#32

def fabsW (a : Word) : Word := if (fv a).isNan then nan32 else a &&& 0x7FFFFFFF#32

def fsubF (mode : RMode) (sat : Bool) (a b : Word) : FRes :=
  let x := FV.add mode (fv a) (fv b).negate
  let r := toF32 mode sat x
  ⟨r.val, r.flags ||| invFlag x ((fv a).isNan || (fv b).isNan)⟩

def fmulF (mode : RMode) (sat : Bool) (a b : Word) : FRes :=
  let x := FV.mul (fv a) (fv b)
  let r := toF32 mode sat x
  ⟨r.val, r.flags ||| invFlag x ((fv a).isNan || (fv b).isNan)⟩

/-- a × b + c rounded once (03 R86 FFMA, 02 R57). -/
def ffmaF (mode : RMode) (sat : Bool) (a b c : Word) : FRes :=
  let p := FV.mul (fv a) (fv b)
  let x := FV.add mode p (fv c)
  let r := toF32 mode sat x
  ⟨r.val, r.flags ||| invFlag x ((fv a).isNan || (fv b).isNan || (fv c).isNan)⟩

/-- Correctly rounded quotient with the DZ and INV rules of 02 R57. -/
def fdivF (mode : RMode) (sat : Bool) (a b : Word) : FRes :=
  match fv a, fv b with
  | .nan, _ => ⟨nan32, 0⟩
  | _, .nan => ⟨nan32, 0⟩
  | .inf _, .inf _ => ⟨nan32, flagINV⟩
  | .inf x, .fin y _ _ => ⟨BitVec.ofNat 32 (fp32.infCode (x != y)), 0⟩
  | .fin x _ _, .inf y => ⟨BitVec.ofNat 32 (fp32.signBit (x != y)), 0⟩
  | .fin x m e, .fin y n g =>
    if n == 0 then
      if m == 0 then ⟨nan32, flagINV⟩
      else ⟨BitVec.ofNat 32 (fp32.infCode (x != y)), flagDZ⟩
    else
      let (num, den) := fracOf m (e - g)
      let r := fp32.roundMag mode sat 0 (x != y) num (den * n)
      ⟨BitVec.ofNat 32 r.code, r.flags⟩

/-- floor(√n) by Newton's method on a fuel of the number of bits. -/
def isqrtAux : Nat → Nat → Nat → Nat
  | 0, _, x => x
  | fuel + 1, n, x =>
    let y := (x + n / x) / 2
    if y < x then isqrtAux fuel n y else x

def isqrt (n : Nat) : Nat :=
  if n == 0 then 0 else isqrtAux (Nat.log2 n + 8) n (2 ^ (Nat.log2 n / 2 + 1))

/-- Correctly rounded square root: the root is taken to 64 fraction bits and a sticky bit is kept, so
every rounding of 02 R50 sees the exact value's side of each tie. -/
def fsqrtF (mode : RMode) (sat : Bool) (a : Word) : FRes :=
  match fv a with
  | .nan => ⟨nan32, 0⟩
  | .inf false => ⟨posInf32, 0⟩
  | .inf true => ⟨nan32, flagINV⟩
  | .fin neg m e =>
    if m == 0 then ⟨a, 0⟩
    else if neg then ⟨nan32, flagINV⟩
    else
      -- m × 2^e = m' × 2^(2h) with h chosen so that the root keeps many bits
      let h : Int := (e - 128) / 2
      let m' := m * 2 ^ (e - 2 * h).toNat
      let s := isqrt m'
      let s2 := 2 * s + (if s * s == m' then 0 else 1)
      let (n, d) := fracOf s2 (h - 1)
      let r := fp32.roundMag mode sat 0 false n d
      ⟨BitVec.ofNat 32 r.code, r.flags⟩

/-- NaN when either operand is NaN; between zeros of opposite sign, +0 (02 R57). -/
def fmaxW (a b : Word) : Word :=
  let x := fv a
  let y := fv b
  if x.isNan || y.isNan then nan32
  else
    match x.cmp y with
    | .lt => b
    | .gt => a
    | .eq => if x.neg then b else a

def fminW (a b : Word) : Word :=
  let x := fv a
  let y := fv b
  if x.isNan || y.isNan then nan32
  else
    match x.cmp y with
    | .lt => a
    | .gt => b
    | .eq => if x.neg then a else b

/-- a < b; a comparison with a NaN is false (03 R86 FCMPLT). -/
def fltW (a b : Word) : Bool :=
  !(fv a).isNan && !(fv b).isNan && (fv a).cmp (fv b) == .lt

/-- INT32 lane to FP32 (02 R516): no flag. -/
def cvtIF (mode : RMode) (a : Word) : Word :=
  let x := ofInt false a.toInt 0
  (toF32 mode false x).val

/-- FP32 lane to INT32 with saturation (02 R516). -/
def cvtFI (mode : RMode) (a : Word) : FRes :=
  match fv a with
  | .nan => ⟨0, flagINV⟩
  | .inf false => ⟨0x7FFFFFFF#32, flagSATF⟩
  | .inf true => ⟨0x80000000#32, flagSATF⟩
  | .fin neg m e =>
    let (n, d) := fracOf m e
    let q := roundNat mode neg 0 n d
    if neg then
      if q > 2 ^ 31 then ⟨0x80000000#32, flagSATF⟩ else ⟨BitVec.ofInt 32 (-(q : Int)), 0⟩
    else if q > 2 ^ 31 - 1 then ⟨0x7FFFFFFF#32, flagSATF⟩
    else ⟨BitVec.ofNat 32 q, 0⟩

/-! RNE forms without flags, as the row and update arithmetic writes them (02 R72, 09 R268). -/

def addR (a b : Word) : Word := (faddF .rne false a b).val
def subR (a b : Word) : Word := (fsubF .rne false a b).val
def mulR (a b : Word) : Word := (fmulF .rne false a b).val
def divR (a b : Word) : Word := (fdivF .rne false a b).val
def sqrtR (a : Word) : Word := (fsqrtF .rne false a).val

/-- An FP32 word of a natural number, rounded RNE. -/
def natF32 (n : Nat) : Word := (toF32 .rne false (.fin false n 0)).val

end Sys2Proof.Machine
end

