-- ==== Sys2Proof/Machine/Convert.lean ====
section
/-! DEFINITION. Format codes and element conversions: scalar formats, MX blocks, BFP4 and moments
(02 R34, R41 to R49, R53, R516). -/

namespace Sys2Proof.Machine

/-- What one element of a format is. -/
inductive Elem where
  | float (f : Fmt)
  | mxint8
  | int32
  deriving DecidableEq, Repr

/-- Which scales a format carries (02 R34). -/
inductive ScaleKind where
  | none
  | tensor   -- optional per-tensor FP32: E4M3, E5M2
  | mx       -- E8M0 per 32
  | bfp4     -- E8 per 32 and FP32 per tensor
  deriving DecidableEq, Repr

/-- A row of the format table (02 R34). -/
structure Format where
  bits : Nat
  elem : Elem
  scale : ScaleKind
  tensorInput : Bool
  deriving DecidableEq, Repr

/-- The format codes (02 R34); code 0xF is reserved. -/
def formatOf : Nat → Option Format
  | 0x0 => some ⟨32, .float fp32, .none, true⟩
  | 0x1 => some ⟨16, .float bf16, .none, true⟩
  | 0x2 => some ⟨16, .float fp16, .none, true⟩
  | 0x3 => some ⟨8, .float e4m3, .tensor, true⟩
  | 0x4 => some ⟨8, .float e5m2, .tensor, true⟩
  | 0x5 => some ⟨8, .float e4m3, .mx, true⟩
  | 0x6 => some ⟨8, .float e5m2, .mx, true⟩
  | 0x7 => some ⟨6, .float e3m2, .mx, true⟩
  | 0x8 => some ⟨6, .float e2m3, .mx, true⟩
  | 0x9 => some ⟨4, .float e2m1, .mx, true⟩
  | 0xA => some ⟨8, .mxint8, .mx, true⟩
  | 0xB => some ⟨4, .float e2m1, .bfp4, true⟩
  | 0xC => some ⟨8, .float m8s, .none, false⟩
  | 0xD => some ⟨8, .float m8u, .none, false⟩
  | 0xE => some ⟨32, .int32, .none, false⟩
  | _ => none

def Format.blockScaled (f : Format) : Bool := f.scale == .mx || f.scale == .bfp4

/-- A 32-bit code as a two's-complement integer value. -/
def int32Val (c : Nat) : FV := ofInt false (BitVec.ofNat 32 c).toInt 0

/-- An element code as an exact value, before any scale (02 R36, R43). -/
def Elem.decode : Elem → Nat → FV
  | .float f, c => f.decode c
  | .mxint8, c => ofInt false (BitVec.ofNat 8 c).toInt (-6)
  | .int32, c => int32Val c

/-- Rounding to an integer clamped to [lo, hi]; the clamp sets SATF. -/
def roundInt (mode : RMode) (r : Nat) (neg : Bool) (n d lo hi : Nat) : Int × Word :=
  let q := roundNat mode neg r n d
  if neg then (if q > lo then (-(lo : Int), flagSATF) else (-(q : Int), 0))
  else if q > hi then ((hi : Int), flagSATF) else ((q : Int), 0)

/-- Conversion to INT32 wherever this manual converts (02 R516). -/
def toInt32 (mode : RMode) (r : Nat) : FV → Rounded
  | .nan => ⟨0, flagINV⟩
  | .inf false => ⟨0x7FFFFFFF, flagSATF⟩
  | .inf true => ⟨0x80000000, flagSATF⟩
  | .fin neg m e =>
    let (n, d) := fracOf m e
    let (v, f) := roundInt mode r neg n d (2 ^ 31) (2 ^ 31 - 1)
    ⟨(BitVec.ofInt 32 v).toNat, f⟩

/-- An element of MXINT8 at its block's scale (02 R43, R44): n × 2^-6, saturated. -/
def toMxint8 (mode : RMode) (r : Nat) : FV → Rounded
  | .nan => ⟨0, flagINV⟩
  | .inf neg => ⟨if neg then 0x80 else 0x7F, flagSATF⟩
  | .fin neg m e =>
    let (n, d) := fracOf m (e + 6)
    let (v, f) := roundInt mode r neg n d 128 127
    ⟨(BitVec.ofInt 8 v).toNat, f ||| (if m != 0 && v == 0 then flagUNF else 0)⟩

/-- An element code from an exact value (02 R53, R516). -/
def Elem.encode (e : Elem) (mode : RMode) (sat : Bool) (r : Nat) (x : FV) : Rounded :=
  match e with
  | .float f => f.convert mode sat r x
  | .mxint8 => toMxint8 mode r x
  | .int32 => toInt32 mode r x

/-- A value times 2^k, exactly. -/
def FV.scale (k : Int) : FV → FV
  | .fin s m e => .fin s m (e + k)
  | x => x

/-- An element under its block scale code X (02 R41, R45): 0xFF is a NaN block. -/
def scaled (x : Nat) (v : FV) : FV := if x == 0xFF then .nan else v.scale ((x : Int) - 127)

/-- One source element of a block conversion: its value, and how it is rounded. -/
structure Src where
  val : FV
  mode : RMode
  r : Nat
  deriving DecidableEq, Repr

/-- A converted block: the scale code, the element codes and the flags. -/
structure Block where
  x : Nat
  codes : List Nat
  flags : Word
  deriving DecidableEq, Repr

/-- floor(log2 |v|) of a finite non-zero value. -/
def log2Abs : FV → Int
  | .fin _ m e => (Nat.log2 m : Int) + e
  | _ => 0

/-- The largest magnitude among the finite values, +0 if there is none. -/
def amaxOf (xs : List FV) : FV :=
  xs.foldl (fun (a : FV) x => if x.isFinite && a.cmp x.abs == .lt then x.abs else a) FV.zero

def clampNat (lo hi : Int) (v : Int) : Nat := (max lo (min hi v)).toNat

/-- Sum of the flags of a list of results. -/
def orFlags (rs : List Rounded) : Word := rs.foldl (fun a r => a ||| r.flags) 0

/-- emax of an MX element (02 R44). -/
def Elem.emax : Elem → Int
  | .float f => (f.topExp : Int) - f.bias
  | _ => 0

def nanBlock (n : Nat) (flags : Word) : Block := ⟨0xFF, List.replicate n 0, flags⟩

/-- Conversion of one block to an MX format (02 R44). -/
def mxBlock (e : Elem) (sat : Bool) (xs : List Src) : Block :=
  let vs := xs.map Src.val
  if vs.any FV.isNan then nanBlock xs.length 0
  else if !sat && vs.any FV.isInf then nanBlock xs.length flagINV
  else
    let amax := amaxOf vs
    let x : Nat :=
      if amax.isZero then (if vs.any FV.isInf then 254 else 0)
      else clampNat 0 254 (log2Abs amax - e.emax + 127)
    let rs := xs.map fun s => e.encode s.mode true s.r (s.val.scale (127 - (x : Int)))
    ⟨x, rs.map Rounded.code, orFlags rs⟩

/-! BFP4 (02 R45, R46; 03 R97). -/

def minNormal32 : Word := 0x00800000#32

/-- A per-tensor scale that BFP4 accepts: finite, positive, at least 2^-126 (02 R45, 03 R97). -/
def tScaleOk (t : Word) : Bool := (fv t).isFinite && !(fv t).neg && (fv t).cmp (fv minNormal32) != .lt

/-- The quotient of two exact values rounded RNE to FP32, with no flag. -/
def quot32 (x : FV) (t : Word) : FV :=
  match x, fv t with
  | .fin a m e, .fin _ n g =>
    let (num, den) := fracOf m (e - g)
    fp32.decode (fp32.roundMag .rne false 0 a num (den * n)).code
  | y, _ => y

/-- The per-tensor scale of a whole tensor (02 R46): NaN for a non-finite source, with INV only when
no source is NaN. -/
def bfp4T (xs : List FV) : Word × Word :=
  if xs.any FV.isNan then (nan32, 0)
  else if xs.any FV.isInf then (nan32, flagINV)
  else
    let a := amaxOf xs
    if a.isZero then (one32, 0)
    else
      match a with
      | .fin _ m e =>
        let (n, d) := fracOf m e
        let t := BitVec.ofNat 32 (fp32.roundMag .rne false 0 false n (6 * d)).code
        (if (fv t).cmp (fv minNormal32) == .lt then minNormal32 else t, 0)
      | _ => (one32, 0)

/-- ceil(log2 (b / 6)) of a finite non-zero b. -/
def ceilLog2Sixth : FV → Int
  | .fin _ m e =>
    let (n, d) := fracOf m e
    let k := log2Frac n (6 * d)
    let (a, b) := scaleFrac n (6 * d) k
    if a == b then k else k + 1
  | _ => 0

/-- Conversion of one block to BFP4 under a per-tensor scale T (02 R46, 03 R97). A NaN element under
a held T, which 03 R97 does not speak of, makes the block a NaN block of 02 R41 (log entry 20). -/
def bfp4Block (t : Word) (xs : List Src) : Block :=
  if (fv t).isNan then ⟨0, xs.map fun _ => 0, 0⟩
  else if xs.any fun s => s.val.isNan then nanBlock xs.length 0
  else
    let qs := xs.map fun s => quot32 s.val t
    let infQ := qs.any FV.isInf
    let b := amaxOf qs
    let x : Nat :=
      if infQ then 254 else if b.isZero then 0 else clampNat 0 254 (ceilLog2Sixth b + 127)
    let rs := (xs.zip qs).map fun (s, q) =>
      let r := e2m1.convert s.mode true s.r (q.scale (127 - (x : Int)))
      -- a non-zero source delivered as zero through the quotient
      if q.isZero && !s.val.isZero then ⟨r.code, r.flags ||| flagUNF⟩ else r
    ⟨x, rs.map Rounded.code, orFlags rs⟩

/-! Moments and the compact master (02 R47 to R49). -/

/-- A moment stored with stochastic rounding (02 R48): the code, or none for a NaN, and whether it
was saturated. -/
def storeMoment (f : Fmt) (r : Nat) (w : Word) : Option Nat × Bool :=
  match fv w with
  | .nan => (none, false)
  | x =>
    let c := f.convert .sr true r x
    (some c.code, c.flags &&& flagSATF != 0)

/-- √v decoded and squared in FP32 with RNE (02 R47). -/
def restoreV (code : Nat) : Word :=
  let d := m8u.decode code
  (toF32 .rne false (d.mul d)).val

/-- m decoded exactly to FP32 (02 R47). -/
def restoreM (code : Nat) : Word := (toF32 .rne false (m8s.decode code)).val

/-- The master of a compact parameter (02 R49). -/
def compactMaster (weight ext : Half) : Word := weight ++ ext

/-- The BF16 weight and extension of a new compact master (02 R49): the weight is w rounded toward zero. -/
def splitMaster (w : Word) : Half × Half := (w.extractLsb' 16 16, w.extractLsb' 0 16)

end Sys2Proof.Machine
end

