-- ==== Sys2Proof/Machine/Rng.lean ====
section
/-! DEFINITION. The index-bound random generator (07 R208 fmix, 08 R233 to R235). -/

namespace Sys2Proof.Machine

/-- The 64-bit finalizer (07 R208). -/
def fmix (x : DWord) : DWord :=
  let x := (x ^^^ (x >>> 30)) * 0xbf58476d1ce4e5b9#64
  let x := (x ^^^ (x >>> 27)) * 0x94d049bb133111eb#64
  x ^^^ (x >>> 31)

/-- A lane's 128-bit register (08 R233). -/
structure Gen where
  s0 : DWord
  s1 : DWord
  deriving DecidableEq, Repr

/-- One step of the register, with its output (08 R233). -/
def Gen.step (g : Gen) : Gen × DWord :=
  let x := g.s0 ^^^ (g.s0 <<< 23)
  let y := g.s1
  let s1 := x ^^^ y ^^^ (x >>> 17) ^^^ (y >>> 26)
  (⟨y, s1⟩, s1 + y)

/-- The register as an element's seed, stream and logical index set it (08 R233). -/
def Gen.seed (seed : DWord) (stream : Word) (idx : DWord) : Gen :=
  let z := fmix (seed ^^^ (stream.setWidth 64 * 0x9e3779b97f4a7c15#64))
  let z := fmix (z ^^^ idx)
  let s0 := fmix (z ^^^ 0x6a09e667f3bcc908#64)
  let s1 := fmix (z ^^^ 0xbb67ae8584caa73b#64)
  if s0 = 0 ∧ s1 = 0 then ⟨1, s1⟩ else ⟨s0, s1⟩

/-- The output of the last of n + 1 steps. -/
def Gen.out : Nat → Gen → DWord
  | 0, g => g.step.2
  | n + 1, g => Gen.out n g.step.1

/-- The element's random word: the output of the ninth step (08 R233). -/
def rngWord (seed : DWord) (stream : Word) (idx : DWord) : DWord := Gen.out 8 (Gen.seed seed stream idx)

/-- The 16-bit rounding integer r (08 R235). -/
def rngR (w : DWord) : Nat := w.toNat / 2 ^ 48

/-- The odd numerator of the uniform variate u over 2^24 (08 R235). -/
def rngU (w : DWord) : Nat := 2 * (w.toNat / 2 ^ 41) + 1

/-- The RUNIF lane value (08 R235). -/
def rngLane (w : DWord) : Word := BitVec.ofNat 32 (w.toNat / 2 ^ 32)

end Sys2Proof.Machine
end

