-- ==== Sys2Proof/Machine/Memory.lean ====
section
/-! DEFINITION. Bytes, little-endian fields (00 R6) and memory as a sorted list of cells. One canonical
form: addresses strictly rising, no cell holding what an unlisted address reads as, which is zero
(03 R75 for pads, 05 R131 for device memory). -/

namespace Sys2Proof.Machine

/-- The low `size` bytes of a number, least significant first. -/
def leBytes : Nat → Nat → List Byte
  | 0, _ => []
  | size + 1, v => BitVec.ofNat 8 v :: leBytes size (v / 256)

/-- The number that bytes spell, least significant first. -/
def leNat : List Byte → Nat
  | [] => 0
  | b :: bs => b.toNat + 256 * leNat bs

/-- The little-endian field of `size` bytes at `off`; bytes past the end read as zero. -/
def field (off size : Nat) (bs : List Byte) : Nat := leNat ((bs.drop off).take size)

/-- The number's bits [lo+w-1:lo]. -/
def bits (v lo w : Nat) : Nat := v / 2 ^ lo % 2 ^ w

/-- Bit i of a number. -/
def bit (v i : Nat) : Bool := v / 2 ^ i % 2 == 1

/-- Zero bytes. -/
def zeros (n : Nat) : List Byte := List.replicate n 0

/-- A list cut or zero-filled to n bytes. -/
def padTo (n : Nat) (bs : List Byte) : List Byte := (bs ++ zeros (n - bs.length)).take n

abbrev Memory := List Host.Cell

/-- The byte at an address; an address that is not listed reads zero. -/
def Memory.read : Memory → Nat → Byte
  | [], _ => 0
  | (a, b) :: m, x => if x < a then 0 else if x = a then b else Memory.read m x

/-- One byte stored, in canonical form: storing zero removes the cell. -/
def Memory.write : Memory → Nat → Byte → Memory
  | [], x, v => if v = 0 then [] else [(x, v)]
  | (a, b) :: m, x, v =>
    if x < a then (if v = 0 then (a, b) :: m else (x, v) :: (a, b) :: m)
    else if x = a then (if v = 0 then m else (x, v) :: m)
    else (a, b) :: Memory.write m x v

/-- Every cell lies at or above `lo`, addresses rise strictly and no cell is zero. -/
def Memory.wfFrom : Nat → Memory → Bool
  | _, [] => true
  | lo, (a, b) :: m => decide (lo ≤ a) && decide (b ≠ 0) && Memory.wfFrom (a + 1) m

/-- The canonical form. -/
def Memory.wf (m : Memory) : Bool := Memory.wfFrom 0 m

/-- `n` bytes from an address. -/
def Memory.readBytes (m : Memory) (a : Nat) : Nat → List Byte
  | 0 => []
  | n + 1 => m.read a :: Memory.readBytes m (a + 1) n

/-- Consecutive bytes stored from an address. -/
def Memory.writeBytes (m : Memory) (a : Nat) : List Byte → Memory
  | [] => m
  | b :: bs => Memory.writeBytes (m.write a b) (a + 1) bs

/-- The little-endian number of `n` bytes at an address. -/
def Memory.readLE (m : Memory) (a n : Nat) : Nat := leNat (m.readBytes a n)

/-- A number stored little-endian in `n` bytes. -/
def Memory.writeLE (m : Memory) (a n v : Nat) : Memory := m.writeBytes a (leBytes n v)

/-- A range of bytes set to zero: every cell of [a, a + n) is removed. -/
def Memory.clear (m : Memory) (a n : Nat) : Memory := m.filter fun c => c.1 < a || a + n ≤ c.1

/-! Tables: plain lists of keyed records, at most one for a key. -/

/-- The record under a key. -/
def tget {κ α : Type} [DecidableEq κ] : List (κ × α) → κ → Option α
  | [], _ => none
  | (k, v) :: t, x => if k = x then some v else tget t x

/-- The record under a key, or a default. -/
def tgetD {κ α : Type} [DecidableEq κ] (t : List (κ × α)) (x : κ) (d : α) : α := (tget t x).getD d

/-- A record placed under a key, in place of any that stands there. -/
def tset {κ α : Type} [DecidableEq κ] : List (κ × α) → κ → α → List (κ × α)
  | [], x, v => [(x, v)]
  | (k, w) :: t, x, v => if k = x then (x, v) :: t else (k, w) :: tset t x v

/-- The table without a key. -/
def tdel {κ α : Type} [DecidableEq κ] (t : List (κ × α)) (x : κ) : List (κ × α) :=
  t.filter fun p => p.1 ≠ x

/-- A record changed where it stands. -/
def tmod {κ α : Type} [DecidableEq κ] (t : List (κ × α)) (x : κ) (f : α → α) : List (κ × α) :=
  t.map fun p => if p.1 = x then (p.1, f p.2) else p

/-- The first record of a list that meets a test, replaced by a function of it. -/
def updFirst {α : Type} (p : α → Bool) (f : α → α) : List α → List α
  | [] => []
  | x :: xs => if p x then f x :: xs else x :: updFirst p f xs

/-- A number added without passing the top of a width (saturating counters). -/
def satAdd (w a b : Nat) : Nat := min (a + b) (2 ^ w - 1)

end Sys2Proof.Machine
end

