-- ==== Sys2Proof/Machine/TileState.lean ====
section
/-! DEFINITION. The state of one tensor tile as a program sees it (03 R74, R75) and what the device
keeps of the program's run (03 R79 to R81, R101 to R110). -/

namespace Sys2Proof.Machine

/-- An exception of a tile program (03 R109): code and DETAIL (03 R517). -/
structure Exc where
  code : Nat
  detail : Nat
  deriving DecidableEq, Repr

/-- A tile's run (03 R75, R81, R109). -/
inductive TileStatus where
  | idle     -- no command holds the tile
  | running
  | blocked  -- on a fence, a counter or a collective
  | ended    -- END issued
  | stopped  -- an exception was raised; the kill of the command frees the tile
  deriving DecidableEq, Repr

/-- A fence (03 R102). -/
inductive FenceState where
  | idle
  | armed
  | done
  | failed (e : Exc)
  deriving DecidableEq, Repr

/-- An accumulator bank (03 R74, R93 to R96; 02 R63). A bank opened by ZERO or not yet written has no
dimensions; a value that `acc` does not list is +0. -/
structure Bank where
  assay : Bool
  closed : Bool
  dims : Option (Nat × Nat)
  /-- per-tensor scales of the opening instruction, as FP32 words -/
  scales : Option (Word × Word)
  /-- normal-mode accumulators, row-major -/
  acc : List Word
  /-- Assay partial stacks, row-major: (level, node), lowest level first; an empty node is none -/
  partials : List (List (Nat × Option Word))
  /-- logical index of the reduction's first element and of the next one -/
  kFirst : Nat
  kNext : Nat
  /-- position recorded at CLOSE: blocks n, level h, whole position c, fractional -/
  blocks : Nat
  level : Nat
  pos : Nat
  fractional : Bool
  deriving DecidableEq, Repr

/-- A bank that has not been written since program start holds normal-mode zeros (03 R95). -/
def Bank.zero : Bank := ⟨false, false, none, none, [], [], 0, 0, 0, 0, 0, false⟩

/-- An asynchronous operation of a tile (03 R76, R101, R103, R108). -/
inductive AsyncKind where
  | get | put | padget | padput | atomadd | csignal | coll
  deriving DecidableEq, Repr

/-- An outstanding operation with what it captured at issue (03 R92). -/
structure AsyncOp where
  kind : AsyncKind
  fence : Nat
  /-- descriptors DP and DM as they stood at issue -/
  dp : BitVec 1024
  dm : BitVec 1024
  /-- the tenant virtual address, or the locator of 03 R100 -/
  loc : DWord
  /-- counter to add to when the data has landed; for CSIGNAL the counter of the located tile -/
  ct : Option Nat
  amount : Word
  /-- a fused collective: the prefix word and the word of its instruction -/
  cpfx : DWord
  inner : DWord
  /-- descriptors, random contexts and the accumulator bank that a fused instruction captured -/
  descs : List (BitVec 1024)
  rctx : List (DWord × Word)
  bank : Bank
  /-- a fused instruction's group, lane and SEQ -/
  coll : Nat × Nat × Nat
  /-- a request sent to another module has been answered, or failed with an exception -/
  landed : Option (Option Exc)
  deriving DecidableEq, Repr

/-- Registers that instructions name (03 R74). -/
structure TileRegs where
  s : Vector DWord 32
  p : BitVec 8
  v : Vector (Vector Word 512) 32
  lm : Vector (BitVec 512) 8
  banks : Vector Bank 4
  descs : Vector (BitVec 1024) 64
  cursors : Vector Word 64
  rctx : Vector (DWord × Word) 16
  flags : Word
  deriving DecidableEq, Repr

/-- Fences, counters and the operations that move them (03 R101 to R108). -/
structure TileSync where
  fences : Vector FenceState 64
  counters : Vector Word 32
  /-- oldest first -/
  outstanding : List AsyncOp
  /-- next SEQ expected of a fused instruction, by group (03 R107) -/
  collSeq : List (Nat × Nat)
  deriving DecidableEq, Repr

/-- The run of the program (03 R75 to R81). -/
structure TileCtl where
  status : TileStatus
  cmd : Option CmdRef
  ordinal : Nat
  total : Nat
  /-- instruction store (03 R74) -/
  istore : List DWord
  pc : Nat
  segCount : Nat
  /-- device time at which the segment began, and the time excluded from it (03 R80) -/
  segStart : Nat
  segExcluded : Nat
  /-- `State.stoppedNs` as the segment began -/
  segStopped : Nat
  /-- Assay bits of a Pewter tenant are ignored (02 R69, 03 R111) -/
  pewter : Bool
  deriving DecidableEq, Repr

structure Tile where
  regs : TileRegs
  sync : TileSync
  ctl : TileCtl
  pad : Memory
  deriving DecidableEq, Repr

/-- Every register, bank, cursor, fence, counter, random context and flag is 0 (03 R75); the
hard-wired S0, P0 and LM0 are read through accessors. -/
def TileRegs.zero : TileRegs where
  s := Vector.replicate 32 0
  p := 0
  v := Vector.replicate 32 (Vector.replicate 512 0)
  lm := Vector.replicate 8 0
  banks := Vector.replicate 4 Bank.zero
  descs := Vector.replicate 64 0
  cursors := Vector.replicate 64 0
  rctx := Vector.replicate 16 (0, 0)
  flags := 0

def TileSync.zero : TileSync where
  fences := Vector.replicate 64 .idle
  counters := Vector.replicate 32 0
  outstanding := []
  collSeq := []

def TileCtl.zero : TileCtl := ⟨.idle, none, 0, 0, [], 0, 0, 0, 0, 0, false⟩

/-- An idle tile. -/
def Tile.idle : Tile := ⟨TileRegs.zero, TileSync.zero, TileCtl.zero, []⟩

/-! Accessors: S0 reads 0, P0 reads 1 and LM0 reads all ones; writes to them are discarded (03 R74). -/

def Tile.getS (t : Tile) (i : Fin 32) : DWord := if i = 0 then 0 else t.regs.s[i]

def Tile.setS (t : Tile) (i : Fin 32) (v : DWord) : Tile :=
  if i = 0 then t else { t with regs := { t.regs with s := t.regs.s.set i v } }

def Tile.getP (t : Tile) (i : Fin 8) : Bool := if i = 0 then true else t.regs.p.getLsbD i

def Tile.setP (t : Tile) (i : Fin 8) (b : Bool) : Tile :=
  if i = 0 then t
  else
    let m : BitVec 8 := 1#8 <<< i.val
    { t with regs := { t.regs with p := if b then t.regs.p ||| m else t.regs.p &&& ~~~m } }

def Tile.getLM (t : Tile) (i : Fin 8) : BitVec 512 := if i = 0 then BitVec.allOnes 512 else t.regs.lm[i]

def Tile.setLM (t : Tile) (i : Fin 8) (m : BitVec 512) : Tile :=
  if i = 0 then t else { t with regs := { t.regs with lm := t.regs.lm.set i m } }

def Tile.setV (t : Tile) (i : Fin 32) (x : Vector Word 512) : Tile :=
  { t with regs := { t.regs with v := t.regs.v.set i x } }

def Tile.setBank (t : Tile) (i : Fin 4) (b : Bank) : Tile :=
  { t with regs := { t.regs with banks := t.regs.banks.set i b } }

def Tile.setDesc (t : Tile) (i : Fin 64) (d : BitVec 1024) : Tile :=
  { t with regs := { t.regs with descs := t.regs.descs.set i d } }

def Tile.setCursor (t : Tile) (i : Fin 64) (c : Word) : Tile :=
  { t with regs := { t.regs with cursors := t.regs.cursors.set i c } }

def Tile.setRctx (t : Tile) (i : Fin 16) (c : DWord × Word) : Tile :=
  { t with regs := { t.regs with rctx := t.regs.rctx.set i c } }

def Tile.setFlags (t : Tile) (f : Word) : Tile := { t with regs := { t.regs with flags := f } }

/-- Sticky flags set (02 R54). -/
def Tile.orFlags (t : Tile) (f : Word) : Tile := t.setFlags (t.regs.flags ||| f)

def Tile.setPad (t : Tile) (m : Memory) : Tile := { t with pad := m }

def Tile.setFence (t : Tile) (i : Fin 64) (f : FenceState) : Tile :=
  { t with sync := { t.sync with fences := t.sync.fences.set i f } }

def Tile.setCounter (t : Tile) (i : Fin 32) (v : Word) : Tile :=
  { t with sync := { t.sync with counters := t.sync.counters.set i v } }

def Tile.addAsync (t : Tile) (a : AsyncOp) : Tile :=
  { t with sync := { t.sync with outstanding := t.sync.outstanding ++ [a] } }

def Tile.setOutstanding (t : Tile) (l : List AsyncOp) : Tile :=
  { t with sync := { t.sync with outstanding := l } }

def Tile.setPc (t : Tile) (n : Nat) : Tile := { t with ctl := { t.ctl with pc := n } }

def Tile.setStatus (t : Tile) (x : TileStatus) : Tile := { t with ctl := { t.ctl with status := x } }

end Sys2Proof.Machine
end

