-- ==== Sys2Proof/Machine/Operands.lean ====
section
/-! DEFINITION. Instruction fields (03 R82, R85) and operand descriptors: parsing, validity, the walk,
element reads and element writes (03 R87 to R92, R97). -/

namespace Sys2Proof.Machine

/-! Exceptions of tile programs (03 R109, R517). -/

def excIllegalInstruction (w : DWord) : Exc := ⟨0x01, w.toNat⟩

/-- ILLEGAL_OPERAND with its DETAIL fields (03 R517). -/
def excOperand (position slot kind record : Nat) : Exc :=
  ⟨0x02, position % 256 + slot % 256 * 2 ^ 8 + kind % 4 * 2 ^ 16 + record % 2 ^ 24 * 2 ^ 24⟩

/-- A fault of an instruction field: its lowest bit in the word. -/
def illField (lsb : Nat) : Exc := excOperand lsb 0xFF 0 0

/-- A fault of a descriptor field: its byte offset and the slot. -/
def illDesc (off slot : Nat) : Exc := excOperand off slot 1 0

/-- A fault of a record in pad: byte offset in the record, and its index. -/
def illRecord (off record : Nat) : Exc := excOperand off 0xFF 2 record

/-- A fault of a value in a scalar register. -/
def illScalar (reg : Nat) : Exc := excOperand reg 0xFF 3 0

/-- ASSAY_ORDER found within one tile: the block index reached (03 R517). -/
def excAssay (block : Nat) : Exc := ⟨0x03, block % 2 ^ 32⟩

/-- ASSAY_ORDER found by a collective's reduction (03 R517). -/
def excAssayColl (block c h : Nat) (fractional : Bool) : Exc :=
  ⟨0x03, block % 2 ^ 32 + c % 2 ^ 24 * 2 ^ 32 + h % 32 * 2 ^ 56 + (if fractional then 2 ^ 61 else 0)⟩

def excPadBounds (addr : Int) : Exc := ⟨0x04, (BitVec.ofInt 64 addr).toNat⟩

def excAddress (tva : Nat) : Exc := ⟨0x05, tva⟩

def excPoison (tva : Nat) : Exc := ⟨0x06, tva⟩

def excFenceBusy (f : Nat) : Exc := ⟨0x07, f⟩

/-- COLL_MISMATCH, COLL_TIMEOUT and COLL_ABORT carry the group, the SEQ and a cause (03 R109). -/
def excColl (code group seq cause : Nat) : Exc := ⟨code, group % 256 + seq % 65536 * 256 + cause * 2 ^ 24⟩

/-! Fields of an instruction word's bits [53:0]. -/

def opBits (w : Operand) (lo len : Nat) : Nat := (w.extractLsb' lo len).toNat

def opBit (w : Operand) (i : Nat) : Bool := w.getLsbD i

def opFin5 (w : Operand) (lo : Nat) : Fin 32 := Fin.ofNat 32 (opBits w lo 5)
def opFin6 (w : Operand) (lo : Nat) : Fin 64 := Fin.ofNat 64 (opBits w lo 6)
def opFin3 (w : Operand) (lo : Nat) : Fin 8 := Fin.ofNat 8 (opBits w lo 3)
def opFin2 (w : Operand) (lo : Nat) : Fin 4 := Fin.ofNat 4 (opBits w lo 2)
def opFin4 (w : Operand) (lo : Nat) : Fin 16 := Fin.ofNat 16 (opBits w lo 4)

/-- The 32-bit IMM of the CTRL, SCALAR, AGEN and SYNC layouts (03 R85). -/
def opImm (w : Operand) : Word := w.extractLsb' 0 32

/-- The whole instruction word of a class, an opcode and the bits [53:0] (03 R82). -/
def wordOf (cls op : Nat) (w : Operand) : DWord := BitVec.ofNat 4 cls ++ BitVec.ofNat 6 op ++ w

def classOf (w : DWord) : Nat := (w.extractLsb' 60 4).toNat
def opcodeOf (w : DWord) : Nat := (w.extractLsb' 54 6).toNat
def operandOf (w : DWord) : Operand := w.extractLsb' 0 54

/-- An optional descriptor slot: 0x3F is none (03 R85). -/
def optSlot (i : Fin 64) : Option (Fin 64) := if i = 63 then none else some i

/-! Pad addresses (03 R74, R75). -/

def padSize : Nat := 0x400000
def paramBase : Nat := 0x3FF000

/-! Descriptors (03 R87, R88). -/

structure Axis where
  outExt : Nat
  kerExt : Nat
  dil : Nat
  step : Nat
  size : Nat
  padLo : Int
  memStride : Int
  lstride : Nat
  deriving DecidableEq, Repr

structure Desc where
  slot : Nat
  base : Nat
  fmtCode : Nat
  naxes : Nat
  padMode : Nat
  scaledBit : Bool
  tscaleBit : Bool
  writable : Bool
  scaleBase : Nat
  tscaleAddr : Nat
  padVal : Word
  kBase : Nat
  logicalBase : Nat
  axes : List Axis
  order : Nat
  ksplit : Nat
  deriving DecidableEq, Repr

/-- 0 reads as 1 in KER_EXT and DIL (03 R88). -/
def oneIfZero (n : Nat) : Nat := if n == 0 then 1 else n

/-- One axis record at byte 0x20 + 16a, with its logical stride (03 R87, R88). -/
def Axis.ofBits (n a : Nat) : Axis :=
  let o := (0x20 + 16 * a) * 8
  { outExt := bits n o 16
    kerExt := oneIfZero (bits n (o + 16) 8)
    dil := oneIfZero (bits n (o + 24) 8)
    step := bits n (o + 32) 16
    size := bits n (o + 48) 16
    padLo := (BitVec.ofNat 16 (bits n (o + 64) 16)).toInt
    memStride := (BitVec.ofNat 32 (bits n (o + 96) 32)).toInt
    lstride := bits n ((0x60 + 4 * a) * 8) 32 }

/-- The 128 bytes of a descriptor slot (03 R87). -/
def Desc.ofBits (slot : Nat) (b : BitVec 1024) : Desc :=
  let n := b.toNat
  { slot := slot
    base := bits n 0 22
    fmtCode := bits n 32 4
    naxes := bits n 40 3
    padMode := bits n 48 2
    scaledBit := bit n 50
    tscaleBit := bit n 51
    writable := bit n 52
    scaleBase := bits n 64 22
    tscaleAddr := bits n 96 22
    padVal := BitVec.ofNat 32 (bits n 128 32)
    kBase := bits n 160 32
    logicalBase := bits n 192 64
    axes := [Axis.ofBits n 0, Axis.ofBits n 1, Axis.ofBits n 2, Axis.ofBits n 3]
    order := bits n (0x70 * 8) 32
    ksplit := bits n (0x74 * 8) 8 }

/-- Slot codes 0 to 7 of ORDER, from slot 0 (03 R90). -/
def Desc.slotCodes (d : Desc) : List Nat := (List.range 8).map fun i => bits d.order (4 * i) 4

/-- The used slots: those below the first unused one. -/
def Desc.used (d : Desc) : List Nat := d.slotCodes.takeWhile (· < 8)

def Desc.axis (d : Desc) (a : Nat) : Axis := d.axes.getD a ⟨1, 1, 1, 0, 1, 0, 0, 0⟩

/-- The extent of the counter that a slot code names. -/
def Desc.extent (d : Desc) (code : Nat) : Nat :=
  let x := d.axis (code / 2)
  if code % 2 == 0 then x.outExt else x.kerExt

def prod (xs : List Nat) : Nat := xs.foldl (· * ·) 1

def Desc.rowLen (d : Desc) : Nat := prod ((d.used.take d.ksplit).map d.extent)
def Desc.rowCount (d : Desc) : Nat := prod ((d.used.drop d.ksplit).map d.extent)
def Desc.total (d : Desc) : Nat := d.rowLen * d.rowCount

/-- The counters of the i-th element: slot 0 varies fastest (03 R91). -/
def countersOf (d : Desc) : List Nat → Nat → List (Nat × Nat)
  | [], _ => []
  | c :: cs, i => (c, i % d.extent c) :: countersOf d cs (i / d.extent c)

/-- The i-th element of the walk: its element offset and logical index, or none when padded
(03 R91). -/
def Desc.locate (d : Desc) (i : Nat) : Option (Int × Nat) :=
  let cs := countersOf d d.used i
  (List.range d.naxes).foldl (fun acc a =>
    match acc with
    | none => none
    | some (e, lg) =>
      let x := d.axis a
      let c : Int := ((tgetD cs (2 * a) 0 * x.step + tgetD cs (2 * a + 1) 0 * x.dil : Nat) : Int) - x.padLo
      if c < 0 || c ≥ x.size then none
      else some (e + c * x.memStride, (lg + c.toNat * x.lstride) % 2 ^ 64)) (some (0, d.logicalBase))

/-- Least and greatest input coordinate inside the axis that the walk reaches, if any. -/
def Desc.reach (d : Desc) (a : Nat) : Option (Int × Int) :=
  let x := d.axis a
  let oe := if d.used.contains (2 * a) then x.outExt else 1
  let ke := if d.used.contains (2 * a + 1) then x.kerExt else 1
  (List.range ke).foldl (fun acc (k : Nat) =>
    let b : Int := ((k * x.dil : Nat) : Int) - x.padLo
    let found : Option (Int × Int) :=
      if x.step == 0 then (if 0 ≤ b && b < x.size then some (b, b) else none)
      else
        let o0 : Int := max 0 (-(b / x.step))
        let o1 : Int := min (oe - 1) ((x.size - 1 - b) / x.step)
        if o0 ≤ o1 then some (b + o0 * x.step, b + o1 * x.step) else none
    match acc, found with
    | none, f => f
    | some p, none => some p
    | some (l, h), some (l', h') => some (min l l', max h h')) none

/-- Least and greatest element offset of the walk, or none when every position is padded. -/
def Desc.span (d : Desc) : Option (Int × Int) :=
  (List.range d.naxes).foldl (fun acc a =>
    match acc, d.reach a with
    | some (l, h), some (x0, x1) =>
      let s := (d.axis a).memStride
      some (l + min (x0 * s) (x1 * s), h + max (x0 * s) (x1 * s))
    | _, _ => none) (some (0, 0))

/-- First byte, shift and byte count of element e of b bits from a byte origin (02 R42). -/
def elemSpan (org e : Int) (b : Nat) : Int × Nat × Nat :=
  let p := org * 8 + e * b
  let sh := (p % 8).toNat
  (p / 8, sh, (sh + b + 7) / 8)

/-- Does the walk's element, scale or per-tensor scale address leave the pad (03 R90)? The address. -/
def Desc.leavesPad (d : Desc) (f : Format) : Option Int :=
  match d.span with
  | none => none
  | some (l, h) =>
    let (a0, _, _) := elemSpan d.base l f.bits
    let (a1, _, n1) := elemSpan d.base h f.bits
    let s0 : Int := d.scaleBase + l.tdiv 32
    let s1 : Int := d.scaleBase + h.tdiv 32
    if a0 < 0 then some a0
    else if a1 + n1 > padSize then some a1
    else if f.blockScaled && s0 < 0 then some s0
    else if f.blockScaled && s1 ≥ padSize then some s1
    else if d.tscaleBit && (f.scale == .tensor || f.scale == .bfp4) && d.tscaleAddr + 4 > padSize then some d.tscaleAddr
    else none

/-- Validity of a descriptor (03 R87, R90; 02 R35). `inPad` is false for a DM descriptor, whose
offsets address tenant memory (03 R98). -/
def Desc.check (d : Desc) (inPad : Bool) : Except Exc Format :=
  match formatOf d.fmtCode with
  | none => .error (illDesc 0x04 d.slot)
  | some f =>
    if d.naxes < 1 || d.naxes > 4 then .error (illDesc 0x05 d.slot)
    else if d.slotCodes.any (fun c => 8 ≤ c && c != 15) || (d.slotCodes.drop d.used.length).any (· != 15)
        || !decide d.used.Nodup || d.used.any (fun c => c / 2 ≥ d.naxes) then .error (illDesc 0x70 d.slot)
    else if d.ksplit < 1 || d.ksplit > d.used.length then .error (illDesc 0x74 d.slot)
    else
      match (List.range d.naxes).find? fun a => (d.axis a).outExt == 0 || (d.axis a).size == 0 with
      | some a => .error (illDesc (if (d.axis a).outExt == 0 then 0x20 + 16 * a else 0x26 + 16 * a) d.slot)
      | none =>
        if f.blockScaled && !d.scaledBit then .error (illDesc 0x06 d.slot)
        else if f.scale == .bfp4 && !d.tscaleBit then .error (illDesc 0x06 d.slot)
        else
          match (if inPad then d.leavesPad f else none) with
          | some a => .error (excPadBounds a)
          | none => .ok f

/-- A checked descriptor with its format. -/
structure Walk where
  d : Desc
  f : Format
  deriving DecidableEq, Repr

/-- The descriptor in a slot of a tile as an instruction captures it at issue (03 R92). -/
def Tile.walk (t : Tile) (slot : Fin 64) : Except Exc Walk :=
  let d := Desc.ofBits slot t.regs.descs[slot]
  (d.check true).map fun f => ⟨d, f⟩

def Walk.rows (w : Walk) : Nat := w.d.rowCount
def Walk.len (w : Walk) : Nat := w.d.rowLen
def Walk.total (w : Walk) : Nat := w.d.total

/-! Element codes in memory (02 R42). -/

def readCode (m : Memory) (org e : Int) (b : Nat) : Nat :=
  let (a, sh, n) := elemSpan org e b
  bits (m.readLE a.toNat n) sh b

def writeCode (m : Memory) (org e : Int) (b c : Nat) : Memory :=
  let (a, sh, n) := elemSpan org e b
  let old := m.readLE a.toNat n
  m.writeLE a.toNat n (old - bits old sh b * 2 ^ sh + c % 2 ^ b * 2 ^ sh)

/-- The per-tensor scale of a walk: 1.0 where it carries none (02 R62, 03 R90). -/
def Walk.tscale (w : Walk) (m : Memory) : Word :=
  if w.d.tscaleBit && (w.f.scale == .tensor || w.f.scale == .bfp4) then BitVec.ofNat 32 (m.readLE w.d.tscaleAddr 4)
  else one32

/-- The block scale code of element offset e (03 R91). -/
def Walk.scaleCode (w : Walk) (m : Memory) (e : Int) : Nat :=
  (m.read (w.d.scaleBase + e.tdiv 32).toNat).toNat

/-- The element at offset e with its block scale, without a per-tensor scale (02 R36, R41, R45). -/
def Walk.elem (w : Walk) (m : Memory) (e : Int) : FV :=
  let v := w.f.elem.decode (readCode m w.d.base e w.f.bits)
  if w.f.blockScaled then scaled (w.scaleCode m e) v else v

/-- Who reads a padded position (03 R89). -/
inductive Consumer where
  | lanes  -- VLD, SFU rows, SAMPLE, sources of CVT, PADCOPY and DROP
  | mma
  | dma
  deriving DecidableEq, Repr

/-- The most negative finite value of an element format, or −Inf where it has one. -/
def Elem.lowest (e : Elem) (inf : Bool) : FV :=
  match e with
  | .float f =>
    if f.special == .ieee && inf then .inf true
    else if f.signed then f.decode (f.maxCode true) else FV.zero
  | .mxint8 => .fin true 128 (-6)
  | .int32 => int32Val 0x80000000

/-- The value of a padded position; none when it is excluded (03 R89). -/
def Walk.padValue (w : Walk) (c : Consumer) : Option FV :=
  let pv := fv w.d.padVal
  let rounded := fun (_ : Unit) => w.f.elem.decode (w.f.elem.encode .rne true 0 pv).code
  match w.d.padMode with
  | 0 => some FV.zero
  | 1 =>
    if w.f.elem == .int32 then some (int32Val 0x80000000)
    else
      match c with
      | .lanes => some (.inf true)
      | .mma => some (w.f.elem.lowest (w.d.fmtCode != 0))
      | .dma => some (w.f.elem.lowest true)
  | 2 =>
    if w.f.elem == .int32 then some (rounded ())
    else
      match c with
      | .lanes => some pv
      | _ => some (rounded ())
  | _ => none

/-- The i-th element of a walk as its consumer sees it; none when excluded. A BFP4 element takes its
per-tensor scale too unless the consumer applies it through tab (02 R45, R62). -/
def Walk.value (w : Walk) (m : Memory) (c : Consumer) (i : Nat) : Option FV :=
  match w.d.locate i with
  | none => w.padValue c
  | some (e, _) =>
    let v := w.elem m e
    if w.f.scale == .bfp4 && c != .mma then some (v.mul (fv (w.tscale m))) else some v

/-- Elements i to i + n − 1 of a walk. -/
def Walk.values (w : Walk) (m : Memory) (c : Consumer) (i n : Nat) : List (Option FV) :=
  (List.range n).map fun k => w.value m c (i + k)

/-- An element as a vector lane: FP32, or the INT32 word (02 R34, R35). -/
def Walk.lane (w : Walk) (v : FV) : FRes :=
  if w.f.elem == .int32 then ⟨BitVec.ofNat 32 (toInt32 .rne 0 v).code, 0⟩ else toF32 .rne false v

/-- The code of a padded source position of a DMA transfer; none when excluded (03 R89). -/
def Walk.padCode (w : Walk) : Option Nat :=
  (w.padValue .dma).map fun v => (w.f.elem.encode .rne true 0 v).code

/-! Element writes (03 R89, R97). -/

/-- How a destination is rounded: mode, SAT and the random context of SR. -/
structure Narrow where
  mode : RMode
  sat : Bool
  seed : DWord
  stream : Word
  deriving DecidableEq, Repr

/-- The 16-bit integer of stochastic rounding for a destination element (02 R52, 08 R236). -/
def Narrow.r (c : Narrow) (lg : Nat) : Nat :=
  if c.mode == .sr then rngR (rngWord c.seed c.stream (BitVec.ofNat 64 lg)) else 0

/-- An element to be written: offset, logical index, value. -/
structure Target where
  e : Int
  lg : Nat
  v : FV
  deriving DecidableEq, Repr

/-- The located, unpadded positions among those to be written (03 R89). -/
def Walk.targets (w : Walk) (vals : List (Nat × FV)) : List Target :=
  vals.filterMap fun (i, v) => (w.d.locate i).map fun (e, lg) => ⟨e, lg, v⟩

/-- The first byte of a write at or above the parameter area, if there is one (03 R75, R109). -/
def Walk.writeBound (w : Walk) (ts : List Target) : Option Int :=
  ts.findSome? fun t =>
    let (a, _, n) := elemSpan w.d.base t.e w.f.bits
    let s : Int := w.d.scaleBase + t.e.tdiv 32
    if a + n > paramBase then some (max a paramBase)
    else if w.f.blockScaled && s ≥ paramBase then some s
    else none

/-- Scalar formats: each code in enumeration order, so that the last write stands. -/
def Walk.putScalars (w : Walk) (c : Narrow) (m : Memory) (ts : List Target) : Memory × Word :=
  ts.foldl (fun (m, fl) t =>
    let r := w.f.elem.encode c.mode c.sat (c.r t.lg) t.v
    (writeCode m w.d.base t.e w.f.bits r.code, fl ||| r.flags)) (m, 0)

/-- The element offsets of block k of a scaled walk: e div 32 = k. -/
def blockOffsets (k : Int) : List Int :=
  if k > 0 then (List.range 32).map fun (i : Nat) => 32 * k + (i : Int)
  else if k < 0 then (List.range 32).map fun (i : Nat) => 32 * k - 31 + (i : Int)
  else (List.range 32).map fun (i : Nat) => (i : Int)

/-- One block of a scaled destination: the scale is chosen over all its elements as they stand after
the write, and the unwritten ones are re-encoded with RNE and SAT = 1 (03 R97). -/
def Walk.putBlock (w : Walk) (c : Narrow) (t : Word) (k : Int) (ts : List Target) (m : Memory) : Memory × Word :=
  let mine := ts.filter fun x => x.e.tdiv 32 = k
  let offs := (blockOffsets k ++ mine.map Target.e).eraseDups.filter fun e =>
    let (a, _, n) := elemSpan w.d.base e w.f.bits
    0 ≤ a && a + n ≤ paramBase
  let held := fv (w.tscale m)
  let srcs := offs.map fun e =>
    match mine.reverse.find? fun x => x.e = e with
    | some x => (⟨x.v, c.mode, c.r x.lg⟩ : Src)
    | none =>
      let v := w.elem m e
      ⟨if w.f.scale == .bfp4 then v.mul held else v, .rne, 0⟩
  let b := if w.f.scale == .bfp4 then bfp4Block t srcs else mxBlock w.f.elem c.sat srcs
  let m := m.write (w.d.scaleBase + k).toNat (BitVec.ofNat 8 b.x)
  ((offs.zip b.codes).foldl (fun m (e, code) => writeCode m w.d.base e w.f.bits code) m, b.flags)

/-- Values stored through a walk: the new pad and the flags, or the exception (03 R89, R90, R97).
`t` is the per-tensor scale of a BFP4 destination. -/
def Walk.store (w : Walk) (c : Narrow) (t : Word) (vals : List (Nat × FV)) (m : Memory) : Except Exc (Memory × Word) :=
  if !w.d.writable then .error (illDesc 0x06 w.d.slot)
  else
    let ts := w.targets vals
    match w.writeBound ts with
    | some a => .error (excPadBounds a)
    | none =>
      if w.f.blockScaled then
        let ks := (ts.map fun x => x.e.tdiv 32).eraseDups
        .ok (ks.foldl (fun (m, fl) k =>
          let (m', f) := w.putBlock c t k ts m
          (m', fl ||| f)) (m, 0))
      else .ok (w.putScalars c m ts)

/-- As `store`, with the per-tensor scale held at the destination's TSCALE_ADDR (03 R97: VST, STORE
and PADCOPY). -/
def Walk.storeHeld (w : Walk) (c : Narrow) (vals : List (Nat × FV)) (m : Memory) : Except Exc (Memory × Word) :=
  let t := w.tscale m
  if w.f.scale == .bfp4 && !tScaleOk t then .error (illDesc 0x0C w.d.slot)
  else w.store c t vals m

/-- The narrowing of an instruction's RM, SAT and RCTX fields; a reserved rounding mode is an illegal
operand (02 R50, R51). -/
def Tile.narrow (t : Tile) (w : Operand) (rmLo satBit rctxLo : Nat) : Except Exc Narrow :=
  match RMode.ofCode (opBits w rmLo 3) with
  | none => .error (illField rmLo)
  | some mode =>
    let (seed, stream) := t.regs.rctx[opFin4 w rctxLo]
    .ok ⟨mode, opBit w satBit, seed, stream⟩

/-- RNE with a SAT bit and no random context. -/
def Narrow.rne (sat : Bool) : Narrow := ⟨.rne, sat, 0, 0⟩

end Sys2Proof.Machine
end

