-- ==== Sys2Proof/Machine/HostState.lean ====
section
/-! DEFINITION. The state of functions, queues, commands, tenants' registers, events and the host side
of the module (12, 13, 18). -/

namespace Sys2Proof.Machine

/-! Events (13 R403 to R406). -/

/-- One 64-byte event record; the payload is zero-filled to 32 bytes (R403). -/
structure EventRec where
  source : Nat
  rank : Nat
  type : Nat
  sseq : Nat
  time : Nat
  fn : Nat
  grid : Nat
  lost : Bool
  payload : List Byte
  deriving DecidableEq, Repr

/-- An event ring in the function's host memory (R405). -/
structure EvRing where
  base : Nat
  depth : Nat
  vector : Nat
  coal : Nat
  /-- entries written since the ring was created or replaced, and entries returned by HST_EVT_HEAD -/
  written : Nat
  returned : Nat
  /-- last head written -/
  head : Nat
  unsignalled : Nat
  /-- device time of the first unsignalled record -/
  firstAt : Nat
  faulted : Bool
  deriving DecidableEq, Repr

/-- A function's own registers and event state (12 R386, 13 R411, 18 R507 to R513). -/
structure FnState where
  sqBase : DWord
  cqBase : DWord
  sqDepthM1 : Nat
  cqDepthM1 : Nat
  enable : Bool
  error : Bool
  vector : Nat
  pasid : Nat
  pasidEn : Bool
  bar4Win : DWord
  scratch0 : Word
  scratch1 : Word
  accCount : Word
  /-- newest first, at most 8 entries -/
  accLog : List DWord
  /-- staged low word of a 64-bit register at a BAR0 offset, and the latched high word (R507) -/
  slot : Option (Nat × Word)
  latch : Option (Nat × Word)
  ring : Option EvRing
  /-- records not yet written to the ring, oldest first, at most 4,096 -/
  buffer : List EventRec
  /-- next SSEQ by source -/
  sseq : List (Nat × Nat)
  /-- sources whose records were discarded since, and how many were -/
  lostSources : List Nat
  discarded : Nat
  deriving DecidableEq, Repr

/-- A function after the reset of its tenant, or PF0's after a module reset. -/
def FnState.zero : FnState where
  sqBase := 0
  cqBase := 0
  sqDepthM1 := 0x3F
  cqDepthM1 := 0x3F
  enable := false
  error := false
  vector := 0xFFFF
  pasid := 0
  pasidEn := false
  bar4Win := 0
  scratch0 := 0
  scratch1 := 0
  accCount := 0
  accLog := []
  slot := none
  latch := none
  ring := none
  buffer := []
  sseq := []
  lostSources := []
  discarded := 0

/-! Queues (12 R354 to R358, R376). -/

/-- What a posted reply carries on to a duplicate (12 R376). -/
structure ReplyMemo where
  status : Nat
  detail : DWord
  flags : Nat
  deriving DecidableEq, Repr

/-- A remembered token (12 R376). -/
structure TokenRec where
  token : DWord
  opcode : Nat
  seq : Word
  reply : Option ReplyMemo
  deriving DecidableEq, Repr

/-- A submission queue (12 R354 to R356). -/
structure Sq where
  fn : Nat
  idx : Nat
  /-- module-wide SQ ID; its home die is id mod 4 (01 R23) -/
  id : Nat
  depth : Nat
  slotBytes : Nat
  paced : Bool
  cq : Nat
  ring : Nat
  /-- entries fetched and entries made available, counted modulo DEPTH -/
  fetchPos : Nat
  tail : Nat
  /-- SEQ expected next; none before the first command -/
  expSeq : Option Word
  firstSeq : Option Word
  /-- SEQ of the last reply posted -/
  posted : Option Word
  /-- newest first, at most 4,096 -/
  tokens : List TokenRec
  /-- SQ_DESTROY has committed: fetching has stopped -/
  closing : Bool
  /-- the ring no longer translates (13 R393) -/
  faulted : Bool
  deriving DecidableEq, Repr

/-- A completion queue (12 R356, R358). -/
structure Cq where
  fn : Nat
  idx : Nat
  id : Nat
  depth : Nat
  vector : Nat
  coalCount : Nat
  coalUs : Nat
  ring : Nat
  /-- replies written, and entries returned by the head doorbell -/
  written : Nat
  returned : Nat
  head : Nat
  /-- slots reserved by started commands (12 R358) -/
  reserved : Nat
  unsignalled : Nat
  firstAt : Nat
  faulted : Bool
  deriving DecidableEq, Repr

/-! Commands in flight (12 R359 to R373). -/

inductive CmdPhase where
  | fetched   -- header valid; not yet started
  | started   -- running
  | voting    -- this module's part is finished; the interpreter gathers VOTEs
  | deciding  -- past the decision point: COMMIT sent, acknowledgements outstanding
  | done      -- status settled; the reply waits for its turn (12 R369)
  deriving DecidableEq, Repr

/-- One exception record of a command (03 R110). -/
structure ExcRec where
  rank : Nat
  tile : Nat
  pc : Nat
  exc : Exc
  deriving DecidableEq, Repr

/-- A VOTE: rank, status, DETAIL, and the collective counts by (group, lane) (12 R370). -/
structure Vote where
  rank : Nat
  status : Nat
  detail : DWord
  counts : List (Nat × Nat)
  deriving DecidableEq, Repr

structure Cmd where
  ref : CmdRef
  /-- the header's SEQ, which the reply carries; `ref` holds the SEQ of its place in the queue (R360) -/
  hdrSeq : Word
  opcode : Nat
  flags : Nat
  verSel : Nat
  token : DWord
  deadline : Nat
  waitSq : Nat
  waitSeq : Word
  params : List Byte
  phase : CmdPhase
  status : Nat
  detail : DWord
  /-- reply flags [14:0] (12 R362) -/
  rflags : Nat
  /-- rank of the interpreter that fetched it -/
  home : Nat
  /-- engine-µs charged; those of the current run by class: tensor, vector, DMA (12 R372, R374) -/
  engineUs : Nat
  runUs : Nat × Nat × Nat
  fetchedAt : Nat
  startedAt : Nat
  /-- CMD_SLICE at its start, in ms -/
  sliceMs : Nat
  runs : Nat
  collAborts : Nat
  /-- a re-run that follows a pre-emption is exempt from the slice (12 R373) -/
  exempt : Bool
  /-- a pre-emption request is pending (03 R81) -/
  preempt : Bool
  /-- the command whose token this one repeats (12 R376) -/
  dupOf : Option Word
  /-- tiles that run it: (rank, module tile index) -/
  tiles : List (Nat × Nat)
  groups : List Nat
  flagSum : Word
  records : List ExcRec
  votes : List Vote
  acks : List Nat
  /-- partials of a LEARN_STEP on this module (09 R264): tensor, MG2 and G2 as FP32 codes, and non-finite
  elements; tensor 0xFFFF_FFFF counts elements of no tensor -/
  work : List (Nat × Nat × Nat × Nat)
  deriving DecidableEq, Repr

/-! Tenants' registers (12 R387) and scheduling (12 R372). -/

structure TenantRegs where
  enable : Bool
  pewter : Bool
  locked : Bool
  shareTensor : Nat
  shareVector : Nat
  shareDma : Nat
  shareLink : Nat
  shareReshard : Nat
  acctTensor : Nat
  acctVector : Nat
  acctDma : Nat
  /-- bytes sent; TNT_ACCT_LINK is this over 25 GB/s, in µs -/
  acctLink : Nat
  acctReshard : Nat
  acctLost : Nat
  alloc : DWord
  deriving DecidableEq, Repr

def TenantRegs.zero : TenantRegs where
  enable := false
  pewter := false
  locked := false
  shareTensor := 0x100
  shareVector := 0x100
  shareDma := 0x100
  shareLink := 0x100
  shareReshard := 0x100
  acctTensor := 0
  acctVector := 0
  acctDma := 0
  acctLink := 0
  acctReshard := 0
  acctLost := 0
  alloc := BitVec.allOnes 64

/-- The engine classes shared by stride scheduling (12 R372). -/
inductive StrideClass where
  | tensor | vector | dma
  deriving DecidableEq, Repr

/-- pass[t][k] and vmin[k] (12 R372), the tenants last found runnable, and the arbiters' last winners. -/
structure Stride where
  pass : List ((Nat × StrideClass) × Nat)
  vmin : List (StrideClass × Nat)
  runnable : List (Nat × StrideClass)
  lastTenant : List (StrideClass × Nat)
  lastSq : List ((Nat × StrideClass) × Nat)
  deriving DecidableEq, Repr

/-! Configuration (12 R377 to R380). -/

/-- A CONFIG_SET in progress on the coordinator. -/
structure ConfigJob where
  cmd : CmdRef
  tenant : Nat
  report : Nat
  /-- (FIELD_ID, value, phase) of the validated entries -/
  fields : List (Nat × Nat × Nat)
  /-- (FIELD_ID, REASON, REQUESTED, APPLIED) -/
  clamps : List (Nat × Nat × Nat × Nat)
  /-- phase being applied, and the ranks that have replied APPLIED -/
  phase : Nat
  applied : List Nat
  /-- (FIELD_ID, phase, epoch) -/
  effected : List (Nat × Nat × Nat)
  firstEpoch : Nat
  phases : Nat
  deriving DecidableEq, Repr

/-- A field's value in force and the epoch at which it took effect. -/
structure ConfigField where
  tenant : Nat
  field : Nat
  value : Nat
  epoch : Nat
  deriving DecidableEq, Repr

/-- The command side of the module (12). -/
structure CmdState where
  sqs : List Sq
  cqs : List Cq
  /-- commands fetched and not yet replied, in fetch order -/
  cmds : List Cmd
  tnt : Vector TenantRegs 512
  stride : Stride
  config : List ConfigField
  /-- CONFIG_SETs in order of arrival; the first is being applied -/
  configJobs : List ConfigJob
  /-- phases received and not yet applied on this module: (tenant, epoch, fields) (R379) -/
  staged : List (Nat × Nat × List (Nat × Nat))
  sliceMs : Nat
  /-- arbitration pointers: last winner of each die's fetch (R383) -/
  fetchLast : Vector Nat 4
  deriving DecidableEq, Repr

/-! The host port, functions and domain (13). -/

/-- Bytes written to host memory, newest first in State (13 R393, R394). -/
structure HostWrite where
  fn : Nat
  iova : Nat
  bytes : List Byte
  deriving DecidableEq, Repr

/-- What a host access over BAR0, BAR2 or BAR4 was answered with. -/
inductive HostReply where
  | data (bytes : List Byte)
  | poisoned (bytes : List Byte)
  | unsupported
  deriving DecidableEq, Repr

/-- A FORM record (13 R397). -/
structure Form where
  serial : DWord
  rank : Nat
  flags : Nat
  fwMajor : Nat
  fwMinor : Nat
  level : Nat
  reach : BitVec 64
  digest : Nat
  time : Nat
  epoch : Nat
  round : Nat
  deriving DecidableEq, Repr

/-- Domain states (13 R400), in the codes of DOM_STAT.STATE. -/
inductive DomainPhase where
  | forming | member | quarantined | minority
  deriving DecidableEq, Repr

def DomainPhase.code : DomainPhase → Nat
  | .forming => 0 | .member => 1 | .quarantined => 2 | .minority => 3

/-- Membership, rounds and time (13 R396 to R402). -/
structure DomState where
  phase : DomainPhase
  size : Nat
  rank : Nat
  row : Nat
  col : Nat
  coord : Nat
  anchor : Nat
  noHost : Bool
  level : Nat
  qcause : Nat
  members : BitVec 64
  quarantined : BitVec 64
  lost : BitVec 64
  epoch : Nat
  round : Nat
  /-- device time at which the round began, and the last round in which ELECTED was accepted (13 R398) -/
  roundAt : Nat
  electedIn : Option Nat
  /-- admitted since the last module reset: DOM and ID_LEVEL then report the domain -/
  admitted : Bool
  /-- device time of the last module reset, until the module is admitted again (14 R417) -/
  resetAt : Option Nat
  /-- reachable ranks, directly or by detour -/
  reach : BitVec 64
  /-- FORM records of the current round -/
  forms : List Form
  /-- ranks whose ACCEPT this module holds, and the candidate it accepted -/
  accepts : List Nat
  accepted : Option Nat
  /-- holds tenant state from an earlier membership: FLAGS [2] -/
  heldState : Bool
  /-- has been admitted before: the level is fixed when the domain first forms (R399) -/
  formed : Bool
  /-- device time in ns, its rate correction in parts per 10⁹, and the offset last measured -/
  time : Nat
  ratePpb : Int
  timeOffset : Int
  /-- resetting ranks for which a loss declaration is held, with the time of the announcement (14 R417) -/
  resetting : List (Nat × Nat)
  deriving DecidableEq, Repr

/-- A segment that this module keeps part of, decrypted (17 R498). -/
structure RelaySeg where
  tensor : Nat
  part : Nat
  first : Nat
  count : Nat
  data : List Byte
  deriving DecidableEq, Repr

/-- A relay load in progress on this module (13 R407, 17 R497). -/
structure RelayLoad where
  cmd : CmdRef
  model : Nat
  target : Nat
  version : Nat
  /-- the 128 header bytes, once received -/
  head : Option (List Byte)
  /-- segment expected next, by chain; chain k starts at segment k -/
  next : List (Nat × Nat)
  /-- rows seen: (tensor, PART), then first row and count -/
  rows : List ((Nat × Nat) × (Nat × Nat))
  kept : List RelaySeg
  /-- units allocated for a generation layout in staging, by TVA div 2 MiB, with the tenant -/
  units : List (Nat × Nat)
  /-- every part is in: what the commit writes, (TVA, bytes) -/
  complete : Bool
  writes : List (Nat × List Byte)
  deriving DecidableEq, Repr

/-- The host-facing side (13). -/
structure HostState where
  fns : Vector FnState 513
  /-- HST_LINK_STAT fields -/
  gen : Nat
  width : Nat
  ide : Bool
  numVfs : Nat
  vfEnable : Bool
  /-- BAR4 size of the VFs in bytes: log2 (R391) -/
  bar4Log : Nat
  /-- host pages (function, IOVA div 4096) that the host's translation refuses (R393) -/
  refused : List (Nat × Nat)
  /-- invalidations not yet completed: (function, IOVA, length, command that still writes) (R394) -/
  invalidations : List (Nat × Nat × Nat × CmdRef)
  /-- invalidations completed -/
  invalidated : List (Nat × Nat × Nat)
  /-- newest first -/
  writes : List HostWrite
  /-- MSI-X messages sent: (function, vector), newest first -/
  irqs : List (Nat × Nat)
  /-- answers to host reads, newest first -/
  replies : List HostReply
  relay : List RelayLoad
  /-- MEM_COPYs past their decision whose host bytes are not yet written (R394): command, destination, bytes -/
  copies : List (CmdRef × Nat × List Byte)
  /-- Uncorrectable Internal Errors signalled under AER (14 R414) -/
  aer : Nat
  deriving DecidableEq, Repr

end Sys2Proof.Machine
end

