-- ==== Sys2Proof/Machine/FaultState.lean ====
section
/-! DEFINITION. The state of faults, recovery, Doldrums and Patina (14) and of power, thermal levels and
clocks (15). -/

namespace Sys2Proof.Machine

/-! Power and thermal (15). -/

/-- HBM thermal levels (15 R451), in the codes of THM_STACK_STAT.LEVEL. -/
inductive ThermLevel where
  | calm | breeze | gale | squall | trip
  deriving DecidableEq, Repr

def ThermLevel.code : ThermLevel → Nat
  | .calm => 0 | .breeze => 1 | .gale => 2 | .squall => 3 | .trip => 4

/-- A stack (15 R451, R452, R454): temperatures are in 0.1 °C. -/
structure StackTherm where
  tj : Int
  level : ThermLevel
  /-- consecutive samples at or above 105 °C -/
  tripSamples : Nat
  /-- device time since which every sample has been below the exit bound -/
  belowSince : Option Nat
  tripAt : Nat
  deriving DecidableEq, Repr

/-- A compute die (0 to 3) or an I/O die (4, 5) (15 R455). -/
structure DieTherm where
  tj : Int
  /-- a limit of R455 at 100 °C is in force -/
  throttle : Bool
  trip : Bool
  tripSamples : Nat
  belowSince : Option Nat
  tripAt : Nat
  /-- the ceiling that R455 imposes, in MHz; none when it imposes none -/
  ceil : Option Nat
  raisedAt : Nat
  deriving DecidableEq, Repr

structure PowerState where
  capW : Nat
  pkgW : Nat
  inputW : Nat
  limiting : Bool
  duty : Bool
  /-- device time at which the duty cycle began, and the time for which it had stopped tile clocks before (15 R449, R450) -/
  dutyAt : Nat
  stopped : Nat
  v10mv : Nat
  band : Nat
  energyMj : Nat
  tripCount : Nat
  /-- the governor's power clock in MHz (15 R449) -/
  powerMhz : Nat
  /-- device time since which the prediction has been at least 50 W below every limit -/
  calmSince : Option Nat
  lastLimitEvent : Option Nat
  hbmTherm : Vector StackTherm 16
  dies : Vector DieTherm 6
  tcC : Nat
  tcMaxC : Nat
  /-- a trip or a hardware shutdown occurred in this power-on hour (15 R458) -/
  tripInHour : Bool
  deriving DecidableEq, Repr

/-! Faults (14). -/

/-- Modes of FLT_MODE (14 R428). -/
inductive FltMode where
  | service | startUp | test | recovery
  deriving DecidableEq, Repr

def FltMode.code : FltMode → Nat
  | .service => 0 | .startUp => 1 | .test => 2 | .recovery => 3

/-- Reset levels in the codes of the capture record (14 R432). -/
inductive ResetLevel where
  | tile | engine | linkGroup | die | tenant | module
  deriving DecidableEq, Repr

def ResetLevel.code : ResetLevel → Nat
  | .tile => 1 | .engine => 2 | .linkGroup => 3 | .die => 4 | .tenant => 5 | .module => 6

/-- A capture record (14 R432); while it is collected its sections are empty. -/
structure Capture where
  id : Nat
  time : Nat
  unit : Nat
  cause : Nat
  mode : Nat
  level : ResetLevel
  rank : Nat
  tenant : Nat
  fw : Nat
  collected : Bool
  /-- (TYPE, data) -/
  sections : List (Nat × Bool × List Byte)
  deriving DecidableEq, Repr

/-- A reset in progress (14 R415 to R418): level, and tile index, source ID, group or die. -/
structure ResetJob where
  level : ResetLevel
  unit : Nat
  record : Nat
  since : Nat
  /-- begun by an escalation (R418) -/
  escalated : Bool
  deriving DecidableEq, Repr

/-- A replay of suspects (14 R429). -/
structure HangReplay where
  level : ResetLevel
  unit : Nat
  record : Nat
  suspects : List CmdRef
  guilty : Bool
  deriving DecidableEq, Repr

/-- A tenant reset under way (14 R420, R421). -/
structure TenantReset where
  tenant : Nat
  /-- the TENANT_RESET command, if PF0 started it -/
  cmd : Option CmdRef
  since : Nat
  killed : Nat
  revoked : Nat
  /-- ENABLE is to be cleared (13 R390) -/
  disable : Bool
  deriving DecidableEq, Repr

structure FaultState where
  windowMs : Nat
  guiltyLimit : Nat
  captureTenant : Bool
  mode : FltMode
  tileMap : BitVec 160
  /-- newest first -/
  captures : List Capture
  nextRecord : Nat
  capDropped : Nat
  hangCount : Nat
  resetCount : Nat
  escalateCount : Nat
  resets : List ResetJob
  replays : List HangReplay
  tenantResets : List TenantReset
  /-- progress counters by (level code, unit) (R426) -/
  progress : List ((Nat × Nat) × Nat)
  /-- hangs of units in the START_UP and RECOVERY modes: (level code, unit), mode (R428) -/
  modeHangs : List ((Nat × Nat) × FltMode)
  /-- last unreproduced hang of a unit: (level code, unit), device time (R431) -/
  unreproduced : List ((Nat × Nat) × Nat)
  /-- last reset of a unit that finished, and the time of it (R418: recurs within 1 s) -/
  lastReset : List ((Nat × Nat) × Nat)
  /-- escalated die resets: die, device time (R418) -/
  dieEscalations : List (Nat × Nat)
  /-- tenant, device time of each guilty finding (R430) -/
  guilty : List (Nat × Nat)
  /-- the module has withdrawn with a class 4 fault (R413) -/
  withdrawn : Bool
  deriving DecidableEq, Repr

/-! Patina (14 R435 to R440, R444). -/

/-- Margins that Patina tracks. -/
inductive MarginKind where
  | path | sram | hbm | eye
  deriving DecidableEq, Repr

def MarginKind.code : MarginKind → Nat
  | .path => 0 | .sram => 1 | .hbm => 2 | .eye => 3

/-- Settings of a re-plan that wait for the step boundary (14 R436). -/
structure Replan where
  cmds : List CmdRef
  maxMhz : Nat
  steps : Nat
  refresh2x : BitVec 16
  eom : Nat
  valid : Bool
  cls : Nat
  unit : Nat
  lifeMhz : Nat
  hours : Nat
  path : Vector Int 4
  sram : Vector Int 4
  ratio : Vector Nat 16
  eyeMin : Nat
  eyeLink : Nat
  /-- pseudo-channels below the retention floor -/
  mapOut : List Nat
  railMv : Vector Nat 4
  sramMv : Vector Nat 4
  deriving DecidableEq, Repr

structure PatinaState where
  maxMhz : Nat
  steps : Nat
  hours : Nat
  outHours : Nat
  eom : Nat
  valid : Bool
  cls : Nat
  unit : Nat
  lifeMhz : Nat
  last : Nat
  path : Vector Int 4
  sram : Vector Int 4
  ratio : Vector Nat 16
  refresh2x : BitVec 16
  eyeMin : Nat
  eyeLink : Nat
  /-- path margins measured since the last re-plan, in fs: by die (compute dies 0 to 3, I/O dies 4 and 5), sum and count -/
  measured : List (Nat × (Int × Nat))
  /-- latest eye heights by link, in mV -/
  eyes : List (Nat × Nat)
  /-- samples kept in the boot flash: (margin kind, unit), then (power-on hour, value) newest first. Path margins are in fs
  at 1,950 MHz, SRAM margins in mV at the capped voltage, retention ratios × 100, eye heights in mV. -/
  samples : List ((MarginKind × Nat) × List (Nat × Int))
  pending : Option Replan
  /-- voltages in force, in mV: compute rails and SRAM rails by die -/
  railMv : Vector Nat 4
  sramMv : Vector Nat 4
  deriving DecidableEq, Repr

end Sys2Proof.Machine
end

