-- ==== Sys2Proof/Machine/GenState.lean ====
section
/-! DEFINITION. The state of generation, scoring and serving (07). -/

namespace Sys2Proof.Machine

/-- States of a request (07 R198, R200, R228), in the codes of the output header. -/
inductive ReqState where
  | queued | prefilling | shipping | decode | migrating | complete | cancelled | failed | scoring | parked
  deriving DecidableEq, Repr

def ReqState.code : ReqState → Nat
  | .queued => 0 | .prefilling => 1 | .shipping => 2 | .decode => 3 | .migrating => 4 | .complete => 5
  | .cancelled => 6 | .failed => 7 | .scoring => 8 | .parked => 9

def ReqState.terminal : ReqState → Bool
  | .complete => true | .cancelled => true | .failed => true | _ => false

/-- A request-table entry (07 R195 to R206, R224). -/
structure GenReq where
  tenant : Nat
  tag : Nat
  score : Bool
  model : Nat
  /-- version in use; requests that have no version reference keep the last one -/
  version : Nat
  /-- version selector of the command, resolved again at a restart (10 R307) -/
  selector : Nat
  flags : Nat
  prompt : List Nat
  maxNew : Nat
  outTva : Nat
  seed : DWord
  stream : Nat
  temperature : Word
  topK : Nat
  specK : Nat
  topP : Word
  draftModel : Nat
  stops : List Nat
  state : ReqState
  status : Nat
  outFlags : Nat
  /-- members of the home group, and the die of the home module's entry -/
  home : List Nat
  homeDie : Nat
  /-- rank at whose admission queue it stands, and its place in the order of admission -/
  queueAt : Nat
  order : Nat
  /-- committed length L: positions with keys and values -/
  len : Nat
  records : List TokRec
  prefixHit : Nat
  tAdmit : Nat
  tFirst : Nat
  tEnd : Nat
  specAccepted : Nat
  since : Nat
  starved : Bool
  /-- decode steps of its group since it last took part -/
  idleSteps : Nat
  /-- cancels held for the next boundary, and those that wait for finalisation -/
  cancels : List CmdRef
  cancelDue : Bool
  /-- hashes of the prefix nodes it references -/
  path : List Nat
  /-- pages and slots of this module's member: page lists by layer, slot pages by layer, provisional pages -/
  pages : List (List Nat)
  slots : List Nat
  prov : List Nat
  /-- items shipped and not yet installed -/
  toInstall : Nat
  parkedFrom : Option ReqState
  /-- a refill's prompt takes in the records committed before it (10 R309) -/
  refill : Bool
  values : List Word
  deriving DecidableEq, Repr

/-- A node of a tenant's prefix tree (07 R208 to R210). -/
structure PrefixNode where
  tenant : Nat
  model : Nat
  version : Nat
  hash : Nat
  parent : Nat
  tokens : List Nat
  /-- page numbers, and the cache module's rank -/
  pages : List Nat
  cache : Nat
  refs : Nat
  lastHit : Nat
  /-- taken out of the tree for a poisoned page; requests that reference it keep its pages (R210) -/
  removed : Bool
  deriving DecidableEq, Repr

/-- Statistics of a tenant (07 R231). -/
structure GenStats where
  admitted : Nat
  completed : Nat
  cancelled : Nat
  cancelLate : Nat
  failed : Nat
  tokens : Nat
  hitTokens : Nat
  validPos : Nat
  paddedPos : Nat
  proposed : Nat
  accepted : Nat
  stallUs : Nat
  deriving DecidableEq, Repr

def GenStats.zero : GenStats := ⟨0, 0, 0, 0, 0, 0, 0, 0, 0, 0, 0, 0⟩

/-- A pool's steps for a tenant (07 R207, R220). -/
structure PoolRun where
  tenant : Nat
  rank : Nat
  step : Nat
  lastAt : Nat
  starved : Bool
  deriving DecidableEq, Repr

/-- A GEN_PHASE that waits (07 R227). -/
structure PhaseJob where
  cmd : CmdRef
  tenant : Nat
  toScore : Bool
  model : Nat
  deriving DecidableEq, Repr

structure GenState where
  reqs : List GenReq
  nodes : List PrefixNode
  /-- pages in use of each arena, by (tenant, model), and the order in which arenas were reserved -/
  arenas : List ((Nat × Nat) × List Nat)
  /-- items that wait for credit, items sent and not yet installed, and items landed here or at another
  member of a home group that wait for its next commit (R214, R218) -/
  shipQueue : List PageHeader
  ships : List PageHeader
  landed : List (PageHeader × List Byte × List Nat)
  /-- nodes being published, with the SEQs of the pages still on their way (R210) -/
  publishing : List (PrefixNode × List Nat)
  /-- tenants whose prefill waits for ship credit (R219) -/
  stalled : List Nat
  shipSeq : List ((Nat × Nat × Nat) × Nat)
  stats : List (Nat × GenStats)
  runs : List PoolRun
  /-- submits that wait for a queue: command, since, reported -/
  waiting : List (CmdRef × Nat × Bool)
  phaseJobs : List PhaseJob
  outQueue : List OutputUpdate
  nextOrder : Nat
  hitCount : Nat
  mismatchCount : Nat
  padCount : Nat
  deriving DecidableEq, Repr

end Sys2Proof.Machine
end

