-- ==== Sys2Proof/Machine/LinkState.lean ====
section
/-! DEFINITION. The state of the links, of end-to-end delivery and of the collective groups and
instances (11). A module address is coded as SRC of 11 R321: rank, column and row. -/

namespace Sys2Proof.Machine

/-- Link states (11 R327), in the codes of LNK_STAT.STATE. -/
inductive LinkPhase where
  | disabled | training | align | identify | up | recal | retrain | failed | miswired | unused
  deriving DecidableEq, Repr

def LinkPhase.code : LinkPhase → Nat
  | .disabled => 0 | .training => 2 | .align => 3 | .identify => 4 | .up => 5
  | .recal => 6 | .retrain => 7 | .failed => 8 | .miswired => 9 | .unused => 10

/-- An active owner of a link direction: tenant or 0x3FF, its deficit, and its flows with theirs, in the
order of the active list (11 R335). A flow is its FLOW group ID on VC2, 0x103 for VC3 and 0x104 for VC4. -/
structure Owner where
  id : Nat
  deficit : Nat
  flows : List (Nat × Nat)
  deriving DecidableEq, Repr

/-- A frame that waits for a link, with the link it arrived on when it is in transit. -/
structure Waiting where
  frame : Frame
  ingress : Option Nat
  deriving DecidableEq, Repr

/-- One link (11 R320 to R335). -/
structure Link where
  phase : LinkPhase
  attempts : Nat
  /-- from the release of its group's reset until it first reaches UP (R328) -/
  initial : Bool
  /-- device time at which the present state or attempt began -/
  since : Nat
  /-- next LSEQ to send, LSEQ expected, and the frame that the peer expects next -/
  lseqNext : Nat
  lseqExpected : Nat
  acked : Nat
  /-- frames sent and not acknowledged, oldest first -/
  replay : List Frame
  resends : Nat
  /-- a NAK has been sent: frames are discarded until the expected one arrives -/
  discarding : Bool
  /-- credits held at the receiver, by (VC, hop class) -/
  credits : List ((Nat × Nat) × Nat)
  /-- credits to return, by VC -/
  owed : List (Nat × Nat)
  /-- an acknowledgement is due to the peer; a NAK is due -/
  ackDue : Bool
  nakDue : Bool
  /-- frames that wait for this direction, in order of arrival -/
  queue : List Waiting
  owners : List Owner
  /-- slots that VC1 still leaves to VC2 to VC4 while they wait (R334) -/
  vc1Gap : Nat
  /-- frames sent in this direction, newest first -/
  sent : List Frame
  /-- serial of the peer that IDENT named -/
  peer : Option DWord
  fecCorr : Nat
  fecUncorr : Nat
  replayCount : Nat
  degradedAt : Option Nat
  /-- the peer of this link is reached by a detour -/
  detour : Bool
  deriving DecidableEq, Repr

/-- A link group (11 R317, R329, R353). -/
structure LinkGroup where
  recalDue : Bool
  recalling : Bool
  recalSince : Nat
  /-- junction temperature and the one at the last calibration, in °C -/
  temp : Int
  calTemp : Int
  cr1 : Bool
  /-- held in DISABLED by LNK_GRP_CMD.DISABLE -/
  held : Bool
  deriving DecidableEq, Repr

/-- A detour in force towards a peer address (11 R332, R333). -/
structure Detour where
  peer : Nat
  via : Nat
  /-- detoured frames not acknowledged end to end -/
  unacked : List Frame
  /-- new frames that wait for the acknowledgements -/
  held : List Waiting
  /-- a link to the peer is UP again; new frames wait for the acknowledgements -/
  draining : Bool
  deriving DecidableEq, Repr

/-- A message delivered whole: source, VC, bytes (11 R326). -/
structure Delivered where
  src : Nat
  vc : Nat
  bytes : List Byte
  deriving DecidableEq, Repr

structure LinkState where
  links : Vector Link 96
  groups : Vector LinkGroup 12
  recalDrift : Nat
  rowsM1 : Nat
  colsM1 : Nat
  detours : List Detour
  /-- ordinal of the next UP link of a pair, by peer (R320) -/
  spread : List (Nat × Nat)
  /-- device time since which a next-hop peer has had no UP link -/
  settling : List (Nat × Nat)
  /-- device time of the first transmit towards a peer in initial training (R328) -/
  waiting : List (Nat × Nat)
  /-- pairs (m, s) UP as last reported by m (R333) -/
  reported : List (Nat × Nat)
  /-- next SSEQ to send by (destination, VC), and next to deliver by (source, VC) -/
  ssNext : List ((Nat × Nat) × Nat)
  ssExpected : List ((Nat × Nat) × Nat)
  reorder : List Frame
  /-- messages of which some frames have been delivered, by (source, VC) -/
  pieces : List ((Nat × Nat) × List Byte)
  /-- messages delivered to their consumers, newest first -/
  delivered : List Delivered
  /-- peers reported to the coordinator as unreachable -/
  unreachable : List Nat
  deriving DecidableEq, Repr

/-! Collectives (11 R336 to R347). -/

/-- A collective group of a tenant. Members are addresses, in member order. -/
structure CollGroup where
  tenant : Nat
  id : Nat
  pool : Nat
  stage : Nat
  strided : Bool
  grid : Bool
  size : Nat
  timeoutUs : Nat
  partitions : List (List Nat)
  deriving DecidableEq, Repr

/-- An instance: command, group, lane and SEQ (11 R339). -/
structure CollKey where
  cmd : CmdRef
  group : Nat
  lane : Nat
  seq : Nat
  deriving DecidableEq, Repr

/-- An instance issued on this module and not yet DONE. -/
structure CollInst where
  key : CollKey
  tenant : Nat
  tile : Nat
  fence : Nat
  /-- the partition's addresses, and this module's index among them -/
  members : List Nat
  index : Nat
  kind : Nat
  fmt : Nat
  rows : Nat
  rowLen : Nat
  /-- this member's own contribution -/
  own : CollPart
  parts : List CollPart
  issuedAt : Nat
  timeoutUs : Nat
  /-- the timer is held until this device time (R346), and the time held so far -/
  heldUntil : Nat
  held : Nat
  deriving DecidableEq, Repr

structure CollState where
  groups : List CollGroup
  insts : List CollInst
  /-- contributions that arrived before this module issued the instance -/
  early : List (CollKey × CollPart)
  /-- failures that arrived before it was issued: exception code and cause -/
  earlyFail : List (CollKey × Nat × Nat)
  /-- collectives that reached DONE, by command, group and lane (R344) -/
  done : List ((CmdRef × Nat × Nat) × Nat)
  deriving DecidableEq, Repr

end Sys2Proof.Machine
end

