-- ==== Sys2Proof/Machine/MemState.lean ====
section
/-! DEFINITION. The state of the memory tiers, the page tables and the placement engine (05, 06). -/

namespace Sys2Proof.Machine

/-- Memory tiers, in the codes of 05 R156. -/
inductive Tier where
  | bsram | hbm | bulk | peer
  deriving DecidableEq, Repr

def Tier.code : Tier → Nat
  | .bsram => 0 | .hbm => 1 | .bulk => 2 | .peer => 3

/-- The backing of a unit or of a 64 KiB entry (05 R130). -/
structure Page where
  tier : Tier
  dpa : Nat
  deriving DecidableEq, Repr

/-- A leaf of the page table: a whole 2 MiB unit, or 32 entries of 64 KiB (05 R130). -/
inductive Backing where
  | whole (p : Page)
  | split (ps : List Page)
  deriving DecidableEq, Repr

/-- Hints on a unit (06 R174). -/
inductive Hint where
  | none | pin | preferHbm | preferBulk | neverEvict
  deriving DecidableEq, Repr

/-- A unit of a tenant (05 R130, R134; 06 R167, R170). -/
structure UnitEntry where
  backing : Backing
  lastUse : Nat
  heat : Nat
  /-- heat of the last sample period -/
  sampled : Nat
  hint : Hint
  /-- the HBM or bulk source of a unit that an ACTIVE Foil lease maps to bonded SRAM (06 R178, R181) -/
  source : Option Backing
  /-- DPA of the bulk copy that a clean unit keeps -/
  clean : Option Nat
  /-- device time of the last move between HBM and bulk; true towards HBM -/
  moved : Option (Nat × Bool)
  deriving DecidableEq, Repr

/-- A unit's key: tenant and TVA div 2 MiB. -/
abbrev UnitKey := Nat × Nat

/-- A staging entry of a command: the 64 KiB entry (TVA div 64 KiB) and its own page (05 R132). -/
structure StageEntry where
  cmd : CmdRef
  tenant : Nat
  entry : Nat
  page : Page
  deriving DecidableEq, Repr

/-- A migration in progress (05 R133): a whole unit, or one 64 KiB entry of a split unit, and the
writes that wait for its switch. -/
structure Migration where
  key : UnitKey
  entry : Option Nat
  dest : Page
  /-- (TVA, bytes), oldest first -/
  writes : List (Nat × List Byte)
  deriving DecidableEq, Repr

/-- A restoration in progress (05 R154, R155) of the granule at a DPA, with the writes that wait. -/
structure Restoration where
  granule : Nat
  /-- granules covered: one, or a whole unit of a failed port (R145) -/
  count : Nat
  syndrome : Nat
  writes : List (Nat × List Byte)
  deriving DecidableEq, Repr

/-- An HBM die region (05 R136 to R139): local indices mapped out with their causes, in ascending
order of taking effect; the requests that a drain serves. -/
structure DieRegion where
  mapped : List (Nat × Nat)
  retired : Bool
  draining : Bool
  /-- what the drain ends with: (PCL, cause) to map out -/
  request : Option (Nat × Nat)
  /-- the drain ends with retirement (R139) -/
  retiring : Bool
  /-- the reservations were lowered because the drain met pages that cannot move (R138) -/
  lowered : Bool
  deriving DecidableEq, Repr

/-- A CXL port (05 R142 to R145, R160). -/
structure CxlPort where
  present : Bool
  up : Bool
  width : Nat
  rate : Nat
  capGib : Nat
  refused : Bool
  failed : Bool
  deriving DecidableEq, Repr

/-- A correctable-error history: device times of the errors, newest first (05 R137, R150). -/
structure ErrHist where
  /-- by (pseudo-channel, row): errors not yet repaired -/
  rowCe : List ((Nat × Nat) × List Nat)
  pcCe : List (Nat × List Nat)
  /-- by pseudo-channel: rows with uncorrectable errors and their times -/
  pcUe : List (Nat × List (Nat × Nat))
  /-- by tile -/
  padUe : List (Nat × List Nat)
  /-- errors that stand in pads and no read has met: by tile, what the next read of the pad finds (R141; the world's doing, log entry 80) -/
  padFound : List (Nat × Finding)
  /-- (pseudo-channel, row) to be repaired at the next step boundary -/
  repairDue : List (Nat × Nat)
  /-- repair rows used, by (pseudo-channel, bank) -/
  repaired : List ((Nat × Nat) × Nat)
  deriving DecidableEq, Repr

/-- The MEM registers that hold state of their own (05 R160). -/
structure MemRegs where
  hbmHours : Nat
  bsramMin : Nat
  bulkHours : Nat
  /-- HBM_BEHIND, BSRAM_BEHIND, BULK_BEHIND -/
  scrubStat : BitVec 3
  ce : Nat
  ue : Nat
  restored : Nat
  pf0Mib : Nat
  deriving DecidableEq, Repr

/-- The memories of the module (05). Addresses are device physical addresses. -/
structure MemState where
  cells : Memory
  /-- poisoned granules: DPA div 256, rising -/
  poison : List Nat
  units : List (UnitKey × UnitEntry)
  staging : List StageEntry
  migrations : List Migration
  restorations : List Restoration
  dies : Vector DieRegion 4
  ports : Vector CxlPort 8
  /-- lease-area units withdrawn, by die: unit index 0–178 (R140) -/
  leaseBad : List (Nat × Nat)
  err : ErrHist
  regs : MemRegs
  /-- bulk keys that exist: bit t for tenant t, bit 512 for the device (R146) -/
  bulkKeys : BitVec 513
  /-- translations cached by each DMA/collective engine: (die, tenant, unit) (R130) -/
  tlb : List (Nat × UnitKey)
  deriving DecidableEq, Repr

/-- States of a Foil lease (06 R178), in the codes of 06 R191. -/
inductive LeaseState where
  | none | loading | active | switching | releasing
  deriving DecidableEq, Repr

def LeaseState.code : LeaseState → Nat
  | .none => 0 | .loading => 1 | .active => 2 | .switching => 3 | .releasing => 4

/-- A Foil lease (06 R177, R178). -/
structure Lease where
  state : LeaseState
  model : Nat
  version : Nat
  /-- lease units that hold the layout on this module: (die, unit index) -/
  units : List (Nat × Nat)
  /-- the layout's units that they stand for, in order, as TVA div 2 MiB -/
  sources : List Nat
  /-- streaming complete; the swap waits for the step boundary -/
  streamed : Bool
  /-- the version that a granted switch is to load -/
  switchTo : Option (Nat × Nat)
  /-- commands that wait for ACTIVE, and for NONE -/
  waitActive : List CmdRef
  waitNone : List CmdRef
  deriving DecidableEq, Repr

/-- Policies of a saved tensor (06 R182). -/
inductive ActChoice where
  | keep | offload | recompute
  deriving DecidableEq, Repr

def ActChoice.code : ActChoice → Nat
  | .keep => 0 | .offload => 1 | .recompute => 2

/-- A saved tensor (06 R182): AUTO or fixed, the choice in force, and a candidate that would raise the
HBM need with the number of boundaries at which it was made. -/
structure SavedTensor where
  auto : Bool
  choice : ActChoice
  candidate : Option (ActChoice × Nat)
  tva : Nat
  bytes : Nat
  recomputeNs : Nat
  deriving DecidableEq, Repr

/-- Pools of a tenant: ranks in ascending order (06 R184). -/
structure Pools where
  prefillPool : List Nat
  decodePool : List Nat
  cachePool : List Nat
  scorePool : List Nat
  learnPool : List Nat
  deriving DecidableEq, Repr

def Pools.empty : Pools := ⟨[], [], [], [], []⟩

/-- Which pool. -/
inductive PoolId where
  | pre | dec | cache | score | learn
  deriving DecidableEq, Repr

/-- The placement state of one tenant in the domain (06 R184 to R190). -/
structure TenantPlace where
  pools : Pools
  /-- attention width of the model in generation, and the groups of the decode or score pool (07 R194, R217) -/
  width : Nat
  groups : List (List Nat)
  /-- a written allocation not yet applied (R185); the one in force is TNT_ALLOC -/
  pendingAlloc : Option (BitVec 64)
  /-- modules that change pool and have not joined: (rank, pool) (R190) -/
  joining : List (Nat × PoolId)
  /-- rebalance counter c and the move due: modules leaving, towards prefill or decode (R187) -/
  imbalance : Nat
  moveDue : Option (List Nat × PoolId × PoolId)
  cacheHigh : Nat
  cacheLow : Nat
  /-- contiguous layer counts of the pipeline stages, and their counter (R189) -/
  stages : List Nat
  stageCount : Nat
  lastRebalance : Nat
  saved : List SavedTensor
  evicted : Nat
  promoted : Nat
  deriving DecidableEq, Repr

def TenantPlace.zero : TenantPlace where
  pools := Pools.empty
  width := 1
  groups := []
  pendingAlloc := none
  joining := []
  imbalance := 0
  moveDue := none
  cacheHigh := 0
  cacheLow := 0
  stages := []
  stageCount := 0
  lastRebalance := 0
  saved := []
  evicted := 0
  promoted := 0

/-- The placement engine (06). -/
structure PlaceState where
  /-- PLC_CTRL and PLC_NE_MAX (R193) -/
  sampleMs : Nat
  promoteHeat : Nat
  minResMs : Nat
  neMaxGib : Nat
  /-- register writes that take effect at the next sample period: block offset and value (R193) -/
  written : List (Nat × Nat)
  /-- PLC_TNT_RESV, GiB -/
  resv : Vector Nat 512
  /-- PLC_EVICT_COUNT, PLC_PROMOTE_COUNT, PLC_LENT -/
  evictCount : Nat
  promoteCount : Nat
  lent : Nat
  /-- start of the previous and of the current sample period, device time -/
  prevSample : Nat
  lastSample : Nat
  /-- tenant of the last eviction victim and of the last promotion (R169, R170) -/
  lastVictim : Nat
  lastPromoted : Nat
  leases : List (Nat × Lease)
  tenants : List (Nat × TenantPlace)
  deriving DecidableEq, Repr

end Sys2Proof.Machine
end

