-- ==== Sys2Proof/Machine/ModelState.lean ====
section
/-! DEFINITION. The state of models, learning steps, updates and turns (09, 10). -/

namespace Sys2Proof.Machine

/-- A tensor table entry (10 R286). -/
structure TensorDef where
  rows : Nat
  rowLen : Nat
  vector : Bool
  genFmt : Nat
  split : Nat
  expert : Nat
  layer : Nat
  deriving DecidableEq, Repr

/-- Learning step states (09 R255), in the codes of 10 R295. -/
inductive LearnPhase where
  | idle | opened | closed | preparing | updating | lost
  deriving DecidableEq, Repr

def LearnPhase.code : LearnPhase → Nat
  | .idle => 0 | .opened => 1 | .closed => 2 | .preparing => 3 | .updating => 4 | .lost => 5

/-- An open undo entry (09 R277): old optimiser state and gradient block. -/
structure UndoEntry where
  die : Nat
  tensor : Nat
  block : Nat
  state : List Byte
  grad : List Byte
  deriving DecidableEq, Repr

/-- An update in progress on the coordinator (09 R272, R273, R281). -/
structure UpdateJob where
  cmd : CmdRef
  lrScale : Word
  reportTva : Nat
  normTva : Nat
  overlap : Bool
  readys : List ReadyRec
  dones : List DoneRec
  gradNorm : Word
  clip : Word
  takeovers : Nat
  reruns : Nat
  tPrepare : Nat
  tGo : Nat
  deriving DecidableEq, Repr

/-- A kept copy of a gradient LEARN_STEP (09 R257). -/
structure KeptStep where
  params : List Byte
  examples : Nat
  deriving DecidableEq, Repr

/-- A takeover (09 R275): index, lost rank, spare, and whether its copies are complete. -/
structure Takeover where
  index : Nat
  lost : Nat
  spare : Nat
  copied : Bool
  /-- the exchange is to be re-run after the copies (R276) -/
  rerun : Bool
  deriving DecidableEq, Repr

/-- What the buddy holds for its predecessor (09 R274). -/
structure Held where
  version : Nat
  ckpt : List Byte
  mirror : Option (List Byte)
  deriving DecidableEq, Repr

/-- Where the member's shard of a tensor lies (09 R253): TVAs. -/
structure ShardPlace where
  w : Nat
  g : Nat
  st : Nat
  deriving DecidableEq, Repr

/-- The learning side of a model (09). -/
structure Learn where
  version : Nat
  /-- ranks of the layout's members in member order (R252), and the TVA of this member's shard table -/
  members : List Nat
  tableTva : Nat
  /-- update step number t -/
  step : Nat
  phase : LearnPhase
  planned : Nat
  sum : Nat
  micros : Nat
  kept : List KeptStep
  setup : Option LearnSetup
  /-- PREPARE received: its time, and whether the checkpoint and the mirror were then still awaited (R272) -/
  prepared : Option (Nat × Bool × Bool)
  shards : List ShardPlace
  /-- (STATE_TAG, WEIGHT_TAG) by (tensor, block); a block not listed is at the committed version -/
  tags : List ((Nat × Nat) × (Nat × Nat))
  undo : List UndoEntry
  go : Option GoRecord
  /-- this member's sweep stopped and has not resumed (R278) -/
  stopped : Bool
  swept : Bool
  undoRedos : Nat
  blocksSkipped : Nat
  sweepStart : Nat
  partials : List (Nat × TensorPartials)
  unattributed : Nat
  /-- this member's mirror is committed on its buddy, and the version of its checkpoint there -/
  mirrorDone : Bool
  ckptVersion : Option Nat
  held : Option Held
  noise : Option (Word × Word)
  noiseValid : Bool
  hint : Nat
  hintRun : Nat
  update : Option UpdateJob
  takeovers : List Takeover
  /-- the kept command that the re-run of the exchange has reached (R276) -/
  rerunAt : Option Nat
  /-- status of a re-run command that failed, for the next LEARN_UPDATE (R276) -/
  failedRerun : Option Nat
  /-- commands refused until a spare is named (R276) -/
  noSpare : Bool
  deriving DecidableEq, Repr

/-- A part of a generation layout on this module (10 R289). -/
structure GenPart where
  tensor : Nat
  part : Nat
  elemTva : Nat
  scaleTva : Nat
  tscale : Word
  rowsHeld : Nat
  deriving DecidableEq, Repr

/-- A generation layout of a version (10 R292): a layout not yet published or loaded is staging. -/
structure GenLayout where
  version : Nat
  staging : Bool
  /-- the reference of an unpublished load (TARGET 2) -/
  loaded : Bool
  holds : Nat
  parts : List GenPart
  mapTva : Nat
  deriving DecidableEq, Repr

/-- A model (10 R284 to R291). -/
structure Model where
  learnable : Bool
  compact : Bool
  convSr : Bool
  fromMaster : Bool
  convSeed : DWord
  tensors : List TensorDef
  w : Nat
  kvh : Nat
  latent : Bool
  kvFmt : Nat
  dk : Nat
  dv : Nat
  dc : Nat
  dr : Nat
  layers : Nat
  maxContext : Nat
  vocab : Nat
  /-- prefill, decode, score and draft images -/
  images : List (Option (List Byte))
  learn : Option Learn
  /-- highest version number held -/
  highest : Nat
  published : Option Nat
  layouts : List GenLayout
  /-- MODEL_DELETE has ended the model; its record stays while a layout is referenced -/
  deleted : Bool
  deriving DecidableEq, Repr

/-- Phases of a tenant (10 R297). -/
inductive TenantPhase where
  | learn | freezing | generate | score | thawing
  deriving DecidableEq, Repr

/-- A FREEZE in progress (10 R298 to R305). -/
structure FreezeJob where
  cmd : CmdRef
  /-- rank of the interpreter -/
  home : Nat
  plan : FreezePlan
  since : Nat
  /-- this module's member index in its group; none where it receives nothing -/
  part : Option Nat
  /-- parts received on this module: (tensor, source rank, unit of 128 rows) -/
  got : List (Nat × Nat × Nat)
  /-- receivers that have reported LANDED -/
  landed : List Nat
  /-- the parts were also written into these lease units -/
  lease : Bool
  deriving DecidableEq, Repr

/-- A THAW in progress (10 R306). -/
structure ThawJob where
  cmd : CmdRef
  tenant : Nat
  since : Nat
  parked : Nat
  requeued : Nat
  /-- the policy is applied at the next boundary -/
  due : Bool
  deriving DecidableEq, Repr

/-- A wait of the drain policy (10 R310). -/
structure Drain where
  tenant : Nat
  /-- the model of a publication; none for a THAW -/
  model : Option Nat
  version : Nat
  since : Nat
  deriving DecidableEq, Repr

structure TurnState where
  models : List ((Nat × Nat) × Model)
  phases : List (Nat × TenantPhase)
  freezes : List FreezeJob
  thaws : List ThawJob
  drains : List Drain
  /-- the reward model and version of a score phase, by tenant (07 R227) -/
  scoring : List (Nat × (Nat × Nat))
  publishCount : Nat
  thawCount : Nat
  restreamCount : Nat
  lastTurn : Nat
  prepareMs : Nat
  spareMask : BitVec 64
  /-- a written spare mask that waits for the step boundary (09 R283) -/
  pendingSpares : Option (BitVec 64)
  commitCount : Nat
  abortCount : Nat
  takeoverCount : Nat
  undoCount : Nat
  deriving DecidableEq, Repr

end Sys2Proof.Machine
end

