-- ==== Sys2Proof/Machine/SignalState.lean ====
section
/-! DEFINITION. The state of sideband signals and start-up (16) and of boot and security (17). -/

namespace Sys2Proof.Machine

/-! Signals (16). -/

/-- Power and reset of the module (16 R475 to R480). -/
inductive PowerPhase where
  | off      -- VIN absent
  | standby  -- standby supply; main rails off
  | held     -- main rails on, package held in reset
  | starting -- package reset released, not READY
  | running  -- READY has been reached since the last start-up
  deriving DecidableEq, Repr

structure SigState where
  phase : PowerPhase
  pwrEn : Bool
  perstN : Bool
  hostRefclk : Bool
  ready : Bool
  /-- the host port has completed its training: PF0 is visible -/
  visible : Bool
  /-- a start-up from power-on, rather than one after a module reset (R479) -/
  coldStart : Bool
  t2 : Nat
  visibleMs : Nat
  readyMs : Nat
  /-- functions whose administration ENABLE was written before READY -/
  heldEnables : List Nat
  stacksTrained : BitVec 16
  portsTrained : BitVec 8
  /-- link groups released from reset -/
  groupsReleased : BitVec 12
  /-- device time of the first release (13 R397) -/
  releasedAt : Nat
  faultDrive : Bool
  faultLow : Bool
  faultMask : Bool
  /-- device time since which FAULT_N has read low without the module's own drive -/
  faultSince : Nat
  /-- SMB_SCL and SMB_SDA read low -/
  sclLow : Bool
  sdaLow : Bool
  recovering : Bool
  /-- device time at which recovery clocking began -/
  stuckAt : Nat
  smbIso : Bool
  smbLock : Bool
  lastIso : Option Nat
  isoCount : Nat
  tickNs : Nat
  /-- consecutive valid intervals since TICK_FREE was set -/
  tickRun : Nat
  tickFree : Bool
  /-- device time of the last rising edge captured, valid or not -/
  lastEdge : Option Nat
  tickOutEn : Bool
  /-- pulses of TICK_OUT -/
  tickPulses : Nat
  /-- the whole second of device time whose crossing has been seen -/
  tickSec : Nat
  uartMask : Bool
  anchorSel : Bool
  compatSel : Bool
  smbAddr : BitVec 2
  anchorPin : Bool
  compatPin : Bool
  addrPin : BitVec 2
  /-- events held while the package is in reset: KIND, VALUE, time -/
  held : List (Nat × Nat × Nat)
  /-- the boundary-scan instruction loaded: 0 BYPASS, 1 IDCODE, 2 SAMPLE/PRELOAD, 3 EXTEST, 4 CLAMP, 5 HIGHZ, 6 one beyond these -/
  tap : Nat
  tapReset : Bool
  /-- bridges between compute dies and I/O dies that have lost their training -/
  bridgesDown : List Nat
  deriving DecidableEq, Repr

/-! Boot and security (17). -/

/-- TDISP states (R494). -/
inductive TdiState where
  | unlocked | locked | run | error
  deriving DecidableEq, Repr

/-- A key request that waits (R495, R501): set with its key, or destroy. -/
structure KeyWait where
  tenant : Nat
  keyId : Nat
  key : Option (List Byte)
  deriving DecidableEq, Repr

/-- An SPDM session (R492): its function, and whether it runs over MCTP. -/
structure Session where
  fn : Nat
  mctp : Bool
  deriving DecidableEq, Repr

structure BootState where
  /-- active bank of the management controller and of the package firmware -/
  mcBank : Bool
  pkgBank : Bool
  mcA : Option FwImage
  mcB : Option FwImage
  pkgA : Option FwImage
  pkgB : Option FwImage
  fallback : Bool
  fail : Nat
  mcSvn : Nat
  pkgSvn : Nat
  pkgPending : Bool
  /-- a domain configuration record in force, and one that waits for the next start-up -/
  record : Option DomainRecord
  nextRecord : Option DomainRecord
  /-- PMD of each link group, and the digest of the board record; one that waits for power-on -/
  boardPmd : BitVec 12
  boardDigest : Nat
  nextBoard : Option (BitVec 12 × Nat)
  /-- components transferred and not activated -/
  transferred : List FwPayload
  stepLevel : Nat
  romDigest : Nat
  unlocked : Bool
  unlockPending : Bool
  unlockCount : Nat
  entropyFail : Bool
  sessions : List Session
  /-- states of TDIs that are not CONFIG_UNLOCKED, by tenant -/
  tdi : List (Nat × TdiState)
  imageKeys : List ((Nat × Nat) × List Byte)
  keyWaits : List KeyWait
  /-- measurement replies, newest first -/
  measured : List (Nat × List Nat)
  deriving DecidableEq, Repr

end Sys2Proof.Machine
end

