-- ==== Sys2Proof/Machine/State.lean ====
section
/-! DEFINITION. The state of the block: one KVA-7420 module with the control-plane tables its firmware
keeps, what it has sent, and the queue of waiting commands. Every field is plain data. -/

namespace Sys2Proof.Machine

/-- Why a run could stop with a fault. No command of the manual stops the block: an event that a state
does not provide for has no effect (00 R12), and errors are statuses, events and exceptions. -/
inductive Fault where
  deriving DecidableEq, Repr

/-- Why a command has no meaning here. -/
inductive Refusal where
  /-- Raised by `exec` for a row that has no meaning yet. Safe: nothing is claimed of it. -/
  | notModelled (mnemonic : String)
  deriving DecidableEq, Repr

/-- Messages to other modules and to this module's own protocol partners (11 R323). -/
inductive MsgKind where
  | startPart | vote | commit | abort | commitAck | apply | applied
  | form | accept | elected | moduleResetting | heatNotice
  | padput | padgetRequest | padgetData | csignal
  | memoryWrite | memoryReadRequest | memoryReadData | pageShip | outputRecords
  | collContribution | collFail | collAbort | imageSegment
  | prepare | ready | go | updateDone | learnCommit | buddyCopy
  | reshardPart | landed | publish | configCurrent | eventRelay | discardState
  | e2eAck | peerUnreachable | domainOrder | domainReport | imageKey
  deriving DecidableEq, Repr

/-- A message sent: destination rank (for collective messages an address coded as SRC, 11 R321), its
numbers in the order the rule gives them, and its data. -/
structure Msg where
  dst : Nat
  kind : MsgKind
  args : List Nat
  data : List Byte
  deriving DecidableEq, Repr

/-! Registers of the module itself (18). -/

/-- A register write held while its die is in reset (R510). -/
structure HeldWrite where
  fn : Fin 513
  offset : Nat
  data : List (Option Byte)
  deriving DecidableEq, Repr

/-- What the I/O die answers for a compute die under reset (18 R510): the parts of the state that hold its registers'
values, as they stood when the reset began. -/
structure RegCopy where
  die : Nat
  tnt : Vector TenantRegs 512
  sliceMs : Nat
  place : PlaceState
  turn : TurnState
  hits : Nat × Nat × Nat
  live : Nat
  dom : DomState
  hbm : Vector DieRegion 4
  pat : PatinaState
  pwr : PowerState
  deriving DecidableEq, Repr

structure RegState where
  cfgLock : Bool
  /-- SUE_SEG_LIMIT (03 R112) -/
  segLimitUs : Nat
  serial : DWord
  stepping : Nat
  heldWrites : List HeldWrite
  /-- copies of dies under reset (R510) -/
  copies : List RegCopy
  deriving DecidableEq, Repr

structure State where
  tiles : Vector Tile 160
  mem : MemState
  place : PlaceState
  cmd : CmdState
  host : HostState
  dom : DomState
  lnk : LinkState
  coll : CollState
  flt : FaultState
  pat : PatinaState
  pwr : PowerState
  turn : TurnState
  gen : GenState
  sig : SigState
  boot : BootState
  regs : RegState
  /-- messages sent, newest first -/
  outbox : List Msg
  /-- counter of free values drawn (the model's own field, log entry 7) -/
  fresh : Nat
  /-- commands waiting, first in first out -/
  pending : List Instr
  deriving DecidableEq, Repr

/-! Reset. The state is a module as shipped, without power: every register stands at its reset value,
and every field that firmware loads (`Fw`) at the value of a shipped module (log entry 10). -/

def MemState.reset : MemState where
  cells := []
  poison := []
  units := []
  staging := []
  migrations := []
  restorations := []
  dies := Vector.replicate 4 ⟨[], false, false, none, false, false⟩
  ports := Vector.replicate 8 ⟨false, false, 0, 0, 0, false, false⟩
  leaseBad := []
  err := ⟨[], [], [], [], [], [], []⟩
  regs := ⟨0x0C, 0x0A, 0x18, 0, 0, 0, 0, 0⟩
  bulkKeys := 0
  tlb := []

def PlaceState.reset : PlaceState where
  sampleMs := 0x0A
  promoteHeat := 0x40
  minResMs := 0x64
  neMaxGib := 0x10
  written := []
  resv := Vector.replicate 512 0
  evictCount := 0
  promoteCount := 0
  lent := 0
  prevSample := 0
  lastSample := 0
  lastVictim := 0
  lastPromoted := 0
  leases := []
  tenants := []

def CmdState.reset : CmdState where
  sqs := []
  cqs := []
  cmds := []
  tnt := Vector.replicate 512 TenantRegs.zero
  stride := ⟨[], [], [], [], []⟩
  config := []
  configJobs := []
  staged := []
  sliceMs := 0x14
  fetchLast := Vector.replicate 4 2063

def HostState.reset : HostState where
  fns := Vector.replicate 513 FnState.zero
  gen := 0
  width := 0
  ide := false
  numVfs := 0
  vfEnable := false
  bar4Log := 36
  refused := []
  invalidations := []
  invalidated := []
  writes := []
  irqs := []
  replies := []
  relay := []
  copies := []
  aer := 0

def DomState.reset : DomState where
  phase := .forming
  size := 16
  rank := 0
  row := 0
  col := 0
  coord := 0
  anchor := 0
  noHost := false
  level := 0
  qcause := 0
  members := 0
  quarantined := 0
  lost := 0
  epoch := 0
  round := 0
  roundAt := 0
  electedIn := none
  admitted := false
  resetAt := none
  reach := 0
  forms := []
  accepts := []
  accepted := none
  heldState := false
  formed := false
  time := 0
  ratePpb := 0
  timeOffset := 0
  resetting := []

def Link.reset : Link where
  phase := .disabled
  attempts := 0
  initial := false
  since := 0
  lseqNext := 0
  lseqExpected := 0
  acked := 0
  replay := []
  resends := 0
  discarding := false
  credits := []
  owed := []
  ackDue := false
  nakDue := false
  queue := []
  owners := []
  vc1Gap := 0
  sent := []
  peer := none
  fecCorr := 0
  fecUncorr := 0
  replayCount := 0
  degradedAt := none
  detour := false

def LinkState.reset : LinkState where
  links := Vector.replicate 96 Link.reset
  groups := Vector.replicate 12 ⟨false, false, 0, 0, 0, false, false⟩
  recalDrift := 8
  rowsM1 := 0
  colsM1 := 0
  detours := []
  spread := []
  settling := []
  waiting := []
  reported := []
  ssNext := []
  ssExpected := []
  reorder := []
  pieces := []
  delivered := []
  unreachable := []

def FaultState.reset : FaultState where
  windowMs := 0xFA
  guiltyLimit := 0
  captureTenant := true
  mode := .startUp
  tileMap := BitVec.allOnes 160
  captures := []
  nextRecord := 1
  capDropped := 0
  hangCount := 0
  resetCount := 0
  escalateCount := 0
  resets := []
  replays := []
  tenantResets := []
  progress := []
  modeHangs := []
  unreproduced := []
  lastReset := []
  dieEscalations := []
  guilty := []
  withdrawn := false

/-- Patina before any step: 1,950 MHz (14 R444); the margins of a new part, none measured. -/
def PatinaState.reset : PatinaState where
  maxMhz := 0x79E
  steps := 0
  hours := 0
  outHours := 0
  eom := 0xFFFFFFFF
  valid := false
  cls := 0
  unit := 0
  lifeMhz := 0
  last := 0
  path := Vector.replicate 4 0
  sram := Vector.replicate 4 0
  ratio := Vector.replicate 16 0
  refresh2x := 0
  eyeMin := 0
  eyeLink := 0
  measured := []
  eyes := []
  samples := []
  pending := none
  railMv := Vector.replicate 4 850
  sramMv := Vector.replicate 4 900

def PowerState.reset : PowerState where
  capW := 0xAF0
  pkgW := 0
  inputW := 0
  limiting := false
  duty := false
  dutyAt := 0
  stopped := 0
  v10mv := 0
  band := 0
  energyMj := 0
  tripCount := 0
  powerMhz := 0x79E
  calmSince := none
  lastLimitEvent := none
  hbmTherm := Vector.replicate 16 ⟨0, .calm, 0, none, 0⟩
  dies := Vector.replicate 6 ⟨0, false, false, 0, none, 0, none, 0⟩
  tcC := 0
  tcMaxC := 0
  tripInHour := false

def TurnState.reset : TurnState where
  models := []
  phases := []
  freezes := []
  thaws := []
  drains := []
  scoring := []
  publishCount := 0
  thawCount := 0
  restreamCount := 0
  lastTurn := 0
  prepareMs := 0x64
  spareMask := 0
  pendingSpares := none
  commitCount := 0
  abortCount := 0
  takeoverCount := 0
  undoCount := 0

def GenState.reset : GenState where
  reqs := []
  nodes := []
  arenas := []
  shipQueue := []
  ships := []
  landed := []
  publishing := []
  stalled := []
  shipSeq := []
  stats := []
  runs := []
  waiting := []
  phaseJobs := []
  outQueue := []
  nextOrder := 0
  hitCount := 0
  mismatchCount := 0
  padCount := 0

/-- Pins at their pulls: PERST_N high, PWR_EN low, FAULT_N high on the board's pull-up (16 R467, R472). -/
def SigState.reset : SigState where
  phase := .off
  pwrEn := false
  perstN := true
  hostRefclk := false
  ready := false
  visible := false
  coldStart := true
  t2 := 0
  visibleMs := 0xFFFF
  readyMs := 0xFFFF
  heldEnables := []
  stacksTrained := 0
  portsTrained := 0
  groupsReleased := 0
  releasedAt := 0
  faultDrive := false
  faultLow := false
  faultMask := false
  faultSince := 0
  sclLow := false
  sdaLow := false
  recovering := false
  stuckAt := 0
  smbIso := false
  smbLock := false
  lastIso := none
  isoCount := 0
  tickNs := 0
  tickRun := 0
  tickFree := true
  lastEdge := none
  tickOutEn := true
  tickPulses := 0
  tickSec := 0
  uartMask := false
  anchorSel := false
  compatSel := false
  smbAddr := 0
  anchorPin := false
  compatPin := false
  addrPin := 0
  held := []
  tap := 0
  tapReset := true
  bridgesDown := []

/-- The shipped firmware: valid images of level 1 in both banks, no domain configuration record (16 R485). -/
def shippedImage : FwImage := ⟨0, 1, 0, 1, 0, 0⟩

def BootState.reset : BootState where
  mcBank := false
  pkgBank := false
  mcA := some shippedImage
  mcB := some shippedImage
  pkgA := some shippedImage
  pkgB := some shippedImage
  fallback := false
  fail := 0
  mcSvn := 0
  pkgSvn := 0
  pkgPending := false
  record := none
  nextRecord := none
  boardPmd := 0
  boardDigest := 0
  nextBoard := none
  transferred := []
  stepLevel := 1
  romDigest := 0
  unlocked := false
  unlockPending := false
  unlockCount := 0
  entropyFail := false
  sessions := []
  tdi := []
  imageKeys := []
  keyWaits := []
  measured := []

def RegState.reset : RegState where
  cfgLock := false
  segLimitUs := 0x7D0
  serial := 1
  stepping := 0xA1
  heldWrites := []
  copies := []

/-- The block as shipped, unpowered; no command waits. -/
def State.reset : State where
  tiles := Vector.replicate 160 Tile.idle
  mem := MemState.reset
  place := PlaceState.reset
  cmd := CmdState.reset
  host := HostState.reset
  dom := DomState.reset
  lnk := LinkState.reset
  coll := ⟨[], [], [], [], []⟩
  flt := FaultState.reset
  pat := PatinaState.reset
  pwr := PowerState.reset
  turn := TurnState.reset
  gen := GenState.reset
  sig := SigState.reset
  boot := BootState.reset
  regs := RegState.reset
  outbox := []
  fresh := 0
  pending := []

end Sys2Proof.Machine
end

