-- ==== Sys2Proof/Machine/Ops.lean ====
section
/-! DEFINITION. Operations that every chapter shares: state updates, event records (13 R403 to R405),
interrupts, host writes and messages. -/

namespace Sys2Proof.Machine

/-- What every meaning answers with. -/
abbrev Out := Host.Outcome State Fault Refusal

/-! Updates of one part. -/

def State.setTile (s : State) (i : Fin 160) (t : Tile) : State := { s with tiles := s.tiles.set i t }
def State.modTile (s : State) (i : Fin 160) (f : Tile → Tile) : State := s.setTile i (f s.tiles[i])
def State.setMem (s : State) (m : MemState) : State := { s with mem := m }
def State.setPlace (s : State) (p : PlaceState) : State := { s with place := p }
def State.setCmd (s : State) (c : CmdState) : State := { s with cmd := c }
def State.setHost (s : State) (h : HostState) : State := { s with host := h }
def State.setLnk (s : State) (x : LinkState) : State := { s with lnk := x }
def State.setColl (s : State) (x : CollState) : State := { s with coll := x }
def State.setFlt (s : State) (x : FaultState) : State := { s with flt := x }
def State.setPat (s : State) (x : PatinaState) : State := { s with pat := x }
def State.setPwr (s : State) (x : PowerState) : State := { s with pwr := x }
def State.setDom (s : State) (d : DomState) : State := { s with dom := d }

def State.setFn (s : State) (f : Fin 513) (x : FnState) : State := s.setHost { s.host with fns := s.host.fns.set f x }
def State.modFn (s : State) (f : Fin 513) (g : FnState → FnState) : State := s.setFn f (g s.host.fns[f])
def State.fnOf (s : State) (f : Fin 513) : FnState := s.host.fns[f]

/-- The function of a tenant (13 R390). -/
def tenantFn (t : Nat) : Fin 513 := Fin.ofNat 513 (t + 1)

/-- The tenant of a function other than PF0. -/
def fnTenant (f : Fin 513) : Nat := f.val - 1

def State.tntOf (s : State) (t : Nat) : TenantRegs := s.cmd.tnt[t]?.getD TenantRegs.zero

def State.modTnt (s : State) (t : Nat) (g : TenantRegs → TenantRegs) : State :=
  if h : t < 512 then s.setCmd { s.cmd with tnt := s.cmd.tnt.set t (g s.cmd.tnt[t]) } else s

/-- Bytes written to a function's host memory (13 R393). -/
def State.hostWrite (s : State) (fn iova : Nat) (bytes : List Byte) : State :=
  s.setHost { s.host with writes := ⟨fn, iova, bytes⟩ :: s.host.writes }

/-- Does the host translate every page of [iova, iova + n) of a function (13 R393)? -/
def State.translates (s : State) (fn iova n : Nat) : Bool :=
  !s.host.refused.any fun (f, p) => f == fn && p * 4096 < iova + n && iova < p * 4096 + 4096

/-- An MSI-X message; vector 0xFFFF is none. -/
def State.interrupt (s : State) (fn vector : Nat) : State :=
  if vector == 0xFFFF then s else s.setHost { s.host with irqs := (fn, vector) :: s.host.irqs }

def State.send (s : State) (m : Msg) : State := { s with outbox := m :: s.outbox }

def State.sendTo (s : State) (dst : Nat) (kind : MsgKind) (args : List Nat) : State := s.send ⟨dst, kind, args, []⟩

/-- A message to every rank of a list. -/
def State.sendAll (s : State) (dsts : List Nat) (kind : MsgKind) (args : List Nat) : State :=
  dsts.foldl (fun s d => s.sendTo d kind args) s

/-- The ranks whose bits are set. -/
def ranksOf (m : BitVec 64) : List Nat := (List.range 64).filter fun i => m.getLsbD i

abbrev State.time (s : State) : Nat := s.dom.time

/-- One nanosecond of device time goes by while the timebase has its supply (13 R402; 16 R466; log entry 1). -/
def State.tick (s : State) : State := if s.sig.phase == .off then s else s.setDom { s.dom with time := s.dom.time + 1 }

/-- Time for which the duty cycle has stopped the tile clocks (15 R449: alternate windows of 1 µs, of which the first is
a stop, log entry 81). -/
def State.stoppedNs (s : State) : Nat :=
  let d := s.time - s.pwr.dutyAt
  s.pwr.stopped + (if s.pwr.duty then d / 2000 * 1000 + min (d % 2000) 1000 else 0)

/-- A free value: any value the manual leaves open where the machine goes on (log entry 7). -/
def State.freeValue (s : State) : Nat × State := (Config.fresh s.fresh, { s with fresh := s.fresh + 1 })

def State.stackAt (s : State) (k : Nat) : StackTherm := s.pwr.hbmTherm[k]?.getD ⟨0, .calm, 0, none, 0⟩
def State.dieAt (s : State) (d : Nat) : DieTherm := s.pwr.dies[d]?.getD ⟨0, false, false, 0, none, 0, none, 0⟩

/-- Stacks of a compute die. -/
def stacksOf (d : Nat) : List Nat := (List.range 4).map (4 * d + ·)

/-- Does a stack of the die trip (15 R454)? -/
def State.stackTripped (s : State) (d : Nat) : Bool := (stacksOf d).any fun k => (s.stackAt k).level == .trip

/-- Clocks of the die stopped by a trip of a stack, of the die, or of the module (15 R454, R455). -/
def State.dieTripped (s : State) (d : Nat) : Bool := s.stackTripped d || (s.dieAt d).trip || (s.dieAt 4).trip || (s.dieAt 5).trip

/-- Is a stack of compute die d in Squall (06 R166, R171; 15 R451)? -/
def State.squallDie (s : State) (d : Nat) : Bool :=
  (List.range 4).any fun k => (s.pwr.hbmTherm[4 * d + k]?.map (·.level)) == some .squall

/-! Payload building. -/

/-- Fields of (size, value), laid one after the other. -/
def fields : List (Nat × Nat) → List Byte
  | [] => []
  | (n, v) :: xs => leBytes n v ++ fields xs

/-! Event records (13 R403 to R405). -/

/-- The 64 bytes of a record, with the ring's phase bit. -/
def EventRec.bytes (e : EventRec) (phase : Bool) : List Byte :=
  fields [(2, e.source), (1, e.rank), (1, e.type), (4, e.sseq), (8, e.time), (2, e.fn), (1, e.grid),
    (1, (if phase then 1 else 0) + (if e.lost then 2 else 0))] ++ zeros 12 ++ padTo 32 e.payload

/-- Has the ring room for a record? -/
def EvRing.hasRoom (r : EvRing) : Bool := r.written - r.returned < r.depth && !r.faulted

/-- The phase bit of the next entry: 1 on the first pass, alternating on each later pass. -/
def EvRing.phase (r : EvRing) : Bool := r.written / r.depth % 2 == 0

/-- A record written into the function's ring, with the interrupt when COAL_COUNT is reached. -/
def State.writeRecord (s : State) (f : Fin 513) (r : EvRing) (e : EventRec) : State :=
  let s := s.hostWrite f (r.base + 64 * (r.written % r.depth)) (e.bytes r.phase)
  let n := r.unsignalled + 1
  let first := if r.unsignalled == 0 then s.time else r.firstAt
  if n ≥ r.coal then
    (s.modFn f fun x => { x with ring := some { r with written := r.written + 1, unsignalled := 0, firstAt := first } }).interrupt f r.vector
  else s.modFn f fun x => { x with ring := some { r with written := r.written + 1, unsignalled := n, firstAt := first } }

/-- Records that wait in the device buffer at most (13 R405). -/
def eventBufferMax : Nat := 4096

/-- 64 of PF0's records are held for class 3 and class 4 events (14 R423). -/
def EventRec.limit (e : EventRec) : Nat :=
  if e.fn == 0 && !(e.type == 0x0A && field 2 1 e.payload ≥ 3) then eventBufferMax - 64 else eventBufferMax

/-- A record appended to the function's buffer, or discarded with its source marked when it is full. -/
def FnState.addRecord (x : FnState) (e : EventRec) : FnState :=
  let x := { x with sseq := tset x.sseq e.source ((e.sseq + 1) % 2 ^ 32) }
  if x.buffer.length < e.limit then
    { x with
      buffer := x.buffer ++ [{ e with lost := x.lostSources.contains e.source }]
      lostSources := x.lostSources.filter (· != e.source) }
  else { x with lostSources := if x.lostSources.contains e.source then x.lostSources else e.source :: x.lostSources
                discarded := x.discarded + 1 }

/-- A host and domain event (13 R406). -/
def hostPayload (kind subject round : Nat) (value : Nat) (cause : Nat) : List Byte :=
  fields [(2, kind), (2, subject), (4, round), (8, value), (4, cause)]

/-- The next record of a source towards a function. -/
def State.makeRecord (s : State) (f : Fin 513) (source type : Nat) (payload : List Byte) : EventRec where
  source := source
  rank := s.dom.rank
  type := type
  sseq := tgetD (s.fnOf f).sseq source 0
  time := s.time
  fn := f
  grid := s.dom.row % 16 + 16 * (s.dom.col % 16)
  lost := false
  payload := payload

/-- Buffered records written to the ring, oldest first, while it has room. A ring page that the host
refuses stops delivery with RING_FAULT, which waits in the buffer (13 R393). -/
def State.drainEvents : Nat → State → Fin 513 → State
  | 0, s, _ => s
  | fuel + 1, s, f =>
    match (s.fnOf f).ring, (s.fnOf f).buffer with
    | some r, e :: rest =>
      if !r.hasRoom then s
      else
        let a := r.base + 64 * (r.written % r.depth)
        if s.translates f a 64 then
          State.drainEvents fuel ((s.modFn f fun x => { x with buffer := rest }).writeRecord f r e) f
        else
          let fault := s.makeRecord f 0 0x09 (hostPayload 0x0907 0xFFFF s.dom.round a 0)
          s.modFn f fun x => { x with ring := some { r with faulted := true } }.addRecord fault
    | _, _ => s

/-- The record delivered on this module, the anchor. -/
def State.deliverEvent (s : State) (f : Fin 513) (e : EventRec) : State :=
  State.drainEvents (eventBufferMax + 1) (s.modFn f fun x => x.addRecord e) f

/-- An event of a source of this module to a function: delivered here on the anchor, relayed to the
anchor elsewhere (13 R395, R404). -/
def State.emit (s : State) (f : Fin 513) (source type : Nat) (payload : List Byte) : State :=
  let e := s.makeRecord f source type payload
  if s.dom.rank == s.dom.anchor then s.deliverEvent f e
  else
    (s.modFn f fun x => { x with sseq := tset x.sseq source ((e.sseq + 1) % 2 ^ 32) }).send
      ⟨s.dom.anchor, .eventRelay, [f.val], e.bytes false⟩

/-- When room returns, one EVENTS_LOST record gives the number of records discarded (13 R405). -/
def State.reportLost (s : State) (f : Fin 513) : State :=
  let n := (s.fnOf f).discarded
  if n == 0 || (s.fnOf f).buffer.length ≥ eventBufferMax then s
  else (s.modFn f fun x => { x with discarded := 0 }).emit f 0 0x09 (fields [(2, 0x0906), (2, 0), (4, s.dom.round), (8, n)])

/-- Buffered records go on to the ring after entries returned or a ring was replaced. -/
def State.flushEvents (s : State) (f : Fin 513) : State :=
  (State.drainEvents (eventBufferMax + 1) s f).reportLost f

/-! Event sources (13 R403): kind in [15:12], index in [11:0]. -/

/-- Firmware service of module core 8d + i (01 R15). -/
def srcCore (die core : Nat) : Nat := 8 * die + core
def srcEngine (die : Nat) : Nat := 0x1000 + die
def srcLinkGroup (g : Nat) : Nat := 0x2000 + g
def srcStack (k : Nat) : Nat := 0x3000 + k
def srcPort (p : Nat) : Nat := 0x4000 + p
def srcReshard (i : Nat) : Nat := 0x5000 + i
def srcSecurity : Nat := 0x6001
def srcSensor (i : Nat) : Nat := 0x7000 + i

/-- An event to a tenant's function. -/
def State.emitTenant (s : State) (t source type : Nat) (payload : List Byte) : State := s.emit (tenantFn t) source type payload

/-- An event to PF0. -/
def State.emitPf0 (s : State) (source type : Nat) (payload : List Byte) : State := s.emit 0 source type payload

/-- An event about rings, BAR4, lost records or the host link: core 0 of Q0 on the anchor (13 R406). -/
def State.emitHost (s : State) (f : Fin 513) (kind subject value cause : Nat) : State :=
  s.emit f (srcCore 0 0) 0x09 (hostPayload kind subject s.dom.round value cause)

/-- A membership, quarantine, time or configuration event to PF0: core 5 of Q0 (13 R406). -/
def State.emitDomain (s : State) (kind subject value cause : Nat) : State :=
  s.emit 0 (srcCore 0 5) 0x09 (hostPayload kind subject s.dom.round value cause)

/-- A command event (12 R385) from core 0 of the SQ's home die. -/
def State.emitCommand (s : State) (f : Fin 513) (die kind sq seq value : Nat) : State :=
  s.emit f (srcCore die 0) 0x01 (fields [(2, kind), (2, sq), (4, seq), (8, value)])

end Sys2Proof.Machine
end

