-- ==== Sys2Proof/Machine/MemOps.lean ====
section
/-! DEFINITION. Operations over the memory tiers (05) and the HBM accounting of 06 R163: addresses,
interleave, poison, translation, staging, commit, allocation, migration and memory events. -/

namespace Sys2Proof.Machine

def unitBytes : Nat := 0x200000
def entryBytes : Nat := 0x10000
def gib : Nat := 0x40000000
def mib : Nat := 0x100000
def dieSpan : Nat := 0x4000000000
def bsramBase : Nat := 0x10000000000
def bsramSpan : Nat := 0x20000000
def bsramBytes : Nat := 0x18000000
def bulkBase : Nat := 0x80000000000
def portSpan : Nat := 0x10000000000
def peerBase : Nat := 0x400000000000
def leaseUnits : Nat := 179

/-! Capacity in service (05 R127, R136, R139, R143). -/

def DieRegion.usableGib (d : DieRegion) : Nat := if d.retired then 0 else 256 - d.mapped.length

def CxlPort.inService (p : CxlPort) : Bool := p.up && !p.failed && !p.refused

def CxlPort.gibInService (p : CxlPort) : Nat := if p.inService then p.capGib else 0

def MemState.die (m : MemState) (d : Nat) : DieRegion := m.dies[d]?.getD ⟨[], true, false, none, false, false⟩

def MemState.port (m : MemState) (p : Nat) : CxlPort := m.ports[p]?.getD ⟨false, false, 0, 0, 0, false, false⟩

/-- MEM_HBM_TOTAL.USABLE_GIB (05 R160). -/
def MemState.usableGib (m : MemState) : Nat := m.dies.foldl (fun a d => a + d.usableGib) 0

/-- The tier of a DPA, or none where it is in no range or above the capacity in service (05 R127). A
rank's peer range is in service while the rank is a member (05 R148). -/
def State.dpaTier (s : State) (a : Nat) : Option Tier :=
  if a < bsramBase then
    if a % dieSpan < (s.mem.die (a / dieSpan)).usableGib * gib then some .hbm else none
  else if a < bsramBase + 4 * bsramSpan then
    if (a - bsramBase) % bsramSpan < bsramBytes then some .bsram else none
  else if bulkBase ≤ a && a < bulkBase + 8 * portSpan then
    if (a - bulkBase) % portSpan < (s.mem.port ((a - bulkBase) / portSpan)).gibInService * gib then some .bulk else none
  else if peerBase ≤ a && a < peerBase + 64 * portSpan then
    if s.dom.members.getLsbD ((a - peerBase) / portSpan) then some .peer else none
  else none

/-! HBM interleave (05 R135, R136). -/

structure HbmPlace where
  stack : Nat
  channel : Nat
  pseudo : Nat
  pseudoChannel : Nat
  offset : Nat
  deriving DecidableEq, Repr

/-- dead(d): the mapped-out local indices in ascending order (R136). -/
def DieRegion.dead (d : DieRegion) : List Nat := (List.range 256).filter fun p => d.mapped.any (·.1 == p)

def DieRegion.live (d : DieRegion) : List Nat := (List.range 256).filter fun p => !d.mapped.any (·.1 == p)

/-- apply_mapout (R136). -/
def DieRegion.applyMapout (d : DieRegion) (pcl r : Nat) : Nat × Nat :=
  match d.dead.findIdx? (· == pcl) with
  | none => (pcl, r)
  | some j =>
    let n := 256 - d.dead.length
    let q := j * 16384 * n + r
    (d.live.getD (q % n) 0, 4194303 - q / n)

/-- hbm_locate (R135). -/
def MemState.hbmLocate (m : MemState) (a : Nat) : HbmPlace :=
  let d := bits a 38 2
  let h := bits a 16 8 ^^^ bits a 24 8 ^^^ bits a 32 6
  let (pcl, r) := (m.die d).applyMapout (bits a 8 8 ^^^ h) (bits a 16 22)
  let st := 4 * d + bits pcl 0 2
  ⟨st, bits pcl 3 5, bits pcl 2 1, 64 * st + bits pcl 2 6, r * 256 + bits a 0 8⟩

/-- Local index of a global pseudo-channel within its die region (R135). -/
def pclOf (pc : Nat) : Nat := pc / 64 % 4 + pc % 64 * 4

def dieOfPc (pc : Nat) : Nat := pc / 256

/-! Poison marks (05 R149, R152, R153). -/

def poisonAdd : List Nat → Nat → List Nat
  | [], g => [g]
  | x :: xs, g => if g < x then g :: x :: xs else if g = x then x :: xs else x :: poisonAdd xs g

def MemState.setCells (m : MemState) (c : Memory) : MemState := { m with cells := c }

def MemState.isPoisoned (m : MemState) (a : Nat) : Bool := m.poison.contains (a / 256)

/-- The first poisoned granule that meets [a, a + n). -/
def MemState.poisonIn (m : MemState) (a n : Nat) : Option Nat :=
  m.poison.find? fun g => g * 256 < a + n && a < g * 256 + 256

def MemState.mark (m : MemState) (a : Nat) : MemState := { m with poison := poisonAdd m.poison (a / 256) }

/-- Marks cleared on the granules that [a, a + n) covers whole (R153). -/
def MemState.unmarkWhole (m : MemState) (a n : Nat) : MemState :=
  { m with poison := m.poison.filter fun g => !(a ≤ g * 256 && g * 256 + 256 ≤ a + n) }

/-- A write of bytes at a DPA (R153). -/
def MemState.put (m : MemState) (a : Nat) (bs : List Byte) : MemState :=
  (m.setCells (m.cells.writeBytes a bs)).unmarkWhole a bs.length

/-- Whole granules zeroed on allocation: marks are cleared (R131, R153). -/
def MemState.zero (m : MemState) (a n : Nat) : MemState := (m.setCells (m.cells.clear a n)).unmarkWhole a n

/-- A carrying copy of n bytes (whole granules): data and marks (R152). -/
def MemState.carry (m : MemState) (src dst n : Nat) : MemState :=
  let cells := m.cells.filter fun c => src ≤ c.1 && c.1 < src + n
  let marks := m.poison.filter fun g => src ≤ g * 256 && g * 256 < src + n
  let z := m.zero dst n
  { z with
    cells := cells.foldl (fun m c => m.write (c.1 - src + dst) c.2) z.cells
    poison := marks.foldl (fun p g => poisonAdd p (g - src / 256 + dst / 256)) z.poison }

/-! Translation (05 R129, R130). -/

def isHostTva (a : Nat) : Bool := bit a 56

/-- The 64 KiB entry i of a unit. -/
def Backing.entry (b : Backing) (i : Nat) : Page :=
  match b with
  | .whole p => { p with dpa := p.dpa + i * entryBytes }
  | .split ps => ps.getD i ⟨.hbm, 0⟩

def Backing.entries (b : Backing) : List Page := (List.range 32).map b.entry

def MemState.unit (m : MemState) (k : UnitKey) : Option UnitEntry := tget m.units k

/-- The committed page of the 64 KiB entry of a TVA (R130); the null unit is never mapped (R129). -/
def MemState.page (m : MemState) (t a : Nat) : Option Page :=
  if isHostTva a || a / unitBytes == 0 then none
  else (m.unit (t, a / unitBytes)).map fun u => u.backing.entry (a / entryBytes % 32)

/-- The page that a command sees: its own staging page, or the committed one (03 R99). -/
def MemState.pageFor (m : MemState) (c : Option CmdRef) (t a : Nat) : Option Page :=
  match m.staging.find? fun e => some e.cmd == c && e.tenant == t && e.entry == a / entryBytes with
  | some e => some e.page
  | none => m.page t a

/-- A range cut at 64 KiB entries: (address, length). -/
def cutEntries (a n : Nat) : List (Nat × Nat) :=
  if n == 0 then []
  else (List.range ((a + n - 1) / entryBytes - a / entryBytes + 1)).map fun i =>
    let lo := max a ((a / entryBytes + i) * entryBytes)
    (lo, min (a + n) ((a / entryBytes + i + 1) * entryBytes) - lo)

/-- Is [a, a + n) wholly mapped to the tenant? The first address that is not. -/
def MemState.unmapped (m : MemState) (t a n : Nat) : Option Nat :=
  (cutEntries a n).findSome? fun (x, _) => if (m.page t x).isNone then some x else none

/-- Why an access does not complete. -/
inductive MemErr where
  | fault (e : Exc)
  | busy          -- a restoration, a migration or an eviction is awaited
  | noRoom        -- no page for staging: BULK_FULL
  deriving DecidableEq, Repr

/-- Does a restoration cover a byte of [d, d + n)? -/
def Restoration.meets (r : Restoration) (d n : Nat) : Bool := r.granule * 256 < d + n && d < (r.granule + r.count) * 256

/-- A consuming read of device memory (05 R152, R155). -/
def State.readChunk (s : State) (c : Option CmdRef) (t a n : Nat) : Except MemErr (List Byte) :=
  match s.mem.pageFor c t a with
  | none => .error (.fault (excAddress a))
  | some p =>
    let d := p.dpa + a % entryBytes
    if s.mem.restorations.any fun r => r.meets d n then .error .busy
    else
      match s.mem.poisonIn d n with
      | some g => .error (.fault (excPoison (a - a % entryBytes + (g * 256 - p.dpa))))
      | none => if (s.dpaTier d).isNone then .error (.fault ⟨0x12, a⟩) else .ok (s.mem.cells.readBytes d n)

def State.readChunks (s : State) (c : Option CmdRef) (t : Nat) : List (Nat × Nat) → Except MemErr (List Byte)
  | [] => .ok []
  | (a, n) :: xs => do
    let b ← s.readChunk c t a n
    let bs ← State.readChunks s c t xs
    return b ++ bs

/-- The bytes [a, a + n) of a tenant's device memory as a command sees them. -/
def State.readTva (s : State) (c : Option CmdRef) (t a n : Nat) : Except MemErr (List Byte) :=
  s.readChunks c t (cutEntries a n)

/-- Heat of the units that one transfer descriptor touches (05 R134). -/
def State.touch (s : State) (t a n : Nat) : State :=
  let lo := a / unitBytes
  let hi := (a + max n 1 - 1) / unitBytes
  s.setMem { s.mem with units := s.mem.units.map fun (k, u) =>
    if k.1 == t && lo ≤ k.2 && k.2 ≤ hi then (k, { u with lastUse := s.time / 10 ^ 6 % 2 ^ 32, heat := satAdd 16 u.heat 1 })
    else (k, u) }

/-! Physical room. -/

/-- Pages that hold data or are promised: (DPA, bytes). -/
def Backing.extents (b : Backing) : List (Nat × Nat) :=
  match b with
  | .whole p => [(p.dpa, unitBytes)]
  | .split ps => ps.map fun p => (p.dpa, entryBytes)

def Migration.extent (g : Migration) : Nat × Nat := (g.dest.dpa, if g.entry.isNone then unitBytes else entryBytes)

def MemState.extents (m : MemState) : List (Nat × Nat) :=
  m.units.flatMap (fun (_, u) => u.backing.extents ++ (u.source.map Backing.extents).getD [] ++ (u.clean.map fun a => (a, unitBytes)).toList)
    ++ m.staging.map (fun e => (e.page.dpa, entryBytes)) ++ m.migrations.map Migration.extent

/-- The lowest-numbered die region in service holds the recovery reserve (05 R128). -/
def MemState.reserveDie (m : MemState) : Nat := ((List.range 4).find? fun d => (m.die d).usableGib != 0).getD 0

def roundUp (a n : Nat) : Nat := (a + n - 1) / n * n

/-- The lowest free block of n bytes, aligned to n, in [lo, hi) (log entry 30). -/
def MemState.freeBlock (m : MemState) (lo hi n : Nat) : Option Nat :=
  let used := m.extents.filter fun (a, k) => a < hi && lo < a + k
  let fits := fun x => x + n ≤ hi && !used.any fun (a, k) => a < x + n && x < a + k
  let starts := roundUp lo n :: used.map fun (a, k) => roundUp (a + k) n
  (starts.filter fits).min?

/-- The HBM range of a die region open to allocation. -/
def MemState.dieRange (m : MemState) (d : Nat) : Nat × Nat :=
  let lo := d * dieSpan + (if d == m.reserveDie then 64 * mib else 0)
  (lo, d * dieSpan + (m.die d).usableGib * gib)

def portRange (m : MemState) (p : Nat) : Nat × Nat := (bulkBase + p * portSpan, bulkBase + p * portSpan + (m.port p).gibInService * gib)

def MemState.usedIn (m : MemState) (r : Nat × Nat) : Nat :=
  m.extents.foldl (fun acc (a, k) => if r.1 ≤ a && a < r.2 then acc + k else acc) 0

def MemState.freeIn (m : MemState) (r : Nat × Nat) : Nat := r.2 - r.1 - m.usedIn r

/-- The element of a list with the greatest measure; the first on a tie. -/
def argmax {α : Type} (f : α → Nat) : List α → Option α
  | [] => none
  | x :: xs => some (xs.foldl (fun b y => if f y > f b then y else b) x)

/-- May the die region take pages: in service, not draining, not in Squall (06 R166, R171)? -/
def State.dieOpen (s : State) (d : Nat) : Bool :=
  !(s.mem.die d).draining && (s.mem.die d).usableGib != 0 && !s.squallDie d

/-- A free block in HBM: the die region with the most free bytes, the lowest on a tie (06 R166). -/
def State.hbmBlock (s : State) (n : Nat) : Option Nat :=
  let ds := (List.range 4).filter fun d => s.dieOpen d && (s.mem.freeBlock (s.mem.dieRange d).1 (s.mem.dieRange d).2 n).isSome
  (argmax (fun d => s.mem.freeIn (s.mem.dieRange d)) ds).bind fun d => s.mem.freeBlock (s.mem.dieRange d).1 (s.mem.dieRange d).2 n

/-- A free block in the bulk tier: the port with the most free bytes (06 R166, 05 R144). -/
def State.bulkBlock (s : State) (n : Nat) : Option Nat :=
  let ps := (List.range 8).filter fun p => (s.mem.freeBlock (portRange s.mem p).1 (portRange s.mem p).2 n).isSome
  (argmax (fun p => s.mem.freeIn (portRange s.mem p)) ps).bind fun p => s.mem.freeBlock (portRange s.mem p).1 (portRange s.mem p).2 n

/-! HBM accounting (06 R163). -/

def Page.hbmBytes (p : Page) (n : Nat) : Nat := if p.tier == .hbm then n else 0

def Backing.bytesIn (b : Backing) (t : Tier) : Nat :=
  match b with
  | .whole p => if p.tier == t then unitBytes else 0
  | .split ps => ps.foldl (fun a p => a + if p.tier == t then entryBytes else 0) 0

/-- Bytes of a tier that back the unit, the source of a leased unit included. -/
def UnitEntry.bytesIn (u : UnitEntry) (t : Tier) : Nat := u.backing.bytesIn t + (u.source.map (·.bytesIn t)).getD 0

def UnitEntry.hbmBytes (u : UnitEntry) : Nat := u.bytesIn .hbm

def UnitEntry.bulkBytes (u : UnitEntry) : Nat := u.bytesIn .bulk

/-- Device structures of stated size charged to a function: the token memory of each SQ (12 R376) and
the event buffer of an enabled function (13 R405) (log entry 31). -/
def State.structures (s : State) (f : Nat) : Nat :=
  (s.cmd.sqs.filter (·.fn == f)).length * 0x20000
    + (if f == 0 then 0x40000 else if (s.tntOf (f - 1)).enable then 0x40000 else 0)

/-- use_t. -/
def State.hbmUse (s : State) (t : Nat) : Nat :=
  s.mem.units.foldl (fun a (k, u) => if k.1 == t then a + u.hbmBytes else a) 0
    + s.mem.staging.foldl (fun a e => if e.tenant == t then a + e.page.hbmBytes entryBytes else a) 0
    + s.structures (t + 1)

/-- Tenants that hold or may hold HBM here: enabled ones and owners of units. -/
def State.holders (s : State) : List Nat :=
  (List.range 512).filter fun t => (s.tntOf t).enable || s.mem.units.any (·.1.1 == t) || s.cmd.sqs.any (·.fn == t + 1)

def State.resvBytes (s : State) (t : Nat) : Nat := (s.place.resv[t]?.getD 0) * gib

/-- C, reservable HBM. -/
def State.reservable (s : State) : Nat := s.mem.usableGib * gib - (4 * gib + 64 * mib + s.mem.regs.pf0Mib * mib)

def State.resvSum (s : State) : Nat := s.place.resv.foldl (· + ·) 0

def State.excess (s : State) (t : Nat) : Nat := s.hbmUse t - s.resvBytes t

/-- L, HBM lent to tenants over their reservations. -/
def State.lent (s : State) : Nat :=
  (s.holders.foldl (fun a t => a + s.excess t) 0) - (s.reservable - s.resvSum * gib)

/-- F: free bulk bytes on ports in service; clean copies count as free. -/
def State.bulkFree (s : State) : Nat :=
  (List.range 8).foldl (fun a p =>
    let (lo, hi) := portRange s.mem p
    let used := s.mem.units.foldl (fun a (_, u) => a + (((u.backing.extents ++ (u.source.map Backing.extents).getD []).filter fun (x, _) => lo ≤ x && x < hi).foldl (fun b (_, k) => b + k) 0)) 0
      + (s.mem.staging.filter fun e => lo ≤ e.page.dpa && e.page.dpa < hi).length * entryBytes
    a + (hi - lo - used)) 0

/-- H, the bulk headroom. -/
def State.headroom (s : State) : Int := (s.bulkFree : Int) - s.lent

/-- Free HBM: C less every tenant's use. -/
def State.hbmFree (s : State) : Nat := s.reservable - s.holders.foldl (fun a t => a + s.hbmUse t) 0

/-! Memory events (05 R156). -/

structure MemEvent where
  kind : Nat
  tier : Nat
  source : Nat
  owner : Option Nat
  unit : Nat
  tva : Nat
  dpa : Nat
  count : Nat
  detail : Nat
  deriving DecidableEq, Repr

def MemEvent.payload (e : MemEvent) (dpa : Nat) : List Byte :=
  fields [(2, e.kind), (1, e.tier), (1, e.source), (2, e.owner.getD 0xFFFF), (2, e.unit), (8, e.tva), (8, dpa),
    (4, e.count), (4, e.detail)]

/-- The event to the owner and, with the DPA, to PF0. -/
def State.memEvent (s : State) (die : Nat) (e : MemEvent) : State :=
  let s := match e.owner with
    | some t => s.emitTenant t (srcCore die 2) 0x02 (e.payload 0)
    | none => s
  s.emitPf0 (srcCore die 2) 0x02 (e.payload e.dpa)

/-- The die whose core 2 reports an address; the bulk tier and peers report from Q0. -/
def reportDie (a : Nat) : Nat :=
  if a < bsramBase then a / dieSpan else if a < bsramBase + 4 * bsramSpan then (a - bsramBase) / bsramSpan else 0

/-- UNIT of R156 by tier: pseudo-channel, die's first tile for bonded SRAM (none named), or port. -/
def MemState.eventUnit (m : MemState) (a : Nat) : Nat :=
  if a < bsramBase then (m.hbmLocate a).pseudoChannel
  else if bulkBase ≤ a && a < peerBase then (a - bulkBase) / portSpan
  else 0

/-- The owner of a DPA and the TVA that maps to it: (tenant, TVA). -/
def MemState.ownerOf (m : MemState) (a : Nat) : Option (Nat × Nat) :=
  m.units.findSome? fun (k, u) =>
    match u.backing with
    | .whole p => if p.dpa ≤ a && a < p.dpa + unitBytes then some (k.1, k.2 * unitBytes + (a - p.dpa)) else none
    | .split ps =>
      (ps.findIdx? fun p => p.dpa ≤ a && a < p.dpa + entryBytes).map fun i =>
        (k.1, k.2 * unitBytes + i * entryBytes + a % entryBytes)

/-- An event about the granule of a DPA. -/
def State.granuleEvent (s : State) (kind source a detail : Nat) : State :=
  let o := s.mem.ownerOf a
  let tier := (s.dpaTier a).elim 4 Tier.code
  s.memEvent (reportDie a) ⟨kind, tier, source, o.map Prod.fst, s.mem.eventUnit a, (o.map Prod.snd).getD 0, a / 256 * 256, 1, detail⟩

/-! Translations cached by the engines (05 R130). -/

def MemState.dropTlb (m : MemState) (k : UnitKey) : MemState := { m with tlb := m.tlb.filter (·.2 != k) }

def MemState.cacheTlb (m : MemState) (die : Nat) (k : UnitKey) : MemState :=
  if m.tlb.contains (die, k) then m else { m with tlb := (die, k) :: m.tlb }

/-! Staging and commit (05 R132, R153; 03 R99). -/

/-- The staging page of a command for an entry, made and filled at the first write (R132). -/
def State.stagePage (s : State) (c : CmdRef) (t a n : Nat) : Except MemErr (Page × State) :=
  match s.mem.staging.find? fun e => e.cmd == c && e.tenant == t && e.entry == a / entryBytes with
  | some e => .ok (e.page, s)
  | none =>
    match s.mem.page t a with
    | none => .error (.fault (excAddress a))
    | some old =>
      if s.mem.restorations.any fun r => r.meets old.dpa entryBytes then .error .busy
      else
        let room := match s.hbmBlock entryBytes with
          | some d => some (⟨.hbm, d⟩ : Page)
          | none => (s.bulkBlock entryBytes).map fun d => ⟨.bulk, d⟩
        match room with
        | none => .error .noRoom
        | some p =>
          let m := if n == entryBytes then s.mem.zero p.dpa entryBytes else s.mem.carry old.dpa p.dpa entryBytes
          .ok (p, s.setMem { m with staging := m.staging ++ [⟨c, t, a / entryBytes, p⟩] })

def State.stageChunk (s : State) (c : CmdRef) (t a : Nat) (bs : List Byte) : Except MemErr State := do
  let (p, s) ← s.stagePage c t a bs.length
  return s.setMem (s.mem.put (p.dpa + a % entryBytes) bs)

def State.stageChunks (c : CmdRef) (t : Nat) (bs : List Byte) (a0 : Nat) : List (Nat × Nat) → State → Except MemErr State
  | [], s => .ok s
  | (a, n) :: xs, s => do
    let s ← s.stageChunk c t a ((bs.drop (a - a0)).take n)
    State.stageChunks c t bs a0 xs s

/-- A write of a command's output: into its staging pages. A fault leaves the caller's state. -/
def State.stageWrite (s : State) (c : CmdRef) (t a : Nat) (bs : List Byte) : Except MemErr State :=
  match s.mem.unmapped t a bs.length with
  | some x => .error (.fault (excAddress x))
  | none => State.stageChunks c t bs a (cutEntries a bs.length) s

/-- The staging of a command discarded (03 R99). -/
def State.discard (s : State) (c : CmdRef) : State :=
  s.setMem { s.mem with staging := s.mem.staging.filter (·.cmd != c) }

/-- An entry of a unit replaced: the unit is split, and dirty (05 R132, 06 R167). -/
def UnitEntry.swap (u : UnitEntry) (i : Nat) (p : Page) : UnitEntry :=
  { u with backing := .split (u.backing.entries.set i p), clean := none }

/-- A split unit whose entries lie consecutively in one tier is one whole unit again. -/
def swapEntry (m : MemState) (e : StageEntry) : MemState :=
  let k := (e.tenant, e.entry / 32)
  { m.dropTlb k with
    units := tmod m.units k fun u => u.swap (e.entry % 32) e.page
    -- an eviction copy of the unit is discarded by the swap (06 R172)
    migrations := m.migrations.filter (·.key != k) }

/-- The first staged entry whose unit has been freed (12 R365). -/
def State.freedUnder (s : State) (c : CmdRef) : Option Nat :=
  (s.mem.staging.filter (·.cmd == c)).findSome? fun e =>
    if (s.mem.unit (e.tenant, e.entry / 32)).isNone then some (e.entry * entryBytes) else none

/-- The atomic mapping swap of a command's staging (05 R132). Writes that waited for a migration of the
unit are applied to the new backing. -/
def State.commitStaging (s : State) (c : CmdRef) : State :=
  let es := s.mem.staging.filter (·.cmd == c)
  let m := { s.mem with staging := s.mem.staging.filter (·.cmd != c) }
  s.setMem (es.foldl swapEntry m)

/-! Direct writes (BAR4, 06 R167; 05 R133, R155). -/

/-- A write to committed memory in one entry: it waits for a migration or restoration of its page, and
makes the unit dirty. -/
def State.writeCommitted (s : State) (t a : Nat) (bs : List Byte) : State :=
  match s.mem.page t a with
  | none => s
  | some p =>
    let k := (t, a / unitBytes)
    let d := p.dpa + a % entryBytes
    let moves := fun (g : Migration) => g.key == k && (g.entry.isNone || g.entry == some (a / entryBytes % 32))
    let restores := fun (r : Restoration) => r.meets d bs.length
    let wait := fun (g : Migration) => { g with writes := g.writes ++ [(a, bs)] }
    let hold := fun (r : Restoration) => { r with writes := r.writes ++ [(d, bs)] }
    if s.mem.migrations.any moves then s.setMem { s.mem with migrations := updFirst moves wait s.mem.migrations }
    else if s.mem.restorations.any restores then
      s.setMem { s.mem with restorations := updFirst restores hold s.mem.restorations }
    else if (s.dpaTier d).isNone then s
    else
      let m := s.mem.put d bs
      s.setMem { m with units := tmod m.units k fun u => { u with clean := none } }

def State.writeCommittedAll (s : State) (t a : Nat) (bs : List Byte) : State :=
  (cutEntries a bs.length).foldl (fun s (x, n) => s.writeCommitted t x ((bs.drop (x - a)).take n)) s

/-! Migration (05 R133, 06 R167 to R172). -/

/-- A whole unit begins to move. -/
def State.migrate (s : State) (k : UnitKey) (dest : Page) : State :=
  if s.mem.migrations.any (·.key == k) then s
  else s.setMem { s.mem with migrations := s.mem.migrations ++ [⟨k, none, dest, []⟩] }

/-- The backing after a whole unit moved to consecutive addresses. -/
def moveUnit (m : MemState) (u : UnitEntry) (dest : Page) : MemState :=
  (List.range 32).foldl (fun m i => m.carry (u.backing.entry i).dpa (dest.dpa + i * entryBytes) entryBytes) m

def UnitEntry.tier (u : UnitEntry) : Option Tier :=
  match u.backing with
  | .whole p => some p.tier
  | .split [] => none
  | .split (p :: ps) => if ps.all (·.tier == p.tier) then some p.tier else none

/-- Steps 2 to 4 of R133: the mapping switches, cached translations are invalidated, the source is freed
(a source in bulk is kept as the clean copy of a promoted unit, 06 R167), and the waiting writes are
applied at the destination. An eviction counts in PLC_EVICT_COUNT, a promotion in PLC_PROMOTE_COUNT. -/
def State.switchMigration (s : State) (g : Migration) : State :=
  match s.mem.unit g.key with
  | none => s.setMem { s.mem with migrations := s.mem.migrations.filter (· != g) }
  | some u =>
    let m := { s.mem with migrations := s.mem.migrations.filter (· != g) }
    let from? := u.tier
    let promoted := from? == some .bulk && g.dest.tier == .hbm
    let evicted := from? != some .bulk && g.dest.tier == .bulk
    let clean := match u.backing with
      | .whole p => if promoted && p.tier == .bulk then some p.dpa else none
      | .split _ => none
    let copied := if u.clean == some g.dest.dpa then m else moveUnit m u g.dest
    let u' := match g.entry with
      | none => { u with backing := .whole g.dest, clean := clean,
                         moved := if promoted then some (s.time, true) else if evicted then some (s.time, false) else u.moved }
      | some i => { u with backing := .split (u.backing.entries.set i g.dest), clean := none }
    let m := match g.entry with
      | none => copied
      | some i => m.carry (u.backing.entry i).dpa g.dest.dpa entryBytes
    let s := s.setMem { m.dropTlb g.key with units := tset m.units g.key u' }
    let tp := fun (f : TenantPlace → TenantPlace) => tset s.place.tenants g.key.1 (f (tgetD s.place.tenants g.key.1 TenantPlace.zero))
    let s := if promoted then
        s.setPlace { s.place with promoteCount := s.place.promoteCount + 1
                                  tenants := tp fun x => { x with promoted := x.promoted + 1 } }
      else if evicted then
        s.setPlace { s.place with evictCount := s.place.evictCount + 1
                                  tenants := tp fun x => { x with evicted := x.evicted + 1 } }
      else s
    g.writes.foldl (fun s (a, bs) => s.writeCommittedAll g.key.1 a bs) s

/-- A unit's mapping removed: migrations of it are cancelled, its pages are free (06 R172, 12 R365). -/
def State.unmapUnit (s : State) (k : UnitKey) : State :=
  s.setMem { s.mem.dropTlb k with
    units := tdel s.mem.units k
    migrations := s.mem.migrations.filter (·.key != k) }

/-- Does a MODEL_LOAD name the image key (17 R495)? -/
def State.keyInUse (s : State) (t k : Nat) : Bool :=
  s.host.relay.any fun r => r.cmd.fn.val == t + 1 && r.head.any fun h => field 6 1 h == k

/-- An image key set or destroyed. -/
def State.putKey (s : State) (t k : Nat) (key : Option (List Byte)) : State :=
  { s with boot := { s.boot with imageKeys := match key with
      | some b => tset s.boot.imageKeys (t, k) b
      | none => tdel s.boot.imageKeys (t, k) } }

/-- Key requests that waited for a load take effect in order once it has completed (17 R495, R501). -/
def State.settleKeys (s : State) : State :=
  let (late, due) := s.boot.keyWaits.partition fun w => s.keyInUse w.tenant w.keyId
  due.foldl (fun s w => s.putKey w.tenant w.keyId w.key) { s with boot := { s.boot with keyWaits := late } }

/-- A relay load of a command ends with nothing kept: its units are freed, its staging layout goes (17 R498). -/
def State.dropLoad (s : State) (c : CmdRef) : State :=
  match s.host.relay.find? (·.cmd == c) with
  | none => s
  | some r =>
    let s := r.units.foldl State.unmapUnit s
    let drop := fun (m : Model) => { m with layouts := m.layouts.filter fun l => !(l.version == r.version && l.staging && r.target == 2) }
    ({ s with
      host := { s.host with relay := s.host.relay.filter (·.cmd != c) }
      turn := { s.turn with models := tmod s.turn.models (c.fn.val - 1, r.model) drop } } : State).settleKeys

/-- A fresh unit, reading as zero (05 R131). -/
def State.mapUnit (s : State) (k : UnitKey) (p : Page) : State :=
  s.setMem { s.mem.zero p.dpa unitBytes with
    units := tset s.mem.units k ⟨.whole p, s.time / 10 ^ 6 % 2 ^ 32, 0, 0, .none, none, none, none⟩ }

end Sys2Proof.Machine
end

