-- ==== Sys2Proof/Machine/LearnCommit.lean ====
section
/-! DEFINITION. What the commit of a gradient LEARN_STEP does to its model's step (09 R255, R257, R264, R265). -/

namespace Sys2Proof.Machine

def learnOpcode : Nat := 0x401

/-- Parameters of a LEARN_STEP. -/
def Cmd.learnModel (c : Cmd) : Nat := field 0 4 c.params
def Cmd.learnFlags (c : Cmd) : Nat := field 4 4 c.params

/-- A LEARN_STEP without NO_GRAD and GEN_LAYOUT. -/
def Cmd.gradient (c : Cmd) : Bool := c.opcode == learnOpcode && !bit c.learnFlags 2 && !bit c.learnFlags 3

def State.learnAt (s : State) (t m : Nat) : Option Learn := (tget s.turn.models (t, m)).bind (·.learn)

def State.setLearn (s : State) (t m : Nat) (l : Learn) : State :=
  { s with turn := { s.turn with models := tmod s.turn.models (t, m) fun x => { x with learn := some l } } }

/-- Partials of one tensor changed. -/
def Learn.sums (l : Learn) (k : Nat) : TensorPartials := tgetD l.partials k TensorPartials.zero

def Learn.setPartial (l : Learn) (k : Nat) (p : TensorPartials) : Learn := { l with partials := tset l.partials k p }

/-- The command's partials added to the step's. -/
def Learn.addWork (l : Learn) (w : List (Nat × Nat × Nat × Nat)) : Learn :=
  w.foldl (fun l (k, mg2, g2, nf) =>
    if k == 0xFFFFFFFF then { l with unattributed := l.unattributed + nf }
    else
      let p := l.sums k
      l.setPartial k { p with
        mg2 := addR p.mg2 (BitVec.ofNat 32 mg2), g2 := addR p.g2 (BitVec.ofNat 32 g2), nonfinite := p.nonfinite + nf }) l

/-- This member's index, and its buddy with BUDDY on and more than one member (R274). -/
def Learn.index (l : Learn) (rank : Nat) : Nat := l.members.findIdx (· == rank)

def Learn.buddyOf (l : Learn) (rank : Nat) : Option Nat :=
  if l.members.length > 1 && l.setup.any (·.buddy) && l.members.contains rank then
    l.members[(l.index rank + 1) % l.members.length]?
  else none

/-- A gradient LEARN_STEP commits: it is counted and kept; with LAST the step closes and every mirror is
complete. -/
def State.commitLearn (s : State) (c : Cmd) : State :=
  if !c.gradient then s
  else
    let t := c.ref.fn.val - 1
    match s.learnAt t c.learnModel with
    | none => s
    | some l =>
      let last := bit c.learnFlags 1
      let n := field 0x10 4 c.params
      s.setLearn t c.learnModel { l.addWork c.work with
        sum := l.sum + n, micros := l.micros + 1, kept := l.kept ++ [⟨c.params, n⟩]
        phase := if last then .closed else .opened
        mirrorDone := last }

/-- The step state cleared: no step is open at version v. -/
def Learn.closed (l : Learn) (v : Nat) : Learn :=
  { l with version := v, phase := .idle, planned := 0, sum := 0, micros := 0, kept := [], prepared := none, tags := [], undo := [], go := none,
           stopped := false, swept := false, undoRedos := 0, blocksSkipped := 0, partials := [], unattributed := 0, mirrorDone := false,
           update := none, rerunAt := none }

/-- A MODEL_LOAD commits on this module (10 R290): the parts of its layout are written, and the model takes the
version. After TARGET 0 the step number is that of no rule: a free value. -/
def State.commitLoad (s : State) (c : Cmd) : State :=
  match s.host.relay.find? (·.cmd == c.ref) with
  | none => s
  | some r =>
    let t := c.ref.fn.val - 1
    let s := r.writes.foldl (fun s (a, bs) => s.writeCommittedAll t a bs) s
    let s := s.setHost { s.host with relay := s.host.relay.filter (·.cmd != c.ref) }
    let (n, s) := if r.target == 0 then s.freeValue else (1, s)
    let scales := r.kept.filter (·.part == 2)
    let scaleOf := fun (k : Nat) => (scales.find? (·.tensor == k)).elim (0x3F800000#32) fun x => BitVec.ofNat 32 (leNat x.data)
    let up := fun (m : Model) =>
      if r.target == 2 then
        { m with
          highest := r.version
          layouts := m.layouts.map fun l =>
            if l.version == r.version then
              { l with staging := false, loaded := true, parts := l.parts.map fun p => { p with tscale := scaleOf p.tensor } }
            else { l with loaded := false } }
      else
        { m with
          highest := r.version
          learn := m.learn.map fun l => { l.closed r.version with
            step := n, ckptVersion := none, takeovers := [], failedRerun := none, noSpare := false } }
    ({ s with turn := { s.turn with models := tmod s.turn.models (t, r.model) up } } : State).settleKeys

end Sys2Proof.Machine
end

