-- ==== Sys2Proof/Machine/CmdOps.lean ====
section
/-! DEFINITION. Commands in flight: eligibility, start, replies in SEQ order, votes and commit, failure,
kill and re-run (12 R354 to R376), and the exceptions of tiles (03 R109 to R111). -/

namespace Sys2Proof.Machine

/-! Status codes (12 R363) beyond the exception codes of 03 R109. -/

abbrev stHeaderInvalid : Nat := 0x10
abbrev stOpcodeUnsupported : Nat := 0x11
abbrev stAccessPathInvalid : Nat := 0x12
abbrev stProgramInvalid : Nat := 0x13
abbrev stDeadlineInfeasible : Nat := 0x14
abbrev stDeadlineMissed : Nat := 0x15
abbrev stLinkNotReady : Nat := 0x16
abbrev stResetKilled : Nat := 0x17
abbrev stQueueLimit : Nat := 0x18
abbrev stTenantState : Nat := 0x19
abbrev stTokenConflict : Nat := 0x1A
abbrev stIllegalOperand : Nat := 0x02
abbrev stAddressFault : Nat := 0x05
abbrev stMemoryPoison : Nat := 0x06
abbrev stCollMismatch : Nat := 0x08
abbrev stCollAbort : Nat := 0x0A
abbrev stBulkFull : Nat := 0x100
abbrev stBulkCapacity : Nat := 0x101
abbrev stPinLimit : Nat := 0x102
abbrev stFoilBusy : Nat := 0x103
abbrev stFoilTooLarge : Nat := 0x104
abbrev stModelExists : Nat := 0x200
abbrev stModelUnknown : Nat := 0x201
abbrev stModelBusy : Nat := 0x202
abbrev stVersionMismatch : Nat := 0x203
abbrev stVersionLimit : Nat := 0x204
abbrev stVersionReleased : Nat := 0x205
abbrev stVersionExhausted : Nat := 0x206
abbrev stHoldLimit : Nat := 0x207
abbrev stFreezeAborted : Nat := 0x208
abbrev stStepNotIdle : Nat := 0x209
abbrev stKvLayoutUnsupported : Nat := 0x20A
abbrev stPhaseMismatch : Nat := 0x300
abbrev stRequestTagBusy : Nat := 0x301
abbrev stContextTooLong : Nat := 0x302
abbrev stRequestTableFull : Nat := 0x303
abbrev stRequestUnknown : Nat := 0x304
abbrev stRequestLost : Nat := 0x305
abbrev stSampleEmpty : Nat := 0x306
abbrev stComplete : Nat := 0x307
abbrev stCancelled : Nat := 0x308
abbrev stStepNotOpen : Nat := 0x400
abbrev stStepNotClosed : Nat := 0x401
abbrev stStepClosed : Nat := 0x402
abbrev stStepTooLong : Nat := 0x403
abbrev stUpdateSkipped : Nat := 0x404
abbrev stUpdateAborted : Nat := 0x405
abbrev stLearnStateLost : Nat := 0x406
abbrev stNoSpare : Nat := 0x407
abbrev stCollGroupLimit : Nat := 0x600
abbrev stGroupBusy : Nat := 0x601

/-- The Pewter code of a native status (12 R382). -/
def pewterStatus (st : Nat) : Nat :=
  if st == 0 then 0
  else if [0x10, 0x11, 0x01, 0x13].contains st then 1
  else if [0x02, 0x1A, 0x19].contains st then 2
  else if [0x05, 0x04, 0x12].contains st then 3
  else if st == 0x06 then 4
  else if [0x100, 0x101, 0x102].contains st then 5
  else if [0x03, 0x07, 0x08, 0x0B, 0x0C].contains st then 6
  else if [0x09, 0x15, 0x16].contains st then 7
  else if [0x0A, 0x17].contains st then 8
  else if [0x18, 0x600, 0x601].contains st then 9
  else 0xF

/-! Lookups. -/

def State.cmdAt (s : State) (c : CmdRef) : Option Cmd := s.cmd.cmds.find? (·.ref == c)

def State.setCmds (s : State) (l : List Cmd) : State := s.setCmd { s.cmd with cmds := l }

def State.modCmd (s : State) (c : CmdRef) (f : Cmd → Cmd) : State := s.setCmds (updFirst (·.ref == c) f s.cmd.cmds)

def State.sqAt (s : State) (fn sq : Nat) : Option Sq := s.cmd.sqs.find? fun q => q.fn == fn && q.idx == sq

def State.modSq (s : State) (fn sq : Nat) (f : Sq → Sq) : State :=
  s.setCmd { s.cmd with sqs := updFirst (fun q => q.fn == fn && q.idx == sq) f s.cmd.sqs }

def State.cqAt (s : State) (fn cq : Nat) : Option Cq := s.cmd.cqs.find? fun q => q.fn == fn && q.idx == cq

def State.modCq (s : State) (fn cq : Nat) (f : Cq → Cq) : State :=
  s.setCmd { s.cmd with cqs := updFirst (fun q => q.fn == fn && q.idx == cq) f s.cmd.cqs }

/-- The tenant of a command of a virtual function. -/
def Cmd.tenant (c : Cmd) : Nat := c.ref.fn.val - 1

def State.pewterFn (s : State) (fn : Nat) : Bool := fn != 0 && (s.tntOf (fn - 1)).pewter

/-- Home die of a submission queue (01 R23). -/
def State.homeDie (s : State) (c : CmdRef) : Nat := (s.sqAt c.fn c.sq).elim 0 fun q => q.id % 4

/-- The commands of one queue, in fetch order. -/
def State.queueCmds (s : State) (c : CmdRef) : List Cmd := s.cmd.cmds.filter fun k => k.ref.fn == c.fn && k.ref.sq == c.sq

/-- Those that have not posted and were fetched before it. -/
def State.earlier (s : State) (c : CmdRef) : List Cmd := (s.queueCmds c).takeWhile (·.ref != c)

def refArgs (c : CmdRef) : List Nat := [c.fn.val, c.sq, c.seq.toNat]

/-! Eligibility and start (12 R358, R368). -/

/-- a precedes b in the order of sequence numbers: (b − a) mod 2^32 lies from 1 to 2^31 − 1. -/
def seqBefore (a b : Word) : Bool := 1 ≤ (b - a).toNat && (b - a).toNat < 2 ^ 31

/-- WAIT: the named command has posted, or precedes its queue's first SEQ. A queue destroyed since ends
the wait (log entry 32). -/
def State.waitOver (s : State) (c : Cmd) : Bool :=
  if !bit c.flags 2 then true
  else
    match s.sqAt c.ref.fn c.waitSq with
    | none => true
    | some q =>
      (q.firstSeq.any fun f => seqBefore c.waitSeq f) || (q.posted.any fun p => p == c.waitSeq || seqBefore c.waitSeq p)

def Cq.hasRoom (q : Cq) : Bool := q.written - q.returned + q.reserved < q.depth

/-- Does the module run this function's commands: a tenant's only on a member of the domain that has not
withdrawn (13 R399, R400; 14 R413)? Administration opcodes wait while Q0 is in reset, and re-runs for a module of
the tenant that is resetting (14 R417); suspects of a hang run one after the other, once the unit is reset (14 R429). -/
def State.serves (s : State) (c : Cmd) : Bool :=
  (c.ref.fn == 0 || (s.dom.phase == .member && !s.flt.withdrawn))
    && !(c.runs != 0 && c.ref.fn != 0 && s.dom.resetting.any fun (r, _) => (s.tntOf c.tenant).alloc.getLsbD r)
    && !(c.opcode < 0x100 && s.flt.resets.any fun r => r.level == .die && r.unit == 0)
    && s.flt.replays.all fun x => !x.suspects.contains c.ref || (x.suspects.head? == some c.ref && !(s.flt.resets.any fun r => r.level == x.level && r.unit == x.unit))

def State.eligible (s : State) (c : Cmd) : Bool :=
  let before := s.earlier c.ref
  let room := match (s.sqAt c.ref.fn c.ref.sq).bind fun q => s.cqAt c.ref.fn q.cq with
    | some q => q.hasRoom
    | none => false
  ((s.queueCmds c.ref).filter fun k => k.runs != 0).length < 64
    && before.all (·.phase != .fetched) && (!bit c.flags 0 || before.isEmpty)
    && s.waitOver c && (c.runs != 0 || room) && s.serves c

/-- Is it the command's turn in the commit order of its queue (R369)? -/
def State.myTurn (s : State) (c : CmdRef) : Bool := (s.earlier c).isEmpty

/-- The start: its reply slot is reserved; a re-run keeps its slot (R358, R373). -/
def State.start (s : State) (c : Cmd) : State :=
  let s := if c.runs != 0 then s
    else (s.sqAt c.ref.fn c.ref.sq).elim s fun q => s.modCq c.ref.fn q.cq fun x => { x with reserved := x.reserved + 1 }
  s.modCmd c.ref fun k => { k with
    phase := .started, runs := k.runs + 1, startedAt := s.time, sliceMs := s.cmd.sliceMs, flagSum := 0, records := [], votes := [], acks := []
    tiles := [], work := [], runUs := (0, 0, 0), preempt := false }

/-! Replies (12 R358, R362, R376, R382). -/

/-- The reply's flags [14:0] beside those of the body. -/
def State.replyFlags (s : State) (c : Cmd) : Nat :=
  let late := c.deadline != 0 && s.time > c.deadline && (s.sqAt c.ref.fn c.ref.sq).any (·.paced) && c.runs != 0
  c.rflags ||| c.flagSum.toNat % 32 ||| (if c.runs > 1 then 0x80 else 0) ||| (if late then 0x200 else 0)

def replyBytes (pewter : Bool) (seq : Word) (status flags detail time engine sq : Nat) : List Byte :=
  fields [(4, seq.toNat), (2, if pewter then pewterStatus status else status), (2, flags), (8, detail), (8, time),
    (4, min engine 0xFFFFFFFF), (2, sq), (2, if pewter then status else 0)]

/-- The reply of a settled command written into its CQ, if the ring has a place and translates. The
command then leaves the device and its token remembers the reply. -/
def State.post (s : State) (c : Cmd) (q : Sq) : Option State × State :=
  match s.cqAt q.fn q.cq with
  | none => (some (s.setCmds (s.cmd.cmds.filter (·.ref != c.ref))), s)
  | some cq =>
    let place := cq.ring + 32 * (cq.written % cq.depth)
    if cq.faulted || !(c.runs != 0 || cq.hasRoom) then (none, s)
    else if !s.translates q.fn place 32 then
      (none, (s.modCq q.fn q.cq fun x => { x with faulted := true }).emitHost (Fin.ofNat 513 q.fn) 0x0907 (0x8000 + cq.idx) place 0)
    else
      let memo : ReplyMemo := match c.dupOf.bind fun o => (q.tokens.find? fun t => t.seq == o).bind (·.reply) with
        | some m => ⟨m.status, m.detail, m.flags % 1024 ||| 0x20⟩
        | none => ⟨c.status, c.detail, s.replyFlags c⟩
      let engine := if c.dupOf.isSome then 0 else c.engineUs
      let phase := if cq.written / cq.depth % 2 == 0 then 0x8000 else 0
      let s := s.hostWrite q.fn place
        (replyBytes (s.pewterFn q.fn) c.hdrSeq memo.status (memo.flags ||| phase) memo.detail.toNat s.time engine q.idx)
      let n := cq.unsignalled + 1
      let fire := n ≥ max 1 cq.coalCount || bit c.flags 1
      let s := s.modCq q.fn q.cq fun x => { x with
        written := x.written + 1
        reserved := x.reserved - (if c.runs != 0 then 1 else 0)
        unsignalled := if fire then 0 else n
        firstAt := if x.unsignalled == 0 then s.time else x.firstAt }
      let s := s.modSq q.fn q.idx fun x => { x with
        posted := some c.ref.seq
        tokens := updFirst (fun t => t.seq == c.ref.seq && c.dupOf.isNone) (fun t => { t with reply := some memo }) x.tokens }
      let s := s.setCmds (s.cmd.cmds.filter (·.ref != c.ref))
      (some (if fire then s.interrupt q.fn cq.vector else s), s)

/-! Votes, decision and commit (12 R365, R369, R370; 11 R344). -/

/-- The ranks that take part in a command. -/
def State.ranks (s : State) (c : Cmd) : List Nat :=
  if c.tiles.isEmpty then [s.dom.rank] else (c.tiles.map Prod.fst).eraseDups

def State.others (s : State) (c : Cmd) : List Nat := (s.ranks c).filter (· != s.dom.rank)

/-- The partition of a tenant's group that holds a module address. -/
def State.partitionOf (s : State) (tenant g addr : Nat) : Option (List Nat) :=
  (s.coll.groups.find? fun x => x.tenant == tenant && x.id == g).bind fun x => x.partitions.find? (·.contains addr)

/-- This module's address, coded as SRC (11 R321). -/
def State.addrOf (s : State) (rank : Nat) : Nat := rank + s.dom.col % 16 * 64 + s.dom.row % 16 * 1024

def State.selfAddr (s : State) : Nat := s.addrOf s.dom.rank

/-- Do votes of one partition disagree on a joined group and lane (11 R344)? The group of the first. -/
def State.countsDiffer (s : State) (tenant : Nat) (vs : List Vote) : Option Nat :=
  vs.findSome? fun v => (v.counts.find? fun (k, n) => vs.any fun w =>
    s.partitionOf tenant (k % 256) (s.addrOf v.rank) == s.partitionOf tenant (k % 256) (s.addrOf w.rank)
      && (tget w.counts k).any (· != n)).map fun (k, _) => k % 256

/-- A command's status settled; a status other than OK commits nothing (R369). -/
def State.settled (s : State) (c : CmdRef) (status : Nat) (detail : Nat) (flags : Nat) : State :=
  (if status == 0 then s else (s.discard c).dropLoad c).modCmd c fun k => { k with
    phase := .done, status := status, detail := BitVec.ofNat 64 detail, rflags := k.rflags ||| flags }

/-- The decision: every vote is held, none failed, and it is the command's turn. -/
def State.decide (s : State) (c : Cmd) : State :=
  match s.countsDiffer c.tenant c.votes with
  | some g => (s.sendAll (s.others c) .abort (refArgs c.ref)).settled c.ref stCollMismatch g 0
  | none =>
    match s.freedUnder c.ref with
    | some a => (s.sendAll (s.others c) .abort (refArgs c.ref)).settled c.ref stAddressFault a 0
    | none =>
      let s := ((s.commitStaging c.ref).commitLearn c).commitLoad c
      if (s.others c).isEmpty then s.settled c.ref 0 c.detail.toNat 0
      else (s.sendAll (s.others c) .commit (refArgs c.ref)).modCmd c.ref fun k => { k with phase := .deciding }

/-- Replies of a queue posted in SEQ order as far as they go (R369). -/
def State.settle : Nat → State → CmdRef → State
  | 0, s, _ => s
  | fuel + 1, s, c =>
    match (s.queueCmds c).head?, s.sqAt c.fn c.sq with
    | some k, some q =>
      match k.phase with
      | .done =>
        match s.post k q with
        | (some s', _) => State.settle fuel s' c
        | (none, s') => s'
      | .voting =>
        if (s.ranks k).all fun r => k.votes.any (·.rank == r) then State.settle fuel (s.decide k) c else s
      | .deciding =>
        if (s.others k).all fun r => k.acks.contains r || !s.dom.members.getLsbD r then
          State.settle fuel (s.settled k.ref 0 k.detail.toNat 0) c
        else s
      | _ => s
    | _, _ => s

/-- Enough for every phase of every command of the queue. -/
def State.settleQueue (s : State) (c : CmdRef) : State := State.settle (3 * s.cmd.cmds.length + 3) s c

/-- A command finished with a status. -/
def State.finish (s : State) (c : CmdRef) (status detail : Nat) (flags : Nat) : State :=
  (s.settled c status detail flags).settleQueue c

/-- This module's part finished well: its vote is held. -/
def State.vote (s : State) (c : CmdRef) (detail : Nat) (flags : Nat) (counts : List (Nat × Nat)) : State :=
  (s.modCmd c fun k => { k with
    phase := .voting, detail := BitVec.ofNat 64 detail, rflags := k.rflags ||| flags
    votes := ⟨s.dom.rank, 0, 0, counts⟩ :: k.votes.filter (·.rank != s.dom.rank) }).settleQueue c

/-! Running a command to its end at its turn. -/

/-- What the body of a command answers. -/
inductive CmdRes where
  | ok (s : State) (detail : Nat) (flags : Nat)  -- it completes OK at its commit
  | fail (status detail : Nat)                   -- it completes with a status and has no effect
  | failWith (s : State) (status detail : Nat)   -- it completes with a status whose rule states an effect
  | wait (s : State)                             -- it has started and goes on at a later event

/-- A memory error as the outcome of a command; an awaited page leaves it started. -/
def CmdRes.ofErr (s : State) (e : MemErr) : CmdRes :=
  match e with
  | .fault x => .fail x.code x.detail
  | .busy => .wait s
  | .noRoom => .fail stBulkFull 0

def State.missed (s : State) (c : Cmd) : Bool :=
  c.deadline != 0 && c.runs == 0 && s.time > c.deadline && !(s.sqAt c.ref.fn c.ref.sq).any (·.paced)

/-- One command that acts at its turn. It runs if it is the row's opcode, in flight and eligible. -/
def runCommand (op : Nat) (c : CmdRef) (body : State → Cmd → CmdRes) (s : State) : State :=
  match s.cmdAt c with
  | none => s
  | some k =>
    let go := fun (s : State) => match body s ((s.cmdAt c).getD k) with
      | .ok s' d f => s'.vote c d f []
      | .fail st d => s.finish c st d 0
      | .failWith s' st d => s'.finish c st d 0
      | .wait s' => s'
    if k.opcode != op then s
    else
      match k.phase with
      | .fetched =>
        if s.missed k then s.finish c stDeadlineMissed 0 0
        else if s.eligible k && s.myTurn c then go (s.start k)
        else s
      | .started => if s.myTurn c then go s else s
      | _ => s

/-! Parameters and output. -/

def Cmd.u (c : Cmd) (off size : Nat) : Nat := field off size c.params

/-- Bytes written by a command to its tenant's memory: PF0 has none (13 R391). -/
def State.output (s : State) (c : Cmd) (a : Nat) (bs : List Byte) : Except MemErr State :=
  if c.ref.fn == 0 then .error (.fault (excAddress a)) else s.stageWrite c.ref c.tenant a bs

/-! Kill and re-run (12 R373, R374; 03 R81, R109). -/

/-- The tiles of a command on this module. -/
def State.localTiles (s : State) (c : CmdRef) : List (Fin 160) :=
  (List.finRange 160).filter fun i => s.tiles[i].ctl.cmd == some c

/-- Its tiles freed, its staging and its collective instances discarded. -/
def State.killLocal (s : State) (c : CmdRef) : State :=
  let s := (s.localTiles c).foldl (fun s i => s.setTile i Tile.idle) s
  let s := (s.discard c).dropLoad c
  s.setColl { s.coll with
    insts := s.coll.insts.filter (·.key.cmd != c)
    early := s.coll.early.filter (·.1.cmd != c)
    earlyFail := s.coll.earlyFail.filter (·.1.cmd != c)
    done := s.coll.done.filter (·.1.1 != c) }

/-- The charges of the current run taken back and counted as lost (R374). -/
def State.lose (s : State) (c : Cmd) : State :=
  let (a, b, d) := c.runUs
  let s := s.modTnt c.tenant fun x => { x with
    acctTensor := x.acctTensor - a, acctVector := x.acctVector - b, acctDma := x.acctDma - d
    acctLost := x.acctLost + a + b + d }
  s.modCmd c.ref fun k => { k with engineUs := k.engineUs - (a + b + d), runUs := (0, 0, 0) }

/-- The command killed on all its modules and put back to its start (R373); `lost` work is not charged. -/
def State.rerun (s : State) (c : Cmd) (lost : Bool) : State :=
  let s := (s.killLocal c.ref).sendAll (s.others c) .abort (refArgs c.ref)
  let s := if lost then s.lose c else s
  s.modCmd c.ref fun k => { k with phase := .fetched, votes := [], acks := [], tiles := [], groups := [], work := [] }

/-- Is the command running on some module, before its decision? -/
def Cmd.running (c : Cmd) : Bool := c.phase == .started || c.phase == .voting

/-- A command part of another module's interpreter leaves this module. -/
def State.dropPart (s : State) (c : CmdRef) : State := (s.killLocal c).setCmds (s.cmd.cmds.filter (·.ref != c))

/-- The command fails with an exception code; a collective abort is re-run until the fourth in a row
(03 R109). The interpreter decides; another module sends its failing vote. -/
def State.failCmd (s : State) (c : Cmd) (status detail : Nat) (flags : Nat) : State :=
  if c.home != s.dom.rank then
    (s.dropPart c.ref).send ⟨c.home, .vote, refArgs c.ref ++ [s.dom.rank, status, detail, flags ||| c.flagSum.toNat % 32], []⟩
  else if status == stCollAbort && c.collAborts < 3 then
    (s.rerun c false).modCmd c.ref fun k => { k with collAborts := k.collAborts + 1 }
  else ((s.killLocal c.ref).sendAll (s.others c) .abort (refArgs c.ref)).finish c.ref status detail flags

/-! Exceptions of tiles (03 R109 to R111). -/

/-- DETAIL with LOCATOR set (12 R362). -/
def locator (pc tile rank : Nat) : Nat := pc % 2 ^ 32 + tile % 256 * 2 ^ 32 + rank % 64 * 2 ^ 40

/-- The exception record of R110. -/
def excPayload (tile rank cls seg pc : Nat) (flags : Word) (e : Exc) (time : Nat) : List Byte :=
  fields [(2, e.code), (2, tile), (1, rank), (1, cls % 16), (2, seg), (4, pc), (4, flags.toNat), (8, e.detail), (8, time)]

/-- A tile raises an exception: its record goes to the tenant, and the command is killed. -/
def State.raiseExc (s : State) (t : Fin 160) (e : Exc) : State :=
  let x := s.tiles[t]
  match x.ctl.cmd.bind s.cmdAt with
  | none => s.setTile t (x.setStatus .stopped)
  | some c =>
    let cls := (x.ctl.istore[x.ctl.pc]?).elim 0 classOf
    let s := s.emitTenant c.tenant (srcEngine (t.val / 40)) 0x08
      (excPayload t s.dom.rank cls x.ctl.segCount x.ctl.pc x.regs.flags e s.time)
    let s := s.modCmd c.ref fun k => { k with
      records := k.records ++ [⟨s.dom.rank, t, x.ctl.pc, e⟩], flagSum := k.flagSum ||| x.regs.flags }
    (s.setTile t (x.setStatus .stopped)).failCmd ((s.cmdAt c.ref).getD c) e.code (locator x.ctl.pc t s.dom.rank) 0x100

/-- The collective counts of a command on this module for every joined group and lane: the key is
group + 256 × lane (11 R339, R344). -/
def State.collCounts (s : State) (c : Cmd) : List (Nat × Nat) :=
  c.groups.flatMap fun g => (List.range (s.localTiles c.ref).length).map fun l =>
    (g + 256 * l, tgetD s.coll.done (c.ref, g, l) 0)

/-- END of one tile; after the last tile of this module the part is finished and its vote is sent
(03 R111, 12 R370). -/
def State.endTile (s : State) (t : Fin 160) (x : Tile) : State :=
  let s := s.setTile t (x.setStatus .ended)
  match x.ctl.cmd.bind s.cmdAt with
  | none => s
  | some c =>
    let s := s.modCmd c.ref fun k => { k with flagSum := k.flagSum ||| x.regs.flags }
    if (s.localTiles c.ref).any fun i => s.tiles[i].ctl.status != .ended then s
    else
      let counts := s.collCounts c
      let flags := (s.cmdAt c.ref).elim 0 fun k => k.flagSum.toNat % 32
      let s := (s.localTiles c.ref).foldl (fun s i => s.setTile i Tile.idle) s
      if c.home == s.dom.rank then s.vote c.ref 0 0 counts
      else
        (s.modCmd c.ref fun k => { k with phase := .voting }).send
          ⟨c.home, .vote, refArgs c.ref ++ [s.dom.rank, 0, 0, flags] ++ counts.flatMap fun (k, n) => [k, n], []⟩

end Sys2Proof.Machine
end

