-- ==== Sys2Proof/Machine/PlaceOps.lean ====
section
/-! DEFINITION. Operations of the placement engine (06) and of integrity (05 R137 to R156): eviction,
promotion, evacuation of a die region, reservations, restorations. -/

namespace Sys2Proof.Machine

abbrev ms : Nat := 1000000
abbrev hour : Nat := 3600000000000
abbrev day : Nat := 86400000000000

/-- Insertion into a list in ascending order of a key. -/
def insertBy {α : Type} (f : α → Nat) (x : α) : List α → List α
  | [] => [x]
  | y :: ys => if f x < f y then x :: y :: ys else y :: insertBy f x ys

/-- A list in ascending order of a key; equal keys keep their order. -/
def sortBy {α : Type} (f : α → Nat) (xs : List α) : List α := xs.foldl (fun acc x => insertBy f x acc) []

def State.modUnit (s : State) (k : UnitKey) (f : UnitEntry → UnitEntry) : State :=
  s.setMem { s.mem with units := tmod s.mem.units k f }

def State.tp (s : State) (t : Nat) : TenantPlace := tgetD s.place.tenants t TenantPlace.zero

def State.modTp (s : State) (t : Nat) (f : TenantPlace → TenantPlace) : State :=
  s.setPlace { s.place with tenants := tset s.place.tenants t (f (s.tp t)) }

/-- Placement events go to the tenant from core 2 or core 3 of Q0 on the coordinator (06 R192). -/
def State.moving (s : State) (k : UnitKey) : Bool := s.mem.migrations.any (·.key == k)

/-! Bulk room (06 R167): clean copies give way, oldest LAST_USE first. -/

def State.oldestClean (s : State) : Option UnitKey :=
  let cs := s.mem.units.filter fun (_, u) => u.clean.isSome
  (sortBy (fun (x : UnitKey × UnitEntry) => x.2.lastUse) cs).head?.map (·.1)

def State.bulkRoomFuel : Nat → State → Nat → Option (Nat × State)
  | 0, _, _ => none
  | fuel + 1, s, n =>
    match s.bulkBlock n with
    | some d => some (d, s)
    | none =>
      match s.oldestClean with
      | some k => State.bulkRoomFuel fuel (s.modUnit k fun u => { u with clean := none }) n
      | none => none

/-- A free block of the bulk tier. -/
def State.bulkRoom (s : State) (n : Nat) : Option (Nat × State) := State.bulkRoomFuel (s.mem.units.length + 1) s n

/-! Eviction (06 R168, R169). -/

/-- HBM bytes that migrations in progress will give back, and take. -/
def State.leaving (s : State) (t : Option Nat) : Nat :=
  (s.mem.migrations.filter fun g => g.dest.tier == .bulk && (t.isNone || t == some g.key.1)).length * unitBytes

def State.arriving (s : State) : Nat :=
  (s.mem.migrations.filter fun g => g.dest.tier == .hbm && ((s.mem.unit g.key).bind UnitEntry.tier) == some .bulk).length * unitBytes

/-- Bytes by which a tenant exceeds its reservation once its evictions in progress are done. -/
def State.excessLeft (s : State) (t : Nat) : Nat := s.excess t - s.leaving (some t)

/-- The never-evict units of a tenant within PLC_NE_MAX, counted in ascending TVA (06 R176). -/
def State.neverEvict (s : State) (t : Nat) : List UnitKey :=
  let us := (s.mem.units.filter fun (k, u) => k.1 == t && u.hint == .neverEvict).map (·.1)
  (sortBy (fun (k : UnitKey) => k.2) us).take (s.place.neMaxGib * gib / unitBytes)

/-- Is the unit inside its minimum residency (06 R170)? -/
def State.resident (s : State) (u : UnitEntry) : Bool := u.moved.any fun (t, _) => s.time < t + s.place.minResMs * ms

/-- Candidates under the exclusions that remain at a stage of relaxation (06 R169). -/
def State.candidates (s : State) (stage : Nat) : List (UnitKey × UnitEntry) :=
  s.mem.units.filter fun (k, u) =>
    u.hbmBytes != 0 && s.excessLeft k.1 != 0 && u.hint != .pin && !s.moving k
      && (stage ≥ 1 || !s.resident u)
      && (stage ≥ 3 || (stage == 2 && u.clean.isSome) || !(s.neverEvict k.1).contains k)

/-- The victim: oldest LAST_USE, then the tenant after the last victim's, then the lowest TVA; a tenant's
prefer-bulk units go before its others (06 R176). -/
def State.victimOf (s : State) (cs : List (UnitKey × UnitEntry)) : Option (UnitKey × UnitEntry) :=
  let rr := fun (t : Nat) => (t + 512 - s.place.lastVictim % 512 - 1) % 512
  let order := sortBy (fun (x : UnitKey × UnitEntry) => (x.2.lastUse * 512 + rr x.1.1) * 2 ^ 36 + x.1.2) cs
  order.head?.map fun x =>
    ((sortBy (fun (y : UnitKey × UnitEntry) => y.1.2) (cs.filter fun y => y.1.1 == x.1.1 && y.2.hint == .preferBulk)).head?).getD x

/-- One unit evicted: a clean unit's mapping switches to its bulk copy at once, another is copied. -/
def State.evictUnit (s : State) (k : UnitKey) (u : UnitEntry) : Option State :=
  let s := s.setPlace { s.place with lastVictim := k.1 }
  match u.clean with
  | some d => some (s.switchMigration ⟨k, none, ⟨.bulk, d⟩, []⟩)
  | none => (s.bulkRoom unitBytes).map fun (d, s) => s.migrate k ⟨.bulk, d⟩

/-- The next eviction, its exclusions relaxed in turn; without bulk room only clean units can go. -/
def State.evictOne (s : State) : Option State :=
  (List.range 4).findSome? fun stage =>
    let cs := s.candidates stage
    match s.victimOf cs with
    | none => none
    | some (k, u) =>
      match s.evictUnit k u with
      | some s' => some s'
      | none => (s.victimOf (cs.filter fun x => x.2.clean.isSome)).bind fun (k, u) => s.evictUnit k u

/-- Evictions until `n` bytes of HBM are free or on their way: one at most for each unit of the list. -/
def State.evictFor : List (UnitKey × UnitEntry) → State → Nat → Option State
  | [], s, n => if s.hbmFree + s.leaving none ≥ n + s.arriving then some s else none
  | _ :: us, s, n =>
    if s.hbmFree + s.leaving none ≥ n + s.arriving then some s
    else s.evictOne.bind fun s' => State.evictFor us s' n

/-- Room for n bytes of HBM now, with an open block of 2 MiB. -/
def State.hbmFits (s : State) (n : Nat) : Bool := s.hbmFree ≥ n + s.arriving && (s.hbmBlock unitBytes).isSome

/-! Reservations (06 R164). -/

def State.pinnedUnits (s : State) (t : Nat) : List UnitKey :=
  (s.mem.units.filter fun (k, u) => k.1 == t && u.hint == .pin).map (·.1)

def State.pinnedBytes (s : State) (t : Nat) : Nat := (s.pinnedUnits t).length * unitBytes

/-- Pins cleared in descending TVA until the pinned bytes fit the reservation. -/
def State.clearPins (s : State) (t : Nat) : State × Bool :=
  let us := (sortBy (fun (k : UnitKey) => 2 ^ 36 - k.2) (s.pinnedUnits t)).take
    ((s.pinnedBytes t - s.resvBytes t + unitBytes - 1) / unitBytes)
  (us.foldl (fun s k => s.modUnit k fun u => { u with hint := .none }) s, !us.isEmpty)

/-- RESERVATION_REDUCED of every tenant whose reservation changes when C falls. -/
def State.scaleReservations (s : State) (cOld cNew : Nat) : State :=
  (List.range 512).foldl (fun s t =>
    let r := s.place.resv[t]?.getD 0
    let r' := r * cNew / max cOld 1
    if r' == r then s
    else
      let s := s.setPlace { s.place with resv := Vector.ofFn fun i : Fin 512 => if i.val = t then r' else s.place.resv[i] }
      let (s, cleared) := s.clearPins t
      s.memEvent 0 ⟨8, 1, 0, some t, 0, 0, 0, 0, r' * 1024 + (if cleared then 2 ^ 31 else 0)⟩) s

/-! Evacuation of a die region (05 R138, 06 R171). -/

def State.setDie (s : State) (d : Nat) (r : DieRegion) : State :=
  if h : d < 4 then s.setMem { s.mem with dies := s.mem.dies.set d r } else s

def inDie (d : Nat) (p : Page) : Bool := p.tier == .hbm && p.dpa / dieSpan == d

def UnitEntry.inDie (u : UnitEntry) (d : Nat) : Bool := u.backing.entries.any (Sys2Proof.Machine.inDie d)

def State.regionEmpty (s : State) (d : Nat) : Bool :=
  !(s.mem.units.any fun (_, u) => u.inDie d) && !(s.mem.staging.any fun e => inDie d e.page)
    && !(s.mem.migrations.any fun g => inDie d g.dest)

/-- Every unit of the region that can move begins to: to other die regions, else to the bulk tier, pinned
units never to bulk; in descending sampled heat. -/
def State.evacuate (s : State) (d : Nat) : State :=
  let us := s.mem.units.filter fun (k, u) => u.inDie d && !s.moving k
  (sortBy (fun (x : UnitKey × UnitEntry) => 65536 - x.2.sampled) us).foldl (fun s (k, u) =>
    match s.hbmBlock unitBytes with
    | some a => s.migrate k ⟨.hbm, a⟩
    | none =>
      if u.hint == .pin then s
      else
        match s.bulkRoom unitBytes with
        | some (a, s) => s.migrate k ⟨.bulk, a⟩
        | none => s) s

/-- Does the drain meet pages that cannot be moved? -/
def State.stuck (s : State) (d : Nat) : Bool := s.mem.units.any fun (k, u) => u.inDie d && !s.moving k

/-- Reservations lowered once by the capacity that a drain will take, when pages cannot move. -/
def State.lowerForDrain (s : State) (d : Nat) : State :=
  let r := s.mem.die d
  if r.lowered || !s.stuck d then s
  else
    let lost := if r.retiring then r.usableGib * gib else gib
    (s.setDie d { r with lowered := true }).scaleReservations s.reservable (s.reservable - lost)

/-- A drain: no allocation into the region, its units move (05 R138, R139). -/
def State.beginDrain (s : State) (d pcl cause : Nat) : State :=
  let r := s.mem.die d
  if r.draining || r.retired || r.mapped.any (·.1 == pcl) then s
  else ((s.setDie d { r with draining := true, request := some (pcl, cause), retiring := r.mapped.length ≥ 16 }).evacuate d).lowerForDrain d

/-- Capacity falls: reservations scale unless the drain lowered them before. -/
def State.finishDrain (s : State) (d : Nat) (r' : DieRegion) : State :=
  let old := s.reservable
  let lowered := (s.mem.die d).lowered
  let s := s.setDie d r'
  let s := if lowered then s else s.scaleReservations old s.reservable
  let pc := ((s.mem.die d).mapped.getLast?).elim (256 * d) fun (pcl, _) => 256 * d + pcl % 4 * 64 + pcl / 4
  s.memEvent d ⟨4, 1, 0, none, pc, 0, d * dieSpan, 0, s.mem.usableGib⟩

/-! Uncorrectable errors (05 R154, R155). -/

/-- The granule marked, and the search for an intact copy begun; a granule that is already poisoned is not
restored again. -/
def State.uncorrectable (s : State) (g syndrome : Nat) : State :=
  if s.mem.restorations.any (fun r => r.meets (g * 256) 256) || s.mem.poison.contains g then s
  else s.setMem { s.mem.mark (g * 256) with restorations := s.mem.restorations ++ [⟨g, 1, syndrome, []⟩] }

/-- The HBM source of a granule of a Foil lease, or the lease copy of a granule of its source (R154, 2.1). -/
def State.leaseCopy (s : State) (a : Nat) : Option Nat :=
  s.place.leases.findSome? fun (t, l) =>
    if l.state != .active && l.state != .releasing then none
    else
      (l.units.zip l.sources).findSome? fun ((d, i), k) =>
        let lo := bsramBase + d * bsramSpan + i * unitBytes
        match (s.mem.unit (t, k)).bind (·.source) with
        | some b => if lo ≤ a && a < lo + unitBytes then some ((b.entry ((a - lo) / entryBytes)).dpa + (a - lo) % entryBytes) else none
        | none => none

/-- The clean bulk copy of a granule (R154, 2.2). -/
def State.cleanCopy (s : State) (a : Nat) : Option Nat :=
  s.mem.units.findSome? fun (_, u) =>
    match u.backing, u.clean with
    | .whole p, some d => if p.dpa ≤ a && a < p.dpa + unitBytes then some (d + (a - p.dpa)) else none
    | _, _ => none

/-- A copy on this module that is intact: source code and DPA. -/
def State.intactCopy (s : State) (a : Nat) : Option (Nat × Nat) :=
  match (s.leaseCopy a).filter fun d => !s.mem.isPoisoned d with
  | some d => some (1, d)
  | none => ((s.cleanCopy a).filter fun d => !s.mem.isPoisoned d).map fun d => (2, d)

/-- The lease unit that holds an address, withdrawn until the next start-up (R140). -/
def State.withdrawLease (s : State) (a : Nat) : State :=
  if bsramBase ≤ a && a < bsramBase + 4 * bsramSpan && (a - bsramBase) % bsramSpan < leaseUnits * unitBytes then
    let u := ((a - bsramBase) / bsramSpan, (a - bsramBase) % bsramSpan / unitBytes)
    if s.mem.leaseBad.contains u then s else s.setMem { s.mem with leaseBad := u :: s.mem.leaseBad }
  else s

def MemState.counted (m : MemState) (restored ue : Nat) : MemState :=
  { m with regs := { m.regs with restored := (m.regs.restored + restored) % 2 ^ 64, ue := (m.regs.ue + ue) % 2 ^ 64 } }

/-- Writes held by a restoration, applied after it in order. -/
def MemState.release (m : MemState) (r : Restoration) : MemState := r.writes.foldl (fun m (a, bs) => m.put a bs) m

/-! Key-value arenas (07 R206): 256 TiB of TVA for each model, in order of reservation (log entry 35). -/

def arenaSpan : Nat := 0x1000000000000
def arenaRegion : Nat := 0x80000000000000

def State.arenaBase (s : State) (t model : Nat) : Nat :=
  arenaRegion + (s.gen.arenas.findIdx fun a => a.1 == (t, model)) % 128 * arenaSpan

/-- The first poisoned granule of a page of an arena on this module. -/
def State.pagePoison (s : State) (t model n : Nat) : Option Nat :=
  (s.mem.page t (s.arenaBase t model + entryBytes * n)).bind fun p => s.mem.poisonIn p.dpa entryBytes

/-- Nodes of the prefix tree that hold a poisoned page leave the tree (07 R210). -/
def State.dropPoisonedNodes (s : State) : State :=
  { s with gen := { s.gen with nodes := s.gen.nodes.map fun n =>
      if n.cache == s.dom.rank && n.pages.any fun p => (s.pagePoison n.tenant n.model p).isSome then { n with removed := true } else n } }

end Sys2Proof.Machine
end

