-- ==== Sys2Proof/Machine/ModelOps.lean ====
section
/-! DEFINITION. Shared operations over configuration fields (07 R230, 10 R313, 12 R378), allocation of tenant
memory (06 R166), pools and groups (06 R184, 07 R194), models, versions and references (10 R287 to R293). -/

namespace Sys2Proof.Machine

/-! Configuration fields. -/

/-- A field of the tables of 07 R230 and 10 R313. -/
structure FieldSpec where
  id : Nat
  /-- an enumerated field takes its default for an illegal code; others clamp to the nearer limit -/
  enum : Bool
  lo : Nat
  hi : Nat
  dflt : Nat
  /-- phases of 12 R379: 1 minimum field, 2 limit field, 0 neither -/
  cls : Nat
  deriving DecidableEq, Repr

def fieldTable : List FieldSpec := [
  ⟨0x0200, true, 0, 3, 0, 0⟩, ⟨0x0201, false, 0, 600000, 0, 0⟩, ⟨0x0202, true, 1, 3, 1, 0⟩, ⟨0x0203, false, 2, 4, 3, 2⟩,
  ⟨0x0300, true, 0, 1, 0, 0⟩, ⟨0x0301, false, 1, 65536, 16384, 2⟩, ⟨0x0302, false, 256, 65536, 8192, 0⟩,
  ⟨0x0303, false, 1, 65535, 64, 2⟩, ⟨0x0304, false, 10, 60000, 1000, 0⟩, ⟨0x0305, false, 8, 2048, 1024, 2⟩,
  ⟨0x0306, false, 0, 8, 8, 2⟩, ⟨0x0307, false, 0, 4194304, 1048576, 2⟩, ⟨0x0308, false, 0, 63, 8, 0⟩,
  ⟨0x0309, false, 0, 62, 0, 0⟩, ⟨0x030A, false, 0, 63, 1, 1⟩, ⟨0x030B, false, 1, 63, 1, 1⟩, ⟨0x030C, false, 0, 62, 0, 1⟩]

def fieldSpec (f : Nat) : Option FieldSpec := fieldTable.find? (·.id == f)

/-- A requested value as the field takes it: the applied value, and the REASON of a clamp (12 R378). -/
def FieldSpec.apply (f : FieldSpec) (v : Nat) : Nat × Option Nat :=
  if f.enum then (if f.lo ≤ v && v ≤ f.hi then (v, none) else (f.dflt, some 1))
  else
    let c := max f.lo (min f.hi v)
    let c := if f.id == 0x0302 then c / 256 * 256 else c
    (c, if c == v then none else some 0)

/-- A field's value in force. -/
def State.cfg (s : State) (t f : Nat) : Nat :=
  match s.cmd.config.find? fun c => c.tenant == t && c.field == f with
  | some c => c.value
  | none => (fieldSpec f).elim 0 (·.dflt)

/-! Pools and groups. -/

/-- Ranks of a tenant's allocation that are members and no spares (06 R185). -/
def State.allocRanks (s : State) (t : Nat) : List Nat :=
  ranksOf ((s.tntOf t).alloc &&& s.dom.members &&& ~~~s.turn.spareMask)

/-- The tenant's pools; before its first turn every module is in the learning pool (10 R297). -/
def State.poolsOf (s : State) (t : Nat) : Pools :=
  let p := (s.tp t).pools
  if p = Pools.empty then { Pools.empty with learnPool := s.allocRanks t } else p

def Pools.get (p : Pools) : PoolId → List Nat
  | .pre => p.prefillPool | .dec => p.decodePool | .cache => p.cachePool | .score => p.scorePool | .learn => p.learnPool

def Pools.put (p : Pools) (i : PoolId) (l : List Nat) : Pools :=
  match i with
  | .pre => { p with prefillPool := l } | .dec => { p with decodePool := l } | .cache => { p with cachePool := l }
  | .score => { p with scorePool := l } | .learn => { p with learnPool := l }

def Pools.all (p : Pools) : List Nat := p.prefillPool ++ p.decodePool ++ p.cachePool ++ p.scorePool ++ p.learnPool

/-- POOL codes of 06 R192. -/
def PoolId.code : PoolId → Nat
  | .pre => 0 | .dec => 1 | .cache => 2 | .score => 3 | .learn => 4

/-- Insertion of a rank in ascending order. -/
def rankInsert (r : Nat) (l : List Nat) : List Nat := insertBy id r (l.filter (· != r))

/-- Consecutive W modules form a group; the rest are left over (07 R194). -/
def groupsOf : Nat → Nat → List Nat → List (List Nat)
  | 0, _, _ => []
  | fuel + 1, w, l => if w == 0 || l.length < w then [] else l.take w :: groupsOf fuel w (l.drop w)

def poolGroups (w : Nat) (l : List Nat) : List (List Nat) := groupsOf (l.length + 1) w l

def leftovers (w : Nat) (l : List Nat) : List Nat := l.drop (l.length / max w 1 * w)

/-- A placement event to the tenant from core 3 of Q0 (06 R192). -/
def State.placeEvent (s : State) (t kind pool st count before after : Nat) (ratio : Word) (step cause : Nat) : State :=
  s.emitTenant t (srcCore 0 3) 0x03 (fields [(2, kind), (1, pool), (1, st), (2, t), (2, count), (2, before), (2, after),
    (4, ratio.toNat), (8, step), (4, cause)])

/-! Models. -/

def State.modelAt (s : State) (t m : Nat) : Option Model := tget s.turn.models (t, m)

def State.setModel (s : State) (t m : Nat) (x : Model) : State :=
  { s with turn := { s.turn with models := tset s.turn.models (t, m) x } }

def State.modModel (s : State) (t m : Nat) (f : Model → Model) : State :=
  { s with turn := { s.turn with models := tmod s.turn.models (t, m) f } }

def State.modLearn (s : State) (t m : Nat) (f : Learn → Learn) : State :=
  s.modModel t m fun x => { x with learn := x.learn.map f }

def State.phaseOf (s : State) (t : Nat) : TenantPhase := tgetD s.turn.phases t .learn

def State.setPhase (s : State) (t : Nat) (p : TenantPhase) : State :=
  { s with turn := { s.turn with phases := tset s.turn.phases t p } }

/-! Allocation of tenant memory (06 R166; 05 R131). -/

inductive AllocRes where
  | ok (s : State)
  | wait (s : State)  -- a guaranteed request waits for evictions
  | full

/-- The state of an allocation that succeeded. -/
def AllocRes.placed : AllocRes → Option State
  | .ok s => some s
  | _ => none

/-- A unit placed in the bulk tier, within the headroom. -/
def State.placeInBulk (s : State) (k : UnitKey) : AllocRes :=
  if s.headroom ≥ (unitBytes : Int) then
    match s.bulkRoom unitBytes with
    | some (a, s) => .ok (s.mapUnit k ⟨.bulk, a⟩)
    | none => .full
  else .full

/-- A unit of a guaranteed request for which others are evicted: placed at once where they leave room now. -/
def State.placeEvicting (s : State) (k : UnitKey) : AllocRes :=
  match State.evictFor s.mem.units s unitBytes with
  | some s' => if s'.hbmFits unitBytes then (s'.hbmBlock unitBytes).elim .full fun a => .ok (s'.mapUnit k ⟨.hbm, a⟩) else .wait s'
  | none => .full

/-- Where a unit may go. -/
inductive Want where
  | any | bulk
  deriving DecidableEq, Repr

/-- A unit placed where `w` lets it go: in HBM within the guarantee, by eviction where it has no room; else where HBM or the bulk tier has room. -/
def State.placeUnit (s : State) (k : UnitKey) (w : Want) : AllocRes :=
  if w == .bulk then s.placeInBulk k
  else if s.hbmUse k.1 + unitBytes ≤ s.resvBytes k.1 then
    match (if s.hbmFits unitBytes then s.hbmBlock unitBytes else none) with
    | some a => .ok (s.mapUnit k ⟨.hbm, a⟩)
    | none => s.placeEvicting k
  else
    match (if s.hbmFits unitBytes then s.hbmBlock unitBytes else none) with
    | some a =>
      let s' := s.mapUnit k ⟨.hbm, a⟩
      if s'.headroom ≥ 0 then .ok s' else s.placeInBulk k
    | none => s.placeInBulk k

/-- Units placed one by one; a wait or a failure leaves the mappings as they were. -/
def State.placeUnits (s0 : State) : List UnitKey → Want → State → AllocRes
  | [], _, s => .ok s
  | k :: ks, w, s =>
    match s.placeUnit k w with
    | .ok s' => State.placeUnits s0 ks w s'
    | .wait _ =>
      -- the evictions begin from the state without the new units
      match State.evictFor s0.mem.units s0 ((ks.length + 1) * unitBytes) with
      | some s' => .wait s'
      | none => .full
    | .full => .full

/-- A range's units. -/
def unitRange (t first n : Nat) : List UnitKey := (List.range n).map fun i => (t, first + i)

/-- The first run of n free units of the tenant from a unit number on (log entry 35). -/
def State.freeTva (s : State) (t lo n : Nat) : Nat :=
  let used := (s.mem.units.filter fun (k, _) => k.1 == t && lo ≤ k.2).map (·.1.2)
  let fits := fun x => !used.any fun u => x ≤ u && u < x + n
  ((lo :: used.map (· + 1)).filter fits).min?.getD lo

/-- Unit numbers of MEM_ALLOC ranges, and of the ranges that the device allocates for itself. -/
def tenantUnits : Nat := 1
def deviceUnits : Nat := 0x40000000000000 / unitBytes

def unitsFor (bytes : Nat) : Nat := (bytes + unitBytes - 1) / unitBytes

/-- A device structure of a tenant: its TVA and the state, or none where it fits nowhere. -/
def State.deviceAlloc (s : State) (t bytes : Nat) (w : Want) : Option (Nat × State) :=
  let n := unitsFor bytes
  let u := s.freeTva t deviceUnits n
  (State.placeUnits s (unitRange t u n) w s).placed.map fun s' => (u * unitBytes, s')

/-- The units of a device allocation freed. -/
def State.deviceFree (s : State) (t tva bytes : Nat) : State :=
  (unitRange t (tva / unitBytes) (unitsFor bytes)).foldl State.unmapUnit s

/-! Generation layouts (10 R287, R289). -/

/-- Rows and row length of member i's part; none where it holds nothing. -/
def TensorDef.part (x : TensorDef) (w i : Nat) : Option (Nat × Nat) :=
  match x.split with
  | 0 => some (x.rows, x.rowLen)
  | 1 => some ((x.rows + w - 1) / w, x.rowLen)
  | 2 => some (x.rows, x.rowLen / w)
  | _ => if x.expert % w == i then some (x.rows, x.rowLen) else none

def fmtBits (c : Nat) : Nat := (formatOf c).elim 0 (·.bits)

def fmtScaled (c : Nat) : Bool := (formatOf c).any Format.blockScaled

/-- Elements from one stored row to the next: whole blocks in a block-scaled format (02 R42). -/
def rowPitch (fmt len : Nat) : Nat := if fmtScaled fmt then (len + 31) / 32 * 32 else len

def TensorDef.elemBytes (x : TensorDef) (rows len : Nat) : Nat := (rows * rowPitch x.genFmt len * fmtBits x.genFmt + 7) / 8

def TensorDef.scaleBytes (x : TensorDef) (rows len : Nat) : Nat :=
  if fmtScaled x.genFmt then rows * (rowPitch x.genFmt len / 32) else 0

def align64 (n : Nat) : Nat := (n + 63) / 64 * 64

/-- Bytes of a member's share of the layout with its generation map. -/
def Model.shareBytes (m : Model) (i : Nat) : Nat :=
  m.tensors.foldl (fun a x => match x.part m.w i with
    | some (r, l) => a + align64 (x.elemBytes r l) + align64 (x.scaleBytes r l)
    | none => a) (align64 (8 + 32 * m.tensors.length))

/-- The parts of member i laid one after the other from a TVA, after the map. -/
def Model.layParts (m : Model) (i base : Nat) : List GenPart :=
  ((List.range m.tensors.length).zip m.tensors).foldl (fun (acc : List GenPart × Nat) (k, x) =>
    match x.part m.w i with
    | none => acc
    | some (r, l) =>
      let e := align64 (x.elemBytes r l)
      let sc := x.scaleBytes r l
      (acc.1 ++ [⟨k, i, acc.2, if sc == 0 then 0 else acc.2 + e, 0x3F800000, r⟩], acc.2 + e + align64 sc))
    ([], base + align64 (8 + 32 * m.tensors.length)) |>.1

/-- The bytes of a generation map (R289). -/
def Model.mapBytes (m : Model) (ps : List GenPart) : List Byte :=
  leBytes 8 ps.length ++ ps.flatMap fun p =>
    let x := m.tensors.getD p.tensor ⟨0, 0, false, 1, 0, 0, 0⟩
    fields [(4, p.tensor), (1, x.genFmt), (1, x.split), (2, p.part), (8, p.elemTva), (8, p.scaleTva),
      (4, p.tscale.toNat), (4, p.rowsHeld)]

def Model.layout (m : Model) (v : Nat) : Option GenLayout := m.layouts.find? (·.version == v)

/-- Layouts that are not staging. -/
def Model.hasLayout (m : Model) (v : Nat) : Bool := m.layouts.any fun l => l.version == v && !l.staging

/-! References (10 R292, R293). -/

/-- A live request's reference on its version: none while parked or ended. -/
def GenReq.refers (r : GenReq) : Bool := !r.state.terminal && r.state != .parked && !r.score

/-- LEARN_STEPs with GEN_LAYOUT in progress on a version (09 R262). -/
def State.layoutSteps (s : State) (t m v : Nat) : Nat :=
  (s.cmd.cmds.filter fun c => c.opcode == 0x0401 && c.ref.fn.val == t + 1 && c.phase != .fetched && c.phase != .done
    && c.u 0 4 == m && bit (c.u 4 4) 3 && c.u 0x14 4 == v).length

def State.refs (s : State) (t m v : Nat) : Nat :=
  match s.modelAt t m with
  | none => 0
  | some x =>
    (if x.published == some v then 1 else 0)
      + ((x.layout v).elim 0 fun l => (if l.loaded then 1 else 0) + l.holds)
      + (s.gen.reqs.filter fun r => r.tenant == t && r.model == m && r.version == v && r.refers).length
      + (s.place.leases.filter fun (k, l) => k == t && l.state != .none && l.model == m && l.version == v).length
      + s.layoutSteps t m v
      + (if tget s.turn.scoring t == some (m, v) then 1 else 0)

/-- A turn event to the tenant from core 5 of Q0 (10 R314). -/
def State.turnEvent (s : State) (t kind m v prev drained requeued carried us : Nat) : State :=
  s.emitTenant t (srcCore 0 5) 0x06 (fields [(2, kind), (2, t), (4, m), (4, v), (4, prev), (4, drained), (4, requeued),
    (4, carried), (4, min us 0xFFFFFFFF)])

/-- The version that a selector names (12 R361), or the status. -/
def Model.resolve (x : Model) (sel : Nat) : Except Nat Nat :=
  if sel == 0 then
    match x.published with
    | some v => .ok v
    | none => .error stModelUnknown
  else if sel == 0xFFFFFFFF then
    match ((x.layouts.filter fun l => !l.staging && (x.published == some l.version || l.loaded)).map (·.version)).max? with
    | some v => .ok v
    | none => .error stModelUnknown
  else if x.hasLayout sel then .ok sel else .error stVersionReleased

end Sys2Proof.Machine
end

