-- ==== Sys2Proof/Machine/GenOps.lean ====
section
/-! DEFINITION. Operations of generation (07): homes, prefix tree, pages, output, events, finalisation. -/

namespace Sys2Proof.Machine

def State.setGen (s : State) (g : GenState) : State := { s with gen := g }

def State.modReq (s : State) (t tag : Nat) (f : GenReq → GenReq) : State :=
  s.setGen { s.gen with reqs := updFirst (fun r => r.tenant == t && r.tag == tag) f s.gen.reqs }

def State.reqAt (s : State) (t tag : Nat) : Option GenReq := s.gen.reqs.find? fun r => r.tenant == t && r.tag == tag

def State.modStats (s : State) (t : Nat) (f : GenStats → GenStats) : State :=
  s.setGen { s.gen with stats := tset s.gen.stats t (f (tgetD s.gen.stats t GenStats.zero)) }

/-- Live requests of a tenant whose home is a group. -/
def State.liveAt (s : State) (t : Nat) (g : List Nat) : Nat := (s.gen.reqs.filter fun r => r.tenant == t && r.home == g).length

/-- Request-table entries in use on a die of a home module; 16,384 a die (01 R22, 07 R195). -/
def State.entriesAt (s : State) (rank die : Nat) : Nat :=
  (s.gen.reqs.filter fun r => r.home.head? == some rank && r.homeDie == die).length

def State.freeDie (s : State) (rank : Nat) : Option Nat :=
  argmax (fun d => 16384 - s.entriesAt rank d) ((List.range 4).filter fun d => s.entriesAt rank d < 16384)

/-- The home of a new request (R195): the group with the fewest live requests of the tenant, and among
equals the one whose member 0 has the lowest rank. -/
def State.chooseHome (s : State) (t : Nat) (groups : List (List Nat)) : Option (List Nat) :=
  let ok := groups.filter fun g => s.liveAt t g < s.cfg t 0x0301 && (g.head?.bind s.freeDie).isSome
  (sortBy (fun g => s.liveAt t g * 64 + g.headD 0) ok).head?

/-! Prefix tree (R208, R209). -/

def prefixRoot (model version : Nat) : DWord := fmix (BitVec.ofNat 64 model ||| (BitVec.ofNat 64 version <<< 32))

def hashTokens : DWord → List Nat → DWord
  | h, a :: b :: ts => hashTokens (fmix (h ^^^ (BitVec.ofNat 64 a ||| (BitVec.ofNat 64 b <<< 32)))) ts
  | h, _ => h

def blockHash (parent : DWord) (t : List Nat) : DWord := hashTokens parent (t.take 256)

/-- The outcome of a lookup: nodes matched in order, and whether the walk ended on stored tokens that
differ. -/
def State.walkPrefix (s : State) (t model version : Nat) : Nat → DWord → List Nat → List PrefixNode × Bool
  | 0, _, _ => ([], false)
  | fuel + 1, parent, ts =>
    if ts.length ≤ 256 then ([], false)
    else
      let h := (blockHash parent ts).toNat
      match s.gen.nodes.find? fun n => n.tenant == t && n.model == model && n.version == version && n.hash == h
          && n.parent == parent.toNat && !n.removed with
      | none => ([], false)
      | some n =>
        if n.tokens == ts.take 256 then
          let (l, m) := s.walkPrefix t model version fuel (BitVec.ofNat 64 h) (ts.drop 256)
          (n :: l, m)
        else ([], true)

/-! Positions per page (R202). -/

def log2Floor (n : Nat) : Nat := if n == 0 then 0 else Nat.log2 n

def Model.heads (m : Model) : Nat := if m.kvh ≥ m.w then m.kvh / m.w else 1

/-- Bytes per position. -/
def Model.posBytes (m : Model) : Nat :=
  let eb := if m.kvFmt == 5 then 1 else 2
  let dims := if m.latent then m.dc + m.dr else m.heads * (m.dk + m.dv)
  dims * eb + if m.kvFmt == 5 then dims / 32 else 0

/-- P: the largest power of two, at most 4,096, whose positions fit one page. -/
def Model.pagePos (m : Model) : Nat := min 4096 (2 ^ log2Floor (65536 / max m.posBytes 1))

/-! Output (R198, R199). -/

def recBytes (r : TokRec) : List Byte :=
  fields [(4, r.token), (4, r.version), (4, r.logprob.toNat), (2, if r.draft then 1 else 0), (2, 0)]

/-- Header FLAGS: bit 4 once records of two versions exist (10 R311). -/
def GenReq.headerFlags (r : GenReq) : Nat :=
  r.outFlags ||| (if r.records.any fun x => x.version != (r.records.headD x).version then 16 else 0)

def GenReq.promptLen (r : GenReq) : Nat := r.prompt.length

/-- The tokens that prefill computes: under refill, the prompt followed by the committed tokens (10 R309). -/
def GenReq.inputs (r : GenReq) : List Nat := if r.refill then r.prompt ++ r.records.map (·.token) else r.prompt

/-- Committed tokens: the prompt and the records. -/
def GenReq.committed (r : GenReq) : List Nat := r.prompt ++ r.records.map (·.token)

def GenReq.header (r : GenReq) : List Byte :=
  fields [(4, r.state.code), (2, r.status), (2, r.headerFlags), (4, r.records.length), (4, r.prefixHit), (8, r.tag),
    (8, r.tAdmit), (8, r.tFirst), (8, r.tEnd), (4, r.specAccepted), (4, r.promptLen), (8, 0)]

/-- The 128-byte result of a score request (R228). -/
def GenReq.scoreResult (r : GenReq) : List Byte :=
  fields [(4, r.state.code), (2, r.status), (2, r.values.length), (8, r.tag), (4, r.version), (4, r.promptLen), (8, r.tEnd)]
    ++ padTo 64 (r.values.flatMap fun v => leBytes 4 v.toNat) ++ zeros 32

/-- An update of the output area on its way to the anchor. -/
def State.sendOutput (s : State) (r : GenReq) (first : Nat) (recs : List TokRec) : State :=
  let u : OutputUpdate := ⟨r.tenant, r.tag, r.home.headD 0, r.outTva, first, recs, if r.score then r.scoreResult else r.header⟩
  if s.dom.rank == s.dom.anchor then s.setGen { s.gen with outQueue := s.gen.outQueue ++ [u] }
  else s.send ⟨s.dom.anchor, .outputRecords, [r.tenant, r.tag, r.outTva, first], recs.flatMap recBytes ++ u.header⟩

/-- Request events come from core 1 of Q0 on the anchor (R201). -/
def State.reqEvent (s : State) (r : GenReq) (kind cause waitMs : Nat) : State :=
  s.emitTenant r.tenant (srcCore 0 1) 0x04 (fields [(2, kind), (2, if kind == 0x0301 then r.status else 0), (2, r.tenant),
    (2, r.headerFlags), (8, r.tag), (4, r.records.length), (4, (r.records.getLast?).elim 0 (·.version)), (2, r.home.headD 0),
    (1, r.state.code), (1, cause), (4, waitMs)])

/-! Pages of the arena (R205, R206). -/

def State.arenaPages (s : State) (t m : Nat) : List Nat := tgetD s.gen.arenas (t, m) []

/-- The lowest page number not in use. -/
def freshPage (used : List Nat) : Nat := ((0 :: used.map (· + 1)).filter fun n => !used.contains n).min?.getD 0

/-- A page of the arena, its 2 MiB unit allocated on demand; none is BULK_FULL. -/
def State.takePage (s : State) (t m : Nat) : Option (Nat × State) :=
  let s := if s.gen.arenas.any (·.1 == (t, m)) then s else s.setGen { s.gen with arenas := s.gen.arenas ++ [((t, m), [])] }
  let n := freshPage (s.arenaPages t m)
  let a := s.arenaBase t m + entryBytes * n
  let room := if (s.mem.unit (t, a / unitBytes)).isSome then some s else (s.placeUnit (t, a / unitBytes) .any).placed
  room.map fun s =>
    -- a fresh entry reads as zero
    let s := match s.mem.page t a with
      | some p => s.setMem (s.mem.zero p.dpa entryBytes)
      | none => s
    (n, s.setGen { s.gen with arenas := tset s.gen.arenas (t, m) (n :: s.arenaPages t m) })

def State.takePages (t m : Nat) : Nat → State → Option (List Nat × State)
  | 0, s => some ([], s)
  | k + 1, s => (s.takePage t m).bind fun (n, s) => (State.takePages t m k s).map fun (ns, s) => (n :: ns, s)

/-- Pages returned; a 2 MiB unit without pages in use is freed. -/
def State.givePages (s : State) (t m : Nat) (ns : List Nat) : State :=
  let left := (s.arenaPages t m).filter fun n => !ns.contains n
  let s := s.setGen { s.gen with arenas := tset s.gen.arenas (t, m) left }
  ns.foldl (fun s n =>
    let u := (s.arenaBase t m + entryBytes * n) / unitBytes
    if left.any fun k => (s.arenaBase t m + entryBytes * k) / unitBytes == u then s else s.unmapUnit (t, u)) s

/-- Pages that a request holds of its own: those of its prefix path belong to the tree. -/
def State.ownPages (s : State) (r : GenReq) : List Nat :=
  let shared := (s.gen.nodes.filter fun n => n.tenant == r.tenant && n.model == r.model && r.path.contains n.hash).flatMap (·.pages)
  (r.pages.flatten ++ r.slots ++ r.prov).filter fun n => !shared.contains n

/-- Prefix references dropped; a removed node without references is freed (R210). -/
def State.dropPath (s : State) (r : GenReq) : State :=
  let mine := fun (n : PrefixNode) => n.tenant == r.tenant && n.model == r.model && r.path.contains n.hash
  let ns := s.gen.nodes.map fun n => if mine n then { n with refs := n.refs - 1 } else n
  let gone := ns.filter fun n => n.removed && n.refs == 0
  let s := s.setGen { s.gen with nodes := ns.filter fun n => !(n.removed && n.refs == 0) }
  gone.foldl (fun s n => if n.cache == s.dom.rank then s.givePages n.tenant n.model n.pages else s) s

/-- Slots, pages and prefix references of a request freed. -/
def State.freeKv (s : State) (r : GenReq) : State :=
  let s := s.givePages r.tenant r.model (s.ownPages r)
  (s.dropPath r).modReq r.tenant r.tag fun x => { x with pages := [], slots := [], prov := [], path := [], len := 0 }

/-! Release of layouts (10 R292, R293). -/

/-- A layout whose count is 0 released: its parts, its map and the version's prefix nodes are freed. -/
def State.releaseLayout (s : State) (t m : Nat) (x : Model) (l : GenLayout) : State :=
  let s := if l.mapTva == 0 then s else s.deviceFree t l.mapTva (x.shareBytes ((l.parts.head?).elim 0 (·.part)))
  -- a node that a request still references keeps its pages until the last reference goes
  let mine := fun (n : PrefixNode) => n.tenant == t && n.model == m && n.version == l.version
  let gone := s.gen.nodes.filter fun n => mine n && n.refs == 0
  let s := s.setGen { s.gen with nodes := (s.gen.nodes.filter fun n => !(mine n && n.refs == 0)).map fun n => if mine n then { n with removed := true } else n }
  let s := gone.foldl (fun s n => if n.cache == s.dom.rank then s.givePages n.tenant n.model n.pages else s) s
  let s := s.modModel t m fun y => { y with layouts := y.layouts.filter (·.version != l.version) }
  let s := { s with turn := { s.turn with models := s.turn.models.filter fun (k, y) => !(k == (t, m) && y.deleted && y.layouts.isEmpty) } }
  s.turnEvent t 0x0202 m l.version 0 0 0 0 0

/-- Every unreferenced layout of the tenant released. -/
def State.releaseZero (s : State) (t : Nat) : State :=
  (s.turn.models.filter fun (k, _) => k.1 == t).foldl (fun s (k, x) =>
    (x.layouts.filter fun l => !l.staging && s.refs t k.2 l.version == 0).foldl (fun s l => s.releaseLayout t k.2 x l) s) s

/-- After a reference was dropped: in GENERATE and SCORE the release waits for the step boundary. -/
def State.refDropped (s : State) (t : Nat) : State :=
  match s.phaseOf t with
  | .generate | .score => s
  | _ => s.releaseZero t

/-! Finalisation and cancels (R225, R226). -/

/-- A request ends: the state that decides it. -/
def State.endReq (s : State) (t tag : Nat) (st : ReqState) (status flags : Nat) : State :=
  s.modReq t tag fun r => { r with state := st, status := status, outFlags := r.outFlags ||| flags }

/-- Finalisation of a terminal request: the final header, REQ_END, everything it held, its tag, and the
GEN_CANCELs that wait for it. -/
def State.finalise (s : State) (r : GenReq) : State :=
  let r := { r with tEnd := s.time }
  let s := s.sendOutput r r.records.length []
  let s := s.reqEvent r 0x0301 0 0
  let s := s.freeKv r
  let s := s.setGen { s.gen with
    reqs := s.gen.reqs.filter fun x => !(x.tenant == r.tenant && x.tag == r.tag)
    shipQueue := s.gen.shipQueue.filter fun x => !(x.tenant == r.tenant && x.tag == r.tag && x.kind != 4) }
  let s := s.modStats r.tenant fun x => match r.state with
    | .complete => { x with completed := x.completed + 1, cancelLate := x.cancelLate + (if bit r.outFlags 0 then 1 else 0) }
    | .cancelled => { x with cancelled := x.cancelled + 1 }
    | _ => { x with failed := x.failed + 1 }
  -- the first cancel finalises; others of the same tag complete with REQUEST_UNKNOWN (R229)
  let s := match r.cancels with
    | [] => s
    | c :: cs => cs.foldl (fun s c => s.finish c stRequestUnknown 0 0) (s.vote c (r.status + r.headerFlags * 65536) 0 [])
  s.refDropped r.tenant

/-- Every terminal request that meets a test finalised. -/
def State.finaliseAll (s : State) (p : GenReq → Bool) : State :=
  (s.gen.reqs.filter fun r => r.state.terminal && p r).foldl State.finalise s

/-- A cancel processed (R226, 10 R308): COMPLETE with CANCEL_LATE where the final token is committed. -/
def State.processCancel (s : State) (r : GenReq) : State :=
  let s := s.modReq r.tenant r.tag fun x => { x with cancelDue := false }
  match r.state with
  | .complete => s.endReq r.tenant r.tag .complete stComplete 1
  | .cancelled | .failed => s
  | _ => s.endReq r.tenant r.tag .cancelled stCancelled 0

/-! Shipping (R214, R217 to R219). -/

/-- Bound of the queue that an item of a kind passes through, by pair. -/
def shipBound : Nat → Nat
  | 0 => 512 | 1 => 1024 | 2 => 1024 | 3 => 2048 | _ => 512

/-- Does the pair of this module and a destination hold another credit of a kind? -/
def State.shipCredit (s : State) (dst kind : Nat) : Bool :=
  (s.gen.ships.filter fun h => h.dst == dst && h.kind == kind).length < shipBound kind

def pageHeaderBytes (h : PageHeader) (fmt : Nat) : List Byte :=
  padTo 64 (fields [(2, h.tenant), (2, h.layer), (4, h.model), (8, h.tag), (4, h.version), (4, h.block), (2, h.positions),
    (1, h.kind), (1, fmt), (2, h.src), (2, h.dst), (4, h.seq)])

/-- The arena page that an item carries. -/
def State.itemPage (s : State) (h : PageHeader) : Option Nat :=
  if h.kind == 4 then
    (s.gen.publishing.find? fun p => p.2.contains h.seq).bind fun p => p.1.pages[h.block]?
  else (s.reqAt h.tenant h.tag).bind fun r =>
    if h.block == 0xFFFFFFFF then r.slots[h.layer]? else (r.pages.getD h.layer [])[h.block]?

/-- The item sent as one transfer of 65,600 bytes: a carrying copy. -/
def State.sendItem (s : State) (h : PageHeader) : State :=
  let fmt := (s.modelAt h.tenant h.model).elim 0 (·.kvFmt)
  let data := ((s.itemPage h).bind fun n => s.mem.page h.tenant (s.arenaBase h.tenant h.model + entryBytes * n)).elim (zeros entryBytes)
    fun p => s.mem.cells.readBytes p.dpa entryBytes
  (s.send ⟨h.dst, .pageShip, [], pageHeaderBytes h fmt ++ data⟩).setGen { s.gen with ships := s.gen.ships ++ [h] }

/-- Queued items sent in order as far as credit goes. -/
def State.pumpShips (s : State) : State :=
  s.gen.shipQueue.foldl (fun s h =>
    if s.shipCredit h.dst h.kind then
      let s := s.setGen { s.gen with shipQueue := s.gen.shipQueue.filter (· != h) }
      s.sendItem h
    else s) s

/-- An item queued, with its SEQ by (source, destination, kind). -/
def State.queueItem (s : State) (h : PageHeader) : State :=
  let k := (h.src, h.dst, h.kind)
  let n := tgetD s.gen.shipSeq k 0
  s.setGen { s.gen with shipQueue := s.gen.shipQueue ++ [{ h with seq := n }], shipSeq := tset s.gen.shipSeq k ((n + 1) % 2 ^ 32) }

/-- Page-list entries of a request beyond its prefix hit, by layer, and slot contents: (layer, block, positions). -/
def itemList (x : Model) (r : GenReq) : List (Nat × Nat × Nat) :=
  let p := x.pagePos
  (List.range x.layers).flatMap fun l =>
    (((List.range (r.len / p)).filter fun b => r.prefixHit / p ≤ b).map fun b => (l, b, p))
      ++ (if r.len % p == 0 then [] else [(l, 0xFFFFFFFF, r.len % p)])

/-- A request's items shipped member i to member i of another group. -/
def State.shipRequest (s : State) (r : GenReq) (kind : Nat) (old new : List Nat) : State :=
  match s.modelAt r.tenant r.model with
  | none => s
  | some x =>
    let items := itemList x r
    let moved := ((old.zip new).filter fun (a, b) => a != b).length
    let s := s.modReq r.tenant r.tag fun y => { y with toInstall := items.length * moved }
    match (old.zip new).find? fun (a, b) => a == s.dom.rank && a != b with
    | none => s
    | some (a, b) =>
      (items.foldl (fun s (l, blk, n) => s.queueItem ⟨r.tenant, l, r.model, r.tag, r.version, blk, n, kind, a, b, 0⟩) s).pumpShips

/-! Migration of sequences (R217). -/

/-- Kept groups, and new ones of the remaining modules. -/
def regroup (w : Nat) (old : List (List Nat)) (pool : List Nat) : List (List Nat) :=
  let kept := old.filter fun g => g.all pool.contains
  kept ++ poolGroups w (pool.filter fun r => !kept.flatten.contains r)

/-- Requests of dissolved groups move to MIGRATING with a new home. -/
def State.migrateReqs (s : State) (t : Nat) (groups : List (List Nat)) : State :=
  (s.gen.reqs.filter fun r => r.tenant == t && !groups.contains r.home && !r.state.terminal && r.state != .parked).foldl (fun s r =>
    match s.chooseHome t groups with
    | none => s
    | some g =>
      let s' := s.modReq t r.tag fun x => { x with
        home := g, homeDie := (s.freeDie (g.headD 0)).getD 0, since := s.time, starved := false
        state := if x.state == .decode then .migrating else x.state }
      if r.state == .decode || r.state == .migrating then s'.shipRequest r 3 r.home g else s') s

/-- The decode pool changed: groups formed again and sequences moved. -/
def State.setDecode (s : State) (t : Nat) (pool : List Nat) : State :=
  let gs := regroup (s.tp t).width (s.tp t).groups pool
  (s.modTp t fun x => { x with pools := { x.pools with decodePool := pool }, groups := gs }).migrateReqs t gs

/-- Requests queued at a module that is no longer member 0 of a prefill group stand at the tail of the
queue chosen for them (R187, R211). -/
def State.queuedPositions (s : State) (t rank : Nat) : Nat :=
  (s.gen.reqs.filter fun r => r.tenant == t && r.queueAt == rank && r.state == .queued).foldl (fun a r => a + (r.inputs.length - r.len)) 0

def State.queueLength (s : State) (rank : Nat) : Nat :=
  (s.gen.reqs.filter fun r => r.queueAt == rank && r.state == .queued).length

/-- The admission queue of a request: fewest queued prompt positions, then the lowest rank; at its home
while the prefill pool is empty (R211, R213). -/
def State.chooseQueue (s : State) (t : Nat) (home : List Nat) : Option Nat :=
  let heads := (poolGroups (s.tp t).width (s.tp t).pools.prefillPool).filterMap List.head?
  let open' := (if (s.tp t).pools.prefillPool.isEmpty then [home.headD 0] else heads).filter fun r => s.queueLength r < 8192
  (sortBy (fun r => s.queuedPositions t r * 64 + r) open').head?

def State.requeue (s : State) (t : Nat) : State :=
  let heads := (poolGroups (s.tp t).width (s.tp t).pools.prefillPool).filterMap List.head?
  let lost := s.gen.reqs.filter fun r => r.tenant == t && r.state == .queued && !r.score && !heads.isEmpty && !heads.contains r.queueAt
  lost.foldl (fun s r =>
    match s.chooseQueue t r.home with
    | none => s
    | some q => (s.modReq t r.tag fun x => { x with queueAt := q, order := s.gen.nextOrder }).setGen
        { (s.modReq t r.tag fun x => { x with queueAt := q, order := s.gen.nextOrder }).gen with nextOrder := s.gen.nextOrder + 1 }) s

def State.setPrefill (s : State) (t : Nat) (pool : List Nat) : State :=
  (s.modTp t fun x => { x with pools := { x.pools with prefillPool := pool } }).requeue t

end Sys2Proof.Machine
end

