-- ==== Sys2Proof/Machine/Generation.lean ====
section
/-! DEFINITION. Generation, scoring and serving (07): requests, steps, output, shipping and starvation. -/

namespace Sys2Proof.Machine

/-! Operands of GEN_SUBMIT (R196). -/

def Cmd.stops (c : Cmd) : List Nat := (List.range (c.u 0x44 2)).map fun i => c.u (0x48 + 4 * i) 4

def f32InUnit (w : Word) : Bool := (fv w).isFinite && !(fv w).neg && !(fv w).isZero && (fv w).cmp (fv one32) != .gt

/-- A field out of range, a reserved bit or code, a wrong alignment, or bit 56 set (R197). TEMPERATURE is a
finite value of at least 0 (08 R241). -/
def submitOperandsOk (c : Cmd) (x : Model) : Bool :=
  let flags := c.u 0xC 4
  flags / 32 == 0 && bits flags 2 2 != 3 && c.u 0x10 8 % 4 == 0 && c.u 0x20 8 % 64 == 0
    && 1 ≤ c.u 0x18 4 && c.u 0x18 4 ≤ x.maxContext - 1 && 1 ≤ c.u 0x1C 4 && c.u 0x1C 4 ≤ 2 ^ 24
    && c.u 0x38 2 ≤ 1024 && c.u 0x3A 2 ≤ 8 && c.u 0x44 2 ≤ 8
    && f32InUnit (BitVec.ofNat 32 (c.u 0x3C 4))
    && (fv (BitVec.ofNat 32 (c.u 0x34 4))).isFinite && (!(fv (BitVec.ofNat 32 (c.u 0x34 4))).neg || (fv (BitVec.ofNat 32 (c.u 0x34 4))).isZero)
    && !isHostTva (c.u 0x10 8) && !isHostTva (c.u 0x20 8) && c.u 0x10 8 < 2 ^ 57 && c.u 0x20 8 < 2 ^ 57

/-- A model of the tenant with a generation layout and the images of some roles (R197, 10 R288). -/
def State.genModel (s : State) (t m : Nat) (roles : List Nat) : Option Model :=
  (s.modelAt t m).filter fun x => x.layouts.any (!·.staging) && roles.all fun i => (x.images.getD i none).isSome

/-- A GEN_PHASE that waits stops admission (R227). -/
def State.phaseWaits (s : State) (t : Nat) : Bool := s.gen.phaseJobs.any (·.tenant == t)

/-- The hit of a lookup: nodes on its path, and pages by layer (R209). -/
def prefixPages (x : Model) (nodes : List PrefixNode) (hit : Nat) : List (List Nat) :=
  let p := x.pagePos
  let per := max 1 (256 / p)
  (List.range x.layers).map fun l => (List.range (hit / p)).map fun b =>
    let n := nodes.getD (b * p / 256) ⟨0, 0, 0, 0, 0, [], [], 0, 0, 0, false⟩
    n.pages.getD (l * per + b * p % 256 / p) 0

def roundHit (x : Model) (matched : Nat) : Nat := let g := max 256 x.pagePos; matched * 256 / g * g

/-- A lookup with its counts (R209, R232). -/
def State.lookup (s : State) (t m v : Nat) (x : Model) (tokens : List Nat) : List PrefixNode × Nat × State :=
  let (ns, mism) := s.walkPrefix t m v (tokens.length + 1) (prefixRoot m v) tokens
  let hit := roundHit x ns.length
  let path := ns.take (hit / 256)
  let s := s.setGen { s.gen with
    hitCount := s.gen.hitCount + ns.length
    mismatchCount := s.gen.mismatchCount + (if mism then 1 else 0)
    nodes := s.gen.nodes.map fun n => if path.contains n then { n with refs := n.refs + 1, lastHit := s.time } else n }
  (path, hit, s)

def State.cacheOn (s : State) (t : Nat) : Bool := !(s.tp t).pools.cachePool.isEmpty

/-- 32-bit tokens of a byte list. -/
def tokensOf (bs : List Byte) : List Nat := (List.range (bs.length / 4)).map fun i => field (4 * i) 4 bs

/-- A submit that finds no queue waits (R219). -/
def State.submitWaits (s : State) (c : CmdRef) : State :=
  if s.gen.waiting.any (·.1 == c) then s else s.setGen { s.gen with waiting := s.gen.waiting ++ [(c, s.time, false)] }

def State.submitDone (s : State) (c : CmdRef) : State := s.setGen { s.gen with waiting := s.gen.waiting.filter (·.1 != c) }

/-- A new request-table entry. -/
def GenReq.new (t tag : Nat) (score : Bool) (m v : Nat) (prompt : List Nat) (outTva : Nat) (home : List Nat) (die queue order now : Nat) : GenReq where
  tenant := t
  tag := tag
  score := score
  model := m
  version := v
  selector := 0
  flags := 0
  prompt := prompt
  maxNew := 0
  outTva := outTva
  seed := 0
  stream := 0
  temperature := 0
  topK := 0
  specK := 0
  topP := 0
  draftModel := 0
  stops := []
  state := .queued
  status := 0
  outFlags := 0
  home := home
  homeDie := die
  queueAt := queue
  order := order
  len := 0
  records := []
  prefixHit := 0
  tAdmit := now
  tFirst := 0
  tEnd := 0
  specAccepted := 0
  since := now
  starved := false
  idleSteps := 0
  cancels := []
  cancelDue := false
  path := []
  pages := []
  slots := []
  prov := []
  toInstall := 0
  parkedFrom := none
  refill := false
  values := []

def State.addReq (s : State) (r : GenReq) : State :=
  (s.setGen { s.gen with reqs := s.gen.reqs ++ [r], nextOrder := s.gen.nextOrder + 1 }).modStats r.tenant fun x =>
    { x with admitted := x.admitted + 1, hitTokens := x.hitTokens + r.prefixHit }

def genSubmitBody (s : State) (c : Cmd) : CmdRes :=
  let t := c.tenant
  let m := c.u 8 4
  let flags := c.u 0xC 4
  let draft := bits flags 2 2 == 1
  if s.phaseOf t != .generate || s.phaseWaits t then .fail stPhaseMismatch 0
  else
    match s.genModel t m [0, 1] with
    | none => .fail stModelUnknown 0
    | some x =>
      if draft && (s.genModel t (c.u 0x40 4) [3]).isNone then .fail stModelUnknown 0
      else
        match x.resolve c.verSel with
        | .error e => .fail e 0
        | .ok v =>
          if (s.reqAt t (c.u 0 8)).isSome then .fail stRequestTagBusy 0
          else if !submitOperandsOk c x then .fail stIllegalOperand 0
          else if c.u 0x18 4 + c.u 0x1C 4 > x.maxContext then .fail stContextTooLong 0
          else
            match s.mem.unmapped t (c.u 0x10 8) (4 * c.u 0x18 4), s.mem.unmapped t (c.u 0x20 8) (64 + 16 * c.u 0x1C 4) with
            | some a, _ => .fail stAddressFault a
            | none, some a => .fail stAddressFault a
            | none, none =>
              match s.readTva (some c.ref) t (c.u 0x10 8) (4 * c.u 0x18 4), s.chooseHome t (s.tp t).groups with
              | .error e, _ => CmdRes.ofErr s e
              | .ok _, none => .fail stRequestTableFull 0
              | .ok bs, some home =>
                match s.chooseQueue t home with
                | none => .wait (s.submitWaits c.ref)
                | some q =>
                  let prompt := tokensOf bs
                  let (path, hit, s) := if bit flags 0 && s.cacheOn t then s.lookup t m v x prompt else ([], 0, s)
                  let r := { GenReq.new t (c.u 0 8) false m v prompt (c.u 0x20 8) home ((s.freeDie (home.headD 0)).getD 0) q
                      s.gen.nextOrder s.time with
                    selector := c.verSel, flags := flags, maxNew := c.u 0x1C 4, seed := BitVec.ofNat 64 (c.u 0x28 8)
                    stream := c.u 0x30 4, temperature := BitVec.ofNat 32 (c.u 0x34 4), topK := c.u 0x38 2
                    specK := min (c.u 0x3A 2) (s.cfg t 0x0306), topP := BitVec.ofNat 32 (c.u 0x3C 4)
                    draftModel := c.u 0x40 4, stops := c.stops, prefixHit := hit, len := hit
                    path := path.map (·.hash), pages := prefixPages x path hit }
                  match (s.submitDone c.ref).output c r.outTva r.header with
                  | .ok s => .ok (s.addReq r) (home.headD 0 % 256 + hit * 256) 0
                  | .error e => CmdRes.ofErr s e

def execGenSubmit (c : CmdRef) (s : State) : Out := .next (runCommand 0x300 c genSubmitBody s)

/-! Cancels (R225, R226). -/

/-- The state that a processed cancel leaves; a MIGRATING request waits for its installation. -/
def State.cancelNow (s : State) (r : GenReq) : State :=
  if r.state == .migrating && r.toInstall != 0 then s else s.processCancel r

def genCancelBody (s : State) (c : Cmd) : CmdRes :=
  match s.reqAt c.tenant (c.u 0 8) with
  | none => .fail stRequestUnknown 0
  | some r =>
    if r.cancels.contains c.ref then .wait s
    else
      let s := s.modReq r.tenant r.tag fun x => { x with cancels := x.cancels ++ [c.ref], cancelDue := true }
      if r.state == .parked || s.cfg r.tenant 0x0300 == 1 then .wait (s.cancelNow { r with cancelDue := true }) else .wait s

def execGenCancel (c : CmdRef) (s : State) : Out := .next (runCommand 0x301 c genCancelBody s)

/-- BOUNDARY_CANCEL: the cancel is processed and, at the same boundary, the request finalised. -/
def execBoundaryCancel (tenant : Fin 512) (tag : Nat) (s : State) : Out :=
  .next (match s.reqAt tenant tag with
    | some r =>
      if r.cancelDue || r.state.terminal then
        (if r.cancelDue then s.cancelNow r else s).finaliseAll fun x => x.tenant == tenant && x.tag == tag
      else s
    | none => s)

/-! Phases (R227). -/

def rewardOk (x : Model) : Bool := x.published.isSome && (x.images.getD 2 none).isSome

def genPhaseBody (s : State) (c : Cmd) : CmdRes :=
  let t := c.tenant
  let p := c.u 0 4
  let toScore := p == 1
  if s.gen.phaseJobs.any (·.cmd == c.ref) then .wait s
  else if p > 1 then .fail stIllegalOperand 0
  else
    match s.phaseOf t with
    | .generate | .score =>
      if (s.phaseOf t == .score) == toScore then .ok s 0 0
      else if toScore && !((s.modelAt t (c.u 4 4)).any rewardOk) then .fail stModelUnknown 0
      else .wait (s.setGen { s.gen with phaseJobs := s.gen.phaseJobs ++ [⟨c.ref, t, toScore, c.u 4 4⟩] })
    | _ => .fail stPhaseMismatch 0

def execGenPhase (c : CmdRef) (s : State) : Out := .next (runCommand 0x302 c genPhaseBody s)

/-- The attention width of the tenant's generation: that of its first published model with a decode image. -/
def State.genWidth (s : State) (t : Nat) : Nat :=
  ((s.turn.models.filter fun (k, x) => k.1 == t && x.published.isSome && (x.images.getD 1 none).isSome).head?).elim (s.tp t).width (·.2.w)

/-- PHASE_SWITCH at the step boundary, once every live request is finalised. -/
def execPhaseSwitch (tenant : Fin 512) (s : State) : Out :=
  let t := tenant.val
  .next (match s.gen.phaseJobs.find? (·.tenant == t) with
    | none => s
    | some j =>
      if s.gen.reqs.any (·.tenant == t) then s
      else
        let s := s.setGen { s.gen with phaseJobs := s.gen.phaseJobs.filter (·.cmd != j.cmd) }
        if j.toScore then
          match (s.modelAt t j.model).filter rewardOk with
          | none => s.finish j.cmd stModelUnknown 0 0
          | some x =>
            let s := s.modTp t fun y => { y with
              width := x.w, groups := poolGroups x.w y.pools.decodePool
              pools := { y.pools with scorePool := y.pools.decodePool, decodePool := [] } }
            let s := { s with turn := { s.turn with scoring := tset s.turn.scoring t (j.model, x.published.getD 0) } }
            (s.setPhase t .score).vote j.cmd 0 0 []
        else
          let w := s.genWidth t
          let s := s.modTp t fun y => { y with
            width := w, groups := poolGroups w y.pools.scorePool
            pools := { y.pools with decodePool := y.pools.scorePool, scorePool := [] } }
          let s := { s with turn := { s.turn with scoring := tdel s.turn.scoring t } }
          (((s.setPhase t .generate).releaseZero t)).vote j.cmd 0 0 [])

/-! Scoring (R228). -/

def genScoreBody (s : State) (c : Cmd) : CmdRes :=
  let t := c.tenant
  if s.phaseOf t != .score || s.phaseWaits t then .fail stPhaseMismatch 0
  else
    match (tget s.turn.scoring t).bind fun (m, v) => (s.modelAt t m).map fun x => (m, v, x) with
    | none => .fail stModelUnknown 0
    | some (m, v, x) =>
      let len := c.u 0x10 4
      if (s.reqAt t (c.u 0 8)).isSome then .fail stRequestTagBusy 0
      else if len == 0 || len > x.maxContext || c.u 0x18 8 % 64 != 0 || c.u 8 8 % 4 != 0 || c.u 0x18 8 / 2 ^ 56 != 0 || c.u 8 8 / 2 ^ 56 != 0 then
        .fail stIllegalOperand 0
      else
        match s.mem.unmapped t (c.u 8 8) (4 * len), s.mem.unmapped t (c.u 0x18 8) 128 with
        | some a, _ => .fail stAddressFault a
        | none, some a => .fail stAddressFault a
        | none, none =>
          match s.readTva (some c.ref) t (c.u 8 8) (4 * len), s.chooseHome t (s.tp t).groups with
          | .error e, _ => CmdRes.ofErr s e
          | .ok _, none => .fail stRequestTableFull 0
          | .ok bs, some home =>
            if s.queueLength (home.headD 0) ≥ 8192 then .wait (s.submitWaits c.ref)
            else
              let r := GenReq.new t (c.u 0 8) true m v (tokensOf bs) (c.u 0x18 8) home ((s.freeDie (home.headD 0)).getD 0)
                (home.headD 0) s.gen.nextOrder s.time
              .ok ((s.submitDone c.ref).addReq r) (home.headD 0 % 256) 0

def execGenScore (c : CmdRef) (s : State) : Out := .next (runCommand 0x303 c genScoreBody s)

/-! Statistics (R231). -/

def State.genStats (s : State) (t : Nat) : List Byte :=
  let x := tgetD s.gen.stats t GenStats.zero
  fields [(8, x.admitted), (8, x.completed), (8, x.cancelled), (8, x.cancelLate), (8, x.failed), (8, x.tokens), (8, x.hitTokens),
    (8, x.validPos), (8, x.paddedPos), (8, x.proposed), (8, x.accepted), (8, x.stallUs),
    (4, (s.gen.reqs.filter (·.tenant == t)).length), (4, (s.gen.nodes.filter fun n => n.tenant == t && !n.removed).length)]

def genStatsBody (s : State) (c : Cmd) : CmdRes :=
  match s.output c (c.u 0 8) (s.genStats c.tenant) with
  | .ok s' => .ok s' 0 0
  | .error e => CmdRes.ofErr s e

def execGenStats (c : CmdRef) (s : State) : Out := .next (runCommand 0x304 c genStatsBody s)

/-! Batch groups (R221). -/

/-- Keys in ascending order as groups of at most 8 whose keys do not pass 1.25 times the smallest. -/
def batchGroups : List Nat → List (List Nat)
  | [] => []
  | k :: ks => batchGroups.go k [k] ks
where
  go (low : Nat) (cur : List Nat) : List Nat → List (List Nat)
    | [] => [cur]
    | k :: ks => if cur.length < 8 && 4 * k ≤ 5 * low then go low (cur ++ [k]) ks else cur :: go k [k] ks

/-- Padded positions of a step: GROUP_LEN less each key. -/
def padding (keys : List Nat) : Nat :=
  (batchGroups (sortBy id keys)).foldl (fun a g => a + g.foldl (fun b k => b + (g.foldl max 0 - k)) 0) 0

/-- A step's batch recorded: valid and padded positions, and the pad count of this module's groups. -/
def State.countBatch (s : State) (t : Nat) (group : List Nat) (keys : List Nat) : State :=
  let pad := padding keys
  let s := s.modStats t fun x => { x with validPos := x.validPos + keys.foldl (· + ·) 0, paddedPos := x.paddedPos + pad }
  if group.contains s.dom.rank then s.setGen { s.gen with padCount := s.gen.padCount + pad } else s

/-- A step of a pool's group: its number and time (R207, R220). -/
def State.poolRan (s : State) (t rank : Nat) : State :=
  let hit := fun (p : PoolRun) => p.tenant == t && p.rank == rank
  let runs := if s.gen.runs.any hit then updFirst hit (fun p => { p with step := p.step + 1, lastAt := s.time, starved := false }) s.gen.runs
    else s.gen.runs ++ [⟨t, rank, 1, s.time, false⟩]
  s.setGen { s.gen with runs := runs }

/-! Keys and values of a step (R205, R206, R224). -/

/-- The pages of one layer after a step: new list, slot, provisional page, pages to return, pages to take. -/
structure LayerStep where
  list : List Nat
  slot : Nat
  prov : Option Nat
  back : List Nat

/-- One layer: `chain` are the slot and the pages past it, `flush` how many of them are full. -/
def layerStep (list : List Nat) (chain : List Nat) (flush : Nat) (oldProv : Option Nat) (fresh : Nat) : LayerStep :=
  let used := oldProv.filter fun p => chain.contains p
  let idle := if flush > 0 && used.isNone then oldProv.toList else []
  match chain.drop flush with
  | [] => ⟨list ++ chain.take flush, fresh, none, idle⟩
  | slot :: rest => ⟨list ++ chain.take flush, slot, if flush > 0 then rest.head? else (rest.head?).orElse fun _ => oldProv, idle⟩

/-- The layers done so far: the state, page lists, slots and provisional pages. -/
structure KvAcc where
  s : State
  lists : List (List Nat)
  slots : List Nat
  provs : List Nat

/-- One layer of a step: its pages taken, the writes of the layer made, full pages flushed. -/
def KvAcc.layer (r : GenReq) (extra flush : Nat) (writes : List (Nat × Nat × List Byte)) (acc : KvAcc) (l : Nat) : Option KvAcc :=
  let old := r.prov[l]?
  let slotRes : Option (Nat × State) := match r.slots[l]? with
    | some k => some (k, acc.s)
    | none => acc.s.takePage r.tenant r.model
  slotRes.bind fun (slot, s) =>
    let kept := if extra == 0 then [] else old.toList
    (State.takePages r.tenant r.model (extra - kept.length) s).bind fun (more, s) =>
      let chain := slot :: (kept ++ more)
      let freshRes : Option (Nat × State) := if flush ≥ chain.length then s.takePage r.tenant r.model else some (0, s)
      freshRes.map fun (fresh, s) =>
        let s := (writes.filter (·.1 == l)).foldl (fun (s : State) (w : Nat × Nat × List Byte) =>
          match (chain[w.2.1 / entryBytes]?).bind fun k => s.mem.page r.tenant (s.arenaBase r.tenant r.model + entryBytes * k) with
          | some pg => s.setMem (s.mem.put (pg.dpa + w.2.1 % entryBytes) (w.2.2.take (entryBytes - w.2.1 % entryBytes)))
          | none => s) s
        let y := layerStep (r.pages.getD l []) chain flush old fresh
        ⟨s.givePages r.tenant r.model y.back, acc.lists ++ [y.list], acc.slots ++ [y.slot], acc.provs ++ y.prov.toList⟩

/-- Keys and values of `n` new positions written, of which `c` are committed, on this member; none where a page
cannot be allocated. -/
def State.growKv (s : State) (x : Model) (r : GenReq) (n c : Nat) (writes : List (Nat × Nat × List Byte)) : Option State :=
  let p := x.pagePos
  let extra := (r.len % p + n - 1) / p
  let flush := (r.len % p + c) / p
  ((List.range x.layers).foldlM (KvAcc.layer r extra flush writes) ⟨s, [], [], []⟩).map fun k =>
    k.s.modReq r.tenant r.tag fun q => { q with pages := k.lists, slots := k.slots, prov := k.provs }

/-- Is this module a member of a group? -/
def State.here (s : State) (g : List Nat) : Bool := g.contains s.dom.rank

/-- Does the request's work on this member read a poisoned page (R200)? -/
def State.reqPoison (s : State) (r : GenReq) : Bool :=
  (r.pages.flatten ++ r.slots ++ r.prov).any fun n => (s.pagePoison r.tenant r.model n).isSome

/-- Spill (R215): pages pushed out of LOCAL_WINDOW go to the cache module with the most free HBM. -/
def State.spill (s : State) (x : Model) (r : GenReq) (cache : Nat) : State :=
  if !(s.tp r.tenant).pools.cachePool.contains cache || !s.here r.home then s
  else
    let win := s.cfg r.tenant 0x0303
    let q := ((s.reqAt r.tenant r.tag).getD r)
    let items := (List.range x.layers).flatMap fun l =>
      let n := (q.pages.getD l []).length
      ((List.range (n - win)).filter fun b => (r.pages.getD l []).length - win ≤ b && r.prefixHit / x.pagePos ≤ b).map fun b => (l, b)
    (items.foldl (fun s (l, b) => s.queueItem ⟨r.tenant, l, r.model, r.tag, r.version, b, x.pagePos, 1, s.dom.rank, cache, 0⟩) s).pumpShips

/-! Results of a step. -/

def resultOf (rs : List StepResult) (tag : Nat) : StepResult := (rs.find? (·.tag == tag)).getD ⟨tag, [], [], [], []⟩

/-- Records committed for a request: the end condition, the output, events and statistics (R198 to R201). -/
def State.commitRecords (s : State) (x : Model) (r : GenReq) (recs : List TokRec) : State :=
  let first := r.records.length
  let all := r.records ++ recs
  let last := (recs.getLast?).elim 0 (·.token)
  let stop := !recs.isEmpty && r.stops.contains last
  let full := all.length ≥ r.maxNew
  let ctx := r.promptLen + all.length ≥ x.maxContext
  let flags := (if full then 2 else 0) ||| (if stop then 4 else 0) ||| (if ctx then 8 else 0)
  let done := stop || full || ctx
  let r' := { r with
    records := all
    tFirst := if first == 0 && !recs.isEmpty then s.time else r.tFirst
    specAccepted := r.specAccepted + (recs.filter (·.draft)).length
    outFlags := if done then r.outFlags ||| flags else r.outFlags
    state := if done then .complete else r.state
    status := if done then stComplete else r.status }
  let s := s.modReq r.tenant r.tag fun _ => r'
  let s := s.modStats r.tenant fun y => { y with tokens := y.tokens + recs.length, accepted := y.accepted + (recs.filter (·.draft)).length }
  let s := s.sendOutput r' first recs
  if bit r.flags 4 && first / 64 != all.length / 64 then s.reqEvent r' 0x0303 0 0 else s

/-- Records of a run of draws, cut after a stop token or at MAX_NEW or the context limit (R223). -/
def cutRun (r : GenReq) (limit : Nat) : List TokRec → List TokRec
  | [] => []
  | t :: ts => if limit == 0 then [] else if r.stops.contains t.token then [t] else t :: cutRun r (limit - 1) ts

/-- A request fails: it leaves the step, which is run again without it (R200). -/
def State.failReq (s : State) (r : GenReq) (status : Nat) : State := s.endReq r.tenant r.tag .failed status 0

/-! Prefix publication (R210). -/

/-- Unreferenced leaves freed, oldest last hit first, until the tree keeps within PREFIX_NODES. -/
def State.trimTree : Nat → State → Nat → State
  | 0, s, _ => s
  | fuel + 1, s, t =>
    let mine := s.gen.nodes.filter fun n => n.tenant == t && !n.removed
    if mine.length ≤ s.cfg t 0x0307 then s
    else
      let leaves := mine.filter fun n => n.refs == 0 && !mine.any fun k => k.parent == n.hash && k.model == n.model && k.version == n.version
      match (sortBy (fun (n : PrefixNode) => n.lastHit) leaves).head? with
      | none => s
      | some n =>
        let s := s.setGen { s.gen with nodes := s.gen.nodes.filter (· != n) }
        State.trimTree fuel (if n.cache == s.dom.rank then s.givePages t n.model n.pages else s) t

/-- A published node enters the tree, unless another request has added the block meanwhile. -/
def State.addNode (s : State) (n : PrefixNode) : State :=
  if s.gen.nodes.any fun k => k.tenant == n.tenant && k.model == n.model && k.version == n.version && k.hash == n.hash && k.parent == n.parent && !k.removed then s
  else
    let s := s.setGen { s.gen with nodes := s.gen.nodes ++ [n] }
    s.trimTree (s.gen.nodes.length + 1) n.tenant

/-- The nodes that a finished prefill publishes, with their pages on this member. -/
def publishNodes (x : Model) (r : GenReq) (cache now : Nat) : List PrefixNode :=
  let p := x.pagePos
  let per := max 1 (256 / p)
  let limit := roundHit x ((r.promptLen - 1) / 256) / 256
  let hs := (List.range limit).foldl (fun (acc : List Nat) b =>
    let parent := (acc.getLast?).elim (prefixRoot r.model r.version) (BitVec.ofNat 64)
    acc ++ [(blockHash parent (r.prompt.drop (256 * b))).toNat]) []
  (List.range limit).map fun b => {
    tenant := r.tenant, model := r.model, version := r.version, hash := hs.getD b 0
    parent := if b == 0 then (prefixRoot r.model r.version).toNat else hs.getD (b - 1) 0
    tokens := (r.prompt.drop (256 * b)).take 256
    pages := (List.range x.layers).flatMap fun l => (List.range per).map fun i => (r.pages.getD l []).getD (b * 256 / p + i) 0
    cache := cache, refs := 0, lastHit := now, removed := false }

def State.publish (s : State) (x : Model) (r : GenReq) (group : List Nat) (cache : Nat) : State :=
  if !bit r.flags 1 || !(s.tp r.tenant).pools.cachePool.contains cache || s.cfg r.tenant 0x0307 == 0 then s
  else
    let known := fun (n : PrefixNode) => s.gen.nodes.any fun k => k.tenant == n.tenant && k.model == n.model && k.version == n.version && k.hash == n.hash && !k.removed
    ((publishNodes x r cache s.time).filter fun n => !known n).foldl (fun s n =>
      if !s.here group then s.addNode n
      else
        let k := (s.dom.rank, cache, 4)
        let n0 := tgetD s.gen.shipSeq k 0
        let seqs := (List.range n.pages.length).map fun i => (n0 + i) % 2 ^ 32
        let s := s.setGen { s.gen with publishing := s.gen.publishing ++ [(n, seqs)] }
        ((List.range n.pages.length).foldl (fun s i => s.queueItem ⟨r.tenant, i / max 1 (256 / x.pagePos), r.model, 0, r.version, i,
          x.pagePos, 4, s.dom.rank, cache, 0⟩) s).pumpShips) s

/-! Prefill (R212, R213). -/

/-- Chunks of a step within a budget: requests in PREFILL lead, then the queue in order. -/
def takeChunks : Nat → List GenReq → List (GenReq × Nat)
  | _, [] => []
  | budget, r :: rs =>
    let n := min budget (r.inputs.length - r.len)
    if n == 0 then [] else (r, n) :: takeChunks (budget - n) rs

def State.prefillQueue (s : State) (t rank : Nat) : List GenReq :=
  let mine := s.gen.reqs.filter fun r => r.tenant == t && r.queueAt == rank && !r.score
  sortBy (fun (r : GenReq) => r.order) (mine.filter fun r => r.state == .prefilling)
    ++ sortBy (fun (r : GenReq) => r.order) (mine.filter fun r => r.state == .queued)

/-- Pages that wait for ship credit against the tenant's HBM here: stopped above half, on again below a quarter (R219). -/
def State.stallCheck (s : State) (t : Nat) : State :=
  let held := (s.gen.shipQueue.filter fun h => h.tenant == t && h.kind == 0).length * entryBytes
  let use := s.hbmUse t
  if held * 2 > use && !s.gen.stalled.contains t then s.setGen { s.gen with stalled := t :: s.gen.stalled }
  else if held * 4 < use then s.setGen { s.gen with stalled := s.gen.stalled.filter (· != t) }
  else s

/-- A chunk's commit. -/
def State.commitChunk (s : State) (group : List Nat) (colocated : Bool) (cache : Nat) (rs : List StepResult) (x : Model) (r : GenReq) (n : Nat) : State :=
  let q := resultOf rs r.tag
  let grown := if s.here group then s.growKv x r n n q.writes else some s
  match grown with
  | none => s.failReq r stBulkFull
  | some s =>
    let s := s.modReq r.tenant r.tag fun y => { y with len := r.len + n, state := .prefilling, since := if r.state == .queued then s.time else y.since, starved := false }
    let r1 := (s.reqAt r.tenant r.tag).getD r
    if r1.len < r1.inputs.length then s
    else
      let (tok, lp) := (q.pairs.getLast?).getD (0, 0)
      let s := s.publish x r1 group cache
      let s := s.modReq r.tenant r.tag fun y => { y with
        state := if colocated then .decode else .shipping, refill := false, since := s.time, starved := false, idleSteps := 0 }
      let s := s.commitRecords x ((s.reqAt r.tenant r.tag).getD r1) [⟨tok, r1.version, lp, false⟩]
      match s.reqAt r.tenant r.tag with
      | some y => if y.state == .shipping then s.shipRequest y 0 group y.home else s
      | none => s

/-- The order of R226 at a boundary of a pool: cancels that are due, then finalisation. -/
def State.boundary (s : State) (p : GenReq → Bool) : State :=
  ((s.gen.reqs.filter fun r => p r && r.cancelDue).foldl State.cancelNow s).finaliseAll p

/-- Chunks of a queue run and committed; requests whose work reads poison fail first. -/
def State.runChunks (s : State) (t rank : Nat) (group : List Nat) (colocated : Bool) (cache : Nat) (rs : List StepResult) : State :=
  let q := s.prefillQueue t rank
  let bad := if s.here group then q.filter fun r => s.reqPoison r else []
  let s := bad.foldl (fun s r => s.failReq r stMemoryPoison) s
  let chunks := takeChunks (s.cfg t 0x0302) (s.prefillQueue t rank)
  let s := s.countBatch t group (chunks.map fun (r, n) => r.len + n)
  chunks.foldl (fun s (r, n) => match s.modelAt t r.model with
    | some x => s.commitChunk group colocated cache rs x r n
    | none => s) s

/-- PREFILL_STEP of the prefill group whose member 0 is `rank`; `cache` is the cache module with the most free
HBM. -/
def execPrefillStep (tenant : Fin 512) (rank : Fin 64) (results : List StepResult) (cache : Fin 64) (s : State) : Out :=
  let t := tenant.val
  .next (match (poolGroups (s.tp t).width (s.tp t).pools.prefillPool).find? fun g => g.head? == some rank.val with
    | none => s
    | some g =>
      let s := s.stallCheck t
      if s.here g && s.gen.stalled.contains t then s
      else
        let s := (s.runChunks t rank g false cache results).poolRan t rank
        s.boundary fun r => r.tenant == t && r.queueAt == rank.val && (r.state == .queued || r.state == .prefilling || r.state.terminal))

/-! Decode (R222, R223). -/

/-- Prompt lookup: what followed the latest earlier occurrence of the last three committed tokens. -/
def promptLookup (k : Nat) (ts : List Nat) : List Nat :=
  let n := ts.length
  if n < 4 then []
  else
    let tail := ts.drop (n - 3)
    match ((List.range (n - 3)).reverse.find? fun i => (ts.drop i).take 3 == tail) with
    | some i => (ts.drop (i + 3)).take k
    | none => []

/-- Drafts of a decode step. -/
def GenReq.drafts (r : GenReq) (q : StepResult) : List Nat :=
  if r.specK == 0 then []
  else match bits r.flags 2 2 with
    | 1 => q.drafts.take r.specK
    | 2 => promptLookup r.specK r.committed
    | _ => []

/-- Accepted drafts and the draw that ends the run. -/
def acceptRun (v : Nat) : List Nat → List (Nat × Word) → List TokRec
  | [], (t, p) :: _ => [⟨t, v, p, false⟩]
  | d :: ds, (t, p) :: ps => if t == d then ⟨t, v, p, true⟩ :: acceptRun v ds ps else [⟨t, v, p, false⟩]
  | _, [] => []

/-- The sequences of a decode step: those longest without one, ties in admission order (R222). -/
def State.decodeBatch (s : State) (t : Nat) (group : List Nat) : List GenReq :=
  let ds := s.gen.reqs.filter fun r => r.tenant == t && r.home == group && r.state == .decode
  (sortBy (fun (r : GenReq) => (2 ^ 32 - r.idleSteps) * 2 ^ 64 + r.order) ds).take (s.cfg t 0x0305)

def State.commitDecode (s : State) (group : List Nat) (cache : Nat) (rs : List StepResult) (r : GenReq) : State :=
  match s.modelAt r.tenant r.model with
  | none => s
  | some x =>
    let q := resultOf rs r.tag
    let ds := r.drafts q
    let room := min (r.maxNew - r.records.length) (x.maxContext - r.promptLen - r.records.length)
    let recs := cutRun r room (acceptRun r.version ds q.pairs)
    match (if s.here group then s.growKv x r (1 + ds.length) recs.length q.writes else some s) with
    | none => s.failReq r stBulkFull
    | some s =>
      let s := s.modReq r.tenant r.tag fun y => { y with len := r.len + recs.length, idleSteps := 0 }
      let s := s.modStats r.tenant fun y => { y with proposed := y.proposed + ds.length }
      (s.commitRecords x ((s.reqAt r.tenant r.tag).getD r) recs).spill x r cache

/-! Installation (R214). -/

/-- A landed item of a request installed here: its page in the arena and in the page list. -/
def State.installItem (s : State) (h : PageHeader) (data : List Byte) (poison : List Nat) : State :=
  let s := s.modReq h.tenant h.tag fun r => { r with toInstall := r.toInstall - 1 }
  if h.dst != s.dom.rank then s
  else
    match s.takePage h.tenant h.model with
    | none => match s.reqAt h.tenant h.tag with
      | some r => s.failReq r stBulkFull
      | none => s
    | some (n, s) =>
      let s := match s.mem.page h.tenant (s.arenaBase h.tenant h.model + entryBytes * n) with
        | some p => s.setMem (poison.foldl (fun m g => m.mark (p.dpa + 256 * g)) (s.mem.put p.dpa (padTo entryBytes data)))
        | none => s
      s.modReq h.tenant h.tag fun r =>
        if h.block == 0xFFFFFFFF then { r with slots := padSet r.slots h.layer n }
        else { r with pages := padSetL r.pages h.layer (padSet (r.pages.getD h.layer []) h.block n) }
where
  padSet (l : List Nat) (i v : Nat) : List Nat := (l ++ List.replicate (i + 1 - l.length) 0xFFFFFFFF).set i v
  padSetL (l : List (List Nat)) (i : Nat) (v : List Nat) : List (List Nat) := (l ++ List.replicate (i + 1 - l.length) []).set i v

/-- The state after everything is installed: DECODE, or that from which the request was parked (R200, 10 R308). -/
def State.arrive (s : State) (r : GenReq) : State :=
  let s := if s.here r.home then s
    else (s.givePages r.tenant r.model (s.ownPages r)).modReq r.tenant r.tag fun x => { x with pages := [], slots := [], prov := [] }
  s.modReq r.tenant r.tag fun x => { x with
    state := if r.state == .shipping then .decode else (r.parkedFrom.getD .decode), parkedFrom := none
    since := s.time, starved := false, idleSteps := 0 }

/-- The commit installs what has landed for the group's requests. -/
def State.installLanded (s : State) (t : Nat) (group : List Nat) : State :=
  let mine := fun (h : PageHeader) => h.tenant == t && (s.reqAt t h.tag).any fun r => r.home == group
  let s := (s.gen.landed.filter fun x => mine x.1).foldl (fun s (h, d, p) => s.installItem h d p)
    (s.setGen { s.gen with landed := s.gen.landed.filter fun x => !mine x.1 })
  (s.gen.reqs.filter fun r => r.tenant == t && r.home == group && (r.state == .shipping || r.state == .migrating) && r.toInstall == 0).foldl State.arrive s

/-- DECODE_STEP of the decode group whose member 0 is `rank`: the batch, then prefill chunks while prefill is
co-located (R213), then the boundary in the order of R226. -/
def execDecodeStep (tenant : Fin 512) (rank : Fin 64) (results : List StepResult) (cache : Fin 64) (s : State) : Out :=
  let t := tenant.val
  .next (match (s.tp t).groups.find? fun g => g.head? == some rank.val with
    | none => s
    | some g =>
      if s.phaseOf t == .score then s
      else
        let bad := if s.here g then (s.decodeBatch t g).filter fun r => s.reqPoison r else []
        let s := bad.foldl (fun s r => s.failReq r stMemoryPoison) s
        let batch := s.decodeBatch t g
        let s := s.setGen { s.gen with reqs := s.gen.reqs.map fun r =>
          if r.tenant == t && r.home == g && r.state == .decode then { r with idleSteps := r.idleSteps + 1 } else r }
        let s := s.countBatch t g (batch.map fun r => r.len + 1 + (r.drafts (resultOf results r.tag)).length)
        let s := batch.foldl (fun s r => s.commitDecode g cache results r) s
        let s := if (s.tp t).pools.prefillPool.isEmpty then s.runChunks t rank g true cache results else s
        let s := (s.installLanded t g).poolRan t rank
        s.boundary fun r => r.tenant == t && r.home == g && (r.state != .queued || (s.tp t).pools.prefillPool.isEmpty))

/-! Score steps (R228). -/

/-- A score step of the group whose member 0 is `rank`: chunks of CHUNK_TOKENS from its queue. -/
def execScoreStep (tenant : Fin 512) (rank : Fin 64) (results : List StepResult) (s : State) : Out :=
  let t := tenant.val
  .next (match (s.tp t).groups.find? fun g => g.head? == some rank.val with
    | none => s
    | some g =>
      if s.phaseOf t != .score && !(s.phaseOf t == .thawing && !(s.tp t).pools.scorePool.isEmpty) then s
      else
        let mine := sortBy (fun (r : GenReq) => r.order) (s.gen.reqs.filter fun r => r.tenant == t && r.home == g && r.score && !r.state.terminal)
        let chunks := takeChunks (s.cfg t 0x0302) mine
        let s := s.countBatch t g (chunks.map fun (r, n) => r.len + n)
        let s := chunks.foldl (fun s (r, n) =>
          let q := resultOf results r.tag
          s.modReq t r.tag fun x =>
            if r.len + n ≥ r.promptLen then { x with len := r.len + n, state := .complete, status := stComplete, values := q.values.take 16 }
            else { x with len := r.len + n, state := .scoring, since := s.time }) s
        (s.poolRan t rank).boundary fun r => r.tenant == t && r.home == g)

/-! Output (R199). -/

/-- The records and the header written on the anchor in one commit. -/
def State.applyOutput (s : State) (u : OutputUpdate) : State :=
  let s := if u.records.isEmpty then s else s.writeCommittedAll u.tenant (u.outTva + 64 + 16 * u.first) (u.records.flatMap recBytes)
  s.writeCommittedAll u.tenant u.outTva u.header

/-- OUTPUT_AREA_COMMIT: an update from another module, or the oldest one of this module's own homes. -/
def execOutputAreaCommit (remote : Option OutputUpdate) (s : State) : Out :=
  .next (if s.dom.rank != s.dom.anchor then s
    else
      match remote, s.gen.outQueue with
      | some u, _ => s.applyOutput u
      | none, u :: us => (s.setGen { s.gen with outQueue := us }).applyOutput u
      | none, [] => s)

/-! PAGE_SHIP (R210, R214 to R216). -/

/-- A page that another module stores is mapped here as a peer page (R206, R215). -/
def State.mapPeer (s : State) (h : PageHeader) (n place : Nat) : State :=
  let a := s.arenaBase h.tenant h.model + entryBytes * n
  let k := (h.tenant, a / unitBytes)
  let page : Page := ⟨.peer, peerBase + h.dst * portSpan + place⟩
  (s.setMem (s.mem.dropTlb k)).modUnit k fun u => u.swap (a / entryBytes % 32) page

/-- PAGE_SHIP: the item of the header has landed at its destination, at `place` of its memory. Here, a request's
item waits for the next commit; a cache module stores the page at once. At the source, the credit returns. -/
def execPageShip (h : PageHeader) (data : List Byte) (poison : List Nat) (place : Nat) (s : State) : Out :=
  let mineSrc := h.src == s.dom.rank && s.gen.ships.contains h
  let s := if mineSrc then s.setGen { s.gen with ships := s.gen.ships.filter (· != h) } else s
  let s := if h.kind == 0 || h.kind == 3 then
      (if (s.reqAt h.tenant h.tag).any (!·.state.terminal) then s.setGen { s.gen with landed := s.gen.landed ++ [(h, data, poison)] } else s)
    else if h.dst == s.dom.rank && !mineSrc then
      -- spill, return or publish: stored in this module's arena
      match s.takePage h.tenant h.model with
      | none => s
      | some (n, s) =>
        match s.mem.page h.tenant (s.arenaBase h.tenant h.model + entryBytes * n) with
        | some p => s.setMem (poison.foldl (fun m g => m.mark (p.dpa + 256 * g)) (s.mem.put p.dpa (padTo entryBytes data)))
        | none => s
    else if mineSrc && h.kind == 1 then
      match (s.reqAt h.tenant h.tag).bind fun r => (r.pages.getD h.layer [])[h.block]? with
      | some n => s.mapPeer h n place
      | none => s
    else if mineSrc && h.kind == 4 then
      let ps := s.gen.publishing.map fun (n, qs) => (n, qs.filter (· != h.seq))
      let s := s.setGen { s.gen with publishing := ps.filter fun p => !p.2.isEmpty }
      (ps.filter fun p => p.2.isEmpty).foldl (fun s p => s.addNode p.1) s
    else s
  .next s.pumpShips

/-! Starvation (R220). -/

/-- REQ_STARVED: of a request by its tag, or of the tenant's waiting submits. -/
def execReqStarved (tenant : Fin 512) (tag : Option Nat) (s : State) : Out :=
  let t := tenant.val
  let limit := s.cfg t 0x0304 * ms
  .next (match tag with
    | some g =>
      match s.reqAt t g with
      | some r =>
        if (r.state == .queued || r.state == .shipping) && !r.starved && s.time > r.since + limit then
          (s.modReq t g fun x => { x with starved := true }).reqEvent r 0x0302 (if r.state == .queued then 1 else 2) ((s.time - r.since) / ms)
        else s
      | none => s
    | none =>
      match s.gen.waiting.find? fun (c, since, told) => c.fn.val == t + 1 && !told && s.time > since + limit with
      | some (c, since, _) =>
        let s' := s.setGen { s.gen with waiting := s.gen.waiting.map fun x => if x.1 == c then (x.1, x.2.1, true) else x }
        s'.reqEvent (GenReq.new t 0 false 0 0 [] 0 [] 0 0 0 0) 0x0302 3 ((s.time - since) / ms)
      | none => s)

/-- POOL_STARVED of the prefill (0) or decode (1) pool. -/
def execPoolStarved (tenant : Fin 512) (pool : Fin 2) (s : State) : Out :=
  let t := tenant.val
  let ranks := if pool = 0 then (s.tp t).pools.prefillPool else (s.tp t).pools.decodePool
  let mine := s.gen.runs.filter fun p => p.tenant == t && ranks.contains p.rank
  let waits := s.gen.reqs.filter fun r => r.tenant == t && (r.state == .queued || r.state == .shipping)
  let last := max (mine.foldl (fun a p => max a p.lastAt) 0) ((waits.map (·.since)).min?.getD 0)
  .next (if ranks.isEmpty || waits.isEmpty || mine.any (·.starved) || s.time ≤ last + s.cfg t 0x0304 * ms then s
    else
      let hd := ranks.headD 0
      let s' := if mine.isEmpty then s.setGen { s.gen with runs := s.gen.runs ++ [⟨t, hd, 0, 0, true⟩] }
        else s.setGen { s.gen with runs := s.gen.runs.map fun p => if p.tenant == t && ranks.contains p.rank then { p with starved := true } else p }
      s'.reqEvent (GenReq.new t 0 false 0 0 [] 0 [hd] 0 0 0 0) 0x0304 4 ((s.time - last) / ms))

end Sys2Proof.Machine
end

