-- ==== Sys2Proof/Machine/Sfu.lean ====
section
/-! DEFINITION. Special functions (02 R70, R71) and ndtri (08 R239). The exact value is enclosed by
integer series far below one unit in the last place; which of its two FP32 neighbours the fixed
tables deliver is a free value of Config (log entry 3). -/

namespace Sys2Proof.Machine

/-- A signed fraction: num / den with den > 0. -/
structure Frac where
  num : Int
  den : Nat
  deriving DecidableEq, Repr

/-- Fraction bits of the series. -/
def sfuBits : Nat := 320

def sfuOne : Int := 2 ^ sfuBits

/-- Fixed point to fraction. -/
def fixFrac (x : Int) : Frac := ⟨x, 2 ^ sfuBits⟩

/-- Fraction to fixed point, rounded down. -/
def Frac.fix (x : Frac) : Int := x.num * sfuOne / x.den

/-- Taylor sum of e^r for a fixed-point |r| < 1: terms r^k / k! from the k-th on. -/
def expSeries : Nat → Nat → Int → Int → Int
  | 0, _, _, _ => 0
  | fuel + 1, k, r, term =>
    if term == 0 then 0 else term + expSeries fuel (k + 1) r (term * r / (sfuOne * (k + 1 : Nat)))

/-- 2 × atanh y for a fixed-point y, |y| ≤ 1/3: terms 2 y^(2i+1) / (2i+1). -/
def atanhSeries : Nat → Nat → Int → Int → Int
  | 0, _, _, _ => 0
  | fuel + 1, i, y2, p =>
    if p == 0 then 0 else 2 * p / (2 * i + 1 : Nat) + atanhSeries fuel (i + 1) y2 (p * y2 / sfuOne)

/-- ln 2 in fixed point. -/
def ln2Fix : Int :=
  let y := sfuOne / 3
  atanhSeries 200 0 (y * y / sfuOne) y

/-- e^x for a fixed-point x, as a fraction. -/
def expFrac (x : Int) : Frac :=
  let k := (2 * x + ln2Fix) / (2 * ln2Fix)
  let m := expSeries 100 0 (x - k * ln2Fix) sfuOne
  if k ≥ 0 then ⟨m * 2 ^ k.toNat, 2 ^ sfuBits⟩ else ⟨m, 2 ^ (sfuBits + (-k).toNat)⟩

/-- ln of a positive fraction, in fixed point. -/
def lnFix (n d : Nat) : Int :=
  let k := log2Frac n d
  let (sn, sd) := scaleFrac n d k
  let y := ((sn : Int) - sd) * sfuOne / (sn + sd : Nat)
  k * ln2Fix + atanhSeries 200 0 (y * y / sfuOne) y

/-- Arctangent series of 1/q in fixed point. -/
def atanSeries : Nat → Nat → Int → Int → Int
  | 0, _, _, _ => 0
  | fuel + 1, i, q2, p =>
    if p == 0 then 0
    else (if i % 2 == 0 then p / (2 * i + 1 : Nat) else -(p / (2 * i + 1 : Nat))) + atanSeries fuel (i + 1) q2 (p / q2)

/-- π in fixed point, by Machin's formula. -/
def piFix : Int :=
  16 * atanSeries 200 0 25 (sfuOne / 5) - 4 * atanSeries 200 0 57121 (sfuOne / 239)

/-- Square root of a fixed-point value ≥ 0. -/
def sqrtFix (x : Int) : Int := isqrt (x * sfuOne).toNat

/-- Σ 2^n x^(2n) / (2n+1)!!, every term positive: erf x = 2/√π × x × e^(−x²) × this sum. -/
def erfSeries : Nat → Nat → Int → Int → Int
  | 0, _, _, _ => 0
  | fuel + 1, n, x2, term =>
    if term == 0 then 0
    else term + erfSeries fuel (n + 1) x2 (term * 2 * x2 / (sfuOne * (2 * n + 3 : Nat)))

/-- (2/√π) × e^(−x²) × Σ for x² in fixed point: erf x divided by x. -/
def erfOverX (x2 : Int) : Int :=
  let s := erfSeries 1200 0 x2 sfuOne
  let e := (expFrac (-x2)).fix
  2 * (s * e / sfuOne) * sfuOne / sqrtFix piFix

/-- Φ(x) = (1 + erf(x / √2)) / 2 in fixed point, for a fixed-point x. -/
def phiFix (x : Int) : Int :=
  let x2 := x * x / (2 * sfuOne)
  let z := x * sfuOne / sqrtFix (2 * sfuOne)
  (sfuOne + z * erfOverX x2 / sfuOne) / 2

/-- A finite FP32 value as a fraction. -/
def fvFrac : FV → Frac
  | .fin neg m e =>
    let (n, d) := fracOf m e
    ⟨if neg then -(n : Int) else n, d⟩
  | _ => ⟨0, 1⟩

/-- A result within one unit in the last place (02 R71): the value itself where the exact value is
that FP32 value; else one of its two neighbours, as `up` says, except that the zero and the overflow
that RNE would deliver are delivered (02 R53, R71 last paragraph). -/
def faithful (sat up : Bool) (x : Frac) : FRes :=
  let neg := decide (x.num < 0)
  let n := x.num.natAbs
  let near := fp32.roundMag .rne sat 0 neg n x.den
  let c := fp32.roundMag (if up then .rup else .rdn) false 0 neg n x.den
  let other := fp32.roundMag (if up then .rdn else .rup) false 0 neg n x.den
  let exact : Bool :=
    match fp32.decode near.code with
    | .fin _ m e =>
      let (a, b) := fracOf m e
      -- |a/b − n/d| ≤ 2^-100 × n/d
      ((a * x.den : Int) - n * b).natAbs * 2 ^ 100 ≤ n * b
    | _ => true
  let code := fun (r : Rounded) => r.code % 2 ^ 31
  let pick := if exact || code near == 0 || code near == 0x7F800000 || near.flags != 0 then near
    else if code c == 0 || code c == 0x7F800000 then other else c
  ⟨BitVec.ofNat 32 pick.code, pick.flags⟩

/-- The numbers of the special functions: the SFU opcodes of 03 R86. -/
inductive SfuFn where
  | exp | log | sigmoid | tanh | gelu | geluTanh | silu | recip | rsqrt | softplus | erf
  deriving DecidableEq, Repr

def SfuFn.code : SfuFn → Nat
  | .exp => 0 | .log => 1 | .sigmoid => 2 | .tanh => 3 | .gelu => 4 | .geluTanh => 5 | .silu => 6
  | .recip => 7 | .rsqrt => 8 | .softplus => 9 | .erf => 10

def fval (v : Word) : FRes := ⟨v, 0⟩

/-- Is a finite value at or above a natural number in magnitude? -/
def magGe (x : Frac) (k : Nat) : Bool := x.num.natAbs ≥ k * x.den

/-- 2z of GELU_TANH: 2 × 0.79788456 × (x + 0.044715 x³), exactly. -/
def geluTanh2z (x : Frac) : Frac :=
  ⟨2 * 79788456 * x.num * (1000000 * (x.den : Int) * x.den + 44715 * x.num * x.num),
   100000000 * 1000000 * x.den * x.den * x.den⟩

/-- σ(t) = e^t / (1 + e^t) as a fraction, for a fixed-point t. -/
def sigmoidFrac (t : Int) : Frac :=
  let e := expFrac t
  ⟨e.num, e.num.natAbs + e.den⟩

def Frac.mul (a b : Frac) : Frac := ⟨a.num * b.num, a.den * b.den⟩

/-- −0 or a value that rounds to it: sign kept, underflow set for a non-zero exact value. -/
def underflowed (neg : Bool) : FRes := ⟨if neg then 0x80000000#32 else 0, flagUNF⟩

/-- A function of a finite, non-special argument: its exact value as a fraction (02 R71). -/
def sfuExact (f : SfuFn) (x : Frac) : Frac :=
  match f with
  | .exp => expFrac x.fix
  | .log => fixFrac (lnFix x.num.natAbs x.den)
  | .sigmoid => sigmoidFrac x.fix
  | .tanh =>
    if x.num.natAbs * 2 ^ 40 < x.den then
      -- x − x³/3, exact far below one unit in the last place
      ⟨x.num * (3 * (x.den : Int) * x.den - x.num * x.num), 3 * x.den * x.den * x.den⟩
    else
      let e := expFrac (2 * x.fix)
      ⟨e.num - e.den, e.num.natAbs + e.den⟩
  | .gelu => x.mul (fixFrac (phiFix x.fix))
  | .geluTanh => x.mul (sigmoidFrac (geluTanh2z x).fix)
  | .silu => x.mul (sigmoidFrac x.fix)
  | .recip => ⟨if x.num < 0 then -(x.den : Int) else x.den, x.num.natAbs⟩
  | .rsqrt =>
    let h := log2Frac x.num.natAbs x.den / 2
    let s := isqrt (x.num.natAbs * 2 ^ (640 - 2 * h).toNat / x.den)
    -- √x = s × 2^(h − 320)
    if h - 320 ≤ 0 then ⟨2 ^ (320 - h).toNat, s⟩ else ⟨1, s * 2 ^ (h - 320).toNat⟩
  | .softplus =>
    let e := expFrac x.fix
    fixFrac (lnFix (e.num.natAbs + e.den) e.den)
  | .erf => x.mul (fixFrac (erfOverX (x.num * x.num * sfuOne / (x.den * x.den : Nat))))

/-- A special function of an FP32 lane with FP32 output (02 R70, R71). -/
def sfuF (f : SfuFn) (sat : Bool) (a : Word) : FRes :=
  let up := Config.sfuUp f.code a
  match fv a with
  | .nan => fval nan32
  | .inf neg =>
    match f, neg with
    | .exp, false => if sat then ⟨0x7F7FFFFF#32, flagSATF⟩ else fval posInf32
    | .exp, true => fval 0
    | .log, false => fval posInf32
    | .log, true => ⟨nan32, flagINV⟩
    | .sigmoid, false => fval one32
    | .sigmoid, true => fval 0
    | .tanh, false => fval one32
    | .tanh, true => fval 0xBF800000#32
    | .gelu, false => fval posInf32
    | .gelu, true => fval 0x80000000#32
    | .geluTanh, false => fval posInf32
    | .geluTanh, true => fval 0x80000000#32
    | .silu, false => fval posInf32
    | .silu, true => fval 0x80000000#32
    | .recip, n => fval (if n then 0x80000000#32 else 0)
    | .rsqrt, false => fval 0
    | .rsqrt, true => ⟨nan32, flagINV⟩
    | .softplus, false => fval posInf32
    | .softplus, true => fval 0
    | .erf, false => fval one32
    | .erf, true => fval 0xBF800000#32
  | .fin neg m e =>
    let x := fvFrac (.fin neg m e)
    let go := fun (_ : Unit) => faithful sat up (sfuExact f x)
    if m == 0 then
      match f with
      | .exp => fval one32
      | .log => ⟨negInf32, flagDZ⟩
      | .sigmoid => fval 0x3F000000#32
      | .tanh | .gelu | .geluTanh | .silu | .erf => fval a
      | .recip => ⟨if neg then negInf32 else posInf32, flagDZ⟩
      | .rsqrt => ⟨if neg then negInf32 else posInf32, flagDZ⟩
      | .softplus => faithful sat up (fixFrac ln2Fix)
    else
      match f with
      | .exp =>
        if magGe x 120 then
          if neg then underflowed false
          else let r := fp32.overflow .rne sat false; ⟨BitVec.ofNat 32 r.code, r.flags⟩
        else go ()
      | .log => if neg then ⟨nan32, flagINV⟩ else go ()
      | .sigmoid =>
        if !neg && magGe x 32 then fval one32
        else if magGe x 120 then underflowed false
        else go ()
      | .tanh => if magGe x 16 then fval (if neg then 0xBF800000#32 else one32) else go ()
      | .gelu =>
        if !neg && magGe x 8 then fval a
        else if magGe x 16 then underflowed true
        else go ()
      | .geluTanh =>
        if !neg && magGe x 8 then fval a
        else if magGe x 13 then underflowed true
        else go ()
      | .silu => if magGe x 130 then (if neg then underflowed true else fval a) else go ()
      | .recip => go ()
      | .rsqrt => if neg then ⟨nan32, flagINV⟩ else go ()
      | .softplus =>
        if !neg && magGe x 20 then fval a
        else if magGe x 120 then underflowed false
        else if neg && magGe x 20 then faithful sat up (expFrac x.fix)
        else go ()
      | .erf => if magGe x 4 then fval (if neg then 0xBF800000#32 else one32) else go ()

/-- The largest FP32 code c in [lo, hi) with Φ(c) ≤ u/2^24, by bisection; `u` ≥ 2^23. -/
def ndtriSearch : Nat → Nat → Nat → Int → Nat
  | 0, lo, _, _ => lo
  | fuel + 1, lo, hi, u =>
    if hi ≤ lo + 1 then lo
    else
      let mid := (lo + hi) / 2
      let x := (fvFrac (fp32.decode mid)).fix
      if phiFix x ≤ u then ndtriSearch fuel mid hi u else ndtriSearch fuel lo mid u

/-- The inverse of Φ at an FP32 argument, clamped to [2^-24, 1 − 2^-24] (08 R239). -/
def ndtriF (a : Word) : Word :=
  match fv a with
  | .nan => nan32
  | v =>
    let lo := FV.fin false 1 (-24)
    let hi := FV.fin false (2 ^ 24 - 1) (-24)
    let v := if v.cmp lo == .lt then lo else if v.cmp hi == .gt then hi else v
    let x := (fvFrac v).fix
    let half := sfuOne / 2
    if x == half then 0
    else
      let low := decide (x < half)
      let u := if low then sfuOne - x else x
      let c := ndtriSearch 40 0 0x40C00000 u
      let c := if Config.ndtriUp a then c + 1 else c
      BitVec.ofNat 32 (if low then 2 ^ 31 + c else c)

end Sys2Proof.Machine
end

