-- ==== Sys2Proof/Machine/Rows.lean ====
section
/-! DEFINITION. Sums and row statistics: group sums, the Assay tree, and the row operations of
02 R55, R60 to R63, R66, R72 and 04 R116 to R118. Flags are gathered beside each result. -/

namespace Sys2Proof.Machine

/-- A result with its flags as a flagged value. -/
def flag (r : FRes) : Flagged Word := fun w => (r.val, w ||| r.flags)

/-- A node of the Assay tree; an empty node is none (02 R61). -/
abbrev Node := Option Word

/-- Two nodes added with RNE, the earlier one on the left (02 R61). -/
def nodeAdd : Node → Node → Flagged Node
  | some a, some b => do return some (← flag (faddF .rne false a b))
  | some a, none => return some a
  | none, b => return b

/-- A list of nodes added in pairs; an odd one passes up unchanged (02 R61). -/
def pairUp : List Node → Flagged (List Node)
  | a :: b :: rest => do
    let x ← nodeAdd a b
    let xs ← pairUp rest
    return x :: xs
  | rest => return rest

/-- The tree of 02 R61 over nodes whose first one has block index `start`; empty nodes before it
change nothing. -/
def assayTree : Nat → Nat → List Node → Flagged Node
  | _, _, [] => return none
  | _, _, [x] => return x
  | 0, _, x :: _ => return x
  | fuel + 1, start, nodes => do
    let next ← pairUp (if start % 2 == 1 then none :: nodes else nodes)
    assayTree fuel (start / 2) next

/-- The exact sum of values rounded once to FP32 with RNE; none when there is no term. INV when a NaN
comes from operands none of which is NaN (02 R54, R55, R61). -/
def sumOnce (terms : List FV) (operandNan : Bool) : Flagged Node :=
  if terms.isEmpty then return none
  else do
    let s := exactSum terms
    let r := toF32 .rne false s
    let v ← flag ⟨r.val, r.flags ||| invFlag s operandNan⟩
    return some v

/-- The products of the pairs that are present. -/
def products (ps : List (Option (FV × FV))) : List FV := ps.filterMap fun p => p.map fun (a, b) => a.mul b

def pairsNan (ps : List (Option (FV × FV))) : Bool :=
  ps.any fun p => match p with | some (a, b) => a.isNan || b.isNan | none => false

/-- One group or block of products (02 R55, R61). -/
def dotOnce (ps : List (Option (FV × FV))) : Flagged Node := sumOnce (products ps) (pairsNan ps)

/-- A list cut into parts of n. -/
def chunks {α : Type} : Nat → Nat → List α → List (List α)
  | 0, _, _ => []
  | fuel + 1, n, xs => if xs.isEmpty then [] else xs.take n :: chunks fuel n (xs.drop n)

/-- Parts at the multiples of 64 of the logical index, for a list that starts at index k0 (02 R60). -/
def blocksOf {α : Type} (k0 : Nat) (xs : List α) : List (List α) :=
  let head := 64 - k0 % 64
  if k0 % 64 == 0 then chunks (xs.length + 1) 64 xs
  else xs.take head :: chunks (xs.length + 1) 64 (xs.drop head)

/-- A normal-mode accumulation of group sums in increasing k order (02 R55). -/
def normalDot (group : Nat) (acc : Word) (ps : List (Option (FV × FV))) : Flagged Word :=
  (chunks (ps.length + 1) group ps).foldlM (fun acc g => do
    match ← dotOnce g with
    | none => return acc
    | some v => flag (faddF .rne false acc v)) acc

/-- The FP32 matrix mode: one fused multiply-add for each product (02 R57). -/
def fmaDot (acc : Word) (ps : List (Option (Word × Word))) : Flagged Word :=
  ps.foldlM (fun acc p => match p with
    | none => return acc
    | some (a, b) => flag (ffmaF .rne false a b acc)) acc

/-! Row sums (02 R72). -/

/-- The sum of a row of FP32 terms: none is an excluded position. Assay: blocks of 64 summed exactly,
tree of R61; normal mode: increasing position order from the first term. -/
def rowSum (assay : Bool) (k0 : Nat) (xs : List (Option Word)) : Flagged Word :=
  if assay then do
    let nodes ← (blocksOf k0 xs).mapM fun b =>
      let vs := b.filterMap fun x => x.map fv
      sumOnce vs (vs.any FV.isNan)
    let r ← assayTree 64 (k0 / 64) nodes
    return r.getD 0
  else
    match xs.filterMap id with
    | [] => return 0
    | x :: rest => rest.foldlM (fun acc y => flag (faddF .rne false acc y)) x

/-- The dot product of two rows; a position excluded in either contributes no product (04 R117). -/
def rowDot (assay : Bool) (k0 : Nat) (xs : List (Option (Word × Word))) : Flagged Word :=
  if assay then do
    let nodes ← (blocksOf k0 xs).mapM fun b => dotOnce (b.map fun p => p.map fun (a, c) => (fv a, fv c))
    let r ← assayTree 64 (k0 / 64) nodes
    return r.getD 0
  else
    match xs.filterMap id with
    | [] => return 0
    | (a, b) :: rest => do
      let first ← flag (fmulF .rne false a b)
      rest.foldlM (fun acc (p : Word × Word) => flag (ffmaF .rne false p.1 p.2 acc)) first

/-- The maximum of a row: exact, +0 above −0, NaN if an element is NaN, −Inf for no element
(02 R72, 04 R118). -/
def rowMax (xs : List (Option Word)) : Word :=
  match xs.filterMap id with
  | [] => negInf32
  | x :: rest => rest.foldl fmaxW x

/-- A value divided by a count, in one RNE operation (02 R72). -/
def divN (a : Word) (n : Nat) : Flagged Word :=
  match fv a with
  | .fin s m e =>
    let (num, den) := fracOf m e
    let r := fp32.roundMag .rne false 0 s num (den * n)
    flag ⟨BitVec.ofNat 32 r.code, r.flags⟩
  | .nan => return nan32
  | .inf _ => return a

def addF (a b : Word) : Flagged Word := flag (faddF .rne false a b)
def subF (a b : Word) : Flagged Word := flag (fsubF .rne false a b)
def mulF (a b : Word) : Flagged Word := flag (fmulF .rne false a b)
def sfu (f : SfuFn) (a : Word) : Flagged Word := flag (sfuF f false a)

/-- A function over the positions that are present. -/
def mapRow (xs : List (Option Word)) (f : Word → Flagged Word) : Flagged (List (Option Word)) :=
  xs.mapM fun x => match x with
    | none => return none
    | some v => do return some (← f v)

/-- A multiplication by a gain where there is one; an absent gain multiplies nothing (02 R72). -/
def mulOpt (v : Word) : Option Word → Flagged Word
  | none => return v
  | some g => mulF v g

def addOpt (v : Word) : Option Word → Flagged Word
  | none => return v
  | some b => addF v b

def rowEmpty (xs : List (Option Word)) : Bool := xs.all Option.isNone

/-- y[i] = exp(x[i] − m) × reciprocal(Σ) (02 R72). -/
def rowSoftmax (assay : Bool) (k0 : Nat) (xs : List (Option Word)) : Flagged (List (Option Word)) :=
  if rowEmpty xs then do raiseFlag flagINV; return xs
  else do
    let m := rowMax xs
    let e ← mapRow xs fun x => do sfu .exp (← subF x m)
    let s ← rowSum assay k0 e
    let r ← sfu .recip s
    mapRow e fun v => mulF v r

/-- y[i] = (x[i] − m) − log(Σ exp(x[i] − m)) (02 R72). -/
def rowLogSoftmax (assay : Bool) (k0 : Nat) (xs : List (Option Word)) : Flagged (List (Option Word)) :=
  if rowEmpty xs then do raiseFlag flagINV; return xs
  else do
    let m := rowMax xs
    let d ← mapRow xs fun x => subF x m
    let e ← mapRow d (sfu .exp)
    let s ← rowSum assay k0 e
    let l ← sfu .log s
    mapRow d fun v => subF v l

/-- Positions with their gain and offset. -/
def withOperands (xs gs bs : List (Option Word)) : List (Option Word × Option Word × Option Word) :=
  xs.zip (gs.zip bs)

/-- A gain or an offset for every position; absent operands are none everywhere (02 R72). -/
def operandRow (o : Option (List (Option Word))) (n : Nat) : List (Option Word) := o.getD (List.replicate n none)

def validCount (xs : List (Option Word)) : Nat := (xs.filter Option.isSome).length

/-- y[i] = (x[i] × r) × g[i] with r = rsqrt(Σ x² / n + eps) (02 R72). -/
def rowRms (assay : Bool) (k0 : Nat) (eps : Word) (xs : List (Option Word)) (g : Option (List (Option Word))) :
    Flagged (List (Option Word)) :=
  if rowEmpty xs then do raiseFlag flagINV; return xs
  else do
    let n := validCount xs
    let sq ← mapRow xs fun x => mulF x x
    let q ← divN (← rowSum assay k0 sq) n
    let r ← sfu .rsqrt (← addF q eps)
    (xs.zip (operandRow g xs.length)).mapM fun (x, gi) => match x with
      | none => return none
      | some v => do return some (← mulOpt (← mulF v r) gi)

/-- y[i] = (d[i] × r) × g[i] + beta[i] with d = x − mean (02 R72). -/
def rowLayerNorm (assay : Bool) (k0 : Nat) (eps : Word) (xs : List (Option Word)) (g b : Option (List (Option Word))) :
    Flagged (List (Option Word)) :=
  if rowEmpty xs then do raiseFlag flagINV; return xs
  else do
    let n := validCount xs
    let mu ← divN (← rowSum assay k0 xs) n
    let d ← mapRow xs fun x => subF x mu
    let sq ← mapRow d fun x => mulF x x
    let q ← divN (← rowSum assay k0 sq) n
    let r ← sfu .rsqrt (← addF q eps)
    (withOperands d (operandRow g xs.length) (operandRow b xs.length)).mapM fun (x, gi, bi) => match x with
      | none => return none
      | some v => do return some (← addOpt (← mulOpt (← mulF v r) gi) bi)

/-! Assay partial stacks (02 R63). -/

abbrev Stack := List (Nat × Node)

/-- A node pushed at a level: two at one level are added and carried, the earlier on the left. -/
def pushNode : Stack → Nat → Node → Flagged Stack
  | [], lvl, v => return [(lvl, v)]
  | (l, u) :: st, lvl, v =>
    if l = lvl then do
      let x ← nodeAdd u v
      pushNode st (lvl + 1) x
    else return (lvl, v) :: (l, u) :: st

/-- The remaining levels merged from the lowest upward (02 R63). -/
def closeStack : Stack → Flagged Node
  | [] => return none
  | (_, v) :: st => st.foldlM (fun acc (p : Nat × Node) => nodeAdd p.2 acc) v

/-- Blocks of products pushed onto a partial stack. -/
def pushBlocks (st : Stack) (bs : List (List (Option (FV × FV)))) : Flagged Stack :=
  bs.foldlM (fun st b => do pushNode st 0 (← dotOnce b)) st

/-- ceil(log2 n), 0 for n ≤ 1. -/
def ceilLog2 (n : Nat) : Nat := if n ≤ 1 then 0 else Nat.log2 (n - 1) + 1

end Sys2Proof.Machine
end

