-- ==== Sys2Proof/Machine/CollOps.lean ====
section
/-! DEFINITION. The collective protocol (11 R339 to R347; 02 R64; 03 R105 to R108): partitions, what each
member sends, reduction, results, failures and heat notices. -/

namespace Sys2Proof.Machine

/-! Fields of KIND (11 R340). -/

def collKind (ctype rop : Nat) (assay : Bool) : Nat := ctype + 8 * rop + (if assay then 32 else 0)
def kindType (k : Nat) : Nat := k % 8
def kindRop (k : Nat) : Nat := k / 8 % 4
def kindAssay (k : Nat) : Bool := k / 32 % 2 == 1

/-- The partition of a tenant's group that this module is a member of, and its index (11 R337). -/
def State.membership (s : State) (tenant g : Nat) : Option (List Nat × Nat × Nat) :=
  (s.coll.groups.find? fun x => x.tenant == tenant && x.id == g).bind fun x =>
    (x.partitions.find? (·.contains s.selfAddr)).map fun p => (p, p.findIdx (· == s.selfAddr), x.timeoutUs)

/-- The lane of a tile: its ordinal among the command's tiles on this module (11 R339). -/
def State.laneOf (s : State) (c : CmdRef) (t : Nat) : Nat := (s.localTiles c).findIdx fun i => i.val == t

/-! Rows (03 R105, 11 R341). -/

/-- All-reduce of more than 8 KiB moves in two phases. -/
def twoPhase (kind rows rowLen : Nat) : Bool := kindType kind == 2 && rows * rowLen * 4 > 8192

/-- Elements of part j of G: whole rows, near equal. -/
def partSpan (rows rowLen g j : Nat) : Nat × Nat := (rows * j / g * rowLen, rows * (j + 1) / g * rowLen)

def slice {α : Type} (xs : List α) (p : Nat × Nat) : List α := (xs.drop p.1).take (p.2 - p.1)

/-- What member i sends to member j of its contribution; none where it sends nothing (R341). -/
def collShare (kind rows rowLen g i j : Nat) (data : List (Option Word)) : Option (List (Option Word)) :=
  match kindType kind with
  | 0 => some data
  | 1 | 3 => some (slice data (partSpan rows rowLen g j))
  | 2 => some (if twoPhase kind rows rowLen then slice data (partSpan rows rowLen g j) else data)
  | 4 => if i == 0 then some data else none
  | _ => if j == 0 then some data else none

/-- The members whose parts member i needs before its result stands. -/
def collNeeds (kind g i : Nat) : List Nat :=
  match kindType kind with
  | 4 => [0]
  | 5 => if i == 0 then List.range g else []
  | _ => List.range g

/-! Reduction (11 R342, 02 R64). -/

/-- Two values of a normal reduction; an absent one is no term. -/
def ropOne (rop : Nat) (a b : Option Word) : Flagged (Option Word) :=
  match a, b with
  | some x, some y =>
    match rop with
    | 1 => return some (fmaxW x y)
    | 2 => return some (fminW x y)
    | _ => do return some (← addF x y)
  | some x, none => return some x
  | none, y => return y

def zipRows (f : Option Word → Option Word → Flagged (Option Word)) (a b : List (Option Word)) : Flagged (List (Option Word)) :=
  (a.zip b).mapM fun (x, y) => f x y

/-- Sum, maximum or minimum in ascending member index (R342). -/
def reduceNormal (rop : Nat) : List CollPart → Flagged (List (Option Word))
  | [] => return []
  | p :: ps => ps.foldlM (fun acc q => zipRows (ropOne rop) acc q.data) p.data

/-- A subtree: level, position, values. -/
abbrev SubTree := Nat × Nat × List (Option Word)

/-- The first subtree, in order of position, that does not begin where the one before it ends. -/
def misplaced : Nat → List SubTree → Option SubTree
  | _, [] => none
  | start, (h, c, v) :: rest => if c * 2 ^ h == start then misplaced (start + 2 ^ h) rest else some (h, c, v)

/-- One level of the tree: pairs at level h are added; a lone last node passes up. -/
def mergeLevel (h : Nat) : List SubTree → Flagged (List SubTree)
  | (l, c, v) :: (l', c', v') :: rest =>
    if l = h then
      if l' = h then do
        let x ← zipRows nodeAdd v v'
        return (h + 1, c / 2, x) :: (← mergeLevel h rest)
      else return (l, c, v) :: (← mergeLevel h ((l', c', v') :: rest))
    else return (l, c, v) :: (← mergeLevel h ((l', c', v') :: rest))
  | [(l, c, v)] => return [(if l = h then h + 1 else l, if l = h then c / 2 else c, v)]
  | [] => return []

def mergeTree : Nat → Nat → List SubTree → Flagged (List (Option Word))
  | 0, _, ts => return (ts.head?.map (·.2.2)).getD []
  | fuel + 1, h, ts =>
    match ts with
    | [] => return []
    | [(_, _, v)] => return v
    | _ => do mergeTree fuel (h + 1) (← mergeLevel h ts)

/-- Insertion by first block. -/
def insertTree (x : SubTree) : List SubTree → List SubTree
  | [] => [x]
  | y :: ys => if x.2.1 * 2 ^ x.1 < y.2.1 * 2 ^ y.1 then x :: y :: ys else y :: insertTree x ys

/-- The result of a reduction, or the contribution at fault (02 R64). -/
def reduceParts (kind : Nat) (parts : List CollPart) : Except Exc (List (Option Word)) :=
  if kindAssay kind then
    let ts := parts.foldl (fun acc p => insertTree (p.h, p.c, p.data) acc) []
    match misplaced 0 ts with
    | none => .ok ((mergeTree 40 0 ts : Flagged _).go).1
    | some (h, c, _) => .error (excAssayColl (c * 2 ^ h) c h false)
  else .ok ((reduceNormal (kindRop kind) parts : Flagged _).go).1

/-! Instances. -/

def CollInst.g (i : CollInst) : Nat := i.members.length

def CollInst.part (i : CollInst) (phase m : Nat) : Option CollPart := i.parts.find? fun p => p.phase == phase && p.member == m

/-- The parts of a phase from the members named, in member order; none while one is missing. -/
def CollInst.gathered (i : CollInst) (phase : Nat) (ms : List Nat) : Option (List CollPart) := ms.mapM (i.part phase)

/-- Does the result of the instance stand, and which values (03 R105, R108)? -/
def CollInst.result (i : CollInst) : Option (Except Exc (List (Option Word))) :=
  let concat := fun (ps : List CollPart) => ps.flatMap (·.data)
  match kindType i.kind with
  | 1 => (i.gathered 0 (List.range i.g)).map (reduceParts i.kind)
  | 2 =>
    if twoPhase i.kind i.rows i.rowLen then (i.gathered 1 (List.range i.g)).map fun ps => .ok (concat ps)
    else (i.gathered 0 (List.range i.g)).map (reduceParts i.kind)
  | 5 => (i.gathered 0 (collNeeds i.kind i.g i.index)).map fun ps => if ps.isEmpty then .ok [] else reduceParts i.kind ps
  | _ => (i.gathered 0 (collNeeds i.kind i.g i.index)).map fun ps => .ok (concat ps)

/-- A contribution sent (11 R340). -/
def State.sendPart (s : State) (i : CollInst) (dst : Nat) (p : CollPart) : State :=
  s.send ⟨dst, .collContribution,
    refArgs i.key.cmd ++ [i.key.group, i.key.lane, i.key.seq, p.member, p.phase, p.kind, p.fmt, p.rows, p.rowLen, p.c, p.h],
    p.data.flatMap fun x => leBytes 4 (x.getD 0).toNat⟩

/-- Everything this member sends in phase 0, its own share included among its parts. -/
def State.sendShares (s : State) (i : CollInst) : State × CollInst :=
  (List.range i.g).foldl (fun (s, x) j =>
    match collShare i.kind i.rows i.rowLen i.g i.index j i.own.data with
    | none => (s, x)
    | some d =>
      let p := { i.own with data := d }
      if j == i.index then (s, { x with parts := x.parts ++ [p] }) else (s.sendPart i (i.members.getD j 0) p, x)) (s, i)

/-- Phase 1 of a two-phase all-reduce: this member's reduced part goes to all. -/
def State.secondPhase (s : State) (i : CollInst) : Except Exc (State × CollInst) :=
  if !twoPhase i.kind i.rows i.rowLen || (i.part 1 i.index).isSome then .ok (s, i)
  else
    match i.gathered 0 (List.range i.g) with
    | none => .ok (s, i)
    | some ps =>
      match reduceParts i.kind ps with
      | .error e => .error e
      | .ok d =>
        let p : CollPart := { i.own with phase := 1, data := d }
        let s := (List.range i.g).foldl (fun s j => if j == i.index then s else s.sendPart i (i.members.getD j 0) p) s
        .ok (s, { i with parts := i.parts ++ [p] })

def State.setInst (s : State) (i : CollInst) : State :=
  s.setColl { s.coll with insts := updFirst (·.key == i.key) (fun _ => i) s.coll.insts }

def State.dropInst (s : State) (k : CollKey) : State :=
  s.setColl { s.coll with insts := s.coll.insts.filter (·.key != k) }

/-- The members of the partition, and the modules that run the command (11 R343). -/
def State.collAudience (s : State) (i : CollInst) : List Nat :=
  let ranks := (s.cmdAt i.key.cmd).elim [] fun c => (s.others c).map s.addrOf
  (i.members ++ ranks).eraseDups.filter (· != s.selfAddr)

/-- The exception of a failed instance by its code; only COLL_ABORT has a cause (03 R109). -/
def failExc (code group seq cause : Nat) : Exc :=
  excColl code group seq (if code == stCollAbort then (Config.abortCause cause).toNat else 0)

/-- The fence of an instance FAILED; the instance ends here (11 R343). -/
def State.failFence (s : State) (i : CollInst) (e : Exc) : State :=
  let t := Fin.ofNat 160 i.tile
  let x := s.tiles[t]
  let x := x.setFence (Fin.ofNat 64 i.fence) (.failed e)
  let x := x.setOutstanding (x.sync.outstanding.filter fun a => !(a.kind == .coll && a.fence == i.fence))
  (s.setTile t x).dropInst i.key

/-- A failure that this member detects: it tells every member and every module of the command. -/
def State.detectFail (s : State) (i : CollInst) (e : Exc) : State :=
  (s.collAudience i).foldl (fun s a => s.send ⟨a, .collFail,
    refArgs i.key.cmd ++ [i.key.group, i.key.lane, i.key.seq, e.code], []⟩) (s.failFence i e)

/-- A contribution received for an instance that this module has issued (11 R340). -/
def State.acceptPart (s : State) (i : CollInst) (p : CollPart) : State :=
  if p.kind != i.kind || p.fmt != i.fmt || p.rows != i.rows || p.rowLen != i.rowLen then
    s.detectFail i (excColl 0x08 i.key.group i.key.seq 0)
  else if (i.part p.phase p.member).isSome then s
  else
    match s.secondPhase { i with parts := i.parts ++ [p] } with
    | .error e => s.detectFail i e
    | .ok (s', i') => s'.setInst i'

/-! Heat notices (11 R346, 15 R453). -/

/-- The level that the module's notices carry, and the stack or die: 4 where a compute die's limit of
15 R455 lowers its clock, else the level of the hottest stack. -/
def State.heatLevel (s : State) : Option (Nat × Nat) :=
  match (List.range 4).find? fun d => (s.pwr.dies[d]?).any (·.ceil.isSome) with
  | some d => some (4, 16 + d)
  | none =>
    let hot := (List.range 16).filter fun k => (s.pwr.hbmTherm[k]?).any fun x => x.level != .calm && x.level != .trip
    (argmax (fun k => (s.pwr.hbmTherm[k]?).elim 0 fun x => x.level.code) hot).map fun k =>
      ((s.pwr.hbmTherm[k]?).elim 0 fun x => x.level.code, k)

/-- A notice for one instance to every member of its partition. -/
def State.sendHeat (s : State) (i : CollInst) : State :=
  match s.heatLevel with
  | none => s
  | some (l, u) => i.members.foldl (fun s a => s.send ⟨a, .heatNotice,
      refArgs i.key.cmd ++ [i.key.group, i.key.lane, i.key.seq, l, u], []⟩) s

/-- The instance of a fused instruction as it issues (11 R339, R343, R345): contributions and failures that
came before it apply at once. -/
def State.issueInst (s : State) (i : CollInst) : State :=
  let (s, i) := s.sendShares i
  let mine := s.coll.early.filter (·.1 == i.key)
  let s := s.setColl { s.coll with
    insts := s.coll.insts ++ [i]
    early := s.coll.early.filter (·.1 != i.key) }
  let s := s.sendHeat i
  match s.coll.earlyFail.find? (·.1 == i.key) with
  | some (_, code, cause) =>
    (s.setColl { s.coll with earlyFail := s.coll.earlyFail.filter (·.1 != i.key) }).failFence i
      (failExc code i.key.group i.key.seq cause)
  | none =>
    let s := match s.secondPhase i with
      | .ok (s', i') => s'.setInst i'
      | .error e => s.detectFail i e
    mine.foldl (fun s (_, p) =>
      match s.coll.insts.find? (·.key == i.key) with
      | some x => s.acceptPart x p
      | none => s) s

end Sys2Proof.Machine
end

