-- ==== Sys2Proof/Machine/TileOps.lean ====
section
/-! DEFINITION. Operations that tile instructions share: reserved fields, scalar operands, lane writes,
vector loads and stores, bank reductions, stores of a bank and conversions (02, 03). -/

namespace Sys2Proof.Machine

/-- What issuing an instruction does to its tile. -/
inductive TileRes where
  | next (t : Tile)                -- the effect is done; the program goes on at the next instruction
  | jump (t : Tile) (target : Nat) -- it goes on at the target
  | wait                           -- the tile is blocked; the instruction issues again
  | raise (e : Exc)                -- an exception, before any effect (03 R109)
  | finish (t : Tile)              -- END
  deriving Repr

/-- What an instruction sees beside its tile: the device time, the time its clock has stood still, its rank, and the tiles that run the
same command. -/
structure TileCtx where
  time : Nat
  /-- time for which the governor has stopped tile clocks -/
  stopped : Nat
  rank : Nat
  index : Nat
  /-- (rank, module tile index) of the command's tiles -/
  peers : List (Nat × Nat)
  deriving DecidableEq, Repr

def TileRes.of : Except Exc Tile → TileRes
  | .ok t => .next t
  | .error e => .raise e

/-- SB, or IMM sign-extended where IMMSEL is 1 (03 R85). -/
def Tile.sbOrImm (t : Tile) (w : Operand) : DWord :=
  if opBit w 34 then (opImm w).signExtend 64 else t.getS (opFin5 w 35)

/-- A pad address from a scalar and a signed immediate. -/
def Tile.saPlusImm (t : Tile) (w : Operand) (saLo : Nat) : DWord := t.getS (opFin5 w saLo) + (opImm w).signExtend 64

/-- A pad address for `size` bytes: misaligned is an illegal operand in register `reg` (log entry 21),
outside the pad or a write into the parameter area is PAD_BOUNDS (03 R109). -/
def padAddr (a : DWord) (size align : Nat) (write : Bool) (reg : Nat) : Except Exc Nat :=
  if a.toNat % align != 0 then .error (illScalar reg)
  else if a.toNat + size > (if write then paramBase else padSize) then .error (excPadBounds a.toInt)
  else .ok a.toNat

/-! Vector lanes (03 R85, R92). -/

abbrev Lanes := Vector Word 512

/-- Lane results written where LMASK selects (03 R85). -/
def Tile.writeLanes (t : Tile) (vd : Fin 32) (mask : BitVec 512) (x : Lanes) : Tile :=
  t.setV vd (Vector.ofFn fun (i : Fin 512) => if mask.getLsbD i then x[i] else t.regs.v[vd][i])

/-- A lane function with its flags, over all lanes (02 R54: flags of several lanes are ORed; which lanes
are written is LMASK's, log entry 22). -/
def Tile.mapLanes (t : Tile) (w : Operand) (f : Fin 512 → FRes) : Tile :=
  let rs := Vector.ofFn f
  let fl := rs.foldl (fun a r => a ||| r.flags) 0
  (t.writeLanes (opFin5 w 45) (t.getLM (opFin3 w 23)) (rs.map FRes.val)).orFlags fl

def Tile.va (t : Tile) (w : Operand) : Lanes := t.regs.v[opFin5 w 40]
def Tile.vb (t : Tile) (w : Operand) : Lanes := t.regs.v[opFin5 w 35]
def Tile.vc (t : Tile) (w : Operand) : Lanes := t.regs.v[opFin5 w 30]

/-- The rounding mode of a VECTOR FP32 instruction: reserved codes and SR are illegal (02 R50, R51). -/
def vecMode (w : Operand) : Except Exc RMode :=
  match RMode.ofCode (opBits w 27 3) with
  | none | some .sr => .error (illField 27)
  | some m => .ok m

/-- The elements that VLD, VST and RUNIF take from a cursor (03 R92): the start and how many. -/
def Tile.cursorSpan (t : Tile) (slot : Fin 64) (w : Walk) : Except Exc (Nat × Nat) :=
  let c := t.regs.cursors[slot].toNat
  if c ≥ w.total then .error (excPadBounds w.d.base) else .ok (c, min 512 (w.total - c))

def Tile.advance (t : Tile) (slot : Fin 64) (n : Nat) : Tile :=
  t.setCursor slot (t.regs.cursors[slot] + BitVec.ofNat 32 n)

/-! Walks as rows of FP32 lanes. -/

/-- Row r of a walk as FP32 words, none where excluded, with the flags of the widening. -/
def Walk.row32 (w : Walk) (m : Memory) (r : Nat) : Flagged (List (Option Word)) :=
  (w.values m .lanes (r * w.len) w.len).mapM fun x => match x with
    | none => return none
    | some v => do return some (← flag (toF32 .rne false v))

/-- Indices and values of a row's written positions in a destination of row length `len`. -/
def rowTargets (len r : Nat) (xs : List (Option Word)) : List (Nat × FV) :=
  (List.range xs.length).zip xs |>.filterMap fun (j, x) => x.map fun v => (r * len + j, fv v)

/-! Banks (03 R93 to R96). -/

/-- Value (i, j) of a bank; +0 where nothing stands (03 R95). -/
def Bank.at (b : Bank) (i j : Nat) : Word :=
  match b.dims with
  | none => 0
  | some (_, n) => b.acc.getD (i * n + j) 0

def Bank.stackAt (b : Bank) (i j : Nat) : Stack :=
  match b.dims with
  | none => []
  | some (_, n) => b.partials.getD (i * n + j) []

/-- The product tab of the bank's per-tensor scales (02 R62). -/
def Bank.tab (b : Bank) : FRes :=
  match b.scales with
  | none => ⟨one32, 0⟩
  | some (ta, tb) => fmulF .rne false ta tb

/-- The position recorded at CLOSE (03 R94). -/
def Bank.closeAt (b : Bank) : Bank :=
  let n := (b.kNext + 63) / 64 - b.kFirst / 64
  let h := ceilLog2 n
  { b with closed := true, blocks := n, level := h, pos := b.kFirst / 64 / 2 ^ h
           fractional := b.kFirst / 64 % 2 ^ h != 0 }

/-- Every stack merged; the values stand in `acc` and the roots, empty ones too, in `partials`. -/
def Bank.close (b : Bank) : Flagged Bank := do
  let roots ← b.partials.mapM closeStack
  let c := b.closeAt
  return { c with acc := roots.map (·.getD 0), partials := roots.map fun r => [(c.level, r)] }

/-- Checks of an Assay instruction over the range [k0, k0 + k) (02 R63, 03 R94): a range that does not
begin at a multiple of 64 or continue the previous one, a closed bank, or more than 2^30 elements. -/
def Bank.assayOrder (b : Bank) (continues : Bool) (k0 k : Nat) : Option Exc :=
  let reached := if continues then b.kNext / 64 else k0 / 64
  let first := if continues then b.kFirst else k0
  if k0 % 64 != 0 || (continues && (b.closed || k0 != b.kNext)) || k0 + k - first > 2 ^ 30
  then some (excAssay reached) else none

/-- Operand formats of MMA (02 R34, R35, R56, R65): the group size, or none for the FP32 matrix mode. -/
def mmaGroup (a b : Walk) (assay : Bool) : Except Exc (Option Nat) :=
  let wide := fun (w : Walk) => w.d.fmtCode == 1 || w.d.fmtCode == 2
  if !a.f.tensorInput then .error (illDesc 0x04 a.d.slot)
  else if !b.f.tensorInput then .error (illDesc 0x04 b.d.slot)
  else if (a.d.fmtCode == 0) != (b.d.fmtCode == 0) then .error (illDesc 0x04 a.d.slot)
  else if a.d.fmtCode == 0 then (if assay then .error (illField 34) else .ok none)
  else if wide a != wide b then .error (illDesc 0x04 a.d.slot)
  else .ok (some (if wide a then 16 else 32))

/-- The pairs of row i of A and row j of B over k positions; none where either is excluded. -/
def mmaPairs (a b : List (Option FV)) : List (Option (FV × FV)) :=
  (a.zip b).map fun (x, y) => match x, y with
    | some u, some v => some (u, v)
    | _, _ => none

/-- A matrix multiply into a bank (03 R93, R94; 02 R55 to R57, R61 to R65). `w` gives BANK, ACC, ASSAY,
CLOSE, M, N and K; `pewter` ignores the Assay bit (02 R69). -/
def mmaBank (m : Memory) (a b : Walk) (old : Bank) (w : Operand) (pewter : Bool) : Except Exc (Bank × Word) :=
  let acc := opBit w 35
  let assay := opBit w 34 && !pewter
  let close := opBit w 33
  let rows := opBits w 26 7 + 1
  let cols := opBits w 19 7 + 1
  let k := opBits w 2 17 + 1
  match mmaGroup a b assay with
  | .error e => .error e
  | .ok group =>
    if a.rows < rows || a.len < k then .error (illDesc 0x70 a.d.slot)
    else if b.rows < cols || b.len < k then .error (illDesc 0x70 b.d.slot)
    else
      let scales := (a.tscale m, b.tscale m)
      let differs := old.assay != assay || (old.dims.any (· != (rows, cols))) || (old.scales.any (· != scales))
      let order := if !assay then none
        else if a.d.kBase != b.d.kBase then some (excAssay (if acc then old.kNext / 64 else a.d.kBase / 64))
        else old.assayOrder acc a.d.kBase k
      if acc && differs then .error (illField 35)
      else
        match order with
        | some e => .error e
        | none =>
          let as := (List.range rows).map fun i => a.values m .mma (i * a.len) k
          let bs := (List.range cols).map fun j => b.values m .mma (j * b.len) k
          let ij := (List.range rows).flatMap fun i => (List.range cols).map fun j => (i, j)
          let pairs := fun (p : Nat × Nat) => mmaPairs (as.getD p.1 []) (bs.getD p.2 [])
          let base := if acc then old else Bank.zero
          if assay then
            let r := (do
              let st ← ij.mapM fun p => pushBlocks (base.stackAt p.1 p.2) (chunks (k + 1) 64 (pairs p))
              let b : Bank := { base with
                assay := true, closed := false, dims := some (rows, cols), scales := some scales, acc := []
                partials := st, kFirst := if acc then base.kFirst else a.d.kBase, kNext := a.d.kBase + k }
              if close then b.close else return b : Flagged Bank).go
            .ok r
          else
            let r := (do
              let vals ← ij.mapM fun p =>
                match group with
                | some g => normalDot g (base.at p.1 p.2) (pairs p)
                | none =>
                  let toW := fun (x : FV) => (toF32 .rne false x).val
                  fmaDot (base.at p.1 p.2) ((pairs p).map fun q => q.map fun (x, y) => (toW x, toW y))
              return { base with assay := false, closed := false, dims := some (rows, cols)
                                 scales := some scales, acc := vals, partials := [] } : Flagged Bank).go
            .ok r

/-- The rows that STORE writes: the bank's M × N, or zeros in the shape of the destination for a bank
that no instruction has given a shape (03 R95, log entry 23). -/
def Bank.shape (b : Bank) (dd : Walk) : Nat × Nat :=
  match b.dims with
  | some p => p
  | none => (min 128 dd.rows, min 128 dd.len)

/-- y = round(s × tab), then + c_in (02 R62). -/
def epilogue (tab : Word) (s : Word) (cin : Option Word) : Flagged Word := do
  let y ← if tab = one32 then (return s) else mulF s tab
  match cin with
  | none => return y
  | some c => addF y c

/-- Rows of FP32 values stored through DD with the optional c_in of DC (02 R62, 03 R95, R105). -/
def storeRows (m : Memory) (dd : Walk) (dc : Option Walk) (tab : FRes) (c : Narrow) (rows cols : Nat)
    (val : Nat → Nat → Word) : Except Exc (Memory × Word) :=
  if dd.rows < rows || dd.len < cols then .error (illDesc 0x70 dd.d.slot)
  else if (match dc with | some x => x.rows < rows || x.len < cols | none => false)
  then .error (illDesc 0x70 ((dc.map fun x => x.d.slot).getD 0))
  else
    let (vals, fl) := (do
      raiseFlag tab.flags
      (List.range rows).mapM fun i => do
        let cs ← match dc with
          | some x => x.row32 m i
          | none => return []
        (List.range cols).mapM fun j => do
          return (i * dd.len + j, fv (← epilogue tab.val (val i j) (cs.getD j none))) : Flagged (List (List (Nat × FV)))).go
    match dd.storeHeld c vals.flatten m with
    | .error e => .error e
    | .ok (m', f) => .ok (m', fl ||| f)

/-- STORE of a bank (03 R95). -/
def storeBank (t : Tile) (w : Operand) (b : Bank) : Except Exc Tile := do
  let dd ← t.walk (opFin6 w 44)
  let dc ← match optSlot (opFin6 w 38) with
    | none => pure none
    | some s => (t.walk s).map some
  let c ← t.narrow w 33 32 28
  if b.assay && !b.closed then .error (excAssay (b.kNext / 64))
  else
    let (rows, cols) := b.shape dd
    let (m, fl) ← storeRows t.pad dd dc b.tab c rows cols b.at
    .ok ((t.setPad m).orFlags fl)

/-! SFU row instructions (02 R72, 03 R96, 04 R116 to R118). -/

inductive RowFn where
  | softmax | logSoftmax | rmsNorm | layerNorm
  deriving DecidableEq, Repr

/-- An optional gain or offset walk: the shape of DX, or one row for every row of DX (log entry 24). -/
def rowOperand (t : Tile) (dx : Walk) (slot : Fin 64) : Except Exc (Option Walk) :=
  match optSlot slot with
  | none => .ok none
  | some s =>
    match t.walk s with
    | .error e => .error e
    | .ok g =>
      if g.len == dx.len && (g.rows == dx.rows || g.rows == 1) then .ok (some g) else .error (illDesc 0x70 s)

def operandAt (m : Memory) (g : Option Walk) (r : Nat) : Flagged (Option (List (Option Word))) :=
  match g with
  | none => return none
  | some x => do return some (← x.row32 m (if x.rows == 1 then 0 else r))

/-- SOFTMAX, LOGSOFTMAX, RMSNORM and LAYERNORM: rows of DX to rows of DY (02 R72). -/
def rowWhole (f : RowFn) (t : Tile) (w : Operand) : Except Exc Tile := do
  let dx ← t.walk (opFin6 w 44)
  let dy ← t.walk (opFin6 w 38)
  let g ← match f with
    | .rmsNorm | .layerNorm => rowOperand t dx (opFin6 w 32)
    | _ => pure none
  let b ← match f with
    | .layerNorm => rowOperand t dx (opFin6 w 26)
    | _ => pure none
  let assay := opBit w 25 && !t.ctl.pewter
  let eps := (t.getS (opFin5 w 16)).setWidth 32
  if dy.rows < dx.rows || dy.len < dx.len then .error (illDesc 0x70 dy.d.slot)
  else
    let (vals, fl) := ((List.range dx.rows).mapM fun r => do
      let xs ← dx.row32 t.pad r
      let gs ← operandAt t.pad g r
      let bs ← operandAt t.pad b r
      let ys ← match f with
        | .softmax => rowSoftmax assay dx.d.kBase xs
        | .logSoftmax => rowLogSoftmax assay dx.d.kBase xs
        | .rmsNorm => rowRms assay dx.d.kBase eps xs gs
        | .layerNorm => rowLayerNorm assay dx.d.kBase eps xs gs bs
      return rowTargets dy.len r ys : Flagged (List (List (Nat × FV)))).go
    let (m, f') ← dy.storeHeld (Narrow.rne (opBit w 21)) vals.flatten t.pad
    .ok ((t.setPad m).orFlags (fl ||| f'))

inductive RedFn where
  | sum | max | dot
  deriving DecidableEq, Repr

/-- Rows of DX (and DG for a dot product) as pairs; none where excluded in either. -/
def redRow (m : Memory) (dx : Walk) (dg : Option Walk) (r : Nat) : Flagged (List (Option (Word × Word))) := do
  let xs ← dx.row32 m r
  match dg with
  | none => return xs.map fun x => x.map fun v => (v, one32)
  | some g =>
    let gs ← g.row32 m r
    return (xs.zip gs).map fun (x, y) => match x, y with
      | some u, some v => some (u, v)
      | _, _ => none

/-- One value per row into column 0 of a bank (03 R96): the bank's open reduction goes on; a bank of no
shape takes the rows and, under ASSAY, opens an Assay reduction (log entry 25). -/
def redBank (f : RedFn) (assay close : Bool) (k0 len : Nat) (rows : List (List (Option (Word × Word)))) (old : Bank) :
    Except Exc (Bank × Word) :=
  let n := rows.length
  let fresh := old.dims.isNone
  let asy := if fresh then assay && f != .max else old.assay
  if n > 128 || old.dims.any (· != (n, 1)) then .error (illField 14)
  else if !fresh && (assay && f != .max) != old.assay then .error (illField 25)
  else
    match (if asy then old.assayOrder (!fresh) k0 len else none) with
    | some e => .error e
    | none =>
      let toFV := fun (r : List (Option (Word × Word))) => r.map fun p => p.map fun (a, b) => (fv a, fv b)
      if asy then
        .ok ((do
          let st ← ((List.range n).zip rows).mapM fun (i, r) => pushBlocks (old.stackAt i 0) (chunks (len + 1) 64 (toFV r))
          let b : Bank := { old with
            assay := true, closed := false, dims := some (n, 1), acc := [], partials := st
            kFirst := if fresh then k0 else old.kFirst, kNext := k0 + len }
          if close then b.close else return b : Flagged Bank).go)
      else
        .ok ((do
          let vals ← ((List.range n).zip rows).mapM fun (i, r) =>
            let acc := old.at i 0
            match f with
            | .sum => (r.filterMap id).foldlM (fun acc (p : Word × Word) => addF acc p.1) acc
            | .dot => fmaDot acc r
            | .max =>
              let v := rowMax (r.map fun p => p.map Prod.fst)
              return if fresh then v else fmaxW acc v
          return { old with assay := false, closed := false, dims := some (n, 1), acc := vals, partials := [] } : Flagged Bank).go)

/-- RSUM, RMAX and RDOT: one value per row of DX to DY, or into BANK when CONT is 1 (03 R86, R96). -/
def rowReduce (f : RedFn) (t : Tile) (w : Operand) : Except Exc Tile := do
  let dx ← t.walk (opFin6 w 44)
  let dg ← match f with
    | .dot =>
      match optSlot (opFin6 w 32) with
      | none => .error (illField 32)
      | some s => do
        let g ← t.walk s
        if g.rows == dx.rows && g.len == dx.len then pure (some g) else .error (illDesc 0x70 s)
    | _ => pure none
  let assay := opBit w 25 && !t.ctl.pewter
  let cont := opBit w 13
  let (rows, fl) := ((List.range dx.rows).mapM (redRow t.pad dx dg) : Flagged _).go
  if cont then
    let bank := opFin2 w 14
    let (b, f') ← redBank f assay (opBit w 12) dx.d.kBase dx.len rows t.regs.banks[bank]
    .ok ((t.setBank bank b).orFlags (fl ||| f'))
  else
    let dy ← t.walk (opFin6 w 38)
    if dy.total < dx.rows then .error (illDesc 0x70 dy.d.slot)
    else
      let (vals, f') := (rows.mapM fun r =>
        match f with
        | .sum => rowSum assay dx.d.kBase (r.map fun p => p.map Prod.fst)
        | .dot => rowDot assay dx.d.kBase r
        | .max => return rowMax (r.map fun p => p.map Prod.fst) : Flagged (List Word)).go
      let (m, f'') ← dy.storeHeld (Narrow.rne (opBit w 21)) ((List.range vals.length).zip (vals.map fv)) t.pad
      .ok ((t.setPad m).orFlags (fl ||| f' ||| f''))

/-! Copies and conversions (03 R86, R97). -/

/-- The elements of a source walk as values for a destination, in enumeration order. -/
def Walk.copyValues (src : Walk) (m : Memory) : List (Nat × FV) :=
  ((List.range src.total).zip (src.values m .lanes 0 src.total)).filterMap fun (i, x) => x.map fun v => (i, v)

/-- PADCOPY: all elements of DX from the elements of DY (03 R86). A destination that has fewer elements
is an illegal operand (log entry 26). -/
def padCopy (t : Tile) (w : Operand) : Except Exc Tile := do
  let dst ← t.walk (opFin6 w 39)
  let src ← t.walk (opFin6 w 33)
  let c ← t.narrow w 30 29 25
  if dst.total < src.total then .error (illDesc 0x70 dst.d.slot)
  else
    let (m, fl) ← dst.storeHeld c (src.copyValues t.pad) t.pad
    .ok ((t.setPad m).orFlags fl)

/-- CVT: DY from DX, with the per-tensor scale of a BFP4 destination (03 R97). -/
def convertWalk (t : Tile) (w : Operand) : Except Exc Tile := do
  let dx ← t.walk (opFin6 w 44)
  let dy ← t.walk (opFin6 w 38)
  let c ← t.narrow w 35 34 30
  let given := opBit w 29
  let bfp4 := dy.f.scale == .bfp4
  if given && !bfp4 then .error (illField 29)
  else if dy.total < dx.total then .error (illDesc 0x70 dy.d.slot)
  else
    let vals := dx.copyValues t.pad
    if !bfp4 then
      let (m, fl) ← dy.store c one32 vals t.pad
      .ok ((t.setPad m).orFlags fl)
    else
      let held := dy.tscale t.pad
      let (computed, inv) := bfp4T (vals.map Prod.snd)
      let nonFinite := (fv computed).isNan
      if given && !tScaleOk held then .error (illDesc 0x0C dy.d.slot)
      else if dy.d.tscaleAddr + 4 > paramBase && (nonFinite || !given) then .error (excPadBounds dy.d.tscaleAddr)
      else
        let scale := if given && !nonFinite then held else computed
        let (m, fl) ← dy.store c scale vals t.pad
        let m := if nonFinite || !given then m.writeLE dy.d.tscaleAddr 4 scale.toNat else m
        .ok ((t.setPad m).orFlags (fl ||| inv))

end Sys2Proof.Machine
end

