-- ==== Sys2Proof/Machine/Sampler.lean ====
section
/-! DEFINITION. Drop-out, initialisation and the sampler (08 R235 to R243). -/

namespace Sys2Proof.Machine

/-- u of a random word as FP32, exact (08 R235). -/
def uniform32 (w : DWord) : Word := (toF32 .rne false (.fin false (rngU w) (-24))).val

/-- The random word of an element under a random context (08 R236). -/
def Tile.draw (t : Tile) (ctx : Fin 16) (lg : Nat) : DWord :=
  let (seed, stream) := t.regs.rctx[ctx]
  rngWord seed stream (BitVec.ofNat 64 lg)

/-- RUNIF: uniform bits for the next 512 logical indices of DX (03 R86, 08 R235, R236). A padded
position, which has no logical index, gives 0 (log entry 27). -/
def randUniform (t : Tile) (w : Operand) : Except Exc Tile := do
  let slot := opFin6 w 30
  let dx ← t.walk slot
  let (c, n) ← t.cursorSpan slot dx
  let lane := fun (i : Fin 512) =>
    if i.val < n then
      match dx.d.locate (c + i.val) with
      | some (_, lg) => rngLane (t.draw (opFin4 w 46) lg)
      | none => 0
    else 0
  .ok ((t.setV (opFin5 w 19) (Vector.ofFn lane)).advance slot n)

/-- k = round(1 ÷ (1 − p)) (08 R238). -/
def dropScale (p : Word) : Word :=
  let q := FV.add .rne (fv one32) (fv p).negate
  match q with
  | .fin _ m e =>
    let (n, d) := fracOf m e
    BitVec.ofNat 32 (fp32.roundMag .rne false 0 false d n).code
  | _ => one32

/-- Is p a probability (08 R238)? -/
def isProbability (p : Word) : Bool :=
  let x := fv p
  !x.isNan && x.cmp FV.zero != .lt && x.cmp (fv one32) != .gt

/-- DROP: DY from DX with drop-out (08 R238). -/
def dropOut (t : Tile) (w : Operand) : Except Exc Tile := do
  let reg := opFin5 w 41
  let p := (t.getS reg).setWidth 32
  let dx ← t.walk (opFin6 w 30)
  let dy ← t.walk (opFin6 w 24)
  if !isProbability p then .error (illScalar reg)
  else if dy.total < dx.total then .error (illDesc 0x70 dy.d.slot)
  else
    let k := dropScale p
    let ctx := opFin4 w 46
    let (vals, fl) := ((List.range dx.total).mapM fun i =>
      match dx.d.locate i with
      | none => return none
      | some (_, lg) =>
        let u := fv (uniform32 (t.draw ctx lg))
        if u.cmp (fv p) == .lt then return some (i, FV.zero)
        else do
          match dx.value t.pad .lanes i with
          | none => return none
          | some v =>
            if (fv p).isZero then return some (i, v)
            else
              let x ← flag (toF32 .rne false v)
              return some (i, fv (← mulF x k)) : Flagged (List (Option (Nat × FV)))).go
    -- p = 0 copies every element unchanged, infinities of the same scalar format included
    let copy := (fv p).isZero && dx.d.fmtCode == dy.d.fmtCode && !dx.f.blockScaled
    let (m, f') ← dy.storeHeld (Narrow.rne (!copy)) (vals.filterMap id) t.pad
    .ok ((t.setPad m).orFlags (fl ||| f'))

/-- 0.70710678 rounded to FP32 (08 R239). -/
def sqrtHalf32 : Word := BitVec.ofNat 32 (fp32.roundMag .rne false 0 false 70710678 100000000).code

def half32 : Word := 0x3F000000#32

/-- Φ(x) = 0.5 × (1 + erf(x × 0.70710678)) in FP32 operations (08 R239). -/
def phiF (x : Word) : Flagged Word := do
  let e ← sfu .erf (← mulF x sqrtHalf32)
  mulF half32 (← addF one32 e)

/-- The INIT parameter block (08 R239). -/
structure InitParams where
  kind : Nat
  a : Word
  b : Word
  lo : Word
  hi : Word
  deriving DecidableEq, Repr

def InitParams.parse (m : Memory) (addr : Nat) : InitParams :=
  let f := fun off => BitVec.ofNat 32 (m.readLE (addr + off) 4)
  ⟨m.readLE addr 4, f 4, f 8, f 12, f 16⟩

/-- The offset of the first parameter that 08 R239 refuses. -/
def InitParams.refused (p : InitParams) : Option Nat :=
  let fin := fun (x : Word) => (fv x).isFinite
  if p.kind > 2 then some 0
  else if !fin p.a then some 4
  else if !fin p.b then some 8
  else if p.kind == 0 && fltW p.b p.a then some 8
  else if p.kind != 0 && fltW p.b 0 then some 8
  else if p.kind == 2 && !fin p.lo then some 12
  else if p.kind == 2 && !fin p.hi then some 16
  else if p.kind == 2 && !fltW p.lo p.hi then some 12
  else none

/-- One draw (08 R239). -/
def InitParams.draw (p : InitParams) (u : Word) : Flagged Word :=
  match p.kind with
  | 0 => do addF p.a (← mulF (← subF p.b p.a) u)
  | 1 => do addF p.a (← mulF p.b (ndtriF u))
  | _ => do
    let l ← phiF p.lo
    let h ← phiF p.hi
    let x ← addF l (← mulF u (← subF h l))
    addF p.a (← mulF p.b (ndtriF x))

/-- A parameter address in pad, 16-byte aligned (08 R239, R240). -/
def paramAddr (t : Tile) (reg : Fin 32) (size : Nat) : Except Exc Nat := padAddr (t.getS reg) size 16 false reg

/-- INIT: DY from initialisation draws (08 R239). -/
def randInit (t : Tile) (w : Operand) : Except Exc Tile := do
  let a ← paramAddr t (opFin5 w 41) 32
  let p := InitParams.parse t.pad a
  let dy ← t.walk (opFin6 w 24)
  match p.refused with
  | some off => .error (illRecord off 0)
  | none =>
    let ctx := opFin4 w 46
    let (vals, fl) := ((List.range dy.total).mapM fun i =>
      match dy.d.locate i with
      | none => return none
      | some (_, lg) => do return some (i, fv (← p.draw (uniform32 (t.draw ctx lg)))) : Flagged _).go
    let (m, f') ← dy.storeHeld (Narrow.rne true) (vals.filterMap id) t.pad
    .ok ((t.setPad m).orFlags (fl ||| f'))

/-! The sampler (08 R240 to R243). -/

structure SampleRec where
  seed : DWord
  stream : Word
  temperature : Word
  topP : Word
  topK : Nat
  flags : Nat
  position : Nat
  refToken : Nat
  rsv : Nat
  deriving DecidableEq, Repr

def SampleRec.parse (m : Memory) (a : Nat) : SampleRec where
  seed := BitVec.ofNat 64 (m.readLE a 8)
  stream := BitVec.ofNat 32 (m.readLE (a + 8) 4)
  temperature := BitVec.ofNat 32 (m.readLE (a + 12) 4)
  topP := BitVec.ofNat 32 (m.readLE (a + 16) 4)
  topK := m.readLE (a + 20) 2
  flags := m.readLE (a + 22) 2
  position := m.readLE (a + 24) 8
  refToken := m.readLE (a + 32) 4
  rsv := m.readLE (a + 36) 12

def SampleRec.refValid (r : SampleRec) : Bool := r.flags % 2 == 1

/-- The offset of the first field that 08 R240 refuses. -/
def SampleRec.refused (r : SampleRec) (v : Nat) : Option Nat :=
  let t := fv r.temperature
  if !t.isFinite || t.cmp FV.zero == .lt then some 0x0C
  else if !fltW 0 r.topP || fltW one32 r.topP then some 0x10
  else if r.topK > 1024 then some 0x14
  else if r.flags > 1 then some 0x16
  else if r.position ≥ 2 ^ 40 then some 0x18
  else if r.refValid && r.refToken ≥ v then some 0x20
  else if r.rsv != 0 then some 0x24
  else none

/-- Candidates by value, largest first; ties keep the lower index. -/
def insertByValue (x : Nat × Word) : List (Nat × Word) → List (Nat × Word)
  | [] => [x]
  | y :: ys => if fltW y.2 x.2 then x :: y :: ys else y :: insertByValue x ys

def sortByValue (xs : List (Nat × Word)) : List (Nat × Word) := xs.foldl (fun l x => insertByValue x l) []

/-- The candidates up to the first at which the running sum reaches TOP_P (08 R241). -/
def topPCut (p : Word) : Word → List (Nat × Word) → Flagged (List Nat)
  | _, [] => return []
  | acc, (c, q) :: rest => do
    let acc ← addF acc q
    if fltW acc p then return c :: (← topPCut p acc rest) else return [c]

/-- g = −log(−log u) (08 R241). -/
def gumbel (u : Word) : Flagged Word := do
  let a ← sfu .log u
  let b ← sfu .log (fnegW a)
  return fnegW b

/-- The candidate of the largest value, the lowest index on a tie; −Inf is never drawn (08 R241, R242). -/
def drawLargest (xs : List (Nat × Word)) : Option Nat :=
  ((xs.filter fun p => p.2 != negInf32 && !(fv p.2).isNan).foldl (fun (best : Option (Nat × Word)) p =>
    match best with
    | none => some p
    | some b => if fltW b.2 p.2 then some p else some b) none).map Prod.fst

/-- One row of the sampler: the four elements of 08 R243. -/
def sampleRow (r : SampleRec) (scores : List (Option Word)) : Flagged (List Nat) := do
  let v := scores.length
  let greedy := (fv r.temperature).isZero
  let z ← if greedy then pure scores else mapRow scores fun x => flag (fdivF .rne false x r.temperature)
  if z.any fun x => x.any fun v => (fv v).isNan then raiseFlag flagINV
  let cands := ((List.range v).zip z).filterMap fun (c, x) =>
    match x with
    | some y => if (fv y).isNan then none else some (c, y)
    | none => none
  let infs := cands.filter fun p => p.2 = posInf32
  if !infs.isEmpty then raiseFlag flagINV
  let keep ←
    if !infs.isEmpty then pure infs
    else if greedy then pure cands
    else do
      let k1 := if r.topK > 0 && r.topK < v then (sortByValue cands).take r.topK else cands
      if fltW r.topP one32 then
        let zk := (List.range v).map fun c => tget k1 c
        let p ← rowSoftmax true 0 zk
        let order := (sortByValue k1).map fun (c, _) => (c, (p.getD c none).getD 0)
        let kept ← topPCut r.topP 0 order
        pure (k1.filter fun q => kept.contains q.1)
      else pure k1
  let ascending := keep.filter fun _ => true
  let valued ← ascending.mapM fun (c, y) => do
    if greedy then return (c, if infs.isEmpty then y else one32)
    else
      let g ← gumbel (uniform32 (rngWord r.seed r.stream (BitVec.ofNat 64 (r.position * 2 ^ 24 ||| c))))
      if infs.isEmpty then return (c, ← addF y g) else return (c, g)
  -- candidates of one value are compared in ascending index order
  let byIndex := (List.range v).filterMap fun c => (tget valued c).map fun x => (c, x)
  let drawn := drawLargest byIndex
  if drawn.isNone then raiseFlag flagINV
  let ls ← rowLogSoftmax true 0 z
  let lp := match drawn with
    | none => nan32
    | some c => (ls.getD c none).getD nan32
  let ref := if r.refValid then (match ls.getD r.refToken none with | some x => x.toNat | none => negInf32.toNat) else 0
  let bit0 := if r.refValid && drawn == some r.refToken then 1 else 0
  let bit1 := if r.refValid && !(keep.any fun p => p.1 == r.refToken) then 2 else 0
  let bit2 := if greedy then 4 else 0
  return [drawn.getD 0xFFFFFFFF, lp.toNat, ref, bit0 + bit1 + bit2]

/-- The first refused record: its offset and index. -/
def firstRefused (recs : List SampleRec) (v : Nat) : Option (Nat × Nat) :=
  ((List.range recs.length).zip recs).findSome? fun (i, r) => (r.refused v).map fun off => (off, i)

/-- SAMPLE: rows of scores in DX, drawn indices in DY (08 R240). -/
def sample (t : Tile) (w : Operand) : Except Exc Tile := do
  let dx ← t.walk (opFin6 w 30)
  let dy ← t.walk (opFin6 w 24)
  let rows := dx.rows
  let v := dx.len
  if dx.d.fmtCode > 2 then .error (illDesc 0x04 dx.d.slot)
  else if dy.d.fmtCode != 0xE then .error (illDesc 0x04 dy.d.slot)
  else if dy.len != 4 || dy.rows < rows then .error (illDesc 0x70 dy.d.slot)
  else if v > 2 ^ 24 then .error (illDesc 0x70 dx.d.slot)
  else
    let a ← paramAddr t (opFin5 w 41) (48 * rows)
    let recs := (List.range rows).map fun i => SampleRec.parse t.pad (a + 48 * i)
    match firstRefused recs v with
    | some (off, i) => .error (illRecord off i)
    | none =>
      let (out, fl) := (((List.range rows).zip recs).mapM fun (i, r) => do
        let xs ← dx.row32 t.pad i
        let four ← sampleRow r xs
        return (List.range 4).zip four |>.map fun (j, c) => (4 * i + j, int32Val c) : Flagged (List (List (Nat × FV)))).go
      let (m, f') ← dy.storeHeld (Narrow.rne false) out.flatten t.pad
      .ok ((t.setPad m).orFlags (fl ||| f'))

end Sys2Proof.Machine
end

