-- ==== Sys2Proof/Machine/Issue.lean ====
section
/-! DEFINITION. Issuing an instruction at a tile (03 R76, R82, R83): program order, predicate, reserved
fields, branch targets, and what its outcome does to the tile. -/

namespace Sys2Proof.Machine

/-- The opcodes of 03 R86. -/
def validOp (cls op : Nat) : Bool :=
  match cls with
  | 0 => op ≤ 7
  | 1 => op ≤ 9 || (0x10 ≤ op && op ≤ 0x12) || (0x18 ≤ op && op ≤ 0x1A)
  | 2 => op ≤ 4
  | 3 => op ≤ 2
  | 4 => op ≤ 2
  | 5 => op ≤ 0x0B || (0x10 ≤ op && op ≤ 0x1A)
  | 6 => op ≤ 0x0A || (0x20 ≤ op && op ≤ 0x26)
  | 7 => op == 0
  | 8 => op ≤ 4
  | 9 => op ≤ 5
  | 0xA => op ≤ 4
  | 0xB => op == 0
  | _ => false

/-- Are the RSV fields, given as (lowest bit, width), all zero? -/
def rsvClear (rsv : List (Nat × Nat)) (w : Operand) : Bool := rsv.all fun (lo, n) => opBits w lo n == 0

/-- The predicate after PNEG (03 R82, R83). -/
def Tile.enabled (t : Tile) (w : Operand) : Bool := t.getP (opFin3 w 51) != opBit w 50

/-- Is the word a CPFX (03 R104)? -/
def isCpfx (w : DWord) : Bool := classOf w == 0xB && opcodeOf w == 0

/-- May a branch go there: below N_INSTR, and not to the instruction after a CPFX (03 R83, R104)? -/
def Tile.targetOk (t : Tile) (n : Nat) : Bool :=
  n < t.ctl.istore.length && !(n != 0 && (t.ctl.istore[n - 1]?).any isCpfx)

/-- The progress counter of a unit, by capture level code and index (14 R426). -/
def State.progressed (s : State) (level unit : Nat) : State :=
  s.setFlt { s.flt with progress := tset s.flt.progress (level, unit) ((tgetD s.flt.progress (level, unit) 0 + 1) % 2 ^ 32) }

/-- The context of an instruction at tile t. -/
def State.tileCtx (s : State) (t : Fin 160) (x : Tile) : TileCtx :=
  ⟨s.time, s.stoppedNs, s.dom.rank, t, (x.ctl.cmd.bind s.cmdAt).elim [] (·.tiles)⟩

/-- An instruction's outcome applied to tile t, `next` instructions on. -/
def State.applyRes (s : State) (t : Fin 160) (x : Tile) (word : DWord) (next : Nat) : TileRes → State
  | .next y => (s.setTile t ((y.setPc (x.ctl.pc + next)).setStatus .running)).progressed 1 t
  | .jump y n =>
    if x.targetOk n then (s.setTile t ((y.setPc n).setStatus .running)).progressed 1 t
    else s.raiseExc t (excIllegalInstruction word)
  | .wait => s.setTile t (x.setStatus .blocked)
  | .raise e => s.raiseExc t e
  | .finish y => (s.endTile t y).progressed 1 t

/-- An issue event at tile t. The tile's next instruction issues when it is the one named; an event that
names another is out of program order and has no effect. An instruction of a reserved class or opcode
raises ILLEGAL_INSTRUCTION whatever the event names (03 R83). `after` is what a completed issue does
outside the tile, from the tile as it was. -/
def issueThen (cls op : Nat) (rsv : List (Nat × Nat)) (body : TileCtx → Tile → TileRes) (after : Tile → State → State)
    (t : Fin 160) (w : Operand) (s : State) : State :=
  let x := s.tiles[t]
  if x.ctl.status != .running && x.ctl.status != .blocked then s
  else
    match x.ctl.istore[x.ctl.pc]? with
    | none => s
    | some word =>
      let next := if isCpfx word then 2 else 1
      if !x.enabled (operandOf word) then
        if word = wordOf cls op w then (s.setTile t ((x.setPc (x.ctl.pc + next)).setStatus .running)).progressed 1 t else s
      else if !validOp (classOf word) (opcodeOf word) then s.raiseExc t (excIllegalInstruction word)
      else if word ≠ wordOf cls op w then s
      else if !rsvClear rsv w then s.raiseExc t (excIllegalInstruction word)
      else
        match body (s.tileCtx t x) x with
        | .next y => after x (s.applyRes t x word next (.next y))
        | r => s.applyRes t x word next r

/-- An issue whose effect is the tile's own. -/
def issue (cls op : Nat) (rsv : List (Nat × Nat)) (body : TileCtx → Tile → TileRes) (t : Fin 160) (w : Operand)
    (s : State) : State := issueThen cls op rsv body (fun _ s => s) t w s

/-! Reserved fields of the layouts (03 R85). -/

def rsvCtrl : List (Nat × Nat) := [(32, 13)]
def rsvBranch : List (Nat × Nat) := [(32, 13), (14, 18)]
def rsvScalar : List (Nat × Nat) := [(32, 2)]
def rsvCompare : List (Nat × Nat) := [(32, 2), (45, 2)]
def rsvAgen : List (Nat × Nat) := [(32, 2)]
def rsvMove : List (Nat × Nat) := [(0, 22)]
def rsvMma : List (Nat × Nat) := [(0, 2)]
def rsvStore : List (Nat × Nat) := [(0, 28)]
def rsvVec : List (Nat × Nat) := [(0, 20)]
def rsvRow : List (Nat × Nat) := [(0, 12)]
def rsvCvt : List (Nat × Nat) := [(0, 29)]
def rsvRand : List (Nat × Nat) := [(0, 19)]
def rsvSync : List (Nat × Nat) := [(32, 1)]
def rsvDma : List (Nat × Nat) := [(0, 21)]
def rsvCpfx : List (Nat × Nat) := [(0, 6)]

end Sys2Proof.Machine
end

