-- ==== Sys2Proof/Machine/Control.lean ====
section
/-! DEFINITION. CTRL instructions (03 R86): branches, loops, segments, end, traps, flag access. -/

namespace Sys2Proof.Machine

/-- NOP: no effect. -/
def execNop (t : Fin 160) (w : Operand) (s : State) : Out :=
  .next (issue 0 0x00 rsvCtrl (fun _ x => .next x) t w s)

/-- TARGET: IMM[13:0]. -/
def branchTarget (w : Operand) : Nat := opBits w 0 14

/-- JMP: continue at TARGET. -/
def execJmp (t : Fin 160) (w : Operand) (s : State) : Out :=
  .next (issue 0 0x01 rsvBranch (fun _ x => .jump x (branchTarget w)) t w s)

/-- LOOP: SA ← SA − 1; if SA ≠ 0, continue at TARGET. S0 reads 0 and keeps it. -/
def loopBody (w : Operand) (x : Tile) : TileRes :=
  let sa := opFin5 w 45
  let y := x.setS sa (x.getS sa - 1)
  if y.getS sa ≠ 0 then .jump y (branchTarget w)
  else if x.targetOk (branchTarget w) then .next y
  else .raise (excIllegalInstruction (wordOf 0 0x02 w))

def execLoop (t : Fin 160) (w : Operand) (s : State) : Out :=
  .next (issue 0 0x02 rsvBranch (fun _ x => loopBody w x) t w s)

/-- The exception of the lowest FAILED fence (03 R102). -/
def Tile.failedFence (x : Tile) : Option Exc :=
  (List.finRange 64).findSome? fun f => match x.sync.fences[f] with
    | .failed e => some e
    | _ => none

/-- Every fence is IDLE or DONE and nothing is outstanding (03 R79). -/
def Tile.quiet (x : Tile) : Bool :=
  x.sync.outstanding.isEmpty && (List.finRange 64).all fun f => x.sync.fences[f] != .armed

/-- What SEG, END and FWAITALL wait for (03 R79, R102): `go` once all is quiet. -/
def Tile.waitAll (x : Tile) (go : TileRes) : TileRes :=
  match x.failedFence with
  | some e => .raise e
  | none => if x.quiet then go else .wait

/-- SEG: closes the segment and starts the segment timer afresh (03 R79, R80). -/
def segBody (c : TileCtx) (x : Tile) : TileRes :=
  x.waitAll (.next { x with ctl := { x.ctl with segCount := x.ctl.segCount + 1, segStart := c.time, segExcluded := 0, segStopped := c.stopped } })

def execSeg (t : Fin 160) (w : Operand) (s : State) : Out :=
  .next (issue 0 0x03 rsvCtrl (fun c x => segBody c x) t w s)

/-- END: waits as SEG does, then ends the tile's program (03 R111). -/
def execEndProg (t : Fin 160) (w : Operand) (s : State) : Out :=
  .next (issue 0 0x04 rsvCtrl (fun _ x => x.waitAll (.finish x)) t w s)

/-- TRAP with IMM[15:0] as DETAIL. -/
def execTrap (t : Fin 160) (w : Operand) (s : State) : Out :=
  .next (issue 0 0x05 rsvCtrl (fun _ _ => .raise ⟨0x0C, opBits w 0 16⟩) t w s)

/-- FLAGRD: SA ← flag word. -/
def execFlagrd (t : Fin 160) (w : Operand) (s : State) : Out :=
  .next (issue 0 0x06 rsvCtrl (fun _ x => .next (x.setS (opFin5 w 45) (x.regs.flags.setWidth 64))) t w s)

/-- FLAGCLR: flag bits cleared where IMM[4:0] is 1. -/
def execFlagclr (t : Fin 160) (w : Operand) (s : State) : Out :=
  .next (issue 0 0x07 rsvCtrl
    (fun _ x => .next (x.setFlags (x.regs.flags &&& ~~~ (BitVec.ofNat 32 (opBits w 0 5))))) t w s)

end Sys2Proof.Machine
end

