-- ==== Sys2Proof/Machine/Sync.lean ====
section
/-! DEFINITION. SYNC instructions (03 R86, R100 to R103): fences and counters. -/

namespace Sys2Proof.Machine

/-- FWAIT under the fence table (03 R102). -/
def fwaitBody (w : Operand) (x : Tile) : TileRes :=
  let f := opFin6 w 44
  match x.sync.fences[f] with
  | .idle => .next x
  | .armed => .wait
  | .done => .next (x.setFence f .idle)
  | .failed e => .raise e

def execFwait (t : Fin 160) (w : Operand) (s : State) : Out :=
  .next (issue 9 0x00 rsvSync (fun _ x => fwaitBody w x) t w s)

/-- FWAITALL: waits as SEG does, without closing the segment. -/
def execFwaitall (t : Fin 160) (w : Operand) (s : State) : Out :=
  .next (issue 9 0x01 rsvSync (fun _ x => x.waitAll (.next x)) t w s)

/-- The value operand: SA, or IMM where IMMSEL is 1. -/
def syncValue (w : Operand) (x : Tile) : Word := if opBit w 33 then opImm w else (x.getS (opFin5 w 34)).setWidth 32

/-- CWAIT ends when (CT − v) mod 2^32 is below 2^31 (03 R103). -/
def cwaitBody (w : Operand) (x : Tile) : TileRes :=
  if (x.sync.counters[opFin5 w 39] - syncValue w x).toNat < 2 ^ 31 then .next x else .wait

def execCwait (t : Fin 160) (w : Operand) (s : State) : Out :=
  .next (issue 9 0x02 rsvSync (fun _ x => cwaitBody w x) t w s)

def execCset (t : Fin 160) (w : Operand) (s : State) : Out :=
  .next (issue 9 0x03 rsvSync (fun _ x => .next (x.setCounter (opFin5 w 39) (syncValue w x))) t w s)

def execCadd (t : Fin 160) (w : Operand) (s : State) : Out :=
  .next (issue 9 0x04 rsvSync
    (fun _ x => .next (x.setCounter (opFin5 w 39) (x.sync.counters[opFin5 w 39] + syncValue w x))) t w s)

/-! Locators (03 R100). -/

def locPad (l : DWord) : Nat := (l.extractLsb' 0 22).toNat
def locTile (l : DWord) : Nat := (l.extractLsb' 34 8).toNat
def locRank (l : DWord) : Nat := (l.extractLsb' 42 6).toNat

/-- RSV bits clear, and the located tile runs the same command. -/
def locOk (c : TileCtx) (l : DWord) : Bool :=
  l.extractLsb' 22 12 = 0 && l.extractLsb' 48 16 = 0 && c.peers.contains (locRank l, locTile l)

/-- An operation that captures nothing but its locator. -/
def AsyncOp.plain (kind : AsyncKind) (fence : Nat) (loc : DWord) : AsyncOp where
  kind := kind
  fence := fence
  dp := 0
  dm := 0
  loc := loc
  ct := none
  amount := 0
  cpfx := 0
  inner := 0
  descs := []
  rctx := []
  bank := Bank.zero
  coll := (0, 0, 0)
  landed := none

/-- CSIGNAL: IMM is added to counter CT of the tile located by SA; it takes no fence (03 R103). -/
def csignalOp (w : Operand) (x : Tile) : AsyncOp :=
  { AsyncOp.plain .csignal 64 (x.getS (opFin5 w 34)) with ct := some (opBits w 39 5), amount := opImm w }

def csignalBody (w : Operand) (c : TileCtx) (x : Tile) : TileRes :=
  let l := x.getS (opFin5 w 34)
  if locOk c l then .next (x.addAsync (csignalOp w x)) else .raise (excAddress l.toNat)

/-- The message of a CSIGNAL to another module (11 R323). -/
def csignalSend (w : Operand) (x : Tile) (s : State) : State :=
  let l := x.getS (opFin5 w 34)
  if locRank l == s.dom.rank then s
  else s.sendTo (locRank l) .csignal [l.toNat, opBits w 39 5, (opImm w).toNat]

def execCsignal (t : Fin 160) (w : Operand) (s : State) : Out :=
  .next (issueThen 9 0x05 rsvSync (csignalBody w) (csignalSend w) t w s)

end Sys2Proof.Machine
end

