-- ==== Sys2Proof/Machine/Dma.lean ====
section
/-! DEFINITION. DMA instructions (03 R86, R98 to R102; 02 R67): issue and the transfer itself. -/

namespace Sys2Proof.Machine

/-- Arming a fence (03 R102). -/
def armFence (f : Fin 64) (x : Tile) : Except Exc Tile :=
  match x.sync.fences[f] with
  | .armed => .error (excFenceBusy f)
  | .failed e => .error e
  | _ => .ok (x.setFence f .armed)

/-! Fields of the DMA layout (03 R85). -/

def dmaDp (w : Operand) : Fin 64 := opFin6 w 44
def dmaDm (w : Operand) : Fin 64 := opFin6 w 38
def dmaFence (w : Operand) : Fin 64 := opFin6 w 27

/-- The DM descriptor: BASE 0, format equal to DP's (03 R98). -/
def Tile.walkDm (x : Tile) (dp : Walk) (slot : Fin 64) : Except Exc Walk := do
  let d := Desc.ofBits slot x.regs.descs[slot]
  let f ← d.check false
  if d.base != 0 then .error (illDesc 0x00 slot)
  else if d.fmtCode != dp.d.fmtCode then .error (illDesc 0x04 dp.d.slot)
  else .ok ⟨d, f⟩

/-- Source and destination: WRITABLE on the destination (03 R89), which has room for the source (log
entry 26). -/
def dmaShape (src dst : Walk) : Except Exc Unit :=
  if !dst.d.writable then .error (illDesc 0x06 dst.d.slot)
  else if dst.total < src.total then .error (illDesc 0x70 dst.d.slot)
  else .ok ()

def dmaOp (kind : AsyncKind) (w : Operand) (x : Tile) : AsyncOp :=
  { AsyncOp.plain kind (dmaFence w) (x.getS (opFin5 w 33)) with
    dp := x.regs.descs[dmaDp w], dm := x.regs.descs[dmaDm w]
    ct := if opBit w 21 then some (opBits w 22 5) else none, amount := 1 }

/-- The bytes that a walk of DM offsets touches from a byte origin: first and one past the last, over its
unpadded positions; none when all are padded. -/
def Walk.extent (d : Walk) (org : Nat) : Option (Int × Int) :=
  d.d.span.map fun (l, h) =>
    let (a, _, _) := elemSpan org l d.f.bits
    let (b, _, n) := elemSpan org h d.f.bits
    (a, b + n)

/-- A locator's checks at issue (03 R100): the tile, and for PADPUT its parameter area. -/
def dmaLocator (kind : AsyncKind) (c : TileCtx) (dm : Walk) (l : DWord) : Except Exc Unit :=
  if kind != .padget && kind != .padput then .ok ()
  else if !locOk c l then .error (excAddress l.toNat)
  else
    match dm.extent (locPad l) with
    | some (_, hi) => if kind == .padput && hi > paramBase && hi ≤ padSize then .error (excPadBounds paramBase) else .ok ()
    | none => .ok ()

/-- Issue of a transfer: operand checks, then the fence. -/
def dmaBody (kind : AsyncKind) (w : Operand) (c : TileCtx) (x : Tile) : TileRes :=
  .of (do
    let dp ← x.walk (dmaDp w)
    let dm ← x.walkDm dp (dmaDm w)
    if kind == .get || kind == .padget then dmaShape dm dp else dmaShape dp dm
    if kind == .atomadd && dp.d.fmtCode != 0 then Except.error (illDesc 0x04 dp.d.slot)
    dmaLocator kind c dm (x.getS (opFin5 w 33))
    let y ← armFence (dmaFence w) x
    return y.addAsync (dmaOp kind w x))

/-! Element transfer (03 R89, R98): codes, in enumeration order. -/

/-- Source codes with their positions; excluded positions are left out. -/
def sourceCodes (src : Walk) (read : Int → Except MemErr Nat) : Except MemErr (List (Nat × Nat)) :=
  (List.range src.total).foldlM (fun acc i =>
    match src.d.locate i with
    | some (e, _) => do return acc ++ [(i, ← read e)]
    | none => return acc ++ (src.padCode.map fun c => (i, c)).toList) []

/-- Destination positions: padded ones are not written. -/
def destCodes (dst : Walk) (cs : List (Nat × Nat)) : List (Int × Nat) :=
  cs.filterMap fun (i, c) => (dst.d.locate i).map fun (e, _) => (e, c)

/-- A code in the pad; outside it the transfer fails. -/
def padReadCode (m : Memory) (d : Walk) (org : Nat) (e : Int) : Except MemErr Nat :=
  let (a, _, n) := elemSpan org e d.f.bits
  if a < 0 || a + n > padSize then .error (.fault (excPadBounds a)) else .ok (readCode m org e d.f.bits)

def padWriteCodes (m : Memory) (d : Walk) (org : Nat) (ts : List (Int × Nat)) : Except MemErr Memory :=
  ts.foldlM (fun m (e, c) =>
    let (a, _, n) := elemSpan org e d.f.bits
    if a < 0 || a + n > paramBase then .error (.fault (excPadBounds a)) else .ok (writeCode m org e d.f.bits c)) m

/-- A code in tenant memory at an element offset from a tenant virtual address; TVA bit 56 faults
(05 R129). -/
def State.tvaReadCode (s : State) (c : CmdRef) (t tva : Nat) (e : Int) (b : Nat) : Except MemErr Nat :=
  let (a, sh, n) := elemSpan tva e b
  if a < 0 || isHostTva a.toNat then .error (.fault (excAddress ((a % 2 ^ 57).toNat)))
  else do
    let bs ← s.readTva (some c) t a.toNat n
    return bits (leNat bs) sh b

/-- The bytes of a staged range as they stand, poisoned or not: a partial write keeps its neighbours. -/
def State.rawRead (s : State) (c : CmdRef) (t a n : Nat) : Nat :=
  leNat ((List.range n).map fun i =>
    match s.mem.pageFor (some c) t (a + i) with
    | some p => s.mem.cells.read (p.dpa + (a + i) % entryBytes)
    | none => 0)

def State.tvaWriteCode (s : State) (c : CmdRef) (t tva : Nat) (e : Int) (b code : Nat) : Except MemErr State :=
  let (a, sh, n) := elemSpan tva e b
  if a < 0 || isHostTva a.toNat then .error (.fault (excAddress ((a % 2 ^ 57).toNat)))
  else
    let old := s.rawRead c t a.toNat n
    s.stageWrite c t a.toNat (leBytes n (old - bits old sh b * 2 ^ sh + code % 2 ^ b * 2 ^ sh))

/-- SA[56:0]. -/
def tvaOf (l : DWord) : Nat := (l.extractLsb' 0 57).toNat

/-- The walks that an operation captured (03 R92); they were checked at issue. -/
def AsyncOp.walks (a : AsyncOp) : Option (Walk × Walk) :=
  let p := Desc.ofBits 0 a.dp
  let m := Desc.ofBits 0 a.dm
  match formatOf p.fmtCode, formatOf m.fmtCode with
  | some f, some g => some (⟨p, f⟩, ⟨m, g⟩)
  | _, _ => none

/-- Adds to a counter of a tile of this module (03 R101, R103). -/
def State.addCounter (s : State) (t : Nat) (ct : Nat) (v : Word) : State :=
  let i := Fin.ofNat 160 t
  let c := Fin.ofNat 32 ct
  s.modTile i fun x => x.setCounter c (x.sync.counters[c] + v)

/-- ATOMADD: every element is added with RNE to what stands there, in order of arrival (02 R67). -/
def State.atomAdd (s : State) (c : CmdRef) (t tva : Nat) (ts : List (Int × Nat)) : Except MemErr State :=
  ts.foldlM (fun s (e, code) => do
    let old ← s.tvaReadCode c t tva e 32
    s.tvaWriteCode c t tva e 32 (faddF .rne false (BitVec.ofNat 32 old) (BitVec.ofNat 32 code)).val.toNat) s

/-- The tile of a locator on this module. -/
def localTile (l : DWord) : Fin 160 := Fin.ofNat 160 (locTile l)

/-- One transfer carried out for tile t of a command: the new state, or why it fails. A fault leaves
everything as it was (log entry 33). -/
def State.transfer (s : State) (t : Fin 160) (c : CmdRef) (tenant : Nat) (a : AsyncOp) : Except MemErr State :=
  match a.walks with
  | none => .ok s
  | some (dp, dm) =>
    let tva := tvaOf a.loc
    let pad := s.tiles[t].pad
    match a.kind with
    | .get => do
      let cs ← sourceCodes dm fun e => s.tvaReadCode c tenant tva e dm.f.bits
      let m ← padWriteCodes pad dp dp.d.base (destCodes dp cs)
      return s.modTile t fun x => x.setPad m
    | .put => do
      let cs ← sourceCodes dp fun e => padReadCode pad dp dp.d.base e
      (destCodes dm cs).foldlM (fun s (e, code) => s.tvaWriteCode c tenant tva e dm.f.bits code) s
    | .atomadd => do
      let cs ← sourceCodes dp fun e => padReadCode pad dp dp.d.base e
      s.atomAdd c tenant tva (destCodes dm cs)
    | .padget =>
      if locRank a.loc == s.dom.rank then do
        let cs ← sourceCodes dm fun e => padReadCode s.tiles[localTile a.loc].pad dm (locPad a.loc) e
        let m ← padWriteCodes pad dp dp.d.base (destCodes dp cs)
        return s.modTile t fun x => x.setPad m
      else .ok s
    | .padput =>
      if locRank a.loc == s.dom.rank then do
        let cs ← sourceCodes dp fun e => padReadCode pad dp dp.d.base e
        let m ← padWriteCodes s.tiles[localTile a.loc].pad dm (locPad a.loc) (destCodes dm cs)
        return s.modTile (localTile a.loc) fun x => x.setPad m
      else do
        let cs ← sourceCodes dp fun e => padReadCode pad dp dp.d.base e
        let _ ← padWriteCodes [] dm (locPad a.loc) (destCodes dm cs)
        return s
    | _ => .ok s

/-- What the transfer sends to another module as it issues (11 R323): PADGET its request, PADPUT its
data. -/
def dmaSend (kind : AsyncKind) (t : Fin 160) (w : Operand) (x : Tile) (s : State) : State :=
  let a := dmaOp kind w x
  if (kind != .padget && kind != .padput) || locRank a.loc == s.dom.rank then s
  else
    match a.walks with
    | none => s
    | some (dp, dm) =>
      let ct := a.ct.elim 0 fun k => 64 + k
      let tag := [t.val, (dmaFence w).val]
      if kind == .padget then s.send ⟨locRank a.loc, .padgetRequest, a.loc.toNat :: a.dm.toNat :: ct :: tag, []⟩
      else
        match sourceCodes dp fun e => padReadCode x.pad dp dp.d.base e with
        | .error _ => s
        | .ok cs => s.send ⟨locRank a.loc, .padput, a.loc.toNat :: a.dm.toNat :: ct :: tag,
            (destCodes dm cs).flatMap fun (e, code) => leBytes 4 (e % 2 ^ 32).toNat ++ leBytes ((dm.f.bits + 7) / 8) code⟩

def execGet (t : Fin 160) (w : Operand) (s : State) : Out :=
  .next (issue 0xA 0x00 rsvDma (dmaBody .get w) t w s)

def execPut (t : Fin 160) (w : Operand) (s : State) : Out :=
  .next (issue 0xA 0x01 rsvDma (dmaBody .put w) t w s)

def execPadget (t : Fin 160) (w : Operand) (s : State) : Out :=
  .next (issueThen 0xA 0x02 rsvDma (dmaBody .padget w) (dmaSend .padget t w) t w s)

def execPadput (t : Fin 160) (w : Operand) (s : State) : Out :=
  .next (issueThen 0xA 0x03 rsvDma (dmaBody .padput w) (dmaSend .padput t w) t w s)

def execAtomadd (t : Fin 160) (w : Operand) (s : State) : Out :=
  .next (issue 0xA 0x04 rsvDma (dmaBody .atomadd w) t w s)

end Sys2Proof.Machine
end

