-- ==== Sys2Proof/Machine/Tensor.lean ====
section
/-! DEFINITION. MOVE, TENSOR, CONVERT and SFU row instructions (03 R86, R92 to R97). -/

namespace Sys2Proof.Machine

/-- VLD: the next 512 elements of DX, widened to FP32 (INT32 elements as they stand); lanes past the end
and excluded positions are +0 (03 R86, R89, R92). LMASK selects the lanes written (log entry 29). -/
def vldBody (w : Operand) (x : Tile) : TileRes :=
  .of (do
    let slot := opFin6 w 39
    let d ← x.walk slot
    let (c, n) ← x.cursorSpan slot d
    let lanes : Vector FRes 512 := Vector.ofFn fun i =>
      if i.val < n then (match d.value x.pad .lanes (c + i.val) with | some v => d.lane v | none => ⟨0, 0⟩) else ⟨0, 0⟩
    let fl := lanes.foldl (fun a r => a ||| r.flags) 0
    .ok (((x.writeLanes (opFin5 w 45) (x.getLM (opFin3 w 22)) (lanes.map FRes.val)).advance slot n).orFlags fl))

/-- A lane's value on its way into a walk: FP32, or the INT32 word for an INT32 destination. -/
def laneValue (d : Walk) (v : Word) : FV := if d.f.elem == .int32 then int32Val v.toNat else fv v

/-- VST: the next 512 elements of DX from V, narrowed; lanes that LMASK leaves out are not stored. -/
def vstBody (w : Operand) (x : Tile) : TileRes :=
  .of (do
    let slot := opFin6 w 39
    let d ← x.walk slot
    let c ← x.narrow w 30 29 25
    let (k, n) ← x.cursorSpan slot d
    let mask := x.getLM (opFin3 w 22)
    let v := x.regs.v[opFin5 w 45]
    let vals := (List.finRange 512).filterMap fun (i : Fin 512) =>
      if i.val < n && mask.getLsbD i then some (k + i.val, laneValue d v[i]) else none
    let (m, fl) ← d.storeHeld c vals x.pad
    .ok (((x.setPad m).advance slot n).orFlags fl))

def execVst (t : Fin 160) (w : Operand) (s : State) : Out :=
  .next (issue 3 0x01 rsvMove (fun _ x => vstBody w x) t w s)

def execPadcopy (t : Fin 160) (w : Operand) (s : State) : Out :=
  .next (issue 3 0x02 rsvMove (fun _ x => .of (padCopy x w)) t w s)

/-- MMA (03 R93, R94). -/
def mmaBody (w : Operand) (x : Tile) : TileRes :=
  .of (do
    let a ← x.walk (opFin6 w 44)
    let b ← x.walk (opFin6 w 38)
    let bank := opFin2 w 36
    let (r, fl) ← mmaBank x.pad a b x.regs.banks[bank] w x.ctl.pewter
    .ok ((x.setBank bank r).orFlags fl))

/-- STORE (03 R95). -/
def execStore (t : Fin 160) (w : Operand) (s : State) : Out :=
  .next (issue 4 0x01 rsvStore (fun _ x => .of (storeBank x w x.regs.banks[opFin2 w 36])) t w s)

/-- ZERO: the bank holds normal-mode zeros, open for a new reduction. -/
def execZero (t : Fin 160) (w : Operand) (s : State) : Out :=
  .next (issue 4 0x02 rsvStore (fun _ x => .next (x.setBank (opFin2 w 36) Bank.zero)) t w s)

def execSoftmax (t : Fin 160) (w : Operand) (s : State) : Out :=
  .next (issue 6 0x20 rsvRow (fun _ x => .of (rowWhole .softmax x w)) t w s)

def execLogsoftmax (t : Fin 160) (w : Operand) (s : State) : Out :=
  .next (issue 6 0x21 rsvRow (fun _ x => .of (rowWhole .logSoftmax x w)) t w s)

def execRmsnorm (t : Fin 160) (w : Operand) (s : State) : Out :=
  .next (issue 6 0x22 rsvRow (fun _ x => .of (rowWhole .rmsNorm x w)) t w s)

def execLayernorm (t : Fin 160) (w : Operand) (s : State) : Out :=
  .next (issue 6 0x23 rsvRow (fun _ x => .of (rowWhole .layerNorm x w)) t w s)

def execRsum (t : Fin 160) (w : Operand) (s : State) : Out :=
  .next (issue 6 0x24 rsvRow (fun _ x => .of (rowReduce .sum x w)) t w s)

def execRmax (t : Fin 160) (w : Operand) (s : State) : Out :=
  .next (issue 6 0x25 rsvRow (fun _ x => .of (rowReduce .max x w)) t w s)

def execRdot (t : Fin 160) (w : Operand) (s : State) : Out :=
  .next (issue 6 0x26 rsvRow (fun _ x => .of (rowReduce .dot x w)) t w s)

def execCvt (t : Fin 160) (w : Operand) (s : State) : Out :=
  .next (issue 7 0x00 rsvCvt (fun _ x => .of (convertWalk x w)) t w s)

end Sys2Proof.Machine
end

