-- ==== Sys2Proof/Machine/Fused.lean ====
section
/-! DEFINITION. Fused collectives (03 R104 to R108, R111): the CPFX prefix with the instruction after it,
its checks, contribution and result. -/

namespace Sys2Proof.Machine

/-! Fields of L-CPFX (03 R85). -/

def cxGroup (w : Operand) : Nat := opBits w 42 8
def cxType (w : Operand) : Nat := opBits w 39 3
def cxRole (w : Operand) : Nat := opBits w 37 2
def cxRop (w : Operand) : Nat := opBits w 35 2
def cxAssay (w : Operand) : Bool := opBit w 34
def cxDx (w : Operand) : Fin 64 := opFin6 w 28
def cxFence (w : Operand) : Fin 64 := opFin6 w 22
def cxSeq (w : Operand) : Nat := opBits w 6 16

inductive Inner where
  | mma | store | padcopy
  deriving DecidableEq, Repr

def innerOf (w : DWord) : Option Inner :=
  match classOf w, opcodeOf w with
  | 4, 0 => some .mma
  | 4, 1 => some .store
  | 3, 2 => some .padcopy
  | _, _ => none

/-- The pairings of R104. -/
def pairingOk (i : Inner) (ctype role : Nat) : Bool :=
  match i with
  | .mma => (role == 0 || role == 1) && (ctype == 0 || ctype == 4)
  | .store => role == 2 && (ctype == 1 || ctype == 2 || ctype == 5)
  | .padcopy => role == 2 && ctype ≤ 5

def innerRsv : Inner → List (Nat × Nat)
  | .mma => rsvMma
  | .store => rsvStore
  | .padcopy => rsvMove

/-- What the fused instruction knows of its group: partition size and member index. -/
structure Membership where
  members : List Nat
  index : Nat
  timeoutUs : Nat
  lane : Nat
  deriving DecidableEq, Repr

/-- Rows of a walk as FP32 values; excluded positions are none. -/
def walkValues (m : Memory) (d : Walk) : List (Option Word) :=
  (d.values m .lanes 0 d.total).map fun x => x.map fun v => (d.lane v).val

/-- Received values stored through a walk, row by row of its own length. -/
def storeValues (m : Memory) (d : Walk) (c : Narrow) (len : Nat) (vals : List (Option Word)) : Except Exc (Memory × Word) :=
  d.storeHeld c (((List.range vals.length).zip vals).filterMap fun (i, v) =>
    v.map fun x => (i / max len 1 * d.len + i % max len 1, laneValue d x)) m

/-- The contribution of a fused instruction: kind, format, rows, row length, c, h and values. -/
structure Contribution where
  fmt : Nat
  rows : Nat
  rowLen : Nat
  c : Nat
  h : Nat
  data : List (Option Word)
  deriving DecidableEq, Repr

/-- The operand that a feed assembles: DA or DB (R105). -/
def feedSlot (w inner : Operand) : Fin 64 := if cxRole w == 0 then opFin6 inner 44 else opFin6 inner 38

/-- A feed of MMA (R105). -/
def feedContribution (x : Tile) (w inner : Operand) (g i : Nat) : Except Exc Contribution := do
  let whole ← x.walk (feedSlot w inner)
  if !whole.d.writable then Except.error (illDesc 0x06 whole.d.slot)
  if cxType w == 4 then
    if i != 0 then return ⟨whole.d.fmtCode, whole.rows, whole.len, 0, 0, []⟩
    else
      let dx ← x.walk (cxDx w)
      if dx.rows != whole.rows || dx.len != whole.len then Except.error (illDesc 0x70 dx.d.slot)
      else if dx.d.fmtCode != whole.d.fmtCode then Except.error (illDesc 0x04 whole.d.slot)
      else return ⟨dx.d.fmtCode, whole.rows, whole.len, 0, 0, walkValues x.pad dx⟩
  else
    let dx ← x.walk (cxDx w)
    if whole.rows % g != 0 then Except.error (illDesc 0x70 whole.d.slot)
    else if dx.rows != whole.rows / g || dx.len != whole.len then Except.error (illDesc 0x70 dx.d.slot)
    else if dx.d.fmtCode != whole.d.fmtCode then Except.error (illDesc 0x04 whole.d.slot)
    else return ⟨dx.d.fmtCode, whole.rows, whole.len, 0, 0, walkValues x.pad dx⟩

/-- The rows that member i receives of n rows under a reducing type. -/
def receivedRows (ctype n g i : Nat) : Nat :=
  if ctype == 1 then n / g else if ctype == 5 && i != 0 then 0 else n

/-- A drain with STORE (R105, R106). A bank of no shape has no rows to contribute. -/
def storeContribution (x : Tile) (w inner : Operand) (g i : Nat) : Except Exc Contribution := do
  let b := x.regs.banks[opFin2 inner 36]
  let (rows, cols) := b.dims.getD (0, 0)
  let assay := cxAssay w && !x.ctl.pewter
  let empty := fun (k : Nat) => assay && ((b.partials.getD k []).head?.map (·.2)) == some none
  if assay && (cxRop w != 0 || !b.assay || !b.closed) then Except.error (excAssay (b.kNext / 64))
  else if b.assay && !b.closed then Except.error (excAssay (b.kNext / 64))
  else if cxType w == 1 && rows % g != 0 then Except.error (illField 36)
  else if cxType w != 5 || i == 0 then
    let dd ← x.walk (opFin6 inner 44)
    if dd.rows != receivedRows (cxType w) rows g i || dd.len != cols then Except.error (illDesc 0x70 dd.d.slot)
    else if !dd.d.writable then Except.error (illDesc 0x06 dd.d.slot)
    else
      let _ ← x.narrow inner 33 32 28
      return ⟨0, rows, cols, if assay then b.pos else 0, if assay then b.level else 0,
        (List.range (rows * cols)).map fun k => if empty k then none else some (b.acc.getD k 0)⟩
  else return ⟨0, rows, cols, if assay then b.pos else 0, if assay then b.level else 0,
        (List.range (rows * cols)).map fun k => if empty k then none else some (b.acc.getD k 0)⟩

/-- PADCOPY: DY contributes, DX receives (R105, R106). -/
def copyContribution (x : Tile) (w inner : Operand) (g i : Nat) : Except Exc Contribution := do
  let ct := cxType w
  let reducing := ct == 1 || ct == 2 || ct == 5
  if cxAssay w && !x.ctl.pewter && reducing then Except.error (excAssay 0)
  else
    let _ ← x.narrow inner 30 29 25
    let receives := !(ct == 5 && i != 0)
    let contributes := !(ct == 4 && i != 0)
    let dst ← if receives then (x.walk (opFin6 inner 39)).map some else pure none
    let src ← if contributes then (x.walk (opFin6 inner 33)).map some else pure none
    let r := match src, dst with
      | some s, _ => s.rows
      | none, some d => d.rows
      | none, none => 0
    let len := match src, dst with
      | some s, _ => s.len
      | none, some d => d.len
      | none, none => 0
    let want := if ct == 0 then g * r else if ct == 1 then r / g else r
    let srcSlot := (opFin6 inner 33).val
    let dstSlot := (opFin6 inner 39).val
    if (ct == 1 || ct == 3) && r % g != 0 then Except.error (illDesc 0x70 srcSlot)
    else if (dst.any fun d => d.len != len) then Except.error (illDesc 0x70 dstSlot)
    else if (dst.any fun d => d.rows != want) then Except.error (illDesc 0x70 dstSlot)
    else if (dst.any fun d => !d.d.writable) then Except.error (illDesc 0x06 dstSlot)
    else return ⟨if reducing then 0 else ((src.map (·.d.fmtCode)).getD ((dst.map (·.d.fmtCode)).getD 0)), r, len, 0, 0,
      (src.map (walkValues x.pad)).getD []⟩

/-- DX of the prefix: needed by a feed of all-gather and by a broadcast feed on member 0, none for drains;
a breach is an illegal instruction (R104, R105). -/
def prefixDxOk (i : Inner) (w : Operand) (index : Nat) : Bool :=
  match i with
  | .mma => if cxType w == 4 && index != 0 then true else cxDx w != 63
  | _ => cxDx w == 63

/-- The result of the fused instruction written at the tile (R105, R106): a feed lands its operand and
multiplies, a drain goes through R62, a copy is converted. -/
def landResult (x : Tile) (inner : DWord) (w : Operand) (i : Inner) (index : Nat) (rowLen : Nat) (vals : List (Option Word)) :
    Except Exc Tile :=
  let o := operandOf inner
  match i with
  | .mma => do
    let whole ← x.walk (feedSlot w o)
    let (m, f) ← storeValues x.pad whole (Narrow.rne true) rowLen vals
    match mmaBody o (x.setPad m) with
    | .next y => return y.orFlags f
    | .raise e => Except.error e
    | _ => return x
  | .store =>
    if cxType w == 5 && index != 0 then .ok x
    else do
      let b := x.regs.banks[opFin2 o 36]
      let (_, cols) := b.dims.getD (0, 0)
      let rows := vals.length / max cols 1
      let dd ← x.walk (opFin6 o 44)
      let dc ← match optSlot (opFin6 o 38) with
        | none => pure none
        | some s => (x.walk s).map some
      let c ← x.narrow o 33 32 28
      let (m, fl) ← storeRows x.pad dd dc b.tab c rows cols fun r j => (vals.getD (r * cols + j) none).getD 0
      return (x.setPad m).orFlags fl
  | .padcopy =>
    if cxType w == 5 && index != 0 then .ok x
    else do
      let dst ← x.walk (opFin6 o 39)
      let c ← x.narrow o 30 29 25
      let (m, fl) ← storeValues x.pad dst c rowLen vals
      return (x.setPad m).orFlags fl

/-- The next SEQ expected of a group at this tile's lane (R107). -/
def Tile.nextSeq (x : Tile) (g : Nat) : Nat := tgetD x.sync.collSeq g 0

/-- The checks of a fused instruction in order: pairing, reserved fields, group, SEQ, operands, fence. -/
def cpfxCheck (x : Tile) (w : Operand) (m : Option Membership) : Except Exc (Inner × DWord × Membership × Contribution) :=
  let word := wordOf 0xB 0 w
  match x.ctl.istore[x.ctl.pc + 1]? with
  | none => .error (excIllegalInstruction word)
  | some inner =>
    match innerOf inner with
    | none => .error (excIllegalInstruction word)
    | some i =>
      let o := operandOf inner
      if cxType w ≥ 6 || cxRole w == 3 || cxRop w == 3 || !pairingOk i (cxType w) (cxRole w) then
        .error (excIllegalInstruction word)
      else if !rsvClear (innerRsv i) o then .error (excIllegalInstruction inner)
      else
        match m with
        | none => .error (illField 42)
        | some k =>
          if !prefixDxOk i w k.index then .error (excIllegalInstruction word)
          else if cxSeq w != x.nextSeq (cxGroup w) then .error (excColl 0x08 (cxGroup w) (cxSeq w) 0)
          else do
            let c ← match i with
              | .mma => feedContribution x w o k.members.length k.index
              | .store => storeContribution x w o k.members.length k.index
              | .padcopy => copyContribution x w o k.members.length k.index
            -- every operand fault of the instruction itself is found before it has any effect
            if i == .mma then
              match mmaBody o x with
              | .raise e => Except.error e
              | _ => pure ()
            let _ ← armFence (cxFence w) x
            return (i, inner, k, c)

/-- The group as the tile's command sees it: owned by its tenant and joined by it (R107, 11 R339). -/
def State.cpfxGroup (s : State) (t : Fin 160) (x : Tile) (w : Operand) : Option Membership :=
  (x.ctl.cmd.bind s.cmdAt).bind fun c =>
    if c.groups.contains (cxGroup w) then
      (s.membership c.tenant (cxGroup w)).map fun (p, i, u) => ⟨p, i, u, s.laneOf c.ref t⟩
    else none

/-- The tile after the fused instruction issued: fence armed, SEQ counted, operation outstanding; the pair
is left behind. -/
def cpfxTile (x : Tile) (w : Operand) (inner : DWord) (k : Membership) : Tile :=
  let op : AsyncOp := { AsyncOp.plain .coll (cxFence w) 0 with
    cpfx := wordOf 0xB 0 w, inner := inner, descs := x.regs.descs.toList, rctx := x.regs.rctx.toList
    bank := if classOf inner == 4 then x.regs.banks[opFin2 (operandOf inner) 36] else Bank.zero
    coll := (cxGroup w, k.lane, cxSeq w) }
  let y := x.setFence (cxFence w) .armed
  { y with sync := { y.sync with
      collSeq := tset y.sync.collSeq (cxGroup w) ((cxSeq w + 1) % 65536)
      outstanding := y.sync.outstanding ++ [op] } }

def cpfxBody (m : Option Membership) (w : Operand) (x : Tile) : TileRes :=
  -- a false predicate on the fused instruction makes the pair do nothing (log entry 34)
  if (x.ctl.istore[x.ctl.pc + 1]?).any fun inner => !x.enabled (operandOf inner) then .next x
  else
    match cpfxCheck x w m with
    | .error e => .raise e
    | .ok (_, inner, k, _) => .next (cpfxTile x w inner k)

/-- A drain of a bank that covers no aligned subtree (02 R64, 03 R108, R517). -/
def cpfxMisplaced (x : Tile) (w : Operand) (i : Inner) (inner : DWord) : Option Exc :=
  let b := x.regs.banks[opFin2 (operandOf inner) 36]
  if i == .store && cxAssay w && !x.ctl.pewter && b.fractional then some (excAssayColl (b.kFirst / 64) b.pos b.level true) else none

/-- The instance that a fused instruction opens (11 R339 to R341). A contribution that is no aligned subtree is not sent: the
collective ends with ASSAY_ORDER, unless a failure came before. -/
def cpfxInst (m : Option Membership) (t : Fin 160) (w : Operand) (x : Tile) (s : State) : State :=
  if (x.ctl.istore[x.ctl.pc + 1]?).any fun inner => !x.enabled (operandOf inner) then s
  else
    match cpfxCheck x w m, x.ctl.cmd.bind s.cmdAt with
    | .ok (f, inner, k, c), some cmd =>
      let kind := collKind (cxType w) (cxRop w) (cxAssay w && !x.ctl.pewter)
      let inst : CollInst := {
        key := ⟨cmd.ref, cxGroup w, k.lane, cxSeq w⟩, tenant := cmd.tenant, tile := t, fence := cxFence w
        members := k.members, index := k.index, kind := kind, fmt := c.fmt, rows := c.rows, rowLen := c.rowLen
        own := ⟨k.index, 0, kind, c.fmt, c.rows, c.rowLen, c.c, c.h, c.data⟩, parts := []
        issuedAt := s.time, timeoutUs := k.timeoutUs, heldUntil := 0, held := 0 }
      match cpfxMisplaced x w f inner with
      | none => s.issueInst inst
      | some e =>
        if s.coll.earlyFail.any (·.1 == inst.key) then s.issueInst inst
        else (s.setColl { s.coll with early := s.coll.early.filter (·.1 != inst.key) }).detectFail inst e
    | _, _ => s

/-- A COLL_MISMATCH of the issuing member is reported to the others before it stops (R107, 11 R343). -/
def cpfxReport (m : Option Membership) (t : Fin 160) (w : Operand) (s : State) : State :=
  let x := s.tiles[t]
  match cpfxCheck x w m, x.ctl.cmd.bind s.cmdAt, m with
  | .error e, some cmd, some k =>
    if e.code == 0x08 && (x.ctl.istore[x.ctl.pc + 1]?).all fun inner => x.enabled (operandOf inner) then
      (k.members.filter (· != s.selfAddr)).foldl (fun s a => s.send ⟨a, .collFail,
        refArgs cmd.ref ++ [cxGroup w, k.lane, cxSeq w, 0x08], []⟩) s
    else s
  | _, _, _ => s

/-- Is the CPFX the instruction that issues now at the tile? -/
def State.issuesNow (s : State) (t : Fin 160) (word : DWord) : Bool :=
  let x := s.tiles[t]
  (x.ctl.status == .running || x.ctl.status == .blocked) && x.ctl.istore[x.ctl.pc]? == some word
    && x.enabled (operandOf word)

/-- CPFX with the instruction after it (R104 to R108). -/
def execCpfx (t : Fin 160) (w : Operand) (s : State) : Out :=
  let m := s.cpfxGroup t s.tiles[t] w
  let s := if s.issuesNow t (wordOf 0xB 0 w) && rsvClear rsvCpfx w then cpfxReport m t w s else s
  .next (issueThen 0xB 0x00 rsvCpfx (fun _ x => cpfxBody m w x) (cpfxInst m t w) t w s)

end Sys2Proof.Machine
end

