-- ==== Sys2Proof/Machine/LearnHooks.lean ====
section
/-! DEFINITION. What the reduction unit and the DMA unit accumulate for a LEARN_STEP in passing (09 R264, R265), and
the writes that steps without gradients may not make (09 R257). -/

namespace Sys2Proof.Machine

/-- First global parameter index of every tensor (09 R251). -/
def Model.bases (m : Model) : List Nat :=
  (m.tensors.foldl (fun (acc : List Nat × Nat) x => (acc.1 ++ [acc.2], acc.2 + x.rows * x.rowLen)) ([], 0)).1

/-- The tensor of a global parameter index. -/
def Model.tensorAt (m : Model) (g : Nat) : Option Nat :=
  (m.bases.zip m.tensors).findIdx? fun (b, x) => b ≤ g && g < b + x.rows * x.rowLen

/-- The model of a LEARN_STEP and its learning side. -/
def State.stepModel (s : State) (c : Cmd) : Option (Model × Learn) :=
  if c.opcode != learnOpcode then none
  else (tget s.turn.models (c.ref.fn.val - 1, c.learnModel)).bind fun m => m.learn.map fun l => (m, l)

/-- Squares summed by tensor into a command's partials, in order. -/
def addMg2 (w : List (Nat × Nat × Nat × Nat)) (k : Nat) (x : Word) : List (Nat × Nat × Nat × Nat) :=
  let (a, g, n) := tgetD w k (0, 0, 0)
  if k == 0xFFFFFFFF then tset w k (a, g, n + 1)
  else tset w k ((addR (BitVec.ofNat 32 a) (mulR x x)).toNat, g, n)

def addG2 (w : List (Nat × Nat × Nat × Nat)) (k : Nat) (x : Word) : List (Nat × Nat × Nat × Nat) :=
  let (a, g, n) := tgetD w k (0, 0, 0)
  tset w k (a, (addR (BitVec.ofNat 32 g) (mulR x x)).toNat, n + (if (fv x).isFinite then 0 else 1))

/-- The destination walk of a drain: STORE's DD, PADCOPY's destination. -/
def drainWalk (x : Tile) (a : AsyncOp) : Option Walk :=
  let captured := { x with regs := { x.regs with descs := Vector.ofFn fun k : Fin 64 => a.descs.getD k 0 } }
  let o := operandOf a.inner
  match innerOf a.inner with
  | some .store => (captured.walk (opFin6 o 44)).toOption
  | some .padcopy => (captured.walk (opFin6 o 39)).toOption
  | _ => none

/-- Does a collective deliver gradients of the model: a reduce-scatter or all-reduce in a gradient group? -/
def isGradDrain (l : Learn) (i : CollInst) : Bool :=
  (kindType i.kind == 1 || kindType i.kind == 2) && l.setup.any fun u => u.gradGroups.contains i.key.group

/-- A gradient drain's squares, the rows that a reduce-scatter delivers to this member only (R264). -/
def State.gradDrain (s : State) (t : Fin 160) (a : AsyncOp) (i : CollInst) (vals : List (Option Word)) : State :=
  match s.cmdAt i.key.cmd with
  | none => s
  | some c =>
    match s.stepModel c, drainWalk s.tiles[t] a with
    | some (m, l), some d =>
      if !c.gradient || !isGradDrain l i then s
      else
        let span := if kindType i.kind == 2 then partSpan i.rows i.rowLen i.g i.index else (0, vals.length)
        let add := fun (w : List (Nat × Nat × Nat × Nat)) (j : Nat) =>
          match vals.getD j none, d.d.locate j with
          | some v, some (_, g) => if span.1 ≤ j && j < span.2 then addMg2 w ((m.tensorAt g).getD 0xFFFFFFFF) v else w
          | _, _ => w
        s.modCmd c.ref fun k => { k with work := (List.range vals.length).foldl add k.work }
    | _, _ => s

/-- The tensor whose gradient shard holds an address. -/
def gradTensor (m : Model) (l : Learn) (shardBytes : Nat → Nat) (a : Nat) : Option Nat :=
  (List.range m.tensors.length).find? fun k => (l.shards[k]?).any fun p => p.g ≤ a && a < p.g + shardBytes k

/-- Rows of a block and of a unit (R252). -/
def shardBlock (n : Nat) : Nat × Nat := if n == 2 ^ Nat.log2 n then (128, 128 / n) else (n, 1)

def padRows (n rows : Nat) : Nat := let b := (shardBlock n).1; (rows + b - 1) / b * b

/-- SHARD_ROWS. -/
def shardRows (n rows : Nat) : Nat := if n == 0 then 0 else padRows n rows / n

/-- Elements of a member's shard of tensor k. -/
def Model.shardCount (m : Model) (n k : Nat) : Nat := (m.tensors[k]?).elim 0 fun x => shardRows n x.rows * x.rowLen

/-- BF16 bytes of the shard. -/
def Learn.gradBytes (l : Learn) (m : Model) (k : Nat) : Nat := 2 * m.shardCount l.members.length k

/-- A transfer that a step without gradients may not make: its first byte in the gradient buffer. -/
def State.gradForbidden (s : State) (c : Cmd) (a : AsyncOp) (lo n : Nat) : Bool :=
  (a.kind == .put || a.kind == .atomadd) && !c.gradient && (s.stepModel c).any fun (m, l) =>
    (List.range m.tensors.length).any fun k => (l.shards[k]?).any fun p => p.g < lo + n && lo < p.g + l.gradBytes m k

/-- A PUT of the LAST microbatch is written to the mirror on the buddy too (R265). -/
def State.mirrorPut (s : State) (c : Cmd) (a : AsyncOp) : State :=
  match s.stepModel c, a.walks.bind fun (_, dm) => dm.extent (tvaOf a.loc) with
  | some (m, l), some (lo, hi) =>
    let t := c.ref.fn.val - 1
    match l.buddyOf s.dom.rank, gradTensor m l (l.gradBytes m) lo.toNat, s.readTva (some c.ref) t lo.toNat (hi - lo).toNat with
    | some b, some _, .ok bs =>
      s.send ⟨b, .memoryWrite, [t, c.learnModel, lo.toNat - (l.shards.head?).elim 0 (·.g)], bs⟩
    | _, _, _ => s
  | _, _ => s

/-- The squares of what a PUT of the LAST microbatch writes into the gradient buffer, and its non-finite
elements (R264). -/
def State.gradPut (s : State) (t : Fin 160) (c : Cmd) (a : AsyncOp) : State :=
  if a.kind != .put || !c.gradient || !bit c.learnFlags 1 then s
  else
    match s.stepModel c, a.walks with
    | some (m, l), some (dp, dm) =>
      match sourceCodes dp fun e => padReadCode s.tiles[t].pad dp dp.d.base e with
      | .error _ => s
      | .ok cs =>
        let add := fun (w : List (Nat × Nat × Nat × Nat)) (x : Int × Nat) =>
          match gradTensor m l (l.gradBytes m) (elemSpan (tvaOf a.loc) x.1 dm.f.bits).1.toNat with
          | some k => addG2 w k (BitVec.ofNat 32 (x.2 * 65536))
          | none => w
        (s.modCmd c.ref fun k => { k with work := (destCodes dm cs).foldl add k.work }).mirrorPut c a
    | _, _ => s

end Sys2Proof.Machine
end

