-- ==== Sys2Proof/Machine/MemEvents.lean ====
section
/-! DEFINITION. Events of the memory tiers (05): migration, scrubbing, restoration, repair, map-out, port
failure, and the host's window into device memory (13 R392). -/

namespace Sys2Proof.Machine

/-- MIGRATION_COPY_DONE (R133): steps 2 to 4. A source granule under restoration holds the copy (R155). -/
def execMigrationCopyDone (tenant : Fin 512) (unit : Nat) (s : State) : Out :=
  .next (match s.mem.migrations.find? (·.key == (tenant.val, unit)), s.mem.unit (tenant, unit) with
    | some g, some u =>
      if u.backing.extents.any fun (a, n) => s.mem.restorations.any fun r => r.meets a n then s
      else s.switchMigration g
    | _, _ => s)

/-! Scrubbing and errors (R150, R151, R154). -/

/-- Events of the last 24 hours. -/
def within (now span : Nat) (ts : List Nat) : List Nat := ts.filter fun t => now < t + span

/-- A correctable error: counted, and by row and pseudo-channel where the granule lies in HBM. -/
def State.correctable (s : State) (g syndrome : Nat) : State :=
  let m := { s.mem with regs := { s.mem.regs with ce := (s.mem.regs.ce + 1) % 2 ^ 64 } }
  let s := s.setMem m
  if s.dpaTier (g * 256) != some .hbm then s
  else
    let p := s.mem.hbmLocate (g * 256)
    let key := (p.pseudoChannel, p.offset / 256)
    let row := s.time :: within s.time day (tgetD s.mem.err.rowCe key [])
    let pc := s.time :: within s.time day (tgetD s.mem.err.pcCe p.pseudoChannel [])
    let due := row.length ≥ 3 && !s.mem.err.repairDue.contains key
    let s := s.setMem { s.mem with err := { s.mem.err with
      rowCe := tset s.mem.err.rowCe key row
      pcCe := tset s.mem.err.pcCe p.pseudoChannel pc
      repairDue := if due then s.mem.err.repairDue ++ [key] else s.mem.err.repairDue } }
    if pc.length == 1001 then
      s.memEvent (reportDie (g * 256)) ⟨3, 1, 0, none, p.pseudoChannel, 0, g * 256, pc.length, syndrome⟩
    else s

/-- An uncorrectable error: marked and restored; in HBM a second row within 24 hours maps the
pseudo-channel out (R137). -/
def State.scrubUncorrectable (s : State) (g syndrome : Nat) : State :=
  let s := s.uncorrectable g syndrome
  if s.dpaTier (g * 256) != some .hbm then s
  else
    let p := s.mem.hbmLocate (g * 256)
    let rows := (p.offset / 256, s.time) :: (tgetD s.mem.err.pcUe p.pseudoChannel []).filter fun (_, t) => s.time < t + day
    let s := s.setMem { s.mem with err := { s.mem.err with pcUe := tset s.mem.err.pcUe p.pseudoChannel rows } }
    if rows.any fun (r, _) => r != p.offset / 256 then s.beginDrain (dieOfPc p.pseudoChannel) (pclOf p.pseudoChannel) 1 else s

/-- PATROL_SCRUB (R151) of a granule in service. -/
def execPatrolScrub (granule : Nat) (found : Finding) (s : State) : Out :=
  .next (match s.dpaTier (granule * 256) with
    | none | some .peer => s
    | some _ =>
      match found with
      | .clean => s
      | .correctable y => s.correctable granule y
      | .uncorrectable y => s.scrubUncorrectable granule y)

/-- SCRUB_PASS_OVERDUE (R151, R160): HBM, bonded SRAM or bulk. -/
def execScrubPassOverdue (store : Fin 3) (s : State) : Out :=
  .next (s.setMem { s.mem with regs := { s.mem.regs with scrubStat := s.mem.regs.scrubStat ||| (1#3 <<< store.val) } })

/-- A unit restored from a copy when its port has failed: new pages take its data. -/
def State.rehouse (s : State) (a : Nat) (bs : List Byte) : Option State :=
  (s.mem.ownerOf a).bind fun (t, tva) =>
    let place : Option (Page × State) := match s.hbmBlock unitBytes with
      | some d => some (⟨.hbm, d⟩, s)
      | none => (s.bulkRoom unitBytes).map fun (d, s) => (⟨.bulk, d⟩, s)
    place.map fun (p, s) =>
      let s := s.setMem (s.mem.put p.dpa bs)
      s.modUnit (t, tva / unitBytes) fun u => { u with backing := .whole p, clean := none }

/-- The restored bytes in place. -/
def State.restore (s : State) (r : Restoration) (bs : List Byte) : Option State :=
  if (s.dpaTier (r.granule * 256)).isSome then some (s.setMem (s.mem.put (r.granule * 256) bs))
  else s.rehouse (r.granule * 256) bs

/-- The event of a restoration's end: MEM_REPAIRED with its source, or MEM_POISONED. -/
def State.restorationEvent (s : State) (o : Option (Nat × Nat)) (tier : Nat) (r : Restoration) (kind source detail : Nat) : State :=
  let a := r.granule * 256
  s.memEvent (reportDie a) ⟨kind, tier, source, o.map Prod.fst, s.mem.eventUnit a, (o.map Prod.snd).getD 0, a, r.count, detail⟩

def addressTier (a : Nat) : Nat :=
  if a < bsramBase then 1 else if a < bulkBase then 0 else if a < peerBase then 2 else 3

/-- RESTORATION_DONE (R154, R155). `remote` is the copy that another module supplied: true from a replica,
false from the buddy checkpoint. Copies of this module come first; without one the granule stays
poisoned. Waiting accesses then go on. -/
def execRestorationDone (granule : Nat) (remote : Option (Bool × List Byte)) (s : State) : Out :=
  .next (match s.mem.restorations.find? (·.granule == granule) with
    | none => s
    | some r =>
      let a := granule * 256
      let o := s.mem.ownerOf a
      let copy : Option (Nat × List Byte) := match s.intactCopy a with
        | some (src, d) => some (src, s.mem.cells.readBytes d (256 * r.count))
        | none => (remote.filter fun x => x.2.length == 256 * r.count).map fun (rep, bs) => (if rep = true then 3 else 4, bs)
      let done := fun (s : State) => s.setMem ({ s.mem with restorations := s.mem.restorations.filter (·.granule != granule) }.release r)
      match copy.bind fun (src, bs) => (s.restore r bs).map fun s => (src, s) with
      | some (src, s) => (done (s.setMem (s.mem.counted r.count 0))).restorationEvent o (addressTier a) r 2 src 0
      | none =>
        let s := ((s.setMem (s.mem.counted 0 r.count)).withdrawLease a).restorationEvent o (addressTier a) r 1 0 r.syndrome
        done s.dropPoisonedNodes)

/-! Repair and map-out (R137 to R139, R150). -/

/-- ROW_REPAIR at the step boundary: the row takes one of its bank's repair rows, or its pseudo-channel is
mapped out when none is left. -/
def execRowRepair (pc : Fin 1024) (row : Nat) (s : State) : Out :=
  .next (if !s.mem.err.repairDue.contains (pc.val, row) then s
    else
      let bank := (pc.val, Config.internalDatum row)
      let used := tgetD s.mem.err.repaired bank 0
      let e := { s.mem.err with repairDue := s.mem.err.repairDue.filter (· != (pc.val, row)) }
      if used < Config.repairRows pc then
        s.setMem { s.mem with err := { e with rowCe := tdel e.rowCe (pc.val, row), repaired := tset e.repaired bank (used + 1) } }
      else (s.setMem { s.mem with err := e }).beginDrain (dieOfPc pc) (pclOf pc) 2)

/-- MAPOUT_TAKES_EFFECT (R138, steps 3 and 4); while units remain the drain is tried again. -/
def execMapoutTakesEffect (die : Fin 4) (s : State) : Out :=
  let r := s.mem.die die
  .next (match r.request with
    | none => s
    | some m =>
      if !r.draining || r.retiring then s
      else if s.regionEmpty die then
        s.finishDrain die { r with mapped := r.mapped ++ [m], draining := false, request := none, lowered := false }
      else (s.evacuate die).lowerForDrain die)

/-- DIE_REGION_RETIRE (R139): the event of a stack that fails as a whole begins the drain. -/
def execDieRegionRetire (die : Fin 4) (s : State) : Out :=
  let r := s.mem.die die
  .next (if r.retired then s
    else if !r.draining then ((s.setDie die { r with draining := true, request := none, retiring := true }).evacuate die).lowerForDrain die
    else if !r.retiring then s.setDie die { r with retiring := true }
    else if s.regionEmpty die then
      s.finishDrain die { r with retired := true, draining := false, request := none, retiring := false, lowered := false }
    else (s.evacuate die).lowerForDrain die)

/-! Bulk ports (R145). -/

def State.setPort (s : State) (p : Fin 8) (x : CxlPort) : State := s.setMem { s.mem with ports := s.mem.ports.set p x }

def onPort (p a : Nat) : Bool := bulkBase + p * portSpan ≤ a && a < bulkBase + (p + 1) * portSpan

/-- Units that the port backed: poisoned, and their restoration begun; clean copies on it are gone. -/
def State.losePort (s : State) (p : Nat) : State :=
  s.mem.units.foldl (fun s (k, u) =>
    let s := if u.clean.any (onPort p) then s.modUnit k fun u => { u with clean := none } else s
    u.backing.extents.foldl (fun s (a, n) =>
      if !onPort p a then s
      else
        s.setMem { s.mem with
          poison := (List.range (n / 256)).foldl (fun ps i => poisonAdd ps (a / 256 + i)) s.mem.poison
          restorations := s.mem.restorations ++ [⟨a / 256, n / 256, 8, []⟩] }) s) s

/-- CXL_PORT_FAILED. -/
def execCxlPortFailed (port : Fin 8) (s : State) : Out :=
  let x := s.mem.ports[port]
  .next (if !x.inService then s
    else
      let s := s.losePort port
      let s := s.setPort port { x with up := false, failed := true }
      s.memEvent 0 ⟨7, 2, 0, none, port, 0, bulkBase + port * portSpan, x.capGib * 4194304, 0⟩)

/-! BAR4 (13 R392). -/

/-- Does a tenant's function exist (13 R390) on a module whose host port is visible? -/
def State.fnExists (s : State) (t : Nat) : Bool :=
  s.sig.visible && s.dom.rank == s.dom.anchor && s.host.vfEnable && t < s.host.numVfs

/-- The TVA of a BAR4 offset; bits of BASE below the BAR's size are ignored. -/
def State.bar4Tva (s : State) (t o : Nat) : Nat :=
  let base := bits ((s.fnOf (tenantFn t)).bar4Win.toNat) 30 26 * gib
  base / 2 ^ s.host.bar4Log * 2 ^ s.host.bar4Log + o

def State.reply (s : State) (r : HostReply) : State := s.setHost { s.host with replies := r :: s.host.replies }

/-- BAR accesses of the function are turned away: its TDI is in ERROR (17 R494), or its tenant is being
reset (14 R421). -/
def State.tdiError (s : State) (t : Nat) : Bool :=
  tget s.boot.tdi t == some .error || s.flt.tenantResets.any (·.tenant == t)

def State.bar4Fault (s : State) (t a : Nat) : State := s.emitHost (tenantFn t) 0x0908 s.dom.rank a 0

/-- The bytes of a mapped range as they stand. -/
def State.peek (s : State) (t a n : Nat) : List Byte :=
  (cutEntries a n).flatMap fun (x, k) => ((s.mem.page t x).map fun p => s.mem.cells.readBytes (p.dpa + x % entryBytes) k).getD (zeros k)

/-- Does a restoration hold an access to the range (05 R155)? -/
def State.restoring (s : State) (t a n : Nat) : Bool :=
  (cutEntries a n).any fun (x, k) => (s.mem.page t x).any fun p => s.mem.restorations.any fun r => r.meets (p.dpa + x % entryBytes) k

def State.poisonedRange (s : State) (t a n : Nat) : Bool :=
  (cutEntries a n).any fun (x, k) => (s.mem.page t x).any fun p => (s.mem.poisonIn (p.dpa + x % entryBytes) k).isSome

def execBar4Read (tenant : Fin 512) (offset len : Nat) (s : State) : Out :=
  let a := s.bar4Tva tenant offset
  .next (if !s.fnExists tenant || offset + len > 2 ^ s.host.bar4Log then s
    else if s.tdiError tenant then s.reply .unsupported
    else if (s.mem.unmapped tenant a len).isSome then (s.reply .unsupported).bar4Fault tenant a
    else if s.restoring tenant a len then s
    else if s.poisonedRange tenant a len then s.reply (.poisoned (s.peek tenant a len))
    else s.reply (.data (s.peek tenant a len)))

def execBar4Write (tenant : Fin 512) (offset : Nat) (data : List Byte) (s : State) : Out :=
  let a := s.bar4Tva tenant offset
  .next (if !s.fnExists tenant || offset + data.length > 2 ^ s.host.bar4Log || s.tdiError tenant then s
    else
      match s.mem.unmapped tenant a data.length with
      | some x => s.bar4Fault tenant x
      | none => s.writeCommittedAll tenant a data)

end Sys2Proof.Machine
end

