-- ==== Sys2Proof/Machine/Optimiser.lean ====
section
/-! DEFINITION. Update programs and the provided optimisers (09 R266 to R269), one block at a time. -/

namespace Sys2Proof.Machine

/-- One element on entry: clipped gradient, master and moments. -/
structure ElemIn where
  g : Word
  w : Word
  m : Word
  v : Word
  deriving DecidableEq, Repr

/-- One element's result. -/
structure ElemOut where
  w : Word
  m : Word
  v : Word
  deriving DecidableEq, Repr

/-- s^t by t − 1 RNE multiplications. -/
def powR (s : Word) : Nat → Word
  | 0 => one32
  | 1 => s
  | n + 2 => mulR (powR s (n + 1)) s

def scalar (p : ParamGroup) (i : Nat) : Word := p.s.getD i 0

/-- 1 − x. -/
def oneLess (x : Word) : Word := subR one32 x

/-! R268: one RNE operation for each operator, left to right. -/

def adamw (p : ParamGroup) (lrScale : Word) (t : Nat) (e : ElemIn) : ElemOut :=
  let lr := mulR (scalar p 0) lrScale
  let b1 := scalar p 1
  let b2 := scalar p 2
  let m := addR (mulR b1 e.m) (mulR (oneLess b1) e.g)
  let v := addR (mulR b2 e.v) (mulR (mulR (oneLess b2) e.g) e.g)
  let fix := scalar p 5 == one32
  let mh := if fix then divR m (oneLess (powR b1 t)) else m
  let vh := if fix then divR v (oneLess (powR b2 t)) else v
  ⟨subR e.w (mulR lr (addR (divR mh (addR (sqrtR vh) (scalar p 3))) (mulR (scalar p 4) e.w))), m, v⟩

/-- sign of ±0 is 0; the manual gives none for a NaN (log entry 37). -/
def signR (c : Word) : Word :=
  if (fv c).isNan then Config.signNan c
  else if (fv c).isZero then 0
  else if (fv c).neg then 0xBF800000#32 else one32

def signMomentum (p : ParamGroup) (lrScale : Word) (e : ElemIn) : ElemOut :=
  let lr := mulR (scalar p 0) lrScale
  let b1 := scalar p 1
  let b2 := scalar p 2
  let c := addR (mulR b1 e.m) (mulR (oneLess b1) e.g)
  let m := addR (mulR b2 e.m) (mulR (oneLess b2) e.g)
  ⟨subR e.w (mulR lr (addR (signR c) (mulR (scalar p 4) e.w))), m, 0⟩

/-! BLOCK_ORTHO (R269). A matrix is its rows. -/

abbrev Mat := List (List Word)

def Mat.transpose (a : Mat) (cols : Nat) : Mat := (List.range cols).map fun j => a.map fun r => r.getD j 0

def Mat.map2 (f : Word → Word → Word) (a b : Mat) : Mat := (a.zip b).map fun (x, y) => (x.zip y).map fun (p, q) => f p q

def Mat.each (f : Word → Word) (a : Mat) : Mat := a.map fun r => r.map f

def toBf16 (x : Word) : Nat := (bf16.convert .rne false 0 (fv x)).code

/-- An FP32 value rounded to BF16 and widened. -/
def asBf16 (x : Word) : Word := BitVec.ofNat 32 (toBf16 x * 65536)

/-- A matrix product in Assay: BF16 operands, FP32 results. `bt` is the transpose of the right operand. -/
def Mat.mulT (a bt : Mat) : Mat :=
  a.map fun r => bt.map fun c => ((rowDot true 0 ((r.zip c).map fun (x, y) => some (asBf16 x, asBf16 y)) : Flagged Word).go).1

/-- The square root of the sum of squares in Assay form. -/
def Mat.frobenius (a : Mat) : Word :=
  sqrtR ((rowDot true 0 ((List.flatten a).map fun x => some (x, x)) : Flagged Word).go).1

/-- One iteration: on the left when rows ≤ columns, else on the right. -/
def orthoStep (p : ParamGroup) (rows cols : Nat) (x : Mat) : Mat :=
  let xt := Mat.transpose x cols
  let left := rows ≤ cols
  let n := if left then rows else cols
  let am := if left then Mat.mulT x x else Mat.mulT xt xt
  let sq := Mat.mulT (Mat.each (mulR (scalar p 6)) am) (Mat.transpose am n)
  let f := Mat.map2 addR (Mat.each (mulR (scalar p 5)) am) sq
  let prod := if left then Mat.mulT f xt else Mat.mulT x (Mat.transpose f n)
  Mat.map2 addR (Mat.each (mulR (scalar p 4)) x) prod

def iterate {α : Type} (f : α → α) : Nat → α → α
  | 0, x => x
  | n + 1, x => iterate f n (f x)

/-- The number that an FP32 scalar holds, for scalars that are counts. -/
def countOf (w : Word) : Nat :=
  match fv w with
  | .fin false m e => if e < 0 then m / 2 ^ (-e).toNat else m * 2 ^ e.toNat
  | _ => 0

/-- A tile of rows × cols, its elements row-major. -/
def blockOrtho (p : ParamGroup) (lrScale : Word) (rows cols : Nat) (es : List ElemIn) : List ElemOut :=
  let lr := mulR (scalar p 0) lrScale
  let beta := scalar p 1
  let ms := es.map fun e => addR (mulR beta e.m) e.g
  let us := (es.zip ms).map fun (e, m) => if scalar p 2 == one32 then addR e.g (mulR beta m) else m
  let u : Mat := (List.range rows).map fun i => (us.drop (i * cols)).take cols
  let norm := addR (Mat.frobenius u) (scalar p 8)
  let x := iterate (orthoStep p rows cols) (countOf (scalar p 3)) (Mat.each (fun y => divR y norm) u)
  let k := sqrtR (fmaxW one32 (divR (natF32 rows) (natF32 cols)))
  ((es.zip ms).zip x.flatten).map fun ((e, m), y) =>
    ⟨subR e.w (mulR lr (addR (mulR k y) (mulR (scalar p 7) e.w))), m, 0⟩

/-! Custom programs (R266). -/

/-- The registers of one element: V0 to V31, and LM1 to LM7. -/
structure ElemRegs where
  v : Vector Word 32
  lm : BitVec 8
  deriving DecidableEq, Repr

def vecOpOk (cls op : Nat) : Bool :=
  (cls == 5 && (op ≤ 0x0B || op == 0x19 || op == 0x1A)) || (cls == 6 && op ≤ 0x0A)

/-- The instruction rules of R266. -/
def updInstrOk (w : DWord) : Bool :=
  let o := operandOf w
  vecOpOk (classOf w) (opcodeOf w) && opBits o 51 3 == 0 && !opBit o 50 && opBits o 27 3 == 0 && opBits o 23 3 == 0

def sfuOf : Nat → SfuFn
  | 0 => .exp | 1 => .log | 2 => .sigmoid | 3 => .tanh | 4 => .gelu | 5 => .geluTanh | 6 => .silu | 7 => .recip
  | 8 => .rsqrt | 9 => .softplus | _ => .erf

/-- One instruction on one element. -/
def updInstr (w : DWord) (x : ElemRegs) : ElemRegs :=
  let o := operandOf w
  let a := x.v[opFin5 o 40]
  let b := x.v[opFin5 o 35]
  let c := x.v[opFin5 o 30]
  let sat := opBit o 26
  let put := fun (y : Word) => { x with v := x.v.set (opFin5 o 45) y }
  let lm := opBits o 20 3
  if classOf w == 6 then put (sfuF (sfuOf (opcodeOf w)) sat a).val
  else match opcodeOf w with
    | 0x00 => put (faddF .rne sat a b).val
    | 0x01 => put (fsubF .rne sat a b).val
    | 0x02 => put (fmulF .rne sat a b).val
    | 0x03 => put (ffmaF .rne sat a b c).val
    | 0x04 => put (fdivF .rne sat a b).val
    | 0x05 => put (fsqrtF .rne sat a).val
    | 0x06 => put (fmaxW a b)
    | 0x07 => put (fminW a b)
    | 0x08 => put (fnegW a)
    | 0x09 => put (fabsW a)
    | 0x0A => if lm == 0 then x
      else { x with lm := (x.lm &&& ~~~(1#8 <<< lm)) ||| (if fltW a b then 1#8 <<< lm else 0) }
    | 0x0B => put (if lm == 0 || x.lm.getLsbD lm then a else b)
    | 0x19 => put (cvtIF .rne a)
    | _ => put (cvtFI .rne a).val

def runProgram (ws : List DWord) (x : ElemRegs) : ElemRegs := ws.foldl (fun x w => updInstr w x) x

/-- Registers on entry. -/
def entryRegs (p : ParamGroup) (lrScale : Word) (t : Nat) (e : ElemIn) : ElemRegs where
  v := Vector.ofFn fun i : Fin 32 => match i.val with
    | 0 => e.g | 1 => e.w | 2 => e.m | 3 => e.v
    | 28 => natF32 t | 29 => powR (scalar p 1) t | 30 => powR (scalar p 2) t | 31 => lrScale
    | k => if 12 ≤ k && k ≤ 27 then scalar p (k - 12) else 0
  lm := 0

/-- A block reduction: sum in Assay form, or maximum. -/
def reduceBlock (kind : Nat) (xs : List Word) : Word :=
  match kind with
  | 1 => ((rowSum true 0 (xs.map some) : Flagged Word).go).1
  | 2 => rowMax (xs.map some)
  | _ => 0

def runCustom (u : UpdateProgram) (p : ParamGroup) (lrScale : Word) (t : Nat) (es : List ElemIn) : List ElemOut :=
  let as := es.map fun e => runProgram u.phaseA (entryRegs p lrScale t e)
  let out := if u.phaseB.isEmpty then as
    else
      let r0 := reduceBlock u.red0 (as.map fun x => x.v[8])
      let r1 := reduceBlock u.red1 (as.map fun x => x.v[9])
      as.map fun x => runProgram u.phaseB { x with v := (x.v.set 10 r0).set 11 r1 }
  out.map fun x => ⟨x.v[1], x.v[2], x.v[3]⟩

/-- Scalars of a provided optimiser inside their ranges (R268). -/
def unitHalf (w : Word) : Bool := (fv w).isFinite && (!(fv w).neg || (fv w).isZero) && (fv w).cmp (fv one32) == .lt
def atLeast0 (w : Word) : Bool := (fv w).isFinite && (!(fv w).neg || (fv w).isZero)
def above0 (w : Word) : Bool := (fv w).isFinite && !(fv w).neg && !(fv w).isZero
def flag01 (w : Word) : Bool := (fv w).isZero || w == one32

def scalarsOk (p : ParamGroup) : Bool :=
  match p.opt with
  | 1 => atLeast0 (scalar p 0) && unitHalf (scalar p 1) && unitHalf (scalar p 2) && above0 (scalar p 3) && atLeast0 (scalar p 4)
      && flag01 (scalar p 5)
  | 2 => unitHalf (scalar p 1) && unitHalf (scalar p 2)
  | 3 => unitHalf (scalar p 1) && flag01 (scalar p 2) && (List.range 8).any (fun i => scalar p 3 == natF32 (i + 1))
      && above0 (scalar p 8) && [128, 256, 512].any fun n => scalar p 9 == natF32 n
  | _ => true

/-- One block by its group's optimiser; rows and cols are those of a BLOCK_ORTHO tile. -/
def runBlock (progs : List UpdateProgram) (p : ParamGroup) (lrScale : Word) (t rows cols : Nat) (es : List ElemIn) : List ElemOut :=
  match p.opt with
  | 1 => es.map (adamw p lrScale t)
  | 2 => es.map (signMomentum p lrScale)
  | 3 => blockOrtho p lrScale rows cols es
  | k => match progs[k - 0x100]? with
    | some u => runCustom u p lrScale t es
    | none => es.map fun e => ⟨e.w, e.m, e.v⟩

end Sys2Proof.Machine
end

