-- ==== Sys2Proof/Machine/LearnOps.lean ====
section
/-! DEFINITION. Operations of learning (09): shards and their storage, update blocks, the decision and the
commit of an update, reports and norms, takeover. -/

namespace Sys2Proof.Machine

/-! Shards (R252, R253). -/

def Learn.n (l : Learn) : Nat := l.members.length

def Model.weightBytes (m : Model) (n k : Nat) : Nat := 2 * m.shardCount n k

/-- Bytes of optimiser state (R253): FP32 master, m and v; or extension, M8S and M8U. -/
def Model.stateBytes (m : Model) (n k : Nat) : Nat := (if m.compact then 4 else 12) * m.shardCount n k

/-- Parts laid one after the other, each 64-byte aligned: their offsets, and the length. -/
def layOffsets (sizes : List Nat) : List Nat × Nat :=
  sizes.foldl (fun (acc : List Nat × Nat) z => (acc.1 ++ [acc.2], acc.2 + align64 z)) ([], 0)

def Model.overTensors {α : Type} (m : Model) (f : Nat → α) : List α := (List.range m.tensors.length).map f

/-- This member's shards allocated: weights and gradients wherever HBM gives room, optimiser state in the bulk
tier. None where they do not fit. -/
def State.allocShards (s : State) (t : Nat) (m : Model) (n : Nat) : Option (List ShardPlace × State) :=
  let (wo, wn) := layOffsets (m.overTensors (m.weightBytes n))
  let (so, sn) := layOffsets (m.overTensors (m.stateBytes n))
  (s.deviceAlloc t wn .any).bind fun (w, s) => (s.deviceAlloc t wn .any).bind fun (g, s) => (s.deviceAlloc t sn .bulk).map fun (st, s) =>
    ((wo.zip so).map fun (a, b) => ⟨w + a, g + a, st + b⟩, s)

def State.freeShards (s : State) (t : Nat) (m : Model) (n : Nat) (ps : List ShardPlace) : State :=
  match ps.head? with
  | none => s
  | some p =>
    let wn := (layOffsets (m.overTensors (m.weightBytes n))).2
    let sn := (layOffsets (m.overTensors (m.stateBytes n))).2
    ((s.deviceFree t p.w wn).deviceFree t p.g wn).deviceFree t p.st sn

/-- Bytes of the shard table. -/
def Model.tableBytes (m : Model) : Nat := 64 * m.tensors.length

/-- The row of a tensor that local row q of member j is (R252). -/
def globalRow (n j q : Nat) : Nat :=
  let (b, u) := shardBlock n
  q / u * b + j * u + q % u

/-- Global parameter index of an element of member j's shard; padding has none. -/
def Model.globalIndex (m : Model) (n j k e : Nat) : Option Nat :=
  (m.tensors[k]?).bind fun x =>
    let r := globalRow n j (e / max x.rowLen 1)
    if r < x.rows then some (m.bases.getD k 0 + r * x.rowLen + e % max x.rowLen 1) else none

/-- A little-endian number in a tenant's memory as it stands. -/
def State.peekLE (s : State) (t a n : Nat) : Nat := leNat (s.peek t a n)

/-- Every gradient buffer of this member zeroed. -/
def State.zeroGrads (s : State) (t : Nat) (m : Model) (l : Learn) : State :=
  (List.range m.tensors.length).foldl (fun s k =>
    (l.shards[k]?).elim s fun p => s.writeCommittedAll t p.g (zeros (l.gradBytes m k))) s

/-! Elements in storage (R47, R49, R253, R267). -/

def groupOf (u : LearnSetup) (k : Nat) : ParamGroup := u.groups.getD (u.groupMap.getD k 0) ⟨0, []⟩

/-- Where an element's three state fields lie: (address, bytes) of master or extension, m, and v or √v. -/
def Model.stateAt (m : Model) (n k : Nat) (p : ShardPlace) (e : Nat) : List (Nat × Nat) :=
  let c := m.shardCount n k
  if m.compact then [(p.st + 2 * e, 2), (p.st + 2 * c + e, 1), (p.st + 3 * c + e, 1)]
  else [(p.st + 4 * e, 4), (p.st + 4 * c + 4 * e, 4), (p.st + 8 * c + 4 * e, 4)]

/-- An element's fields as codes. -/
def State.stateCodes (s : State) (t : Nat) (places : List (Nat × Nat)) : List Nat := places.map fun (a, n) => s.peekLE t a n

/-- An element on entry, its gradient not yet clipped. -/
def State.elemIn (s : State) (t : Nat) (m : Model) (n k : Nat) (p : ShardPlace) (e : Nat) : ElemIn :=
  let cs := s.stateCodes t (m.stateAt n k p e)
  let g := BitVec.ofNat 32 (s.peekLE t (p.g + 2 * e) 2 * 65536)
  if m.compact then
    ⟨g, compactMaster (BitVec.ofNat 16 (s.peekLE t (p.w + 2 * e) 2)) (BitVec.ofNat 16 (cs.getD 0 0)), restoreM (cs.getD 1 0), restoreV (cs.getD 2 0)⟩
  else ⟨g, BitVec.ofNat 32 (cs.getD 0 0), BitVec.ofNat 32 (cs.getD 1 0), BitVec.ofNat 32 (cs.getD 2 0)⟩

/-- What is stored of a result: codes of the three state fields, the weight, and saturations. A NaN moment of
compact state keeps the old code. -/
def Model.storeElem (m : Model) (seed : DWord) (step gi : Nat) (old : List Nat) (o : ElemOut) : List Nat × Nat × Nat :=
  if m.compact then
    let (w, ext) := splitMaster o.w
    let rnd := fun (i : Nat) => rngR (rngWord seed (BitVec.ofNat 32 step) (BitVec.ofNat 64 i))
    let (cm, sm) := storeMoment m8s (rnd (2 * gi)) o.m
    let (cv, sv) := storeMoment m8u (rnd (2 * gi + 1)) (sqrtR o.v)
    ([ext.toNat, cm.getD (old.getD 1 0), cv.getD (old.getD 2 0)], w.toNat, (if sm then 1 else 0) + (if sv then 1 else 0))
  else ([o.w.toNat, o.m.toNat, o.v.toNat], toBf16 o.w, 0)

/-! Update blocks (R254, R269). -/

/-- Rows, columns and elements of block b of a shard: a tile under BLOCK_ORTHO, else 4,096 elements. -/
def Model.blockOf (m : Model) (n k : Nat) (p : ParamGroup) (b : Nat) : Nat × Nat × List Nat :=
  match m.tensors[k]? with
  | none => (0, 0, [])
  | some x =>
    let rows := shardRows n x.rows
    if p.opt == 3 then
      let side := max 1 (countOf (scalar p 9))
      let per := max 1 ((x.rowLen + side - 1) / side)
      let r0 := b / per * side
      let c0 := b % per * side
      let h := min side (rows - r0)
      let w := min side (x.rowLen - c0)
      (h, w, (List.range (h * w)).map fun i => (r0 + i / w) * x.rowLen + c0 + i % w)
    else
      let c := min 4096 (rows * x.rowLen - 4096 * b)
      (1, c, (List.range c).map fun i => 4096 * b + i)

def Model.blockCount (m : Model) (n k : Nat) (p : ParamGroup) : Nat :=
  match m.tensors[k]? with
  | none => 0
  | some x =>
    let rows := shardRows n x.rows
    if p.opt == 3 then
      let side := max 1 (countOf (scalar p 9))
      (rows + side - 1) / side * ((x.rowLen + side - 1) / side)
    else (rows * x.rowLen + 4095) / 4096

/-- (STATE_TAG, WEIGHT_TAG) of a block. -/
def Learn.tag (l : Learn) (k b : Nat) : Nat × Nat := tgetD l.tags (k, b) (l.version, l.version)

def Learn.swapped (l : Learn) (k b : Nat) : Bool := l.tag k b == (l.version + 1, l.version + 1)

/-- The order of a sweep (R273): tensors descending, blocks ascending. -/
def Learn.sweepOrder (l : Learn) (m : Model) (u : LearnSetup) : List (Nat × Nat) :=
  (List.range m.tensors.length).reverse.flatMap fun k =>
    (List.range (m.blockCount l.n k (groupOf u k))).map fun b => (k, b)

/-- The die whose update engine owns a block (R254): that of its first weight; weights that lie outside HBM are
swept by die 0. -/
def State.blockDie (s : State) (t : Nat) (m : Model) (l : Learn) (u : LearnSetup) (k b : Nat) : Nat :=
  let e := (m.blockOf l.n k (groupOf u k) b).2.2.headD 0
  match (l.shards[k]?).bind fun p => s.mem.page t (p.w + 2 * e) with
  | some p => if p.tier == .hbm then p.dpa / dieSpan else 0
  | none => 0

/-- The block that an engine takes next: the first of its blocks that is not at n + 1 and has no open entry. -/
def State.nextBlock (s : State) (t : Nat) (m : Model) (l : Learn) (u : LearnSetup) (die : Nat) : Option (Nat × Nat) :=
  (l.sweepOrder m u).find? fun (k, b) =>
    !l.swapped k b && !(l.undo.any fun x => x.tensor == k && x.block == b) && s.blockDie t m l u k b == die

/-- Every byte that the block's update reads is neither under restoration nor poisoned. -/
def State.blockReadable (s : State) (t : Nat) (m : Model) (n k : Nat) (p : ShardPlace) (es : List Nat) : Bool :=
  es.all fun e => ((p.w + 2 * e, 2) :: (p.g + 2 * e, 2) :: m.stateAt n k p e).all fun (a, c) =>
    !s.restoring t a c && !s.poisonedRange t a c

/-- Codes laid out as bytes at their places. -/
def State.pokeCodes (s : State) (t : Nat) (places : List (Nat × Nat)) (codes : List Nat) : State :=
  (places.zip codes).foldl (fun s ((a, n), c) => s.writeCommittedAll t a (leBytes n c)) s

/-- One element as an update leaves it. -/
structure ElemNew where
  e : Nat
  codes : List Nat
  weight : Nat
  sat : Nat
  old : Word
  new : Word
  deriving DecidableEq, Repr

def finiteR (w : Word) : Bool := (fv w).isFinite

/-- A block's result (R267, R273): its live elements, and whether it keeps its old state and weights. -/
def State.blockResult (s : State) (t : Nat) (m : Model) (l : Learn) (g : GoRecord) (k b : Nat) (p : ShardPlace) (rank : Nat) : List ElemNew × Bool :=
  let n := l.n
  let (rows, cols, es) := m.blockOf n k (groupOf g.setup k) b
  let ins := es.map (s.elemIn t m n k p)
  let outs := runBlock g.setup.programs (groupOf g.setup k) g.lrScale g.step rows cols (ins.map fun x => { x with g := mulR g.clip x.g })
  let bad := g.setup.skipBlocks &&
    (ins.any (fun x => !finiteR x.g) || outs.any fun o => !(finiteR o.w && finiteR o.m && finiteR o.v))
  let news := ((es.zip ins).zip outs).filterMap fun ((e, i), o) =>
    (m.globalIndex n (l.index rank) k e).map fun gi =>
      let old := s.stateCodes t (m.stateAt n k p e)
      let w0 := s.peekLE t (p.w + 2 * e) 2
      if bad then ⟨e, old, w0, 0, i.w, i.w⟩
      else
        let (cs, w, sat) := m.storeElem g.setup.seed g.step gi old o
        ⟨e, cs, w, sat, i.w, o.w⟩
  (news, bad)

/-- Partials of a finished block (R270): padding is in no norm. -/
def Learn.addBlock (l : Learn) (k : Nat) (news : List ElemNew) (bad : Bool) : Learn :=
  let p := news.foldl (fun (p : TensorPartials) x =>
    let d := subR x.new x.old
    { p with w2 := addR p.w2 (mulR x.new x.new), u2 := addR p.u2 (mulR d d), sat := p.sat + x.sat }) (l.sums k)
  { l.setPartial k { p with skipped := p.skipped || bad } with blocksSkipped := l.blocksSkipped + (if bad then 1 else 0) }

/-- The steps of R277 up to one of them: 1 the undo entry, 2 state and STATE_TAG, 3 weights and WEIGHT_TAG,
4 the entry closed. A stop between steps leaves the entry open and the sweep stopped. -/
def State.updateBlock (s : State) (t mid : Nat) (m : Model) (l : Learn) (g : GoRecord) (k b upto : Nat) (p : ShardPlace) : State × Learn :=
  let n := l.n
  let (news, bad) := s.blockResult t m l g k b p s.dom.rank
  let es := (m.blockOf n k (groupOf g.setup k) b).2.2
  let entry : UndoEntry := ⟨s.blockDie t m l g.setup k b, k, b,
    es.flatMap fun e => (m.stateAt n k p e).flatMap fun (a, c) => s.peek t a c, es.flatMap fun e => s.peek t (p.g + 2 * e) 2⟩
  let v := l.version + 1
  let l := if upto ≥ 1 && upto < 4 then { l with undo := l.undo ++ [entry] } else l
  let l := if upto ≥ 2 then { l with tags := tset l.tags (k, b) (v, (l.tag k b).2) } else l
  let s := if upto ≥ 2 then news.foldl (fun s x => s.pokeCodes t (m.stateAt n k p x.e) x.codes) s else s
  let l := if upto ≥ 3 then ({ l with tags := tset l.tags (k, b) (v, v) }).addBlock k news bad else l
  let s := if upto ≥ 3 then news.foldl (fun s x => s.writeCommittedAll t (p.w + 2 * x.e) (leBytes 2 x.weight)) s else s
  let l := if upto < 4 then { l with stopped := true } else l
  (s.setLearn t mid l, l)

/-! Buddies (R265, R274). -/

/-- With BUDDY on and more than one member, checkpoints and mirrors are kept. -/
def Learn.buddied (l : Learn) : Bool := l.n > 1 && l.setup.any (·.buddy)

def Learn.mirrorWaits (l : Learn) : Bool := l.buddied && !l.mirrorDone
def Learn.ckptWaits (l : Learn) : Bool := l.buddied && l.ckptVersion != some l.version

/-- LEARN_STEPs of the model's step that run here. -/
def State.stepsHere (s : State) (t mid : Nat) : Nat :=
  (s.cmd.cmds.filter fun c => c.gradient && c.tenant == t && c.learnModel == mid && (c.phase == .started || c.phase == .voting || c.phase == .deciding)).length

/-! Events and reports (R281, R282). -/

/-- A learning event, from the coordinator. -/
def State.learnEvent (s : State) (t kind mid version member rank value cause : Nat) : State :=
  if s.dom.rank != s.dom.coord then s
  else s.emitTenant t (srcCore 0 4) 0x05 (fields [(2, kind), (2, t), (4, mid), (4, version), (2, member), (2, rank), (4, value), (4, cause)])

/-- Member partials of an update added by tensor, in member order (R270). -/
def sumPartials (l : Learn) (m : Model) (ds : List DoneRec) : List TensorPartials :=
  let ordered := sortBy (fun (d : DoneRec) => l.index d.rank) ds
  m.overTensors fun k => ordered.foldl (fun (a : TensorPartials) d =>
    let p := tgetD d.partials k TensorPartials.zero
    ⟨addR a.w2 p.w2, addR a.g2 p.g2, addR a.u2 p.u2, addR a.mg2 p.mg2, a.nonfinite + p.nonfinite, a.sat + p.sat, a.skipped || p.skipped⟩)
    TensorPartials.zero

/-- The norm table (R270): MG2 is the mean over microbatches. -/
def normTable (micros : Nat) (ps : List TensorPartials) : List Byte :=
  ps.zipIdx.flatMap fun (p, k) => fields [(4, k), (4, p.w2.toNat), (4, p.g2.toNat), (4, p.u2.toNat),
    (4, (divR p.mg2 (natF32 micros)).toNat), (4, p.nonfinite), (4, p.sat), (4, if p.skipped then 1 else 0)]

def sumWords (ws : List Word) : Word := ws.foldl addR 0

/-- The noise estimate of a step (R271): (g2, s); none where the step does not qualify. -/
def noiseOf (planned micros : Nat) (gs gb : Word) : Option (Word × Word) :=
  if micros < 2 || planned * micros ≤ planned then none
  else
    let bb := natF32 planned
    let bs := divR bb (natF32 micros)
    some (divR (subR (mulR bb gb) (mulR bs gs)) (subR bb bs),
      divR (subR gs gb) (subR (divR one32 bs) (divR one32 bb)))

/-- round(b_noise ÷ Bs), clamped to 1–65,536; halves up. -/
def accumHint (bnoise bs : Word) : Nat :=
  match fv (divR bnoise bs) with
  | .inf false => 65536
  | .fin false m e =>
    let (n, d) := fracOf m e
    max 1 (min 65536 (roundHalfUp n d))
  | _ => 1
where roundHalfUp (n d : Nat) : Nat := if d == 0 then 0 else (2 * n + d) / (2 * d)

/-- b_noise of the estimates. -/
def bNoise (e : Word × Word) : Word := if fltW 0 e.1 then divR e.2 e.1 else posInf32

/-- The learning side after the noise statistics of a committed step, and whether ACCUM_HINT changed. -/
def Learn.withNoise (l : Learn) (gs gb : Word) : Learn × Bool :=
  match noiseOf l.planned l.micros gs gb with
  | none => ({ l with noiseValid := false }, false)
  | some (g2, sv) =>
    let e := (l.setup.map (·.noiseEma)).getD 0
    let mix := fun (old new : Word) => addR (mulR e old) (mulR (subR one32 e) new)
    let est := match l.noise with
      | none => (g2, sv)
      | some (a, b) => (mix a g2, mix b sv)
    let h := accumHint (bNoise est) (divR (natF32 l.planned) (natF32 l.micros))
    let far := 4 * (max h l.hint - min h l.hint) > l.hint
    let run := if far then l.hintRun + 1 else 0
    let l := { l with noise := some est, noiseValid := true }
    if run ≥ 3 then ({ l with hint := h, hintRun := 0 }, true) else ({ l with hintRun := run }, false)

/-- What a report gives beside the job and the learning side. -/
structure ReportNums where
  version : Nat
  decision : Nat
  weightNorm : Word
  updateNorm : Word
  gs : Word
  gb : Word
  nonfinite : Nat
  skipped : Nat
  sat : Nat
  redos : Nat
  tCommit : Nat
  sweepUs : Nat
  unattributed : Nat
  deriving DecidableEq, Repr

/-- The 256-byte update report (R281). -/
def reportBytes (l : Learn) (j : UpdateJob) (x : ReportNums) : List Byte :=
  let micros := l.micros
  let bs := if micros == 0 then (0 : Word) else divR (natF32 l.planned) (natF32 micros)
  let est := l.noise.getD (0, 0)
  fields [(4, x.version), (1, x.decision), (1, min j.takeovers 255), (2, min j.reruns 65535), (8, l.step), (4, j.gradNorm.toNat), (4, j.clip.toNat),
    (4, x.weightNorm.toNat), (4, x.updateNorm.toNat), (4, x.gs.toNat), (4, x.gb.toNat), (4, bs.toNat), (4, (natF32 l.planned).toNat),
    (4, est.1.toNat), (4, est.2.toNat), (4, if l.noise.isSome then (bNoise est).toNat else 0), (4, l.hint),
    (8, x.nonfinite), (8, x.skipped), (8, x.sat), (4, x.redos), (4, micros), (8, j.tPrepare), (8, j.tGo), (8, x.tCommit),
    (4, j.readys.foldl (fun a r => max a r.ckptWaitUs) 0), (4, j.readys.foldl (fun a r => max a r.mirrorWaitUs) 0), (4, x.sweepUs),
    (4, if l.noiseValid then 1 else 0), (8, x.unattributed)] ++ zeros 112

/-- A report of an update that commits no version: version n, and what the READYs told. -/
def shortReport (l : Learn) (j : UpdateJob) (decision : Nat) : ReportNums :=
  ⟨l.version, decision, 0, 0, 0, 0, j.readys.foldl (fun a r => a + r.nonfinite) 0, 0, 0, 0, 0, 0, 0⟩

/-! The end of a step (R255, R273, R276). -/

/-- A member's swap to version n + 1 (R273): the atomic commit point of its model record. -/
def State.swapLearn (s : State) (t mid : Nat) (m : Model) (l : Learn) : State :=
  let v := l.version + 1
  let s := s.zeroGrads t m l
  s.modModel t mid fun x => { x with
    highest := max x.highest v, learn := some { l.closed v with step := l.step + 1, held := l.held.map fun h => { h with mirror := none } } }

/-- The step ends without a new version: gradients zeroed, the model IDLE at n. -/
def State.endStep (s : State) (t mid : Nat) (m : Model) (l : Learn) : State :=
  (s.zeroGrads t m l).setLearn t mid { l.closed l.version with held := l.held.map fun h => { h with mirror := none } }

/-- LEARN_UPDATE completes with a status; its report is written where it still runs. -/
def State.failUpdate (s : State) (t : Nat) (j : UpdateJob) (report : List Byte) (status detail : Nat) : State :=
  if (s.cmdAt j.cmd).isNone then s
  else (s.writeCommittedAll t j.reportTva report).finish j.cmd status detail 0

def State.others' (s : State) (l : Learn) : List Nat := l.members.filter (· != s.dom.rank)

/-- A FREEZE that overlaps the update ends with it (10 R305). -/
def State.abortOverlap (s : State) (t mid : Nat) : State :=
  let js := s.turn.freezes.filter fun j => j.plan.tenant == t && j.plan.model == mid && j.plan.overlap
  let s := { s with turn := { s.turn with freezes := s.turn.freezes.filter fun j => !js.contains j } }
  js.foldl (fun s j => s.finish j.cmd stFreezeAborted 0 0) s

/-- SKIP or the end after a failed re-run (R255, R276): the members drop the step at version n. -/
def State.dropStep (s : State) (t mid : Nat) (m : Model) (l : Learn) (j : UpdateJob) (decision status detail : Nat) : State :=
  let report := reportBytes l j (shortReport l j decision)
  let s := s.sendAll (s.others' l) .learnCommit [t, mid, l.version]
  let s := ((s.endStep t mid m l).failUpdate t j report status detail).abortOverlap t mid
  { s with turn := { s.turn with abortCount := s.turn.abortCount + 1 } }

/-- COMMIT (R273), with the report and the norm table (R270, R271, R281). -/
def State.commitUpdate (s : State) (t mid : Nat) (m : Model) (l : Learn) (j : UpdateJob) : State :=
  let ps := sumPartials l m j.dones
  let gs := sumWords (ps.map fun p => divR p.mg2 (natF32 l.micros))
  let gb := sumWords (ps.map (·.g2))
  let (l, hinted) := l.withNoise gs gb
  let sum := fun (f : DoneRec → Nat) => j.dones.foldl (fun a d => a + f d) 0
  let nums : ReportNums := ⟨l.version + 1, 0, sqrtR (sumWords (ps.map (·.w2))), sqrtR (sumWords (ps.map (·.u2))), gs, gb,
    ps.foldl (fun a p => a + p.nonfinite) 0, sum (·.blocksSkipped), ps.foldl (fun a p => a + p.sat) 0, sum (·.undoRedos), s.time,
    j.dones.foldl (fun a d => max a d.sweepUs) 0, sum (·.unattributed)⟩
  let report := reportBytes l j nums
  let redos := nums.redos
  let v := l.version + 1
  let s := s.sendAll (s.others' l) .learnCommit [t, mid, v]
  let s := s.swapLearn t mid m l
  let s := { s with turn := { s.turn with commitCount := s.turn.commitCount + 1 } }
  let s := s.learnEvent t 0x0401 mid v 0 0 0 0
  let s := if redos == 0 then s else s.learnEvent t 0x0404 mid v 0 0 redos 0
  let s := if hinted then s.learnEvent t 0x0407 mid v 0 0 l.hint 0 else s
  match s.cmdAt j.cmd with
  | none => s
  | some c =>
    let out := do
      let s ← s.output c j.reportTva report
      if j.normTva == 0 then return s else s.output c j.normTva (normTable l.micros ps)
    match out with
    | .ok s => s.vote j.cmd 0 0 []
    | .error (.fault e) => s.finish j.cmd e.code e.detail 0
    | .error _ => s.finish j.cmd stBulkFull 0 0

/-- A DONE reaches the coordinator; after the last, COMMIT (R273). -/
def State.addDone (s : State) (t mid : Nat) (r : DoneRec) : State :=
  match s.modelAt t mid with
  | none => s
  | some m =>
    match m.learn with
    | none => s
    | some l =>
      match l.update with
      | none => s
      | some j =>
        if l.phase != .updating || !l.members.contains r.rank || j.dones.any (·.rank == r.rank) then s
        else
          let j := { j with dones := j.dones ++ [r] }
          let l := { l with update := some j }
          let s := s.setLearn t mid l
          if l.members.all fun k => j.dones.any (·.rank == k) then s.commitUpdate t mid m l j else s

/-- DONE of this member once every block is at n + 1 (R270, R273). -/
def State.checkSwept (s : State) (t mid : Nat) : State :=
  match s.modelAt t mid with
  | none => s
  | some m =>
    match m.learn with
    | none => s
    | some l =>
      match l.go with
      | none => s
      | some g =>
        if l.swept || l.stopped || !l.undo.isEmpty || !((l.sweepOrder m g.setup).all fun (k, b) => l.swapped k b) then s
        else
          let r : DoneRec := ⟨s.dom.rank, l.partials, l.blocksSkipped, l.undoRedos, (s.time - l.sweepStart) / 1000, l.unattributed⟩
          let s := s.setLearn t mid { l with swept := true }
          if l.update.isSome then s.addDone t mid r
          else s.send ⟨s.dom.coord, .updateDone, [t, mid, r.rank, r.blocksSkipped, r.undoRedos, r.sweepUs, r.unattributed],
            r.partials.flatMap fun (k, p) => fields [(4, k), (4, p.w2.toNat), (4, p.g2.toNat), (4, p.u2.toNat), (4, p.mg2.toNat), (4, p.nonfinite), (4, p.sat), (4, if p.skipped then 1 else 0)]⟩

/-- The GO record stored and the sweep begun (R272). -/
def State.beginSweep (s : State) (t mid : Nat) (l : Learn) (g : GoRecord) : State :=
  (s.setLearn t mid { l with phase := .updating, go := some g, prepared := none, swept := false, stopped := false, sweepStart := s.time }).checkSwept t mid

/-- The words of a GO record as its message carries them. -/
def goArgs (t mid : Nat) (g : GoRecord) : List Nat := [t, mid, g.version, g.step, g.clip.toNat, g.lrScale.toNat]

def goData (g : GoRecord) : List Byte := g.setup.groups.flatMap fun p => leBytes 16 p.opt ++ p.s.flatMap fun w => leBytes 4 w.toNat

/-- The decision (R272), once every member has replied. -/
def State.decideUpdate (s : State) (t mid : Nat) (m : Model) (l : Learn) (j : UpdateJob) (u : LearnSetup) : State :=
  let rs := sortBy (fun (r : ReadyRec) => l.index r.rank) j.readys
  let gn := sqrtR (sumWords (rs.map (·.g2)))
  let bad := rs.any fun r => r.nonfinite != 0
  let j := { j with gradNorm := gn, tGo := s.time }
  if bad && !u.skipBlocks then s.dropStep t mid m l j 1 stUpdateSkipped 0
  else
    let clip := if (fv u.clipNorm).isZero || !fltW u.clipNorm gn then one32 else divR u.clipNorm gn
    let g : GoRecord := ⟨l.version, l.step, clip, j.lrScale, u⟩
    let l := { l with update := some { j with clip := clip } }
    let s := (s.others' l).foldl (fun s r => s.send ⟨r, .go, goArgs t mid g, goData g⟩) s
    s.beginSweep t mid l g

/-- A READY reaches the coordinator (R272). -/
def State.addReady (s : State) (t mid : Nat) (r : ReadyRec) : State :=
  match s.modelAt t mid with
  | none => s
  | some m =>
    match m.learn with
    | none => s
    | some l =>
      match l.update, l.setup with
      | some j, some u =>
        if l.phase != .preparing || !l.members.contains r.rank || j.readys.any (·.rank == r.rank) then s
        else
          let j := { j with readys := j.readys ++ [r] }
          let l := { l with update := some j }
          let s := s.setLearn t mid l
          if l.members.all fun k => j.readys.any (·.rank == k) then s.decideUpdate t mid m l j u else s
      | _, _ => s

/-- A member with PREPARE replies once its conditions hold (R272). -/
def State.checkReady (s : State) (t mid : Nat) : State :=
  match s.learnAt t mid with
  | none => s
  | some l =>
    match l.prepared with
    | none => s
    | some (since, ck, mi) =>
      if s.stepsHere t mid != 0 || l.mirrorWaits || l.ckptWaits then s
      else
        let us := (s.time - since) / 1000
        let g2 := sumWords ((sortBy Prod.fst l.partials).map fun (_, p) => p.g2)
        let bad := l.partials.foldl (fun a (_, p) => a + p.nonfinite) 0
        let r : ReadyRec := ⟨s.dom.rank, g2, bad, if ck then us else 0, if mi then us else 0⟩
        let s := s.setLearn t mid { l with prepared := none }
        if l.update.isSome then s.addReady t mid r
        else s.send ⟨s.dom.coord, .ready, [t, mid, r.rank, r.g2.toNat, r.nonfinite, r.ckptWaitUs, r.mirrorWaitUs], []⟩

/-- PREPARE taken by a member. -/
def State.takePrepare (s : State) (t mid : Nat) (l : Learn) : State :=
  (s.setLearn t mid { l with phase := .preparing, prepared := some (s.time, l.ckptWaits, l.mirrorWaits) }).checkReady t mid

/-- PREPARE sent to every member of the pool (R272). -/
def State.sendPrepare (s : State) (t mid : Nat) (l : Learn) (j : UpdateJob) : State :=
  let l := { l with update := some { j with readys := [], dones := [], tPrepare := s.time } }
  (s.sendAll (s.others' l) .prepare [t, mid, l.version]).takePrepare t mid l

/-! Loss of a member (R275, R276). -/

/-- A rank takes another's place, wherever it stands in a tenant's pools, groups and allocation (R185, R275). -/
def swapRank (a b : Nat) (l : List Nat) : List Nat := l.map fun r => if r == a then b else r

def Pools.swap (p : Pools) (a b : Nat) : Pools :=
  ⟨swapRank a b p.prefillPool, swapRank a b p.decodePool, swapRank a b p.cachePool, swapRank a b p.scorePool, swapRank a b p.learnPool⟩

def State.replaceRank (s : State) (t a b : Nat) : State :=
  let s := s.modTp t fun x => { x with pools := x.pools.swap a b, groups := x.groups.map (swapRank a b) }
  let s := s.setColl { s.coll with groups := s.coll.groups.map fun g =>
    if g.tenant == t then { g with partitions := g.partitions.map (swapRank (s.addrOf a) (s.addrOf b)) } else g }
  s.modTnt t fun x => { x with alloc := (x.alloc &&& ~~~(1#64 <<< a)) ||| (1#64 <<< b) }

/-- The tenant's learning commands of a model in flight. -/
def State.learnCmds (s : State) (t mid : Nat) : List Cmd :=
  s.cmd.cmds.filter fun c => c.ref.fn.val == t + 1 && (c.opcode == 0x400 || c.opcode == 0x401 || c.opcode == 0x402) && c.learnModel == mid && c.running

/-- The open commands of a model end with a status. -/
def State.endLearnCmds (s : State) (t mid status : Nat) : State :=
  (s.learnCmds t mid).foldl (fun s c => s.failCmd c status 0 0) s

/-- LOST (R255). -/
def State.loseModel (s : State) (t mid : Nat) (l : Learn) : State :=
  ((s.setLearn t mid { l with phase := .lost, update := none, go := none }).endLearnCmds t mid stLearnStateLost).learnEvent t 0x0406 mid l.version 0 0 0 0

/-- The step of a model abandoned on this member: the kept commands are run again after takeover. -/
def State.abandonStep (s : State) (t : Nat) (m : Model) (l : Learn) : State × Learn :=
  (s.zeroGrads t m l, { l with
    phase := if l.phase == .idle then .idle else .opened, sum := 0, micros := 0, partials := [], unattributed := 0, mirrorDone := false, prepared := none
    held := l.held.map fun h => { h with mirror := none } })

/-- The lowest rank that is a spare and a member of the domain. -/
def State.spareRank (s : State) : Option Nat := (ranksOf (s.turn.spareMask &&& s.dom.members)).head?

/-- The spare that takes a lost rank's place: one already assigned in its place, else the lowest. -/
def State.spareFor (s : State) (r : Nat) : Option Nat :=
  match s.turn.models.findSome? fun (_, m) => m.learn.bind fun l => l.takeovers.find? fun x => x.lost == r && !x.copied with
  | some x => some x.spare
  | none => s.spareRank

/-- A lost rank of one model: LOST, NO_SPARE or a takeover. -/
def State.loseMemberOf (s : State) (t mid : Nat) (m : Model) (l : Learn) (r : Nat) : State :=
  let i := l.index r
  let b := l.members.getD ((i + 1) % max l.n 1) 0
  let held := l.buddied && s.dom.members.getLsbD b && !(l.takeovers.any fun x => x.spare == b && !x.copied)
  if !held then s.loseModel t mid l
  else
    match s.spareFor r with
    | none => (s.setLearn t mid { l with noSpare := true }).endLearnCmds t mid stNoSpare
    | some sp =>
      let before := l.phase != .updating
      let (s, l) := if before then s.abandonStep t m l else (s, l)
      let l := { l with
        members := swapRank r sp l.members, noSpare := false
        takeovers := l.takeovers.filter (·.index != i) ++ [⟨i, r, sp, false, before && !l.kept.isEmpty⟩]
        ckptVersion := if (i + l.n - 1) % max l.n 1 == l.index s.dom.rank then none else l.ckptVersion
        update := l.update.map fun j => { j with takeovers := j.takeovers + 1, dones := j.dones.filter (·.rank != r) } }
      let s := (s.setLearn t mid l).replaceRank t r sp
      let s := { s with turn := { s.turn with
        spareMask := s.turn.spareMask &&& ~~~(1#64 <<< sp)
        takeoverCount := s.turn.takeoverCount + (if sp == s.dom.rank then 1 else 0) } }
      s.learnEvent t 0x0403 mid l.version i sp 0 0

/-- Every model that a lost rank is a member of. -/
def State.loseMember (s : State) (r : Nat) : State :=
  s.turn.models.foldl (fun s (k, _) =>
    match s.modelAt k.1 k.2 with
    | none => s
    | some m =>
      match m.learn with
      | none => s
      | some l => if l.phase != .lost && l.members.contains r then s.loseMemberOf k.1 k.2 m l r else s) s

/-- A spare is named: takeovers that waited for one are made (R276). -/
def State.spareNamed (s : State) : State :=
  s.turn.models.foldl (fun s (k, _) =>
    match s.learnAt k.1 k.2 with
    | none => s
    | some l =>
      if !l.noSpare then s
      else (l.members.filter fun r => !s.dom.members.getLsbD r).foldl (fun s r =>
        match s.modelAt k.1 k.2 with
        | none => s
        | some m => m.learn.elim s fun l => s.loseMemberOf k.1 k.2 m l r) s) s

/-- A written spare mask takes effect at the coordinator's step boundary (R283): no learning step runs here. Every
generation step is one event, so that only a LEARN_STEP spans events. -/
def State.spareBoundary (s : State) : State :=
  match s.turn.pendingSpares with
  | none => s
  | some m =>
    if s.cmd.cmds.any fun c => c.opcode == 0x401 && c.running then s
    else ({ s with turn := { s.turn with spareMask := m, pendingSpares := none } } : State).spareNamed

end Sys2Proof.Machine
end

