-- ==== Sys2Proof/Machine/TileStart.lean ====
section
/-! DEFINITION. Program images and the start of tile programs (03 R75, R77, R78; 12 R366, R368, R370, R372). -/

namespace Sys2Proof.Machine

/-- A program image that has passed its checks. -/
structure Image where
  instrs : List DWord
  descs : List (BitVec 1024)
  deriving DecidableEq, Repr

/-! The checks of R78, in their order; each gives the offset of what is wrong. -/

def le64 (bs : List Byte) : DWord := BitVec.ofNat 64 (leNat bs)

/-- Words of 8 bytes. -/
def dwords : Nat → List Byte → List DWord
  | 0, _ => []
  | n + 1, bs => le64 (bs.take 8) :: dwords n (bs.drop 8)

def descsOf : Nat → List Byte → List (BitVec 1024)
  | 0, _ => []
  | n + 1, bs => BitVec.ofNat 1024 (leNat (bs.take 128)) :: descsOf n (bs.drop 128)

/-- Segment limit in cycles at the module's current maximum tensor clock. -/
def State.segLimitCycles (s : State) : Nat := s.regs.segLimitUs * s.pat.maxMhz

def isSeg (w : DWord) : Bool := classOf w == 0 && opcodeOf w == 3

/-- The WCET that a SEG declares in its immediate (03 R86). -/
def segWcet (w : DWord) : Nat := (w.extractLsb' 0 32).toNat

/-- The header's fields against their ranges, in order: the offset of the first that fails. `ok` says which
parts of the image are mapped. -/
def headerFault (level limit : Nat) (ok : Nat → Nat → Bool) (h : List Byte) : Option Nat :=
  let ni := field 8 4 h
  let nd := field 0xC 2 h
  let io := field 0x10 4 h
  let d0 := field 0x14 4 h
  if field 0 4 h != 0x31455553 then some 0
  else if field 4 2 h > level then some 4
  else if ni == 0 || ni > 16384 then some 8
  else if nd > 64 then some 0xC
  else if io % 8 != 0 || !ok io (8 * ni) then some 0x10
  else if d0 % 128 != 0 || (nd != 0 && !ok d0 (128 * nd)) then some 0x14
  else if field 0x20 4 h > limit then some 0x20
  else none

/-- Instruction faults: a SEG that declares too much, then a reserved class. -/
def instrFault (limit : Nat) (off : Nat) (ws : List DWord) : Option Nat :=
  match ws.findIdx? fun w => isSeg w && segWcet w > limit with
  | some i => some (off + 8 * i)
  | none => (ws.findIdx? fun w => classOf w ≥ 0xC).map fun i => off + 8 * i

/-- An image read by `rd` (offset, length), whose bytes are mapped where `ok` says so. -/
def checkImage (level limit : Nat) (ok : Nat → Nat → Bool) (rd : Nat → Nat → Except MemErr (List Byte)) : Except MemErr (Except Nat Image) :=
  if !ok 0 64 then .ok (.error 0)
  else do
    let h ← rd 0 64
    match headerFault level limit ok h with
    | some o => return .error o
    | none =>
      let ws := dwords (field 8 4 h) (← rd (field 0x10 4 h) (8 * field 8 4 h))
      match instrFault limit (field 0x10 4 h) ws with
      | some o => return .error o
      | none => return .ok ⟨ws, descsOf (field 0xC 2 h) (← rd (field 0x14 4 h) (128 * field 0xC 2 h))⟩

/-- The image at a tenant virtual address. -/
def State.imageAt (s : State) (c : Option CmdRef) (t tva : Nat) : Except MemErr (Except Nat Image) :=
  if tva % 64 != 0 || tva ≥ 2 ^ 56 then .ok (.error 0)
  else checkImage s.dom.level s.segLimitCycles (fun o n => (s.mem.unmapped t (tva + o) n).isNone) fun o n => s.readTva c t (tva + o) n

/-- An image that came with the command. -/
def State.imageOf (s : State) (bs : List Byte) : Except MemErr (Except Nat Image) :=
  checkImage s.dom.level s.segLimitCycles (fun o n => o + n ≤ bs.length) fun o n => .ok ((bs.drop o).take n)

/-- The whole image as bytes, to send with a start. -/
def State.imageBytes (s : State) (t tva : Nat) (h : Image) : List Byte :=
  let hdr := (List.range 64).map fun i => ((s.mem.page t (tva + i)).map fun p => s.mem.cells.read (p.dpa + (tva + i) % entryBytes)).getD 0
  let n := h.instrs.length
  let d := (64 + 8 * n + 127) / 128 * 128
  padTo d ((hdr.take 0x10 ++ leBytes 4 64 ++ leBytes 4 d ++ hdr.drop 0x18) ++ h.instrs.flatMap fun w => leBytes 8 w.toNat)
    ++ h.descs.flatMap fun x => leBytes 128 x.toNat

/-! Tiles (R75). -/

/-- Does a unit whose suspects are replayed take in a tile? -/
def HangReplay.onTile (x : HangReplay) (i : Nat) : Bool :=
  match x.level with
  | .tile => x.unit == i
  | .engine => x.unit / 4096 == 1 && i / 40 == x.unit % 4096
  | .die => i / 40 == x.unit
  | _ => false

/-- The suspect whose turn it is works alone on the unit (14 R429). -/
def HangReplay.serves (x : HangReplay) (c : CmdRef) : Bool := x.suspects.head? == some c

/-- May a tile take work of a command: idle, in service, not in reset, not on a die that has tripped (15 R454), not under
a self-test (14 R434) and not in a unit on which another command is replayed? -/
def State.tileFree (s : State) (c : CmdRef) (i : Fin 160) : Bool :=
  s.tiles[i].ctl.status == .idle && s.flt.tileMap.getLsbD i && !s.dieTripped (i.val / 40)
    && s.flt.replays.all (fun x => !x.onTile i || x.serves c)
    && !(s.cmd.cmds.any fun c => c.opcode == 0x0F10 && c.phase == .started && field 0 4 c.params == i.val)
    && !(s.flt.resets.any fun r => (r.level == .tile && r.unit == i.val) || (r.level == .die && r.unit == i.val / 40) || r.level == .module)

/-- A tile set up at the start of a program; the parameter area holds `params`, and a Pewter command's further
bytes stand below it (12 R381). -/
def startTile (c : CmdRef) (img : Image) (params more : List Byte) (ordinal total rank : Nat) (pewter : Bool) (now stopped : Nat) (i : Fin 160) : Tile :=
  let x := Tile.idle
  let x := (((x.setS 1 (BitVec.ofNat 64 ordinal)).setS 2 (BitVec.ofNat 64 total)).setS 3 (BitVec.ofNat 64 i.val)).setS 4 (BitVec.ofNat 64 rank)
  let x := x.setS 5 (BitVec.ofNat 64 paramBase)
  { x with
    regs := { x.regs with descs := Vector.ofFn fun k : Fin 64 => img.descs.getD k 0 }
    pad := Memory.writeBytes (Memory.writeBytes [] 0x3FE000 more) paramBase (params.take 4096)
    ctl := { TileCtl.zero with status := .running, cmd := some c, ordinal := ordinal, total := total, istore := img.instrs, segStart := now, segStopped := stopped, pewter := pewter } }

/-- The program started on this module's tiles of the command, at their ordinals. -/
def State.startTiles (s : State) (c : CmdRef) (tenant : Nat) (img : Image) (params more : List Byte) (tiles : List (Nat × Nat)) : State :=
  tiles.zipIdx.foldl (fun s ((r, i), k) =>
    if h : i < 160 then
      if r == s.dom.rank then
        s.setTile ⟨i, h⟩ (startTile c img params more k tiles.length s.dom.rank (s.tntOf tenant).pewter s.time s.stoppedNs ⟨i, h⟩)
      else s
    else s) s

/-- The placement engine's choice where the command names none: the lowest free tiles here, first those of a unit on which
the command is replayed; the same on every other module. -/
def State.assignTiles (s : State) (c : CmdRef) (ranks : List Nat) (n : Nat) : Option (List (Nat × Nat)) :=
  let all := (List.finRange 160).filter (s.tileFree c)
  let own := fun (i : Fin 160) => s.flt.replays.any fun x => x.onTile i && x.serves c
  let free := (all.filter own ++ all.filter fun i => !own i).take n
  if free.length < n then none else some (ranks.flatMap fun r => free.map fun i => (r, i.val))

/-- The assignment holds: every tile of this module that it names is free, and no tile stands twice. -/
def State.tilesOk (s : State) (c : CmdRef) (tiles : List (Nat × Nat)) : Bool :=
  tiles.eraseDups.length == tiles.length && tiles.all fun (r, i) =>
    r != s.dom.rank || (if h : i < 160 then s.tileFree c ⟨i, h⟩ else false)

/-- A command started on its modules: the record holds its tiles and groups, and every other module is sent its
part: its own parameters and the image. The tiles here find `params` in their parameter area. -/
def State.launch (s : State) (c : Cmd) (img : Image) (params more : List Byte) (tiles : List (Nat × Nat)) (groups : List Nat) (image : List Byte) : State :=
  let s := (s.start c).modCmd c.ref fun k => { k with tiles := tiles, groups := groups }
  let s := ((tiles.map Prod.fst).eraseDups.filter (· != s.dom.rank)).foldl (fun s r =>
    s.send ⟨r, .startPart, refArgs c.ref ++ [c.opcode] ++ tiles.flatMap fun (a, b) => [a, b], c.params ++ image⟩) s
  s.startTiles c.ref c.tenant img params more tiles

/-- A new command record for a part of another module's command. -/
def partCmd (c : CmdRef) (p : TilePart) (groups : List Nat) (now : Nat) : Cmd where
  ref := c
  hdrSeq := c.seq
  opcode := p.opcode
  flags := 0
  verSel := 0
  token := 0
  deadline := 0
  waitSq := 0
  waitSeq := 0
  params := p.params
  phase := .started
  status := 0
  detail := 0
  rflags := 0
  home := p.home
  engineUs := 0
  runUs := (0, 0, 0)
  fetchedAt := now
  startedAt := now
  sliceMs := 0
  runs := 1
  collAborts := 0
  exempt := false
  preempt := false
  dupOf := none
  tiles := p.tiles
  groups := groups
  flagSum := 0
  records := []
  votes := []
  acks := []
  work := []

/-- A part of another module's command starts here; what is wrong with its image goes back as its vote. -/
def State.startPart (s : State) (c : CmdRef) (p : TilePart) (params more : List Byte) (groups : List Nat) : State :=
  if (s.cmdAt c).isSome || !s.tilesOk c p.tiles || !(p.tiles.any fun (r, _) => r == s.dom.rank) then s
  else
    match s.imageOf p.image with
    | .ok (.ok img) => (s.setCmds (s.cmd.cmds ++ [partCmd c p groups s.time])).startTiles c (c.fn.val - 1) img params more p.tiles
    | .ok (.error o) => s.send ⟨p.home, .vote, refArgs c ++ [s.dom.rank, stProgramInvalid, o, 0], []⟩
    | .error _ => s

/-! Scheduling (12 R372, R383). -/

/-- The general arbiter over numbered requesters: the first after the last winner. -/
def arbiter (n last : Nat) (req : List Nat) : Option Nat := (sortBy' (fun c => (c + n - last - 1) % n) req).head?
where sortBy' (f : Nat → Nat) (xs : List Nat) : List Nat :=
  xs.foldl (fun acc x => acc.takeWhile (fun y => f y ≤ f x) ++ x :: acc.dropWhile (fun y => f y ≤ f x)) []

def Image.tensor (h : Image) : Bool := h.instrs.any fun w => classOf w == 4

def tileOpcode (op : Nat) : Bool := op == 0x500 || op == learnOpcode

/-- Where a tile command names its image. -/
def Cmd.imageTva (c : Cmd) : Nat := if c.opcode == learnOpcode then c.u 8 8 else c.u 0 8

/-- The engine class that a command waits for; none where it needs none. -/
def State.classOfCmd (s : State) (c : Cmd) : Option StrideClass :=
  if tileOpcode c.opcode then
    match s.imageAt (some c.ref) c.tenant c.imageTva with
    | .ok (.ok h) => some (if h.tensor then .tensor else .vector)
    | _ => some .vector
  else if c.opcode == 0x402 then some .vector
  else if c.opcode == 0x105 || c.opcode == 0x201 then some .dma
  else none

def TenantRegs.share (x : TenantRegs) : StrideClass → Nat
  | .tensor => x.shareTensor | .vector => x.shareVector | .dma => x.shareDma

/-- Eligible commands of a class that have not started. -/
def State.waitingIn (s : State) (k : StrideClass) : List Cmd :=
  s.cmd.cmds.filter fun c => c.ref.fn.val != 0 && c.phase == .fetched && s.classOfCmd c == some k && s.eligible c

def State.passOf (s : State) (t : Nat) (k : StrideClass) : Nat := tgetD s.cmd.stride.pass (t, k) 0

/-- Tenants that have become runnable start at vmin; vmin follows the least pass among those runnable. -/
def State.syncClass (s : State) (k : StrideClass) : State :=
  let ts := ((s.waitingIn k).map Cmd.tenant).eraseDups
  let x := s.cmd.stride
  let fresh := ts.filter fun t => !x.runnable.contains (t, k)
  let vmin := tgetD x.vmin k 0
  let pass := fresh.foldl (fun p t => tset p (t, k) (max (tgetD p (t, k) 0) vmin)) x.pass
  let least := (ts.map fun t => tgetD pass (t, k) 0).min?
  s.setCmd { s.cmd with stride := { x with
    pass := pass, vmin := least.elim x.vmin fun v => tset x.vmin k v
    runnable := x.runnable.filter (fun (_, j) => j != k) ++ ts.map fun t => (t, k) } }

def State.syncStride (s : State) : State := [StrideClass.tensor, .vector, .dma].foldl State.syncClass s

/-- The command that freed capacity of a class is held for. -/
def State.chosenIn (s : State) (k : StrideClass) : Option Cmd :=
  let cs := s.waitingIn k
  let ts := (cs.map Cmd.tenant).eraseDups
  let least := (ts.map fun t => s.passOf t k).min?
  match arbiter 512 (tgetD s.cmd.stride.lastTenant k 511) (ts.filter fun t => some (s.passOf t k) == least) with
  | none => none
  | some t =>
    let mine := cs.filter (·.tenant == t)
    let paced := mine.filter fun c => (s.sqAt c.ref.fn c.ref.sq).any (·.paced)
    match (paced.map (·.deadline)).min? with
    | some d => paced.find? (·.deadline == d)
    | none => (arbiter 512 (tgetD s.cmd.stride.lastSq (t, k) 511) (mine.map (·.ref.sq))).bind fun q => mine.find? (·.ref.sq == q)

/-- The arbiters move on to the command that was served. -/
def State.served (s : State) (c : Cmd) (k : StrideClass) : State :=
  let x := s.cmd.stride
  s.setCmd { s.cmd with stride := { x with lastTenant := tset x.lastTenant k c.tenant, lastSq := tset x.lastSq (c.tenant, k) c.ref.sq } }

/-- Is it the turn of a tile command under stride scheduling? -/
def State.scheduled (s : State) (c : Cmd) : Bool :=
  !tileOpcode c.opcode || (s.classOfCmd c).any fun k => (s.chosenIn k).any fun x => x.ref == c.ref

/-- A command that may start before its turn in the commit order; one that runs on tiles starts when stride
scheduling serves it. -/
def startCommand (op : Nat) (c : CmdRef) (body : State → Cmd → CmdRes) (s : State) : State :=
  match s.cmdAt c with
  | none => s
  | some k =>
    if k.opcode != op || k.phase != .fetched || !s.eligible k then s
    else if s.missed k then s.finish c stDeadlineMissed 0 0
    else
      let s := s.syncStride
      if !s.scheduled k then s
      else
        let cls := s.classOfCmd k
        let go := fun (s : State) => match cls with
          | some j => if (s.cmdAt c).any (·.phase == .fetched) then s else s.served k j
          | none => s
        go (match body s k with
          | .ok s' d f => s'.vote c d f []
          | .fail st d => (s.start k).finish c st d 0
          | .failWith s' st d => s'.finish c st d 0
          | .wait s' => s')

end Sys2Proof.Machine
end

