-- ==== Sys2Proof/Machine/Learning.lean ====
section
/-! DEFINITION. Learning commands and events (09): setup, steps, the update commit, sweeps, buddies and
takeover; and a change of a tenant's allocation (06 R185). -/

namespace Sys2Proof.Machine

/-- The model of a learning command, or the status that refuses it (R255, R276, 10 R285). -/
def State.learnGate (s : State) (t mid : Nat) : Except Nat (Model × Learn) :=
  match s.modelAt t mid with
  | none => .error stModelUnknown
  | some m =>
    match m.learn with
    | none => .error stModelUnknown
    | some l =>
      if l.phase == .lost then .error stLearnStateLost
      else if l.noSpare then .error stNoSpare
      else .ok (m, l)

/-! LEARN_SETUP (R256, R266, R268). -/

/-- Programs of a custom set from an offset on, or the offset of what is wrong. -/
def parseSet (rd : Nat → Nat → Except MemErr (List Byte)) : Nat → Nat → Except MemErr (Except Nat (List UpdateProgram))
  | 0, _ => .ok (.ok [])
  | k + 1, o => do
    let h ← rd o 8
    let na := field 0 2 h
    let nb := field 2 2 h
    if na == 0 || na > 64 then return .error o
    else if nb > 64 then return .error (o + 2)
    else if field 4 1 h > 2 then return .error (o + 4)
    else if field 5 1 h > 2 then return .error (o + 5)
    else
      let ws := dwords (na + nb) (← rd (o + 8) (8 * (na + nb)))
      match ws.findIdx? fun w => !updInstrOk w with
      | some i => return .error (o + 8 + 8 * i)
      | none =>
        match ← parseSet rd k (o + 8 + 8 * (na + nb)) with
        | .error e => return .error e
        | .ok ps => return .ok (⟨ws.take na, ws.drop na, field 4 1 h, field 5 1 h⟩ :: ps)

/-- The custom program set at a TVA; 0 is none. -/
def State.programsAt (s : State) (c : Option CmdRef) (t tva : Nat) : Except MemErr (Except Nat (List UpdateProgram)) :=
  if tva == 0 then .ok (.ok [])
  else do
    let rd := fun (o n : Nat) => s.readTva c t (tva + o) n
    let h ← rd 0 8
    if field 0 4 h != 0x31504455 then return .error 0
    else if field 4 4 h == 0 || field 4 4 h > 16 then return .error 4
    else parseSet rd (field 4 4 h) 8

def groupRecord (bs : List Byte) : ParamGroup :=
  ⟨field 0 2 bs, (List.range 16).map fun i => BitVec.ofNat 32 (field (0x10 + 4 * i) 4 bs)⟩

/-- The cases of ILLEGAL_OPERAND (R256). -/
def State.setupOk (s : State) (t : Nat) (m : Model) (u : LearnSetup) : Bool :=
  u.groups.all (fun p => (p.opt == 1 || p.opt == 2 || p.opt == 3 || (0x100 ≤ p.opt && p.opt - 0x100 < u.programs.length)) && scalarsOk p)
    && u.groupMap.all (· < u.groups.length)
    && ((List.range m.tensors.length).all fun k => !((m.tensors[k]?).any (·.vector) && (groupOf u k).opt == 3))
    && u.gradGroups.all fun g => s.coll.groups.any fun x => x.tenant == t && x.id == g

/-- Header fields in their ranges. -/
def setupHeaderOk (c : Cmd) : Bool :=
  1 ≤ c.u 4 1 && c.u 4 1 ≤ 16 && c.u 5 1 ≤ 1 && c.u 6 1 ≤ 1 && c.u 7 1 ≤ 8
    && atLeast0 (BitVec.ofNat 32 (c.u 0x10 4)) && unitHalf (BitVec.ofNat 32 (c.u 0x14 4))

def learnSetupBody (s : State) (c : Cmd) : CmdRes :=
  let t := c.tenant
  match s.learnGate t c.learnModel with
  | .error st => .fail st 0
  | .ok (m, l) =>
    if l.phase == .preparing || l.phase == .updating then .wait s
    else if !setupHeaderOk c then .fail stIllegalOperand 0
    else
      match s.programsAt (some c.ref) t (c.u 0x18 8), s.readTva (some c.ref) t (c.u 0x28 8) m.tensors.length with
      | .error e, _ => .ofErr s e
      | _, .error e => .ofErr s e
      | .ok (.error o), _ => .fail stProgramInvalid o
      | .ok (.ok ps), .ok gm =>
        let u : LearnSetup := {
          skipBlocks := c.u 5 1 == 1, buddy := c.u 6 1 == 1, gradGroups := (List.range (c.u 7 1)).map fun i => c.u (0x20 + i) 1
          seed := BitVec.ofNat 64 (c.u 8 8), clipNorm := BitVec.ofNat 32 (c.u 0x10 4), noiseEma := BitVec.ofNat 32 (c.u 0x14 4)
          programs := ps, groupMap := gm.map (·.toNat)
          groups := (List.range (c.u 4 1)).map fun i => groupRecord ((c.params.drop (0x40 + 80 * i)).take 80) }
        if s.setupOk t m u then .ok (s.setLearn t c.learnModel { l with setup := some u }) 0 0 else .fail stIllegalOperand 0

/-- LEARN_SETUP: on its interpreter, or the options that reach another member. -/
def execLearnSetup (c : CmdRef) (part : Option (Fin 512 × Nat × LearnSetup)) (s : State) : Out :=
  .next (match part with
    | none => runCommand 0x400 c learnSetupBody s
    | some (t, mid, u) => s.modLearn t mid fun l => { l with setup := some u })

/-! LEARN_STEP (R255, R257 to R259, R262). -/

/-- Gradient steps of the model that run and have not committed. -/
def State.inFlight (s : State) (c : Cmd) : List Cmd :=
  s.cmd.cmds.filter fun k => k.gradient && k.ref != c.ref && k.ref.fn == c.ref.fn && k.learnModel == c.learnModel && (k.running || k.phase == .deciding)

/-- Why a gradient step is refused; none where it may run. -/
def State.stepRefusal (s : State) (c : Cmd) (l : Learn) : Option Nat :=
  let first := bit c.learnFlags 0
  let last := bit c.learnFlags 1
  let n := c.u 0x10 4
  let fl := s.inFlight c
  let b := if first then c.u 0x18 8 else l.planned
  let sum := (if first then 0 else l.sum) + fl.foldl (fun a k => a + k.u 0x10 4) 0 + n
  if l.phase == .idle && !first then some stStepNotOpen
  else if l.phase == .closed then some stStepClosed
  else if l.phase == .opened && first && !(c.runs != 0 && l.micros == 0) then some stIllegalOperand
  else if l.kept.length + fl.length ≥ 65536 then some stStepTooLong
  else if (last && sum != b) || (!last && sum ≥ b) then some stIllegalOperand
  else none

/-- A learning command waits: for the commit of an update, for a re-run of the exchange, for a LAST step that is
still running, and for a re-sharding (06 R185). -/
def State.stepWaits (s : State) (c : Cmd) (l : Learn) : Bool :=
  if c.gradient then
    l.phase == .preparing || l.phase == .updating || l.rerunAt.isSome || !(l.takeovers.all (·.copied))
      || ((s.inFlight c).any fun k => bit k.learnFlags 1)
      || ((s.tp c.tenant).pendingAlloc.isSome && l.phase == .idle)
  else l.phase == .updating

/-- ⌊1000 x⌋ of a finite FP32 number of µs. -/
def nsOf (w : Word) : Nat :=
  match fv w with
  | .fin false m e => let (n, d) := fracOf m e; 1000 * n / d
  | _ => 0

/-- A declaration (R259): AUTO keeps the choice that R182 has made for its place. -/
def savedOf (old : Option SavedTensor) (bs : List Byte) : SavedTensor :=
  let p := field 16 1 bs
  let fixed := match p with | 1 => ActChoice.offload | 2 => .recompute | _ => .keep
  let kept := old.filter (·.auto)
  { auto := p == 3, choice := if p == 3 then kept.elim .keep (·.choice) else fixed, candidate := if p == 3 then kept.bind (·.candidate) else none
    tva := field 0 8 bs, bytes := if p == 3 then kept.elim (field 8 8 bs) (·.bytes) else field 8 8 bs
    recomputeNs := if p == 3 then kept.elim (nsOf (BitVec.ofNat 32 (field 20 4 bs))) (·.recomputeNs) else nsOf (BitVec.ofNat 32 (field 20 4 bs)) }

def hintOfChoice : ActChoice → Option Hint
  | .keep => some .preferHbm
  | .offload => some .preferBulk
  | .recompute => none

/-- Declarations in force, with their hints on the units of each buffer. -/
def State.declare (s : State) (t : Nat) (bs : List Byte) (n : Nat) : State :=
  let xs := (List.range n).map fun i => savedOf ((s.tp t).saved[i]?) ((bs.drop (32 * i)).take 32)
  let s := s.modTp t fun x => { x with saved := xs }
  xs.foldl (fun s x =>
    match hintOfChoice x.choice with
    | none => s
    | some h => (List.range ((x.tva + max x.bytes 1 - 1) / unitBytes - x.tva / unitBytes + 1)).foldl (fun s i =>
        s.modUnit (t, x.tva / unitBytes + i) fun u => { u with hint := h }) s) s

/-- Bit i is 1 where declaration i is recomputed. -/
def recomputeMask (xs : List SavedTensor) : Nat :=
  (xs.zipIdx.foldl (fun a (x, i) => a + if x.choice == .recompute then 2 ^ i else 0) 0) % 2 ^ 256

/-- The members of a GEN_LAYOUT step follow its generation layout: the tenant's first group. -/
def State.layoutMembers (s : State) (t : Nat) (m : Model) : List Nat :=
  match (s.tp t).groups.head? with
  | some g => g
  | none => (s.poolsOf t).learnPool.take m.w

/-- The learning block (R258). -/
def State.stepBlock (s : State) (t mid : Nat) (l : Learn) (m : Model) (params : List Byte) (omega : Word) (micro : Nat) (members : List Nat) : List Byte :=
  let gen := bit (field 4 4 params) 3
  fields [(4, mid), (4, if gen then field 0x14 4 params else l.version), (8, l.step), (4, micro), (4, omega.toNat),
    (2, members.findIdx (· == s.dom.rank)), (2, members.length), (2, 0), (2, 1), (8, l.tableTva), (4, m.tensors.length), (4, 0),
    (32, recomputeMask (s.tp t).saved)] ++ zeros 16 ++ (params.drop 0x30).take (field 0x22 2 params)

/-- The shard table of this member (R258). -/
def Learn.shardTable (l : Learn) (m : Model) (genVersion : Option Nat) : List Byte :=
  ((List.range m.tensors.length).zip m.tensors).flatMap fun (k, x) =>
    let p := l.shards.getD k ⟨0, 0, 0⟩
    let gen := (genVersion.bind m.layout).bind fun g => (g.parts.find? (·.tensor == k)).map (·.elemTva)
    fields [(8, m.bases.getD k 0), (8, x.rows * x.rowLen), (4, x.rows), (4, x.rowLen), (4, shardRows l.n x.rows), (2, 0),
      (1, if x.vector then 1 else 0), (1, (l.setup.bind fun u => u.groupMap[k]?).getD 0), (8, p.w), (8, p.g), (8, gen.getD 0), (8, 0)]

/-- OMEGA = round_fp32_rne(b ÷ B); a step that feeds no update has no B, and its OMEGA is open. -/
def omegaOf (planned n free : Nat) : Word := if planned == 0 then BitVec.ofNat 32 free else divR' n planned
where divR' (n d : Nat) : Word := BitVec.ofNat 32 (fp32.roundMag .rne false 0 false n d).code

/-- The step's tile program started on every tile in service of every member. -/
def State.runStep (s : State) (c : Cmd) (m : Model) (l : Learn) : CmdRes :=
  let t := c.tenant
  let gen := bit c.learnFlags 3
  let members := if gen then s.layoutMembers t m else l.members
  let tiles := (List.range 160).filter fun i => s.flt.tileMap.getLsbD i
  let all := members.flatMap fun r => tiles.map fun i => (r, i)
  if tiles.isEmpty || members.isEmpty || !s.tilesOk c.ref all then .wait s
  else
    match s.imageAt (some c.ref) t (c.u 8 8), s.readTva (some c.ref) t (c.u 0x28 8) (32 * c.u 0x20 2) with
    | .error e, _ => .ofErr s e
    | _, .error e => .ofErr s e
    | .ok (.error o), _ => .fail stProgramInvalid o
    | .ok (.ok img), .ok decl =>
      if (List.range (c.u 0x20 2)).any fun i => field (32 * i + 16) 1 decl > 3 then .fail stIllegalOperand 0
      else
        let s := if c.u 0x20 2 == 0 then s else s.declare t decl (c.u 0x20 2)
        let opens := c.gradient && bit c.learnFlags 0 && l.phase == .idle
        let l := if opens then { l.closed l.version with phase := .opened, planned := c.u 0x18 8 } else l
        let s := s.setLearn t c.learnModel l
        let s := s.writeCommittedAll t l.tableTva (l.shardTable m (if gen then some (c.u 0x14 4) else none))
        let (free, s) := if l.planned == 0 then s.freeValue else (0, s)
        let block := s.stepBlock t c.learnModel l m c.params (omegaOf l.planned (c.u 0x10 4) free) (l.micros + (s.inFlight c).length) members
        let groups := (s.coll.groups.filter (·.tenant == t)).map (·.id)
        .wait (s.launch c img block [] all groups (s.imageBytes t (c.u 8 8) img))

def learnStepBody (s : State) (c : Cmd) : CmdRes :=
  match s.learnGate c.tenant c.learnModel with
  | .error st => .fail st 0
  | .ok (m, l) =>
    if c.u 0x10 4 == 0 || c.u 0x20 2 > 256 || c.u 0x22 2 > 3904 then .fail stIllegalOperand 0
    else if s.stepWaits c l then .wait s
    else if bit c.learnFlags 3 && !m.hasLayout (c.u 0x14 4) then .fail stVersionReleased 0
    else if c.gradient then
      match s.stepRefusal c l with
      | some st => .fail st 0
      | none => s.runStep c m l
    else s.runStep c m l

/-- LEARN_STEP: on its interpreter, or a part that starts on another member, with that member's own block. -/
def execLearnStep (c : CmdRef) (part : Option TilePart) (s : State) : Out :=
  .next (match part with
    | none => startCommand learnOpcode c learnStepBody s
    | some p =>
      let t := c.fn.val - 1
      let mid := field 0 4 p.params
      match s.modelAt t mid with
      | none => s
      | some m =>
        match m.learn with
        | none => s
        | some l =>
          let gen := bit (field 4 4 p.params) 3
          let s := s.writeCommittedAll t l.tableTva (l.shardTable m (if gen then some (field 0x14 4 p.params) else none))
          let (free, s) := if l.planned == 0 then s.freeValue else (0, s)
          let block := s.stepBlock t mid l m p.params (omegaOf l.planned (field 0x10 4 p.params) free) l.micros
            (if gen then s.layoutMembers t m else l.members)
          s.startPart c p block [] ((s.coll.groups.filter (·.tenant == t)).map (·.id)))

/-! LEARN_UPDATE, PREPARE and the decision (R255, R260, R272). -/

def learnUpdateBody (s : State) (c : Cmd) : CmdRes :=
  let t := c.tenant
  let mid := c.learnModel
  match s.learnGate t mid with
  | .error st => .fail st 0
  | .ok (_, l) =>
    if l.update.any (·.cmd == c.ref) then .wait s
    else if l.setup.isNone then .fail stIllegalOperand 0
    else if !atLeast0 (BitVec.ofNat 32 (c.u 4 4)) || c.u 8 8 % 64 != 0 then .fail stIllegalOperand 0
    else
      match l.failedRerun with
      | some st => .failWith (s.setLearn t mid { l with failedRerun := none }) stUpdateAborted st
      | none =>
        match l.phase with
        | .idle => .fail stStepNotOpen 0
        | .opened => if l.rerunAt.isSome || !(l.takeovers.all (·.copied)) then .wait s else .fail stStepNotClosed 0
        | .closed =>
          if l.version + 1 == 0xFFFFFFFF then .fail stVersionExhausted 0
          else
            match s.mem.unmapped t (c.u 8 8) 256 with
            | some a => .fail stAddressFault a
            | none =>
              let j : UpdateJob := ⟨c.ref, BitVec.ofNat 32 (c.u 4 4), c.u 8 8, c.u 0x10 8, bit (c.u 0x18 4) 0, [], [], 0, 0, 0, 0, 0, 0⟩
              .wait (s.sendPrepare t mid l j)
        | _ => .wait s

def execLearnUpdate (c : CmdRef) (s : State) : Out := .next (runCommand 0x402 c learnUpdateBody s)

/-- PREPARE: taken once; the row applied again finds whether READY may now be sent. -/
def execPrepare (tenant : Fin 512) (model version : Nat) (s : State) : Out :=
  .next (match s.learnAt tenant model with
    | none => s
    | some l =>
      if l.version != version || l.phase == .updating || l.phase == .lost then s
      else if l.prepared.isSome then s.checkReady tenant model
      else if l.update.isSome then s
      else s.takePrepare tenant model l)

def execReady (tenant : Fin 512) (model : Nat) (r : ReadyRec) (s : State) : Out := .next (s.addReady tenant model r)

/-- PREPARE_TIMEOUT: a member that is still present has not replied; the gradients are kept. -/
def execPrepareTimeout (tenant : Fin 512) (model : Nat) (s : State) : Out :=
  .next (match s.learnAt tenant model with
    | none => s
    | some l =>
      match l.update with
      | none => s
      | some j =>
        let due := s.time ≥ j.tPrepare + s.turn.prepareMs * ms
        let missing := l.members.any fun r => s.dom.members.getLsbD r && !(j.readys.any (·.rank == r))
        if l.phase != .preparing || !due || !missing then s
        else
          let s := s.setLearn tenant model { l with phase := .closed, update := none, prepared := none }
          let s := { s with turn := { s.turn with abortCount := s.turn.abortCount + 1 } }
          let s := s.learnEvent tenant 0x0402 model l.version 0 0 stUpdateAborted 0
          (s.failUpdate tenant j (reportBytes l j (shortReport l j 2)) stUpdateAborted 0).abortOverlap tenant model)

/-- GO: the record is stored, acknowledged, and the sweep begins. -/
def execGo (tenant : Fin 512) (model : Nat) (g : GoRecord) (s : State) : Out :=
  .next (match s.learnAt tenant model with
    | none => s
    | some l =>
      if l.phase == .lost || l.go.isSome || g.version != l.version || !l.members.contains s.dom.rank then s
      else (s.sendTo s.dom.coord .go [tenant, model, g.version]).beginSweep tenant model l g)

/-! The sweep (R273, R277, R278). -/

/-- UPDATE_BLOCK: the update engine's next block, as far as the step `upto` of R277. -/
def execUpdateBlock (tenant : Fin 512) (model tensor block : Nat) (upto : Fin 5) (s : State) : Out :=
  .next (match s.modelAt tenant model with
    | none => s
    | some m =>
      match m.learn.bind fun l => l.go.map fun g => (l, g) with
      | none => s
      | some (l, g) =>
        match l.shards[tensor]? with
        | none => s
        | some p =>
          let die := s.blockDie tenant m l g.setup tensor block
          let es := (m.blockOf l.n tensor (groupOf g.setup tensor) block).2.2
          if l.stopped || l.swept || (l.undo.filter (·.die == die)).length ≥ 64 || s.nextBlock tenant m l g.setup die != some (tensor, block)
              || !s.blockReadable tenant m l.n tensor p es then s
          else
            let (s, l') := s.updateBlock tenant model m l g tensor block upto p
            if l'.stopped then s else (s.progressed 2 (srcEngine die)).checkSwept tenant model)

def execDone (tenant : Fin 512) (model : Nat) (r : DoneRec) (s : State) : Out := .next (s.addDone tenant model r)

/-- LEARN_COMMIT at a member: the swap to n + 1, or the end of a skipped step at n. -/
def execLearnCommit (tenant : Fin 512) (model version : Nat) (s : State) : Out :=
  .next (match s.modelAt tenant model with
    | none => s
    | some m =>
      match m.learn with
      | none => s
      | some l =>
        if l.update.isSome then s
        else if version == l.version + 1 && l.go.isSome && l.swept then s.swapLearn tenant model m l
        else if version == l.version && l.go.isNone && l.phase != .lost then s.endStep tenant model m l
        else s)

/-- An entry written back: optimiser state and gradient (R278). -/
def State.undoBlock (s : State) (t : Nat) (m : Model) (l : Learn) (u : LearnSetup) (x : UndoEntry) (p : ShardPlace) : State :=
  let es := (m.blockOf l.n x.tensor (groupOf u x.tensor) x.block).2.2
  let per := if m.compact then 4 else 12
  es.zipIdx.foldl (fun s (e, i) =>
    let bs := (x.state.drop (per * i)).take per
    let s := ((m.stateAt l.n x.tensor p e).foldl (fun (acc : State × List Byte) (a, n) =>
      (acc.1.writeCommittedAll t a (acc.2.take n), acc.2.drop n)) (s, bs)).1
    s.writeCommittedAll t (p.g + 2 * e) ((x.grad.drop (2 * i)).take 2)) s

/-- A block rebuilt from the buddy checkpoint of n and the mirror: weights, state and gradient in the order of
its elements, element by element. -/
def State.rebuildBlock (s : State) (t : Nat) (m : Model) (l : Learn) (u : LearnSetup) (k b : Nat) (p : ShardPlace) (w st g : List Byte) : State :=
  let es := (m.blockOf l.n k (groupOf u k) b).2.2
  let s := es.zipIdx.foldl (fun s (e, i) => s.writeCommittedAll t (p.w + 2 * e) ((w.drop (2 * i)).take 2)) s
  s.undoBlock t m l u ⟨0, k, b, st, g⟩ p

/-- SWEEP_RESUME: every open entry is resolved by its tags (R278). `copies` gives (tensor, block, weights, state,
gradient) of blocks to be rebuilt: those whose tags stand the wrong way round and those left poisoned (R279). A
block without its copies puts the model into LOST. -/
def execSweepResume (tenant : Fin 512) (model : Nat) (copies : List (Nat × Nat × List Byte × List Byte × List Byte)) (s : State) : Out :=
  .next (match s.modelAt tenant model with
    | none => s
    | some m =>
      match m.learn.bind fun l => l.go.map fun g => (l, g) with
      | none => s
      | some (l, g) =>
        let t := tenant.val
        let n := l.version
        let place := fun (k : Nat) => l.shards.getD k ⟨0, 0, 0⟩
        let poisoned := (l.sweepOrder m g.setup).filter fun (k, b) =>
          !s.blockReadable t m l.n k (place k) (m.blockOf l.n k (groupOf g.setup k) b).2.2
        let torn := (l.undo.filter fun x => l.tag x.tensor x.block == (n, n + 1)).map fun x => (x.tensor, x.block)
        let rebuild := (torn ++ poisoned).eraseDups
        let copyOf := fun (k b : Nat) => copies.find? fun c => c.1 == k && c.2.1 == b
        if !l.stopped && rebuild.isEmpty then s
        else if rebuild.any fun (k, b) => (copyOf k b).isNone then s.loseModel t model l
        else
          let half := l.undo.filter fun x => l.tag x.tensor x.block == (n + 1, n)
          let s := half.foldl (fun s x => s.undoBlock t m l g.setup x (place x.tensor)) s
          let s := rebuild.foldl (fun s (k, b) => match copyOf k b with
            | some (_, _, w, st, gr) => s.rebuildBlock t m l g.setup k b (place k) w st gr
            | none => s) s
          let redone := (half.map fun x => (x.tensor, x.block)) ++ rebuild
          let l := { l with
            undo := [], stopped := false, undoRedos := l.undoRedos + redone.length
            tags := redone.foldl (fun ts k => tset ts k (n, n)) l.tags }
          let s := { s.setLearn t model l with turn := { s.turn with undoCount := s.turn.undoCount + redone.length } }
          let s := s.setLearn t model l
          let s := poisoned.foldl (fun s (k, b) =>
            let a := (place k).w + 2 * (m.blockOf l.n k (groupOf g.setup k) b).2.2.headD 0
            match s.mem.page t a with
            | some p => s.granuleEvent 2 4 (p.dpa + a % entryBytes) 0
            | none => s) s
          s.checkSwept t model)

/-! Buddies, takeover and the re-run of the exchange (R274 to R276). -/

/-- CKPT_DONE: this member's checkpoint is complete on its buddy, or its predecessor's is complete here; the
mirror is then released. -/
def execCkptDone (tenant : Fin 512) (model : Nat) (held : Option (List Byte)) (s : State) : Out :=
  .next (match s.learnAt tenant model with
    | none => s
    | some l =>
      if !l.buddied then s
      else
        match held with
        | some bs => s.setLearn tenant model { l with held := some ⟨l.version, bs, none⟩ }
        | none =>
          if l.ckptVersion == some l.version then s
          else ((s.setLearn tenant model { l with ckptVersion := some l.version }).learnEvent tenant 0x0405 model l.version 0 0 0 0).checkReady tenant model)

/-- Weights and optimiser state taken from a checkpoint, gradients from a mirror. -/
def State.restoreMember (s : State) (t : Nat) (m : Model) (l : Learn) (ckpt : List Byte) (mirror : Option (List Byte)) : State :=
  let ws := m.overTensors (m.weightBytes l.n)
  let sts := m.overTensors (m.stateBytes l.n)
  let put := fun (s : State) (at' : ShardPlace → Nat) (sizes : List Nat) (bs : List Byte) =>
    ((sizes.zip l.shards).foldl (fun (acc : State × List Byte) (z, p) =>
      (acc.1.writeCommittedAll t (at' p) (acc.2.take z), acc.2.drop z)) (s, bs)).1
  let s := put s (·.w) ws ckpt
  let s := put s (·.st) sts (ckpt.drop (ws.foldl (· + ·) 0))
  mirror.elim s fun bs => put s (·.g) ws bs

/-- A takeover's copies complete at the coordinator: the interrupted protocol goes on. -/
def State.resumeTakeover (s : State) (t mid : Nat) (m : Model) (l : Learn) (x : Takeover) : State :=
  let l := { l with takeovers := l.takeovers.map fun y => if y == x then { y with copied := true } else y }
  if l.phase == .updating then
    match l.go with
    | some g => (s.setLearn t mid l).send ⟨x.spare, .go, goArgs t mid g, goData g⟩
    | none => s.setLearn t mid l
  else if x.rerun then s.setLearn t mid { l with phase := .opened, rerunAt := some 0 }
  else
    let s := s.setLearn t mid l
    match l.update with
    | some j => if l.kept.isEmpty then s.dropStep t mid m l j 2 stUpdateAborted 0 else s
    | none => s

/-- TAKEOVER_COPY_DONE: at the coordinator, or at the spare with what the buddy held. -/
def execTakeoverCopyDone (tenant : Fin 512) (model : Nat) (copied : Option (List Byte × Option (List Byte))) (s : State) : Out :=
  .next (match s.modelAt tenant model with
    | none => s
    | some m =>
      match m.learn with
      | none => s
      | some l =>
        match copied with
        | some (ckpt, mirror) => if l.members.contains s.dom.rank && l.phase != .lost then s.restoreMember tenant m l ckpt mirror else s
        | none =>
          match l.takeovers.find? fun x => !x.copied with
          | none => s
          | some x => if l.phase == .lost then s else s.resumeTakeover tenant model m l x)

/-- The re-run is over: the step is CLOSED again where its last command closed it, and a pending update goes on. -/
def State.rerunOver (s : State) (t mid : Nat) (l : Learn) : State :=
  let l : Learn := { l with rerunAt := none, mirrorDone := l.phase == LearnPhase.closed, update := l.update.map fun j => { j with reruns := j.reruns + 1 } }
  match l.update with
  | some j => if l.phase == LearnPhase.closed then s.sendPrepare t mid l j else s.setLearn t mid l
  | none => s.setLearn t mid l

/-- EXCHANGE_RERUN: the next kept command has been run again on the new membership: its status, what it wrote
into this member's gradient buffers and its partials here. -/
def execExchangeRerun (tenant : Fin 512) (model status : Nat) (writes : List (Nat × List Byte)) (work : List (Nat × Nat × Nat × Nat)) (s : State) : Out :=
  .next (match s.modelAt tenant model with
    | none => s
    | some m =>
      match m.learn with
      | none => s
      | some l =>
        match l.rerunAt.bind fun i => (l.kept[i]?).map fun k => (i, k) with
        | none => s
        | some (i, k) =>
          let t := tenant.val
          if status != 0 then
            let s := s.learnEvent t 0x0402 model l.version 0 0 stUpdateAborted 2
            match l.update with
            | some j => s.dropStep t model m l j 2 stUpdateAborted status
            | none =>
              let s := s.zeroGrads t m l
              s.setLearn t model { l.closed l.version with failedRerun := some status }
          else
            let s := writes.foldl (fun s (a, bs) =>
              if (List.range m.tensors.length).any fun k => (l.shards[k]?).any fun p => p.g ≤ a && a + bs.length ≤ p.g + l.gradBytes m k then
                s.writeCommittedAll t a bs
              else s) s
            let last := bit (field 4 4 k.params) 1
            let l := { l.addWork work with
              sum := l.sum + k.examples, micros := l.micros + 1, phase := if last then .closed else .opened }
            if i + 1 < l.kept.length then s.setLearn t model { l with rerunAt := some (i + 1) } else s.rerunOver t model l)

/-! ALLOC_CHANGE (06 R185). -/

/-- The learning layout of one model formed again over new members; `data` gives this member's weights and state
in the new shards. -/
def State.reshardModel (s : State) (t mid : Nat) (m : Model) (l : Learn) (members : List Nat) (data : List Byte × List Byte) : State :=
  let s := s.freeShards t m l.n l.shards
  if !members.contains s.dom.rank then s.setLearn t mid { l with members := members, shards := [] }
  else
    match s.allocShards t m members.length with
    | none => s
    | some (ps, s) =>
      let l := { l with members := members, shards := ps, held := none, ckptVersion := none, mirrorDone := false }
      (s.setLearn t mid l).restoreMember t m l (data.1 ++ data.2) none

def poolChanged (a b : Pools) (i : PoolId) : Bool := a.get i != b.get i

/-- The allocation takes effect: pools lose the ranks that left; in learning the pool is the allocation; in a
generation or score phase an added rank joins the decode pool. -/
def State.applyAlloc (s : State) (t : Nat) (new : BitVec 64) : State :=
  let old := s.poolsOf t
  let was := s.allocRanks t
  let s := (s.modTnt t fun x => { x with alloc := new }).modTp t fun x => { x with pendingAlloc := none }
  let now := s.allocRanks t
  let keep := fun (l : List Nat) => l.filter now.contains
  let s :=
    if s.phaseOf t == .learn then
      s.modTp t fun x => { x with pools := if x.pools = Pools.empty then x.pools else { x.pools with learnPool := now } }
    else
      let s := s.modTp t fun x => { x with
        joining := (x.joining.filter fun j => now.contains j.1) ++ (now.filter fun r => !was.contains r).map fun r => (r, PoolId.dec)
        pools := { x.pools with cachePool := keep x.pools.cachePool, scorePool := keep x.pools.scorePool, learnPool := keep x.pools.learnPool } }
      (s.setDecode t (keep old.decodePool)).setPrefill t (keep old.prefillPool)
  [PoolId.pre, .dec, .cache, .score, .learn].foldl (fun s i =>
    if poolChanged old (s.poolsOf t) i then s.placeEvent t 0x0101 i.code 0 0 (old.get i).length ((s.poolsOf t).get i).length 0 0 0 else s) s

/-- ALLOC_CHANGE at the coordinator's step boundary. In learning it waits until every learnable model is IDLE;
with a Foil lease of the tenant, until the lease is released. `shards` gives each re-sharded model's weights and
state on this member. -/
def execAllocChange (tenant : Fin 512) (shards : List (Nat × List Byte × List Byte)) (s : State) : Out :=
  let t := tenant.val
  .next (match (s.tp t).pendingAlloc with
    | none => s
    | some new =>
      let models := s.turn.models.filterMap fun (k, m) => if k.1 == t then m.learn.map fun l => (k.2, m, l) else none
      let removed := (s.allocRanks t).any fun r => !new.getLsbD r
      let leased := (tgetD s.place.leases t ⟨.none, 0, 0, [], [], false, none, [], []⟩).state != .none
      if removed && leased then s
      else if s.phaseOf t == .learn && models.any (fun (_, _, l) => l.phase != .idle && l.phase != .lost) then s
      else
        let s := s.applyAlloc t new
        if s.phaseOf t != .learn then s
        else models.foldl (fun s (mid, m, l) =>
          if l.phase == .lost || l.members == (s.poolsOf t).learnPool then s
          else s.reshardModel t mid m l (s.poolsOf t).learnPool (tgetD shards mid ([], []))) s)

end Sys2Proof.Machine
end

