-- ==== Sys2Proof/Machine/LinkOps.lean ====
section
/-! DEFINITION. Links (11 R318 to R335): the port plan, routing, credits, retry, link states and detours, and
the choice of the next frame. -/

namespace Sys2Proof.Machine

abbrev us : Nat := 1000

/-! Addresses and the port plan (R318, R321). -/

def addrRank (a : Nat) : Nat := a % 64
def addrCol (a : Nat) : Nat := a / 64 % 16
def addrRow (a : Nat) : Nat := a / 1024 % 16
def mkAddr (row col rank : Nat) : Nat := rank + col * 64 + row * 1024

/-- Roles of a port in the codes of LNK_STAT. -/
inductive PortRole where
  | intra | row | column
  deriving DecidableEq, Repr

def PortRole.code : PortRole → Nat
  | .intra => 0 | .row => 1 | .column => 2

/-- Role and port index of a link. -/
def portOf (l : Nat) : PortRole × Nat :=
  if l < 32 then (.intra, l)
  else if l < 40 then (.row, l - 32)
  else if l < 48 then (.column, l - 40)
  else if l < 80 then (.intra, l - 16)
  else if l < 88 then (.row, l - 72)
  else (.column, l - 80)

/-- The peer's address under the xor rule; none where the port is unused. -/
def State.peerAddr (s : State) (l : Nat) : Option Nat :=
  let a := s.dom.row
  let b := s.dom.col
  let r := s.dom.rank
  let (row, col, rank) := match portOf l with
    | (.intra, p) => (a, b, r ^^^ (p % max s.dom.size 1))
    | (.row, q) => (a, b ^^^ q, r)
    | (.column, q) => (a ^^^ q, b, r)
  if (row, col, rank) == (a, b, r) || row > s.lnk.rowsM1 || col > s.lnk.colsM1 then none else some (mkAddr row col rank)

def State.linkAt (s : State) (l : Nat) : Link := s.lnk.links[l]?.getD Link.reset

def State.setLink (s : State) (l : Nat) (x : Link) : State :=
  if h : l < 96 then s.setLnk { s.lnk with links := s.lnk.links.set l x } else s

def State.modLink (s : State) (l : Nat) (f : Link → Link) : State := s.setLink l (f (s.linkAt l))

def State.modGroup (s : State) (g : Nat) (f : LinkGroup → LinkGroup) : State :=
  if h : g < 12 then s.setLnk { s.lnk with groups := s.lnk.groups.set g (f s.lnk.groups[g]) } else s

def groupLinks (g : Nat) : List Nat := (List.range 8).map (8 * g + ·)

/-- The links of the pair that leads to a peer, in ascending order (R320). -/
def State.pair (s : State) (peer : Nat) : List Nat := (List.range 96).filter fun l => s.peerAddr l == some peer

def State.upLinks (s : State) (peer : Nat) : List Nat := (s.pair peer).filter fun l => (s.linkAt l).phase == .up

/-- The next hop towards a destination: rank, then column, then row (R319). -/
def State.nextHop (s : State) (dst : Nat) : Nat :=
  if addrRank dst != s.dom.rank then mkAddr s.dom.row s.dom.col (addrRank dst)
  else if addrCol dst != s.dom.col then mkAddr s.dom.row (addrCol dst) s.dom.rank
  else mkAddr (addrRow dst) s.dom.col s.dom.rank

/-! Virtual channels and credits (R322, R324). -/

def vcPayload : Nat → Nat
  | 0 | 3 => 8192
  | 1 => 64
  | _ => 512

def vcCredits : Nat → Nat
  | 0 => 1 | 1 => 14 | 2 => 128 | 3 => 20 | _ => 64

/-- Credits of a VC's hop class (log entry 38): near equal, the lower classes the larger. -/
def classCredits (vc k : Nat) : Nat := vcCredits vc / 6 + (if k ≤ vcCredits vc % 6 then 1 else 0)

/-- Every credit of the table. VC0 has one, whatever its hop. -/
def allCredits : List ((Nat × Nat) × Nat) :=
  ((0, 0), 1) :: [1, 2, 3, 4].flatMap fun vc => [1, 2, 3, 4, 5, 6].map fun k => ((vc, k), classCredits vc k)

def creditKey (f : Frame) : Nat × Nat := if f.vc == 0 then (0, 0) else (f.vc, f.hop)

def Link.hasCredit (x : Link) (f : Frame) : Bool := tgetD x.credits (creditKey f) 0 != 0

def Link.useCredit (x : Link) (f : Frame) : Link :=
  { x with credits := tset x.credits (creditKey f) (tgetD x.credits (creditKey f) 0 - 1) }

/-- A returned credit names its VC only; it refills the lowest hop class that is not full (log entry 38). -/
def Link.oneCredit (x : Link) (vc : Nat) : Link :=
  let keys := if vc == 0 then [(0, 0)] else [1, 2, 3, 4, 5, 6].map fun k => (vc, k)
  match keys.find? fun k => tgetD x.credits k 0 < tgetD allCredits k 0 with
  | some k => { x with credits := tset x.credits k (tgetD x.credits k 0 + 1) }
  | none => x

def Link.addCredits (x : Link) (vc : Nat) : Nat → Link
  | 0 => x
  | n + 1 => (x.oneCredit vc).addCredits vc n

/-- A frame left a receive buffer: its credit is due to the sender. -/
def Link.owe (x : Link) (vc : Nat) : Link := { x with owed := tset x.owed vc (tgetD x.owed vc 0 + 1) }

def frameBytes (f : Frame) : Nat := f.payload.length + 32

/-! Link-level retry (R325). -/

/-- Sent again from the oldest unacknowledged frame, in order. -/
def Link.resend (x : Link) : Link :=
  { x with
    sent := x.replay.reverse ++ x.sent
    replayCount := (x.replayCount + x.replay.length) % 2 ^ 64
    resends := if x.replay.isEmpty then x.resends else x.resends + 1 }

/-- LACK: the frames up to it are released. -/
def Link.ack (x : Link) (lack : Nat) : Link :=
  match x.replay.findIdx? fun f => f.lseq == lack with
  | some i => { x with replay := x.replay.drop (i + 1), acked := (lack + 1) % 65536, resends := 0 }
  | none => x

/-- What rides in every frame: acknowledgement and credits. -/
def Link.takeRiders (x : Link) (f : Frame) : Link := (x.ack f.lack).addCredits f.creditVc f.credits

/-! Events (R352). -/

def linkPayload (kind link state peer via tenant group parts detail : Nat) : List Byte :=
  fields [(2, kind), (1, link), (1, state), (2, peer), (2, via), (2, tenant), (1, group), (1, parts), (4, detail)]

def State.linkEvent (s : State) (kind l state detail : Nat) : State :=
  s.emitPf0 (srcLinkGroup (l / 8)) 0x07 (linkPayload kind l state ((s.peerAddr l).getD 0xFFFF) 0 0xFFFF 0 0 detail)

/-- A detour event, once for the peer, from the group of the pair's lowest link. -/
def State.detourEvent (s : State) (kind peer via : Nat) : State :=
  let l := (s.pair peer).headD 0
  s.emitPf0 (srcLinkGroup (l / 8)) 0x07 (linkPayload kind l (s.linkAt l).phase.code peer via 0xFFFF 0 0 0)

/-- A group event to its tenant from core 5 of Q0 on the coordinator. -/
def State.collGroupEvent (s : State) (t g parts : Nat) : State :=
  if s.dom.rank != s.dom.coord then s
  else s.emitTenant t (srcCore 0 5) 0x07 (linkPayload 0x0609 0xFF 0 0 0 t g parts 0)

/-! Settling and detours (R332, R333). -/

def State.markDetour (s : State) (peer : Nat) (b : Bool) : State :=
  (s.pair peer).foldl (fun s l => s.modLink l fun x => { x with detour := b }) s

/-- The settle of a peer begins when its last UP link leaves UP. -/
def State.settleFrom (s : State) (l : Nat) : State :=
  match s.peerAddr l with
  | none => s
  | some p =>
    if (s.upLinks p).isEmpty && (tget s.lnk.settling p).isNone then
      s.setLnk { s.lnk with settling := tset s.lnk.settling p s.time }
    else s

/-- Frames put on the links of a pair frame by frame over its UP links; on its first link while none is UP. -/
def State.queueOn (s : State) (peer : Nat) (ws : List Waiting) : State :=
  ws.foldl (fun s w =>
    match s.upLinks peer with
    | [] => s.modLink ((s.pair peer).headD 96) fun x => { x with queue := x.queue ++ [w] }
    | u :: us' =>
      let n := tgetD s.lnk.spread peer 0
      let s := s.setLnk { s.lnk with spread := tset s.lnk.spread peer (n + 1) }
      s.modLink ((u :: us').getD (n % (u :: us').length) u) fun x => { x with queue := x.queue ++ [w] }) s

/-- A detour ends: new frames go on the direct link again. -/
def State.endDetour (s : State) (d : Detour) : State :=
  let s := s.setLnk { s.lnk with detours := s.lnk.detours.filter (·.peer != d.peer) }
  ((s.markDetour d.peer false).detourEvent 0x0604 d.peer 0).queueOn d.peer d.held

/-- A link to the peer is UP again: the detour drains. -/
def State.drainDetour (s : State) (peer : Nat) : State :=
  let s := s.setLnk { s.lnk with
    settling := tdel s.lnk.settling peer
    waiting := tdel s.lnk.waiting peer
    unreachable := s.lnk.unreachable.filter (· != peer)
    detours := s.lnk.detours.map fun (d : Detour) => if d.peer == peer then { d with draining := true } else d }
  match s.lnk.detours.find? (·.peer == peer) with
  | some d => if d.unacked.isEmpty then s.endDetour d else s
  | none => s

/-- A link reaches UP. Frames that waited while no link of the pair was UP are there already. -/
def State.linkUp (s : State) (l : Nat) (grant : Bool) : State :=
  let s := s.modLink l fun x =>
    let x := if grant then { x with credits := allCredits, owed := [] } else x
    { x.resend with phase := .up, attempts := 0, initial := false, since := s.time, discarding := false, resends := 0 }
  (s.peerAddr l).elim s s.drainDetour

/-- A link leaves UP for RECAL or RETRAIN: it stops, and keeps its replay buffer. -/
def State.linkSettle (s : State) (l : Nat) (p : LinkPhase) : State :=
  ((s.modLink l fun x => { x with phase := p, attempts := 0, since := s.time }).linkEvent 0x0602 l p.code 0).settleFrom l

/-- The link FAILED after its third attempt. -/
def State.linkFailed (s : State) (l n : Nat) : State :=
  ((s.modLink l fun x => { x with phase := .failed, attempts := n, since := s.time }).linkEvent 0x0605 l 8 n).settleFrom l

/-- A group recalibration ends with the last link in RECAL. -/
def State.recalEnd (s : State) (g : Nat) : State :=
  if (groupLinks g).any fun l => (s.linkAt l).phase == .recal then s
  else s.modGroup g fun x => { x with recalling := false }

/-- Link group reset or DISABLE: replay buffer and credits discarded. Waiting frames stay. -/
def State.disableLink (s : State) (l : Nat) : State :=
  (s.modLink l fun x => { Link.reset with
    queue := x.queue, sent := x.sent, fecCorr := x.fecCorr, fecUncorr := x.fecUncorr, replayCount := x.replayCount
    degradedAt := x.degradedAt, detour := x.detour }).settleFrom l

/-- The release of a group's reset: used ports train (R327, R328). -/
def State.releaseLink (s : State) (l : Nat) : State :=
  if (s.linkAt l).phase != .disabled then s
  else if (s.peerAddr l).isSome then
    s.modLink l fun x => { x with phase := .training, initial := true, attempts := 0, since := s.time }
  else s.modLink l fun x => { x with phase := .unused }

/-- Mesh index of an address in the mesh of a pair: rank, column or row. -/
def meshIndex (r : PortRole) (a : Nat) : Nat :=
  match r with
  | .intra => addrRank a
  | .row => addrCol a
  | .column => addrRow a

def State.meshAddr (s : State) (r : PortRole) (i : Nat) : Nat :=
  match r with
  | .intra => mkAddr s.dom.row s.dom.col i
  | .row => mkAddr s.dom.row i s.dom.rank
  | .column => mkAddr i s.dom.col s.dom.rank

def State.inMesh (s : State) (r : PortRole) (i : Nat) : Bool :=
  match r with
  | .intra => i < s.dom.size
  | .row => i ≤ s.lnk.colsM1
  | .column => i ≤ s.lnk.rowsM1

/-- The intermediate for a peer (R333). -/
def State.via (s : State) (peer : Nat) : Option Nat :=
  let role := ((s.pair peer).head?).elim PortRole.intra fun l => (portOf l).1
  let i := meshIndex role peer
  (((List.range (if role == .intra then 64 else 16)).drop 1).map fun k => i ^^^ k).findSome? fun m =>
    let a := s.meshAddr role m
    if s.inMesh role m && a != s.selfAddr && a != peer && !(s.upLinks a).isEmpty && s.lnk.reported.contains (a, peer) then some a
    else none

/-- Insertion in order of SSEQ. -/
def insertSseq (f : Frame) : List Frame → List Frame
  | [] => [f]
  | g :: gs => if f.sseq < g.sseq then f :: g :: gs else g :: insertSseq f gs

/-- Every VC for a peer switches to a detour, or to its next intermediate. -/
def State.switchDetour (s : State) (peer via : Nat) : State :=
  let ls := s.pair peer
  let old := s.lnk.detours.find? (·.peer == peer)
  let again := match old with
    | some d => d.unacked
    | none => (ls.flatMap fun l => (s.linkAt l).replay.filter fun (f : Frame) => f.type == 1 || f.type == 4).foldl (fun acc f => insertSseq f acc) []
  let waiting := (old.elim [] (·.held)) ++ ls.flatMap fun l => (s.linkAt l).queue
  let s := ls.foldl (fun s l => s.modLink l fun x => { x with queue := [] }) s
  let ws := (again.map fun (f : Frame) => (⟨{ f with detour := true }, none⟩ : Waiting))
    ++ waiting.map fun (w : Waiting) => { w with frame := { w.frame with detour := true } }
  let d : Detour := ⟨peer, via, ws.map (·.frame), [], false⟩
  let s := s.setLnk { s.lnk with detours := d :: s.lnk.detours.filter (·.peer != peer) }
  ((s.markDetour peer true).queueOn via ws).detourEvent 0x0603 peer via

/-- A frame handed to the links for a next hop: direct, by the detour in force, or held while it drains. -/
def State.route (s : State) (w : Waiting) : State :=
  let peer := s.nextHop w.frame.dst
  match s.lnk.detours.find? (·.peer == peer) with
  | some d =>
    if d.draining then
      s.setLnk { s.lnk with detours := s.lnk.detours.map fun (x : Detour) => if x.peer == peer then { x with held := x.held ++ [w] } else x }
    else
      let w := { w with frame := { w.frame with detour := true } }
      let s := s.setLnk { s.lnk with
        detours := s.lnk.detours.map fun (x : Detour) => if x.peer == peer then { x with unacked := x.unacked ++ [w.frame] } else x }
      s.queueOn d.via [w]
  | none =>
    let ls := s.pair peer
    let s := if !ls.isEmpty && (ls.all fun l => (s.linkAt l).initial) && (tget s.lnk.waiting peer).isNone then
        s.setLnk { s.lnk with waiting := tset s.lnk.waiting peer s.time }
      else s
    s.queueOn peer [w]

/-- Is a frame one that the module may hand over (R321, R322)? -/
def frameOk (f : Frame) : Bool :=
  (f.type == 1 || f.type == 4) && f.vc < 5 && f.payload.length ≤ vcPayload f.vc && f.payload.length % 16 == 0

/-- A frame of the module's own enters with the next SSEQ of its (DST, VC), as the first hop. -/
def State.inject (s : State) (f : Frame) : State :=
  if !frameOk f || f.dst == s.selfAddr then s
  else
    let k := (f.dst, f.vc)
    let n := tgetD s.lnk.ssNext k 0
    let f := { f with src := s.selfAddr, sseq := n, hop := 1, detour := false }
    (s.setLnk { s.lnk with ssNext := tset s.lnk.ssNext k ((n + 1) % 2 ^ 32) }).route ⟨f, none⟩

/-! The choice of the next frame (R334, R335). -/

/-- Flow of a data frame in an owner: group on VC2, the owner's VC3 traffic, its VC4 traffic. -/
def flowOf (f : Frame) : Nat := if f.vc == 2 then f.flow % 256 else 0x100 + f.vc

def isData (w : Waiting) : Bool := 2 ≤ w.frame.vc && w.frame.vc ≤ 4

/-- The first waiting frame that a predicate picks, and the queue without it. -/
def takeWaiting (p : Waiting → Bool) (q : List Waiting) : Option (Waiting × List Waiting) :=
  (q.find? p).map fun w => (w, q.eraseP p)

def ofFlow (o fl : Nat) (w : Waiting) : Bool := isData w && w.frame.owner == o && flowOf w.frame == fl

/-- Active lists brought up to date: what has nothing waiting leaves, what is new joins at the tail. -/
def Link.syncOwners (x : Link) : Link :=
  let data := x.queue.filter isData
  let keep := (x.owners.filter fun o => data.any fun w => w.frame.owner == o.id).map fun (o : Owner) =>
    let have' := o.flows.filter fun (fl, _) => data.any (ofFlow o.id fl)
    let new := ((data.filter fun w => w.frame.owner == o.id).map fun w => flowOf w.frame).eraseDups.filter fun fl => !have'.any (·.1 == fl)
    { o with flows := have' ++ new.map fun fl => (fl, 0) }
  let ids := (data.map (·.frame.owner)).eraseDups.filter fun i => !keep.any (·.id == i)
  { x with owners := keep ++ ids.map fun i =>
      ⟨i, 0, (((data.filter fun w => w.frame.owner == i).map fun w => flowOf w.frame).eraseDups.map fun fl => (fl, 0))⟩ }

/-- The quantum of an owner: 512 × ceil(128 × w ÷ w_max) bytes; the device takes w_max. -/
def State.quantum (s : State) (os : List Owner) (i : Nat) : Nat :=
  let w := fun (j : Nat) => if j < 512 then (s.tntOf j).shareLink else 0
  let wmax := max 1 (os.foldl (fun m o => max m (w o.id)) 0)
  let wi := if i < 512 then w i else wmax
  512 * ((128 * wi + wmax - 1) / wmax)

/-- What an owner does in its turn: the frame it sends, or nothing; and the owner as it stands after. A flow
whose VC has no credit is passed over; the others gain 512 bytes as their round comes. -/
def Owner.pick (x : Link) : Nat → Owner → Option Waiting × Owner
  | 0, o => (none, o)
  | fuel + 1, o =>
    match o.flows with
    | [] => (none, o)
    | (fl, d) :: rest =>
      match x.queue.find? (ofFlow o.id fl) with
      | none => Owner.pick x fuel { o with flows := rest }
      | some w =>
        if !x.hasCredit w.frame then Owner.pick x fuel { o with flows := rest ++ [(fl, d)] }
        else if frameBytes w.frame ≤ d then
          if frameBytes w.frame ≤ o.deficit then
            (some w, { o with deficit := o.deficit - frameBytes w.frame, flows := (fl, d - frameBytes w.frame) :: rest })
          else (none, o)
        else Owner.pick x fuel { o with flows := rest ++ [(fl, d + 512)] }

/-- Owners in turn: the head sends while its deficit covers a frame; else the next gains its quantum. -/
def State.pickOwner (s : State) (x : Link) : Nat → List Owner → Option (Waiting × List Owner)
  | 0, _ => none
  | fuel + 1, os =>
    match os with
    | [] => none
    | o :: rest =>
      match o.pick x (20 * (o.flows.length + 1)) with
      | (some w, o') => some (w, o' :: rest)
      | (none, o') =>
        let able := o.flows.any fun (fl, _) => (x.queue.find? (ofFlow o.id fl)).any fun w => x.hasCredit w.frame
        s.pickOwner x fuel (rest ++ [if able then { o' with deficit := o'.deficit + s.quantum os o.id } else o'])

/-- Bytes held in the replay buffer of 128 KiB. -/
def Link.replayBytes (x : Link) : Nat := x.replay.foldl (fun a f => a + frameBytes f) 0

/-- Acknowledgement and credits put into an outgoing frame. -/
def Link.ride (x : Link) (f : Frame) : Link × Frame :=
  let f := { f with lack := (x.lseqExpected + 65535) % 65536 }
  let x := { x with ackDue := false }
  match x.owed.find? fun (_, n) => n != 0 with
  | some (vc, n) => ({ x with owed := tset x.owed vc (n - min n 255) }, { f with credits := min n 255, creditVc := vc })
  | none => (x, { f with credits := 0, creditVc := 0 })

/-- A waiting frame sent: credit used, numbered, kept until acknowledged; a transit frame's own credit is due
on the link it came by (R324; VC0 returned it on arrival). -/
def State.sendFrame (s : State) (l : Nat) (x : Link) (w : Waiting) : State :=
  let (x, f) := x.ride { w.frame with lseq := x.lseqNext }
  let x := { (x.useCredit f) with
    lseqNext := (x.lseqNext + 1) % 65536
    queue := x.queue.erase w
    replay := x.replay ++ [f]
    sent := f :: x.sent }
  let s := s.setLink l x
  let s := match w.ingress with
    | some i => if f.vc == 0 then s else s.modLink i fun y => y.owe f.vc
    | none => s
  let s := s.progressed 3 (l / 8)
  if f.owner < 512 then s.modTnt f.owner fun y => { y with acctLink := y.acctLink + frameBytes f } else s

/-- A LINK frame, or a NAK, which carries the expected LSEQ in LACK; neither advances LSEQ. -/
def Link.sendLink (x : Link) (self peer : Nat) : Link :=
  let blank : Frame := ⟨if x.nakDue then 3 else 2, 1, 1, false, false, x.lseqNext, 0, 0, 0, self, peer, 0x3FF, 0, 0, 0, []⟩
  let nak := x.nakDue
  let (y, f) := x.ride blank
  let f := if nak then { f with lack := x.lseqExpected } else f
  { y with nakDue := false, sent := f :: y.sent }

def State.chooseFrame (s : State) (l : Nat) : State :=
  let x := (s.linkAt l).syncOwners
  let room := fun (w : Waiting) => x.replayBytes + frameBytes w.frame ≤ 131072
  let data := x.queue.any isData
  let step := fun (y : Link) => { y with vc1Gap := if data then y.vc1Gap - 1 else 0 }
  match x.queue.find? fun w => w.frame.vc == 0 && x.hasCredit w.frame && room w with
  | some w => s.sendFrame l (step x) w
  | none =>
    match x.queue.find? fun w => w.frame.vc == 1 && x.hasCredit w.frame && room w && (!data || x.vc1Gap == 0) with
    | some w => s.sendFrame l { x with vc1Gap := if data then 15 else 0 } w
    | none =>
      match s.pickOwner x (40 * (x.owners.length + 1)) x.owners with
      | some (w, os) => if room w then s.sendFrame l (step { x with owners := os }) w else s.setLink l x
      | none =>
        if x.nakDue || x.ackDue || x.owed.any (·.2 != 0) then
          s.setLink l (x.sendLink s.selfAddr ((s.peerAddr l).getD 0xFFFF))
        else s.setLink l x

/-! Receiving (R325, R326). -/

/-- a precedes b modulo 2^32. -/
def seqLt32 (a b : Nat) : Bool := let d := (b + 2 ^ 32 - a) % 2 ^ 32; 1 ≤ d && d < 2 ^ 31

/-- Bytes of a message whose first bytes are these: VC3 from its descriptor (R323), VC2 from the contribution
descriptor (R340); on the other channels each frame is taken as it comes (log entry 39). -/
def messageBytes (vc : Nat) (bs : List Byte) : Option Nat :=
  if vc == 3 then some (32 + field 4 4 bs) else if vc == 2 then some (32 + field 0x18 8 bs) else none

/-- A frame's payload delivered in SSEQ order; a message goes to its consumer when it is whole. -/
def State.deliverFrame (s : State) (f : Frame) : State :=
  let k := (f.src, f.vc)
  let bs := if f.first then f.payload else tgetD s.lnk.pieces k [] ++ f.payload
  let lnk := s.lnk
  s.setLnk (match messageBytes f.vc bs with
    | none => { lnk with delivered := ⟨f.src, f.vc, f.payload⟩ :: lnk.delivered }
    | some n =>
      if bs.length < n then { lnk with pieces := tset lnk.pieces k bs }
      else { lnk with pieces := tdel lnk.pieces k, delivered := ⟨f.src, f.vc, bs.take n⟩ :: lnk.delivered })

/-- What has become deliverable of one (SRC, VC). -/
def State.deliverReady : Nat → State → Nat × Nat → State
  | 0, s, _ => s
  | fuel + 1, s, k =>
    let n := tgetD s.lnk.ssExpected k 0
    match s.lnk.reorder.find? fun f => (f.src, f.vc) == k && f.sseq == n with
    | none => s
    | some f =>
      let s := s.setLnk { s.lnk with
        reorder := s.lnk.reorder.filter fun g => !((g.src, g.vc) == k && g.sseq == n)
        ssExpected := tset s.lnk.ssExpected k ((n + 1) % 2 ^ 32) }
      State.deliverReady fuel (s.deliverFrame f) k

/-- A frame addressed to this module: duplicates vanish, and a detoured frame is acknowledged end to end. -/
def State.arriveFrame (s : State) (f : Frame) : State :=
  let k := (f.src, f.vc)
  let s := if f.detour then s.sendTo f.src .e2eAck [f.vc, f.sseq] else s
  if seqLt32 f.sseq (tgetD s.lnk.ssExpected k 0) || s.lnk.reorder.any fun g => (g.src, g.vc) == k && g.sseq == f.sseq then s
  else
    let s := s.setLnk { s.lnk with reorder := s.lnk.reorder ++ [f] }
    State.deliverReady (s.lnk.reorder.length + 1) s k

/-- A frame in order on link l: delivered, or forwarded as the next hop. -/
def State.acceptFrame (s : State) (l : Nat) (f : Frame) : State :=
  let s := s.modLink l fun x => { x with lseqExpected := (x.lseqExpected + 1) % 65536, discarding := false, nakDue := false, ackDue := true }
  if !(f.type == 1 || f.type == 4) || f.vc ≥ 5 then
    s.modLink l fun x => { x with replayCount := (x.replayCount + 1) % 2 ^ 64 }
  else if f.dst == s.selfAddr then (s.modLink l fun x => x.owe f.vc).arriveFrame f
  else
    let s := if f.vc == 0 then s.modLink l fun x => x.owe 0 else s
    s.route ⟨{ f with hop := f.hop + 1 }, some l⟩

/-- A numbered frame received on link l: riders first, then its place in the order. -/
def State.receiveFrame (s : State) (l : Nat) (f : Frame) : State :=
  let s := s.modLink l fun x => x.takeRiders f
  let x := s.linkAt l
  if f.lseq == x.lseqExpected then s.acceptFrame l f
  else if (x.lseqExpected + 65536 - f.lseq) % 65536 < 32768 then s.modLink l fun x => { x with ackDue := true }
  else if x.discarding then s
  else s.modLink l fun x => { x with discarding := true, nakDue := true }

/-- A frame lost to its CRC or to an uncorrectable codeword is answered by NAK. -/
def State.loseFrame (s : State) (l : Nat) (uncorrectable : Bool) : State :=
  s.modLink l fun x => { x with
    discarding := true
    nakDue := x.nakDue || !x.discarding
    fecUncorr := if uncorrectable then (x.fecUncorr + 1) % 2 ^ 64 else x.fecUncorr }

end Sys2Proof.Machine
end

