-- ==== Sys2Proof/Machine/TileEvents.lean ====
section
/-! DEFINITION. Events at a tile (03 R80, R81, R101 to R108): transfers and collectives that complete,
counter increments, segment overrun and pre-emption. -/

namespace Sys2Proof.Machine

/-- The operation of a kind that armed a fence of the tile. -/
def Tile.opOn (x : Tile) (f : Nat) (coll : Bool) : Option AsyncOp :=
  x.sync.outstanding.find? fun a => a.fence == f && (a.kind == .coll) == coll && a.kind != .csignal

/-- The operation left the tile, its fence in its final state (R102). -/
def Tile.landed (x : Tile) (a : AsyncOp) (f : Fin 64) (st : FenceState) : Tile :=
  (x.setFence f st).setOutstanding (x.sync.outstanding.filter (· != a))

/-- The tenant memory that a transfer touches: (first byte, length). -/
def AsyncOp.tvaRange (a : AsyncOp) : Option (Nat × Nat) :=
  match a.kind with
  | .get | .put | .atomadd =>
    (a.walks.bind fun (_, dm) => dm.extent (tvaOf a.loc)).map fun (l, h) => (l.toNat, (h - l).toNat)
  | _ => none

/-- Heat of the units of a transfer and the translations that its engine keeps (05 R130, R134). -/
def State.touched (s : State) (t : Fin 160) (tenant : Nat) (a : AsyncOp) : State :=
  match a.tvaRange with
  | none => s
  | some (lo, n) =>
    let s := s.touch tenant lo n
    s.setMem ((cutEntries lo n).foldl (fun m (x, _) => m.cacheTlb (t.val / 40) (tenant, x / unitBytes)) s.mem)

/-- A transfer that has moved its data: fence DONE and the counter of the tile where the data landed
(R101); one that failed: fence FAILED. -/
def State.landTransfer (s : State) (t : Fin 160) (c : Cmd) (a : AsyncOp) (f : Fin 64) : State :=
  let failed := fun (e : Exc) => s.modTile t fun x => x.landed a f (.failed e)
  let at' := if a.kind == .padput then (if locRank a.loc == s.dom.rank then some (locTile a.loc) else none) else some t.val
  let done := fun (s : State) =>
    let s := (s.modTile t fun x => x.landed a f .done).touched t c.tenant a
    match a.ct, at' with
    | some k, some i => s.addCounter i k 1
    | _, _ => s
  let denied := a.tvaRange.any fun (lo, n) => s.gradForbidden c a lo n
  let remote := (a.kind == .padget || a.kind == .padput) && locRank a.loc != s.dom.rank
  if denied then failed (excAddress (tvaOf a.loc))
  else if remote && a.kind == .padget then
    match a.landed with
    | none => s
    | some none => done s
    | some (some e) => failed e
  else
    match s.transfer t c.ref c.tenant a with
    | .ok s' => done (s'.gradPut t c a)
    | .error (.fault e) => failed e
    | .error .noRoom => failed ⟨stBulkFull, 0⟩
    | .error .busy => s

/-- Does a transfer wait for a stack that has tripped (15 R454)? -/
def State.stackWaits (s : State) (tenant : Nat) (a : AsyncOp) : Bool :=
  a.tvaRange.any fun (lo, n) => (cutEntries lo n).any fun (x, _) =>
    (s.mem.page tenant x).any fun p => p.tier == .hbm && s.stackTripped (p.dpa / dieSpan)

/-- DMA_TRANSFER_DONE (R101): the engine's progress counts the completed descriptor (14 R426). -/
def execDmaTransferDone (t : Fin 160) (fence : Fin 64) (s : State) : Out :=
  let x := s.tiles[t]
  .next (match x.opOn fence false, x.ctl.cmd.bind s.cmdAt with
    | some a, some c => if s.stackWaits c.tenant a then s else (s.landTransfer t c a fence).progressed 2 (srcEngine (t.val / 40))
    | _, _ => s)

/-- COUNTER_ARRIVAL (R103): the increment of a CSIGNAL of this module is applied at the located tile, and
the CSIGNAL is complete. -/
def execCounterArrival (loc : DWord) (ct : Fin 32) (amount : Word) (s : State) : Out :=
  let fits := fun (a : AsyncOp) => a.kind == .csignal && a.loc == loc && a.ct == some ct.val && a.amount == amount
  .next (match (List.finRange 160).find? fun i => s.tiles[i].sync.outstanding.any fits with
    | none => s
    | some i =>
      let x := s.tiles[i]
      let s := s.setTile i (x.setOutstanding (x.sync.outstanding.eraseP fits))
      if locRank loc == s.dom.rank then s.addCounter (locTile loc) ct amount else s)

/-! Collectives (R108). -/

/-- What a tile captured for its fused instruction takes the place of what it holds while the result
lands, and the landing's own changes stay. -/
def Tile.landFused (x : Tile) (a : AsyncOp) (i : CollInst) (vals : List (Option Word)) : Except Exc Tile :=
  let o := operandOf a.inner
  let b : Fin 4 := opFin2 o 36
  let captured := { x with regs := { x.regs with
    descs := Vector.ofFn fun k : Fin 64 => a.descs.getD k 0
    rctx := Vector.ofFn fun k : Fin 16 => a.rctx.getD k (0, 0)
    banks := if kindType i.kind != 0 && kindType i.kind != 4 && classOf a.inner == 4 then x.regs.banks.set b a.bank else x.regs.banks } }
  match innerOf a.inner with
  | none => .ok x
  | some inner =>
    match landResult captured a.inner (operandOf a.cpfx) inner i.index i.rowLen vals with
    | .error e => .error e
    | .ok y =>
      .ok { y with regs := { y.regs with
        descs := x.regs.descs
        rctx := x.regs.rctx
        banks := if inner == .mma then y.regs.banks else x.regs.banks } }

/-- A member's result lands: fence DONE, the instance ends here, and its time of holding does not count in
the segment (R80). -/
def State.landCollective (s : State) (t : Fin 160) (a : AsyncOp) (f : Fin 64) (i : CollInst) (vals : List (Option Word)) : State :=
  match s.tiles[t].landFused a i vals with
  | .error e => s.detectFail i e
  | .ok y =>
    let y := y.landed a f .done
    let y := { y with ctl := { y.ctl with segExcluded := y.ctl.segExcluded + (i.held - (i.heldUntil - s.time)) } }
    let k := (i.key.cmd, i.key.group, i.key.lane)
    let s := ((s.gradDrain t a i vals).setTile t y).dropInst i.key
    s.setColl { s.coll with done := tset s.coll.done k (tgetD s.coll.done k 0 + 1) }

/-- COLLECTIVE_DONE (R108): nothing lands while a contribution is missing. -/
def execCollectiveDone (t : Fin 160) (fence : Fin 64) (s : State) : Out :=
  let x := s.tiles[t]
  .next (match x.opOn fence true with
    | none => s
    | some a =>
      match s.coll.insts.find? fun i => i.tile == t.val && i.fence == fence.val with
      | none => s
      | some i =>
        match i.result with
        | none => s
        | some (.error e) => s.detectFail i e
        | some (.ok vals) => (s.landCollective t a fence i vals).progressed 2 (srcEngine (t.val / 40)))

/-! Segments and pre-emption (R80, R81). -/

/-- Time of the running segment that does not count: closed waits, waits on collectives that a heat
notice holds, and stops of the tile clocks for power (03 R80, 15 R450; log entry 81). -/
def State.segExcluded (s : State) (t : Fin 160) : Nat :=
  (s.coll.insts.filter (·.tile == t.val)).foldl (fun a i => a + (i.held - (i.heldUntil - s.time)))
    (s.tiles[t].ctl.segExcluded + (s.stoppedNs - s.tiles[t].ctl.segStopped))

def State.segElapsed (s : State) (t : Fin 160) : Nat := s.time - s.tiles[t].ctl.segStart - s.segExcluded t

/-- SEGMENT_OVERRUN: the segment has run longer than SUE_SEG_LIMIT. -/
def execSegmentOverrun (t : Fin 160) (s : State) : Out :=
  let x := s.tiles[t]
  .next (if (x.ctl.status == .running || x.ctl.status == .blocked) && s.segElapsed t > s.regs.segLimitUs * 1000 then
      s.raiseExc t ⟨0x0B, x.ctl.segStart⟩
    else s)

/-- At a SEG boundary, ended or blocked (R81). -/
def Tile.yields (x : Tile) : Bool :=
  match x.ctl.status with
  | .ended | .blocked | .idle => true
  | .stopped => false
  | .running => x.ctl.pc != 0 && (x.ctl.istore[x.ctl.pc - 1]?).any fun w => classOf w == 0 && opcodeOf w == 3

/-- An update that has not been decided goes back to CLOSED on its model (09 R255). -/
def State.withdrawUpdate (s : State) (c : Cmd) : State :=
  match s.learnAt c.tenant c.learnModel with
  | none => s
  | some l =>
    if c.opcode == 0x402 && l.phase == .preparing then
      s.setLearn c.tenant c.learnModel { l with phase := .closed, update := none, prepared := none }
    else s

/-- PREEMPTION: the command is killed and queued to run again; its re-run is exempt from the slice
(12 R373). After the commit decision, and an update's GO, the request is ignored (12 R384). -/
def execPreemption (c : CmdRef) (s : State) : Out :=
  .next (match s.cmdAt c with
    | none => s
    | some k =>
      let (a, b, d) := k.runUs
      let decided := k.opcode == 0x402 && (s.learnAt k.tenant k.learnModel).any fun l => l.phase == .updating
      if k.preempt && k.running && !decided && (s.localTiles c).all fun i => s.tiles[i].yields then
        let s := ((s.withdrawUpdate k).rerun k true).modCmd c fun x => { x with exempt := true, preempt := false }
        s.emitCommand k.ref.fn (s.homeDie c) 0x0003 c.sq k.hdrSeq.toNat (a + b + d)
      else s)

end Sys2Proof.Machine
end

