-- ==== Sys2Proof/Machine/Links.lean ====
section
/-! DEFINITION. The events of links and their frames (11 R324 to R335), and the messages that act on this
module (11 R323). -/

namespace Sys2Proof.Machine

/-! Link states (R327). -/

def execLinkTrainingDone (l : Fin 96) (s : State) : Out :=
  .next (if (s.linkAt l).phase == .training then s.modLink l fun x => { x with phase := .align, since := s.time } else s)

/-- LINK_TRAINING_TIMEOUT: the third attempt fails the link. -/
def execLinkTrainingTimeout (l : Fin 96) (s : State) : Out :=
  let x := s.linkAt l
  .next (if x.phase == .training && s.time ≥ x.since + 200 * ms then
      (if x.attempts ≥ 2 then s.linkFailed l (x.attempts + 1)
       else s.modLink l fun x => { x with attempts := x.attempts + 1, since := s.time })
    else s)

/-- The package firmware that runs (17 R502: SEC_FW_VER). -/
def State.pkgImage (s : State) : Option FwImage := if s.boot.pkgBank then s.boot.pkgB else s.boot.pkgA

/-- The highest behaviour level that the stepping and the firmware both support (18 R513: ID_LEVEL.MAX). -/
def State.levelMax (s : State) : Nat := min s.boot.stepLevel (s.pkgImage.elim 0 (·.levelMax))

/-- The IDENT frame of a port (R321, R327). -/
def State.identFrame (s : State) (l : Nat) : Frame :=
  let (role, index) := portOf l
  ⟨5, 1, 1, false, true, (s.linkAt l).lseqNext, 0, 0, 0, s.selfAddr, (s.peerAddr l).getD 0xFFFF, 0x3FF, 0, 0, 0,
    padTo 16 (fields [(8, s.regs.serial.toNat), (1, s.dom.row), (1, s.dom.col), (1, s.dom.rank), (1, role.code), (1, index),
      (1, s.pkgImage.elim 0 (·.major)), (1, s.dom.level)])⟩

def execFecAlignLock (l : Fin 96) (s : State) : Out :=
  .next (if (s.linkAt l).phase == .align then
      s.modLink l fun x => { x with
        phase := .identify, since := s.time, sent := s.identFrame l :: x.sent, lseqNext := (x.lseqNext + 1) % 65536 }
    else s)

def execAlignTimeout (l : Fin 96) (s : State) : Out :=
  let x := s.linkAt l
  .next (if x.phase == .align && s.time ≥ x.since + 10 * ms then s.modLink l fun x => { x with phase := .training, since := s.time }
    else s)

/-- Does an IDENT name the port's peer (R318, R327)? -/
def State.identOk (s : State) (l : Nat) (r : IdentRec) : Bool :=
  let (role, index) := portOf l
  s.peerAddr l == some (mkAddr r.row r.col r.rank) && r.rank < 64 && r.col < 16 && r.role == role.code && r.index == index

/-- IDENT: the link comes UP, or is MISWIRED. -/
def execIdent (l : Fin 96) (r : IdentRec) (s : State) : Out :=
  .next (if (s.linkAt l).phase != .identify then s
    else
      let s := s.modLink l fun x => { x with lseqExpected := (x.lseqExpected + 1) % 65536, peer := some r.serial }
      if s.identOk l r then (s.linkUp l true).linkEvent 0x0601 l 5 0
      else
        let s := s.modLink l fun x => { x with phase := .miswired, since := s.time }
        s.linkEvent 0x0606 l 9 (r.role + 256 * r.index))

/-! Recalibration (R329). -/

def State.groupAt (s : State) (g : Nat) : LinkGroup := s.lnk.groups[g]?.getD ⟨false, false, 0, 0, 0, false, false⟩

/-- A due recalibration starts if no group of the die recalibrates and no lower group of it is due. -/
def State.startRecal (s : State) (g : Nat) : State :=
  let die := (List.range 12).filter fun i => i / 6 == g / 6
  if !(s.groupAt g).recalDue || die.any (fun i => (s.groupAt i).recalling || (i < g && (s.groupAt i).recalDue)) then s
  else
    let s := s.modGroup g fun x => { x with recalDue := false, recalling := true, recalSince := s.time }
    (groupLinks g).foldl (fun s l => if (s.linkAt l).phase == .up then s.linkSettle l .recal else s) s

def execRecal (g : Fin 12) (temp : Int) (s : State) : Out :=
  let s := s.modGroup g fun x => { x with
    temp := temp, recalDue := x.recalDue || (temp - x.calTemp).natAbs > s.lnk.recalDrift }
  .next (s.startRecal g)

def execRecalDone (g : Fin 12) (s : State) : Out :=
  .next (if !(s.groupAt g).recalling then s
    else
      let s := (groupLinks g).foldl (fun s l => if (s.linkAt l).phase == .recal then s.linkUp l false else s) s
      s.modGroup g fun x => { x with recalling := false, calTemp := x.temp })

def execRecalTimeout (l : Fin 96) (s : State) : Out :=
  let x := s.linkAt l
  .next (if x.phase == .recal && s.time > x.since + 200 * us then (s.linkSettle l .retrain).recalEnd (l / 8) else s)

/-! Retraining (R330). -/

/-- RETRAIN: loss of alignment lock, more than 16 uncorrectable codewords in 1 ms, the same frame re-sent 8
times, or an eye height below the floor. -/
def execRetrain (l : Fin 96) (cause : Fin 4) (uncorr : Nat) (s : State) : Out :=
  let x := s.linkAt l
  let s := s.modLink l fun x => { x with fecUncorr := (x.fecUncorr + uncorr) % 2 ^ 64 }
  let due := match cause with
    | 1 => uncorr > 16
    | 2 => x.resends ≥ 8
    | _ => true
  .next (if x.phase == .up && due then s.linkSettle l .retrain else s)

def execRetrainDone (l : Fin 96) (serial : DWord) (s : State) : Out :=
  let x := s.linkAt l
  .next (if x.phase == .retrain && x.peer == some serial then s.linkUp l true else s)

def execRetrainAttemptFail (l : Fin 96) (s : State) : Out :=
  let x := s.linkAt l
  .next (if x.phase == .retrain && s.time ≥ x.since + 5 * ms then
      (if x.attempts ≥ 2 then s.linkFailed l (x.attempts + 1)
       else s.modLink l fun x => { x with attempts := x.attempts + 1, since := s.time })
    else s)

/-- FEC_DEGRADE (R331): more than one corrected codeword in a thousand over a second, once per hour. -/
def execFecDegrade (l : Fin 96) (corrected total : Nat) (s : State) : Out :=
  let s := s.modLink l fun x => { x with fecCorr := (x.fecCorr + corrected) % 2 ^ 64 }
  let x := s.linkAt l
  let ratio := (fp32.roundMag .rne false 0 false corrected (max total 1)).code
  .next (if corrected * 1000 ≤ total || x.degradedAt.any fun t => s.time < t + day / 24 then s
    else (s.modLink l fun x => { x with degradedAt := some s.time }).linkEvent 0x0608 l x.phase.code ratio)

/-! Transmits that find no link (R328, R330, R332). -/

/-- Frames of the module's own dropped from the queues of a pair, with their SSEQ given back. -/
def State.dropWaiting (s : State) (peer : Nat) : State :=
  let ls := s.pair peer
  let mine := (ls.flatMap fun l => (s.linkAt l).queue).filter fun w => w.ingress.isNone
  let back := mine.foldl (fun (acc : List ((Nat × Nat) × Nat)) w =>
    let k := (w.frame.dst, w.frame.vc)
    if seqLt32 w.frame.sseq (tgetD acc k 0) then tset acc k w.frame.sseq else acc) s.lnk.ssNext
  let s := s.setLnk { s.lnk with ssNext := back, waiting := tdel s.lnk.waiting peer }
  ls.foldl (fun s l => s.modLink l fun x => { x with queue := x.queue.filter fun w => w.ingress.isSome }) s

/-- LINK_NOT_READY: the commands whose transfers fail are killed with that status; firmware traffic raises
the event. -/
def execLinkNotReady (peer : Nat) (cs : List CmdRef) (s : State) : Out :=
  .next (match tget s.lnk.waiting peer with
    | none => s
    | some t =>
      if s.time < t + 10 * ms || !((s.pair peer).all fun l => (s.linkAt l).initial) then s
      else
        let s := s.dropWaiting peer
        if cs.isEmpty then s.linkEvent 0x0607 ((s.pair peer).headD 0) ((s.linkAt ((s.pair peer).headD 0)).phase.code) 0
        else cs.foldl (fun s c => match s.cmdAt c with
          | some k => if k.running then s.failCmd k stLinkNotReady 0 0 else s
          | none => s) s)

/-- Is a link of a pair settling or FAILED, outside initial training? -/
def Link.settles (x : Link) : Bool := x.phase == .recal || x.phase == .retrain || x.phase == .failed

/-- DETOUR_SWITCH: after 20 µs without an UP link, all traffic for the peer takes the intermediate of R333. -/
def execDetourSwitch (peer : Nat) (reported : List Nat) (s : State) : Out :=
  let s := s.setLnk { s.lnk with
    reported := (s.lnk.reported.filter (·.2 != peer)) ++ reported.map fun m => (m, peer) }
  let waited := (tget s.lnk.settling peer).any fun t => s.time ≥ t + 20 * us
  let settling := (s.upLinks peer).isEmpty && (s.pair peer).any fun l => (s.linkAt l).settles
  let due := match s.lnk.detours.find? (·.peer == peer) with
    | none => true
    | some d => d.draining || ((s.upLinks d.via).isEmpty && (tget s.lnk.settling d.via).all fun t => s.time ≥ t + 20 * us)
  .next (if settling && waited && due then
      (match s.via peer with
       | some v => s.switchDetour peer v
       | none => s)
    else s)

/-- PEER_UNREACHABLE: no path for 50 ms. -/
def execPeerUnreachable (peer : Nat) (s : State) : Out :=
  let path := !(s.upLinks peer).isEmpty || s.lnk.detours.any fun d => d.peer == peer && !(s.upLinks d.via).isEmpty
  .next (if path || s.lnk.unreachable.contains peer || (tget s.lnk.settling peer).all fun t => s.time < t + 50 * ms then s
    else
      let s := s.setLnk { s.lnk with unreachable := peer :: s.lnk.unreachable }
      if s.dom.rank == s.dom.coord then s else s.sendTo s.dom.coord .peerUnreachable [peer])

/-! Frames. -/

/-- FRAME_TRANSMIT: the module's new frames are handed over, and the direction of the link sends one frame. -/
def execFrameTransmit (l : Fin 96) (inject : List Frame) (s : State) : Out :=
  let s := inject.foldl State.inject s
  .next (if (s.linkAt l).phase == .up then s.chooseFrame l else s)

def execDataFrame (l : Fin 96) (f : Frame) (err : Fin 3) (s : State) : Out :=
  .next (if (s.linkAt l).phase != .up then s
    else if err != 0 then s.loseFrame l (err == 2)
    else s.receiveFrame l f)

/-- LINK carries credits and acknowledgement only. -/
def execLinkFrame (l : Fin 96) (f : Frame) (err : Fin 3) (s : State) : Out :=
  .next (if (s.linkAt l).phase != .up then s
    else if err != 0 then s.loseFrame l (err == 2)
    else s.modLink l fun x => x.takeRiders f)

/-- NAK names the frame expected; everything from it onward is sent again. -/
def execNak (l : Fin 96) (f : Frame) (s : State) : Out :=
  .next (if (s.linkAt l).phase != .up then s
    else s.modLink l fun x => ((x.ack ((f.lack + 65535) % 65536)).addCredits f.creditVc f.credits).resend)

def execReplayTimeout (l : Fin 96) (s : State) : Out :=
  .next (if (s.linkAt l).phase == .up then s.modLink l (·.resend) else s)

def execE2eAck (dst : Nat) (vc : Fin 5) (sseq : Nat) (s : State) : Out :=
  let gone := fun (f : Frame) => f.dst == dst && f.vc == vc.val && f.sseq == sseq
  let s := s.setLnk { s.lnk with detours := s.lnk.detours.map fun (d : Detour) => { d with unacked := d.unacked.filter fun f => !gone f } }
  .next ((s.lnk.detours.filter fun d => d.draining && d.unacked.isEmpty).foldl State.endDetour s)

/-! Messages (R323; 03 R100, R101, R103). -/

/-- The located tile of this module, while it runs the command. -/
def State.located (s : State) (c : CmdRef) (loc : DWord) : Option (Fin 160) :=
  if locRank loc == s.dom.rank && locTile loc < 160 && s.tiles[localTile loc].ctl.cmd == some c then some (localTile loc) else none

/-- PADPUT_MSG: element codes at their offsets from the located pad address. -/
def execPadputMsg (c : CmdRef) (loc : DWord) (width : Nat) (codes : List (Int × Nat)) (ct : Option (Fin 32)) (s : State) : Out :=
  .next (match s.located c loc with
    | none => s
    | some t =>
      let whole := fun (e : Int × Nat) =>
        let (a, _, n) := elemSpan (locPad loc) e.1 width
        0 ≤ a && a + n ≤ paramBase
      let m := codes.foldl (fun m (e, code) => writeCode m (locPad loc) e width code) s.tiles[t].pad
      if !codes.all whole then s
      else
        let s := s.modTile t fun x => x.setPad m
        ct.elim s fun k => s.addCounter t k 1)

/-- PADGET_REQUEST: the codes go back, or the reason why not. -/
def execPadgetRequest (c : CmdRef) (loc : DWord) (dm : BitVec 1024) (origin : Fin 64) (tile : Fin 160) (fence : Fin 64) (s : State) : Out :=
  let reply := fun (code detail : Nat) (bs : List Byte) =>
    s.send ⟨origin, .padgetData, refArgs c ++ [tile.val, fence.val, code, detail], bs⟩
  let d := Desc.ofBits 0 dm
  .next (match s.located c loc, formatOf d.fmtCode with
    | some t, some f =>
      (match sourceCodes ⟨d, f⟩ fun e => padReadCode s.tiles[t].pad ⟨d, f⟩ (locPad loc) e with
       | .ok cs => reply 0 0 (cs.flatMap fun (i, code) => leBytes 4 i ++ leBytes ((f.bits + 7) / 8) code)
       | .error (.fault e) => reply e.code e.detail []
       | .error _ => s)
    | _, _ => reply stAddressFault loc.toNat [])

/-- PADGET_DATA: the requester's pad takes the codes at the walk of DP; the transfer then completes by
DMA_TRANSFER_DONE. -/
def execPadgetData (c : CmdRef) (tile : Fin 160) (fence : Fin 64) (codes : List (Nat × Nat)) (err : Option (Nat × Nat)) (s : State) : Out :=
  let x := s.tiles[tile]
  .next (match x.opOn fence false with
    | none => s
    | some a =>
      if x.ctl.cmd != some c || a.kind != .padget || a.landed.isSome then s
      else
        let settle := fun (y : Tile) (r : Option Exc) =>
          s.setTile tile (y.setOutstanding (y.sync.outstanding.map fun (b : AsyncOp) => if b == a then { b with landed := some r } else b))
        match err, a.walks with
        | some (code, detail), _ => settle x (some ⟨code, detail⟩)
        | none, some (dp, _) =>
          (match padWriteCodes x.pad dp dp.d.base (destCodes dp codes) with
           | .ok m => settle (x.setPad m) none
           | .error (.fault e) => settle x (some e)
           | .error _ => s)
        | none, none => s)

def execCsignalMsg (c : CmdRef) (loc : DWord) (ct : Fin 32) (amount : Word) (s : State) : Out :=
  .next ((s.located c loc).elim s fun t => s.addCounter t ct amount)

/-- MEMORY_WRITE: committed memory of a tenant, a DPA in service, or the mirror of the buddy's gradients
(09 R265). -/
def execMemoryWrite (target : RemoteAddr) (data : List Byte) (s : State) : Out :=
  .next (match target with
    | .tva t a => if (s.mem.unmapped t a data.length).isNone then s.writeCommittedAll t a data else s
    | .dpa a =>
      if (s.dpaTier a).isSome && (s.dpaTier (a + data.length - 1)).isSome then s.setMem (s.mem.put a data) else s
    | .mirror t m off =>
      match s.learnAt t m with
      | some l =>
        (match l.held with
         | some h =>
           let old := h.mirror.getD []
           let new := padTo (max old.length (off + data.length)) old
           s.setLearn t m { l with held := some { h with mirror := some (new.take off ++ data ++ new.drop (off + data.length)) } }
         | none => s)
      | none => s)

/-- The bytes that a remote read takes, with the poisoned granules among them by offset. -/
def State.remoteRead (s : State) (target : RemoteAddr) (len : Nat) : List Byte × List Nat :=
  let at' : Nat → Option Nat := fun i => match target with
    | .tva t a => (s.mem.page t (a + i)).map fun (p : Page) => p.dpa + (a + i) % entryBytes
    | .dpa a => if (s.dpaTier (a + i)).isSome then some (a + i) else none
    | .mirror _ _ _ => none
  match target with
  | .mirror t m off =>
    (((((s.learnAt t m).bind (·.held)).bind (·.mirror)).getD []).drop off |>.take len, [])
  | _ => ((List.range len).map fun i => (at' i).elim 0 fun d => s.mem.cells.read d,
      (List.range len).filter fun i => i % 256 == 0 && (at' i).any fun d => s.mem.isPoisoned d)

def execMemoryReadRequest (target : RemoteAddr) (len : Nat) (origin : Fin 64) (tag : Nat) (s : State) : Out :=
  let (bs, bad) := s.remoteRead target len
  .next (s.send ⟨origin, .memoryReadData, tag :: bad, bs⟩)

/-- MEMORY_READ_DATA: the bytes stand at their address in the peer range, poison marks included (05 R148). -/
def execMemoryReadData (dpa : Nat) (data : List Byte) (poison : List Nat) (s : State) : Out :=
  .next (if s.dpaTier dpa != some .peer then s
    else s.setMem (poison.foldl (fun m off => m.mark (dpa + off)) (s.mem.put dpa data)))

end Sys2Proof.Machine
end

