-- ==== Sys2Proof/Machine/Placement.lean ====
section
/-! DEFINITION. The placement engine's commands and events (06): samples, allocation, hints, reports, leases,
activation policy, rebalance and pool changes. -/

namespace Sys2Proof.Machine

/-! HEAT_SAMPLE (R162, R164, R170, R193). -/

/-- A PLC register write as it takes effect at the start of a sample period. -/
def State.applyPlc (s : State) (off v : Nat) : State :=
  let p := s.place
  if off == 0 then
    s.setPlace { p with sampleMs := max 1 (min 100 (bits v 0 8)), promoteHeat := max 1 (bits v 8 16), minResMs := bits v 24 8 }
  else if off == 4 then s.setPlace { p with neMaxGib := bits v 0 10 }
  else
    let t := (off - 0x1000) / 4
    let cur := p.resv[t]?.getD 0
    let hi := s.reservable / gib - s.resvSum + cur
    let lo := (s.pinnedBytes t + gib - 1) / gib
    let r := max lo (min hi (bits v 0 11))
    s.setPlace { p with resv := Vector.ofFn fun i : Fin 512 => if i.val = t then r else p.resv[i] }

/-- HEAT read and cleared; a prefer-HBM unit counts as at PROMOTE_HEAT (R176). -/
def PlaceState.sample (p : PlaceState) (u : UnitEntry) : UnitEntry :=
  { u with sampled := if u.hint == .preferHbm then p.promoteHeat else u.heat, heat := 0 }

/-- May the unit be promoted at this sample (R170, R176)? -/
def State.promotable (s : State) (k : UnitKey) (u : UnitEntry) : Bool :=
  u.tier == some .bulk && u.source.isNone && u.sampled ≥ s.place.promoteHeat && u.hint != .preferBulk && !s.moving k
    && !s.resident u && (s.hbmUse k.1 + unitBytes ≤ s.resvBytes k.1 || s.headroom ≥ (unitBytes : Int))

/-- A cold candidate gives room: one not used since the previous sample period began and of small heat. -/
def State.coldVictim (s : State) : Option (UnitKey × UnitEntry) :=
  s.victimOf ((s.candidates 0).filter fun (_, u) =>
    u.lastUse < s.place.prevSample / ms && u.sampled * 4 < s.place.promoteHeat)

/-- One promotion; where its room must first be copied out, the eviction begins and a later sample promotes. -/
def State.promote (s : State) (k : UnitKey) : State :=
  let go := fun (s : State) => match s.hbmBlock unitBytes with
    | some a => (s.setPlace { s.place with lastPromoted := k.1 }).migrate k ⟨.hbm, a⟩
    | none => s
  if s.hbmFits unitBytes then go s
  else
    match s.coldVictim.bind fun (v, u) => s.evictUnit v u with
    | some s' => if s'.hbmFits unitBytes then go s' else s'
    | none => s

def State.promotions (s : State) : State :=
  let rr := fun (t : Nat) => (t + 512 - s.place.lastPromoted % 512 - 1) % 512
  let us := s.mem.units.filter fun (k, u) => s.promotable k u
  (sortBy (fun (x : UnitKey × UnitEntry) => ((65536 - x.2.sampled) * 512 + rr x.1.1) * 2 ^ 36 + x.1.2) us).foldl
    (fun s (k, u) => if s.promotable k u then s.promote k else s) s

def execHeatSample (s : State) : Out :=
  let s := (s.place.written.foldl (fun s (o, v) => s.applyPlc o v) s)
  let s := s.setPlace { s.place with written := [], prevSample := s.place.lastSample, lastSample := s.time, lent := s.lent }
  let s := s.setMem { s.mem with units := s.mem.units.map fun (k, u) => (k, s.place.sample u) }
  .next s.promotions

/-! Allocation, free and hints (R166, R174 to R176; 12 R365). -/

def memAllocBody (s : State) (c : Cmd) : CmdRes :=
  let len := c.u 0 8
  if len == 0 then .fail stIllegalOperand 0
  else if len > 2 ^ 54 then .fail stBulkFull 0
  else
    let n := unitsFor len
    let u := s.freeTva c.tenant tenantUnits n
    match State.placeUnits s (unitRange c.tenant u n) (if bit (c.u 8 4) 0 then .bulk else .any) s with
    | .ok s' => .ok s' (u * unitBytes) 0
    | .wait s' => .wait s'
    | .full => .fail stBulkFull 0

def execMemAlloc (c : CmdRef) (s : State) : Out := .next (runCommand 0x100 c memAllocBody s)

/-- A unit range of whole units, all mapped; or the status. -/
def State.unitsAt (s : State) (t tva len : Nat) : Except Nat (List UnitKey) :=
  if tva % unitBytes != 0 || len % unitBytes != 0 then .error stIllegalOperand
  else
    let ks := (List.range (min (len / unitBytes) (s.mem.units.length + 1))).map fun i => (t, tva / unitBytes + i)
    if len / unitBytes ≤ s.mem.units.length && ks.all fun k => (s.mem.unit k).isSome then .ok ks else .error stAddressFault

def memFreeBody (s : State) (c : Cmd) : CmdRes :=
  match s.unitsAt c.tenant (c.u 0 8) (c.u 8 8) with
  | .error e => .fail e (if e == stAddressFault then c.u 0 8 else 0)
  | .ok ks => .ok (ks.foldl State.unmapUnit s) 0 0

def execMemFree (c : CmdRef) (s : State) : Out := .next (runCommand 0x101 c memFreeBody s)

def hintOf : Nat → Hint
  | 1 => .pin | 2 => .preferHbm | 3 => .preferBulk | 4 => .neverEvict | _ => .none

/-- Units whose hints are ignored: entries in bonded SRAM or peer memory (R175). -/
def UnitEntry.ignoresHints (u : UnitEntry) : Bool :=
  u.backing.entries.any fun p => p.tier == .bsram || p.tier == .peer

/-- Every bulk unit of a pinned range begins to move to HBM; evictions make room as for a guaranteed request. -/
def State.bringIn (s : State) (ks : List UnitKey) : Option State :=
  ks.foldlM (fun (s : State) (k : UnitKey) =>
    match s.mem.unit k with
    | none => some s
    | some u =>
      if u.ignoresHints || u.bulkBytes == 0 || s.moving k then some s
      else
        match (if s.hbmFits unitBytes then s.hbmBlock unitBytes else none) with
        | some a => some (s.migrate k ⟨.hbm, a⟩)
        | none => State.evictFor s.mem.units s unitBytes) s

/-- Is every unit of the range in HBM? -/
def State.broughtIn (s : State) (ks : List UnitKey) : Bool :=
  ks.all fun k => (s.mem.unit k).all fun u => u.ignoresHints || (u.bulkBytes == 0 && !s.moving k)

/-- The DMA time of a move between HBM and bulk, charged to a hinting tenant: 35 µs a unit (R173). -/
def State.chargeDma (s : State) (c : Cmd) (us : Nat) : State :=
  (s.modTnt c.tenant fun x => { x with acctDma := x.acctDma + us }).modCmd c.ref fun k => { k with
    engineUs := k.engineUs + us, runUs := (k.runUs.1, k.runUs.2.1, k.runUs.2.2 + us) }

def memHintBody (s : State) (c : Cmd) : CmdRes :=
  let kind := c.u 0x10 1
  let tva := c.u 0 8
  if kind > 4 || tva / 2 ^ 57 != 0 || c.u 8 8 == 0 then .fail stIllegalOperand 0
  else
    match s.unitsAt c.tenant tva (c.u 8 8) with
    | .error e => .fail e (if e == stAddressFault then tva else 0)
    | .ok ks =>
      let ignored := (ks.filter fun k => (s.mem.unit k).any UnitEntry.ignoresHints).length
      let apply := fun (s : State) => ks.foldl (fun s k => s.modUnit k fun u => if u.ignoresHints then u else { u with hint := hintOf kind }) s
      if kind != 1 then .ok (apply s) ignored 0
      else
        let others := (s.pinnedUnits c.tenant).filter fun k => !ks.contains k
        let want := (ks.length - ignored + others.length) * unitBytes
        if want > s.resvBytes c.tenant then .fail stPinLimit (s.resvBytes c.tenant - s.pinnedBytes c.tenant)
        else if s.broughtIn ks then .ok (apply s) ignored 0
        else
          match s.bringIn ks with
          | none => .fail stBulkFull 0
          | some s' =>
            let begun := s'.mem.migrations.length - s.mem.migrations.length
            .wait (s'.chargeDma c (35 * begun))

def execMemHint (c : CmdRef) (s : State) : Out := .next (runCommand 0x102 c memHintBody s)

/-! PLACE_REPORT (R191). -/

def Backing.tierCode (b : Backing) : Nat :=
  let es := b.entries
  match es.head? with
  | none => 0
  | some p =>
    if es.any (·.tier != p.tier) then 5
    else match p.tier with
      | .hbm => 1 | .bulk => 2 | .bsram => 3 | .peer => 4

def State.tierByte (s : State) (k : UnitKey) : Byte :=
  match s.mem.unit k with
  | none => 0
  | some u => BitVec.ofNat 8 (u.backing.tierCode + if u.hint == .pin then 128 else 0)

/-- Key-value bytes of a tenant's prefix nodes on cache modules. -/
def State.peerBytes (s : State) (t : Nat) : Nat :=
  (s.gen.nodes.filter fun n => n.tenant == t && (s.tp t).pools.cachePool.contains n.cache).foldl (fun a n => a + n.pages.length * entryBytes) 0

def State.leaseOf (s : State) (t : Nat) : Lease := tgetD s.place.leases t ⟨.none, 0, 0, [], [], false, none, [], []⟩

def State.placeReport (s : State) (t q n : Nat) : List Byte :=
  let us := s.mem.units.filter (·.1.1 == t)
  let p := s.tp t
  let l := s.leaseOf t
  fields [(8, s.hbmUse t), (8, us.foldl (fun a (_, u) => a + u.bulkBytes) 0), (8, s.peerBytes t),
    (8, if l.state == .none then 0 else l.units.length * unitBytes), (8, s.resvBytes t), (8, s.pinnedBytes t),
    (8, (s.neverEvict t).length * unitBytes), (8, p.evicted), (8, p.promoted),
    (2, (s.poolsOf t).prefillPool.length), (2, (s.poolsOf t).decodePool.length + (s.poolsOf t).scorePool.length),
    (2, (s.poolsOf t).cachePool.length), (2, (s.poolsOf t).learnPool.length),
    (4, l.state.code), (4, if l.state == .none then 0 else l.version), (8, p.lastRebalance), (8, n)]
    ++ (List.range n).map fun i => s.tierByte (t, q / unitBytes + i)

def placeReportBody (s : State) (c : Cmd) : CmdRes :=
  let out := c.u 0 8
  let q := c.u 8 8
  let n := c.u 0x10 4
  if out % 8 != 0 || q % unitBytes != 0 || q / 2 ^ 57 != 0 || n > 65536 then .fail stIllegalOperand 0
  else
    match s.output c out (s.placeReport c.tenant q n) with
    | .ok s' => .ok s' 0 0
    | .error e => CmdRes.ofErr s e

def execPlaceReport (c : CmdRef) (s : State) : Out := .next (runCommand 0x103 c placeReportBody s)

/-! Foil leases (R177 to R181). -/

def State.setLease (s : State) (t : Nat) (l : Lease) : State := s.setPlace { s.place with leases := tset s.place.leases t l }

def State.leaseEvent (s : State) (t : Nat) (st : LeaseState) (v cause : Nat) : State :=
  let n := (s.tp t).pools.decodePool.length
  s.placeEvent t 0x0103 1 st.code 0 n n 0 v cause

/-- A lease's share on this module, in bytes. -/
def State.leaseShare (s : State) (t : Nat) (x : Model) : Nat :=
  match (s.tp t).groups.findSome? fun g => g.findIdx? (· == s.dom.rank) with
  | some i => x.shareBytes i
  | none => x.shareBytes 0

/-- Free lease units in service: 179 of each die, on dies 0 to 3 in order. -/
def State.freeLeaseUnits (s : State) : List (Nat × Nat) :=
  let used := s.place.leases.flatMap fun (_, l) => l.units
  ((List.range 4).flatMap fun d => (List.range leaseUnits).map fun i => (d, i)).filter fun u =>
    !s.mem.leaseBad.contains u && !used.contains u

/-- The units of the layout's parts on this module, in order. -/
def GenLayout.unitsOf (l : GenLayout) : List Nat :=
  ((l.parts.flatMap fun p => [p.elemTva / unitBytes, p.scaleTva / unitBytes]).filter (· != 0)).eraseDups

/-- All units that a share covers. -/
def State.layoutUnits (s : State) (t : Nat) (x : Model) (l : GenLayout) : List Nat :=
  let i := (l.parts.head?).elim 0 (·.part)
  if l.mapTva == 0 then l.unitsOf
  else ((unitRange t (l.mapTva / unitBytes) (unitsFor (x.shareBytes i))).map (·.2)).filter fun u => (s.mem.unit (t, u)).isSome

/-- The layout begins to stream into free lease units as staging. -/
def State.beginLease (s : State) (t m v : Nat) (st : LeaseState) (waits : List CmdRef) : State :=
  match (s.modelAt t m).bind fun x => (x.layout v).map fun l => (x, l) with
  | none => s
  | some (x, l) =>
    let us := s.layoutUnits t x l
    (s.setLease t ⟨st, m, v, s.freeLeaseUnits.take us.length, us, false, none, waits, []⟩).leaseEvent t st v 0

/-- Lease units unmapped so that reads resolve to the source. -/
def State.unmapLease (s : State) (t : Nat) (l : Lease) : State :=
  l.sources.foldl (fun s k => s.modUnit (t, k) fun u =>
    match u.source with
    | some b => { u with backing := b, source := none }
    | none => u) (l.sources.foldl (fun s k => s.setMem (s.mem.dropTlb (t, k))) s)

/-- The lease ends: NONE, its version reference dropped, and the commands that wait for it completed. A grant
or switch that had not reached ACTIVE completes OK with DETAIL 0. -/
def State.endLease (s : State) (t : Nat) (l : Lease) (cause : Nat) : State :=
  let s := (s.unmapLease t l).setPlace { (s.unmapLease t l).place with leases := tdel s.place.leases t }
  let s := s.leaseEvent t .none l.version cause
  let s := (l.waitActive ++ l.waitNone).foldl (fun s c => s.vote c 0 0 []) s
  s.refDropped t

/-- Grant or switch admission (R177): a status, or nothing against it. -/
def State.leaseRefusal (s : State) (t m sel : Nat) : Except Nat Nat :=
  match s.modelAt t m with
  | none => .error stModelUnknown
  | some x =>
    let v := if sel == 0 then x.published.getD 0 else sel
    if sel == 0 && x.published.isNone then .error stModelUnknown
    else if !x.hasLayout v then .error stVersionReleased
    else if s.phaseOf t != .generate then .error 0x300
    else if s.place.leases.any fun (k, l) => k != t && l.state != .none then .error stFoilBusy
    else
      let own := ((s.leaseOf t).units.filter fun u => !s.mem.leaseBad.contains u).length
      let share := s.leaseShare t x
      if share > 1500000000 || ((x.layout v).elim 0 fun l => (s.layoutUnits t x l).length) > s.freeLeaseUnits.length + own then .error stFoilTooLarge
      else .ok v

def foilLeaseBody (s : State) (c : Cmd) : CmdRes :=
  let t := c.tenant
  let m := c.u 0 4
  let op := c.u 4 1
  let l := s.leaseOf t
  if op > 1 || c.u 5 3 != 0 || c.u 0xC 4 != 0 then .fail stIllegalOperand 0
  else if op == 1 then
    match l.state with
    | .none => .ok s 0 0
    | .loading | .switching => .ok (s.endLease t l 0) 0 0
    | .active => .wait ((s.setLease t { l with state := .releasing, waitNone := c.ref :: l.waitNone }).leaseEvent t .releasing l.version 0)
    | .releasing => .wait (s.setLease t { l with waitNone := if l.waitNone.contains c.ref then l.waitNone else c.ref :: l.waitNone })
  else
    match s.leaseRefusal t m (c.u 8 4) with
    | .error e => .fail e 0
    | .ok v =>
      match l.state with
      | .none => .wait (s.beginLease t m v .loading [c.ref])
      | .releasing => .wait s
      | _ =>
        if l.model == m && l.version == v && l.switchTo.isNone then
          (if l.state == .active then .ok s v 0
           else .wait (s.setLease t { l with waitActive := if l.waitActive.contains c.ref then l.waitActive else c.ref :: l.waitActive }))
        -- a switch is granted to an ACTIVE lease; before that it waits
        else if l.state == .active && l.switchTo.isNone then .wait (s.setLease t { l with switchTo := some (m, v), waitActive := [c.ref] })
        else .wait s

def execFoilLease (c : CmdRef) (s : State) : Out := .next (runCommand 0x104 c foilLeaseBody s)

def leaseAddr (u : Nat × Nat) : Nat := bsramBase + u.1 * bsramSpan + u.2 * unitBytes

/-- A carrying copy of every unit of the layout into the lease units. -/
def State.streamLease (s : State) (t : Nat) (l : Lease) : State :=
  let m := (l.units.zip l.sources).foldl (fun (m : MemState) (u, k) =>
    match m.unit (t, k) with
    | some e => (List.range 32).foldl (fun m i => m.carry (e.backing.entry i).dpa (leaseAddr u + i * entryBytes) entryBytes) m
    | none => m) s.mem
  (s.setMem m).setLease t { l with streamed := true }

/-- Mappings swap to bonded SRAM: the lease is ACTIVE and the commands that wait for it complete. -/
def State.activateLease (s : State) (t : Nat) (l : Lease) : State :=
  let s := (l.units.zip l.sources).foldl (fun s (u, k) =>
    (s.setMem (s.mem.dropTlb (t, k))).modUnit (t, k) fun e =>
      { e with source := some e.backing, backing := .whole ⟨.bsram, leaseAddr u⟩ }) s
  let s := s.setLease t { l with state := .active, streamed := false, waitActive := [] }
  let s := s.leaseEvent t .active l.version 0
  l.waitActive.foldl (fun s c => s.vote c l.version 0 []) s

/-- LEASE_STREAM_DONE (R178, R179). -/
def execLeaseStreamDone (tenant : Fin 512) (s : State) : Out :=
  let l := s.leaseOf tenant
  .next (if l.streamed || !(l.state == .loading || l.state == .switching) then s else s.streamLease tenant l)

/-- LEASE_SWAP at the decode step boundary: mappings swap to bonded SRAM and the lease is ACTIVE. An ACTIVE
lease with a granted switch unmaps its units and begins to stream the new layout. -/
def execLeaseSwap (tenant : Fin 512) (s : State) : Out :=
  let l := s.leaseOf tenant
  .next (match l.state, l.switchTo with
    | .loading, none | .switching, none =>
      if !l.streamed then s else s.activateLease tenant l
    | .active, some (m, v) =>
      let s := (s.unmapLease tenant l).setLease tenant { l with units := [] }
      (s.beginLease tenant m v .switching l.waitActive).refDropped tenant
    | _, _ => s)

/-- LEASE_RELEASE at the step boundary: of a RELEASING lease, or of an ACTIVE one whose lease area was reduced. -/
def execLeaseRelease (tenant : Fin 512) (s : State) : Out :=
  let l := s.leaseOf tenant
  .next (match l.state with
    | .releasing => s.endLease tenant l 0
    | .active => if l.units.any s.mem.leaseBad.contains then s.endLease tenant l 2 else s
    | _ => s)

/-! Activation policy (R182). -/

/-- Runnable tenants' DMA shares: the tenant's part of bulk bandwidth, in bytes per µs; ≈0.48 TB/s in all. -/
def State.bulkRate (s : State) (t : Nat) : Nat :=
  let run := s.holders.filter fun k => k == t || s.cmd.cmds.any fun c => c.ref.fn.val == k + 1 && c.phase == .started
  let total := run.foldl (fun a k => a + (s.tntOf k).shareDma) 0
  480000 * (s.tntOf t).shareDma / max total 1

/-- The choices of the AUTO tensors: (index, choice). -/
def actChoices (budget rate : Nat) (kept : Nat) : List (Nat × SavedTensor) → List (Nat × ActChoice)
  | [] => []
  | (i, x) :: xs =>
    if kept ≤ budget then (i, .keep) :: xs.map fun (j, _) => (j, .keep)
    else
      let c := if x.recomputeNs * rate ≤ 2 * x.bytes * 1000 then ActChoice.recompute else .offload
      (i, c) :: actChoices budget rate (kept - x.bytes) xs

/-- A choice that lowers the need takes effect at once; one that raises it, at the third boundary in a row. -/
def SavedTensor.take (x : SavedTensor) (c : ActChoice) : SavedTensor :=
  if c == x.choice then { x with candidate := none }
  else if c != .keep then { x with choice := c, candidate := none }
  else
    let n := match x.candidate with
      | some (d, n) => if d == c then n + 1 else 1
      | none => 1
    if n ≥ 3 then { x with choice := c, candidate := none } else { x with candidate := some (c, n) }

/-- ACT_POLICY at a learning step boundary; `measured` gives each saved tensor's bytes and recompute ns. -/
def execActPolicy (tenant : Fin 512) (measured : List (Nat × Nat)) (s : State) : Out :=
  let t := tenant.val
  let xs := (s.tp t).saved.zipIdx.map fun (x, i) => match measured[i]? with
    | some (b, r) => { x with bytes := b, recomputeNs := r }
    | none => x
  let held := xs.foldl (fun a x => a + if x.choice == .keep then x.bytes else 0) 0
  let budget := (s.resvBytes t - (s.hbmUse t - held)) + min s.hbmFree s.headroom.toNat
  let kept := xs.foldl (fun a x => a + if x.auto || x.choice == .keep then x.bytes else 0) 0
  -- ascending recompute time per byte, then declaration order
  let autos := sortBy (fun (y : Nat × SavedTensor) => y.2.recomputeNs * 2 ^ 40 / max y.2.bytes 1) ((xs.zipIdx.filter fun (x, _) => x.auto).map fun (x, i) => (i, x))
  let cs := actChoices budget (s.bulkRate t) kept autos
  let ys := xs.zipIdx.map fun (x, i) => match tget cs i with
    | some c => x.take c
    | none => x
  let s' := s.modTp t fun p => { p with saved := ys }
  .next ([ActChoice.keep, .offload, .recompute].foldl (fun s c =>
    let n := ((xs.zip ys).filter fun (x, y) => x.choice != y.choice && y.choice == c).length
    if n == 0 then s else s.placeEvent t 0x0104 4 c.code n 0 0 0 0 0) s')

/-! Pools and rebalance (R184 to R190). -/

/-- Collective groups of all tenants that a rank holds (11 R336). -/
def State.groupsHeld (s : State) (rank : Nat) : Nat := (s.coll.groups.filter fun g => g.partitions.any (·.contains (s.addrOf rank))).length

/-- Would a move between pools give a module more than 256 groups (11 R338)? -/
def State.overGroups (s : State) (t : Nat) (rs : List Nat) (src dst : PoolId) : Bool :=
  let shared := fun (p : PoolId) (r : Nat) => (s.coll.groups.filter fun g => g.tenant == t && g.pool == p.code
    && (p == dst || g.partitions.any (·.contains (s.addrOf r)))).length
  rs.any fun r => s.groupsHeld r + shared dst r > 256 + shared src r

/-- A move that does not take place. -/
def State.moveBlocked (s : State) (t : Nat) (p : PoolId) (ratio : Word) : State :=
  let n := ((s.tp t).pools.get p).length
  s.placeEvent t 0x0102 p.code 0 0 n n ratio 0 0

/-- Modules leave one pool: they belong to no pool until they join the other (R190). -/
def State.leavePool (s : State) (t : Nat) (rs : List Nat) (src dst : PoolId) : State :=
  let keep := fun (l : List Nat) => l.filter fun r => !rs.contains r
  let s := s.modTp t fun x => { x with joining := x.joining ++ rs.map fun r => (r, dst), lastRebalance := s.time }
  match src with
  | .dec => s.setDecode t (keep (s.tp t).pools.decodePool)
  | .pre => s.setPrefill t (keep (s.tp t).pools.prefillPool)
  | p => s.modTp t fun x => { x with pools := x.pools.put p (keep (x.pools.get p)) }

/-- The order in which modules leave a pool (R187). -/
def State.leavingOrder (s : State) (t : Nat) (w : Nat) (pool : List Nat) (groups : List (List Nat)) : List Nat :=
  let loose := pool.filter fun r => !groups.flatten.contains r
  loose.reverse ++ (sortBy (fun (g : List Nat) => s.liveAt t g * 64 + (63 - g.headD 0)) groups).flatMap List.reverse
    |>.take (pool.length - min pool.length w)

/-- A ratio as FP32. -/
def ratio32 (n d : Nat) : Word := if d == 0 then 0 else BitVec.ofNat 32 (fp32.roundMag .rne false 0 false n d).code

/-- The rebalance event of a pool's change. -/
def State.rebalanced (s : State) (t : Nat) (p : PoolId) (n before after : Nat) (ratio : Word) : State :=
  s.placeEvent t 0x0101 p.code 0 n before after ratio 0 0

def roundHalf (n d : Nat) : Nat := if d == 0 then 0 else (2 * n + d) / (2 * d)

/-- Minimum of a pool: its configured field, and the attention width (R187). -/
def State.poolMin (s : State) (t : Nat) : PoolId → Nat
  | .pre => max (s.cfg t 0x030A) (s.tp t).width
  | .dec => max (s.cfg t 0x030B) (s.tp t).width
  | .cache => s.cfg t 0x030C
  | _ => 0

/-- The move that the measured times call for: ranks, from, to. -/
def State.rebalanceTarget (s : State) (t tPre tDec : Nat) : Option (List Nat × PoolId × PoolId) :=
  let p := (s.tp t).pools
  let nPre := p.prefillPool.length
  let nDec := p.decodePool.length
  let n := nPre + nDec
  let target := roundHalf (n * (tPre * nPre)) (tPre * nPre + tDec * nDec)
  let target := max (s.poolMin t .pre) (min (n - s.poolMin t .dec) target)
  let most := (n + 7) / 8
  if target > nPre then
    some (((s.leavingOrder t (s.tp t).width p.decodePool (s.tp t).groups).take (min most (target - nPre))), .dec, .pre)
  else if target < nPre then
    some (((s.leavingOrder t (s.tp t).width p.prefillPool (poolGroups (s.tp t).width p.prefillPool)).take (min most (nPre - target))), .pre, .dec)
  else none

/-- REBALANCE at a decode step boundary: the move due is applied, then the times measured since the last
boundary are counted. -/
def execRebalance (tenant : Fin 512) (tPre tDec : Nat) (s : State) : Out :=
  let t := tenant.val
  let r := ratio32 (max tPre tDec) (min tPre tDec)
  let leased := (s.leaseOf t).state != .none
  -- the move that fell due before
  let s := match (s.tp t).moveDue with
    | none => s
    | some (rs, a, b) =>
      if leased || s.overGroups t rs a b then (s.modTp t fun x => { x with moveDue := none }).moveBlocked t (if leased then .dec else b) r
      else
      let before := (s.tp t).pools
      let s := (s.modTp t fun x => { x with moveDue := none, imbalance := 0 }).leavePool t rs a b
      (s.rebalanced t a rs.length (before.get a).length ((s.tp t).pools.get a).length r).rebalanced t b rs.length
        (before.get b).length ((s.tp t).pools.get b).length r
  if s.phaseOf t != .generate then .next s
  else
    let c := if tPre > 0 && tDec > 0 && 4 * max tPre tDec > 5 * min tPre tDec then (s.tp t).imbalance + 1 else 0
    let s := s.modTp t fun x => { x with imbalance := c }
    .next (if c < 3 then s
      else
        match s.rebalanceTarget t tPre tDec with
        | some (rs, a, b) =>
          if leased || rs.isEmpty then
            (s.modTp t fun x => { x with imbalance := 0 }).moveBlocked t .dec r
          else s.modTp t fun x => { x with moveDue := some (rs, a, b), imbalance := 0 }
        | none => s.modTp t fun x => { x with imbalance := 0 })

/-- CACHE_POOL_RESIZE (R188): use and room of the cache pool in bytes, and the pools' times. -/
def execCachePoolResize (tenant : Fin 512) (used avail tPre tDec : Nat) (s : State) : Out :=
  let t := tenant.val
  let x := s.tp t
  .next (if s.phaseOf t != .generate || x.moveDue.isSome then s
    else
      let high := if used * 10 > avail * 9 then x.cacheHigh + 1 else 0
      let low := if used * 2 < avail then x.cacheLow + 1 else 0
      let s := s.modTp t fun x => { x with cacheHigh := high, cacheLow := low }
      let leased := (s.leaseOf t).state != .none
      let move := fun (s : State) (rs : List Nat) (a b : PoolId) =>
        if rs.isEmpty then s
        else if s.overGroups t rs a b then s.moveBlocked t b (ratio32 used avail)
        else
          let before := (s.tp t).pools
          let s := (s.modTp t fun x => { x with cacheHigh := 0, cacheLow := 0 }).leavePool t rs a b
          (s.rebalanced t a 1 (before.get a).length ((s.tp t).pools.get a).length (ratio32 used avail)).rebalanced t b 1
            (before.get b).length ((s.tp t).pools.get b).length (ratio32 used avail)
      let w := x.width
      if high ≥ 3 then
        -- the pool with the lower time gives, prefill on a tie; decode not while it holds a lease
        let giver := if tPre ≤ tDec || leased then PoolId.pre else .dec
        let pool := x.pools.get giver
        let groups := if giver == .dec then x.groups else poolGroups w pool
        if pool.length ≤ s.poolMin t giver then s else move s ((s.leavingOrder t w pool groups).take 1) giver .cache
      else if low ≥ 3 && x.pools.cachePool.length > s.poolMin t .cache then
        let taker := if tPre ≥ tDec || leased then PoolId.pre else .dec
        move s (x.pools.cachePool.reverse.take 1) .cache taker
      else s)

/-- STAGE_REBALANCE (R189): the busy time of each stage; the slowest gives a boundary layer to the neighbour
with the lower time, a tie going to the later stage. -/
def execStageRebalance (tenant : Fin 512) (times : List Nat) (s : State) : Out :=
  let t := tenant.val
  let x := s.tp t
  .next (if times.length != x.stages.length || times.length < 2 then s
    else
      let hi := times.foldl max 0
      let lo := times.foldl min hi
      let c := if 4 * hi > 5 * lo then x.stageCount + 1 else 0
      if c < 3 then s.modTp t fun x => { x with stageCount := c }
      else
        let i := times.findIdx (· == hi)
        let left := if i == 0 then none else times[i - 1]?
        let right := times[i + 1]?
        let j := match left, right with
          | some a, some b => if a < b then i - 1 else i + 1
          | some _, none => i - 1
          | _, _ => i + 1
        let n := x.stages.getD i 0
        if n ≤ 1 then s.modTp t fun x => { x with stageCount := 0 }
        else
          let st := (x.stages.set i (n - 1)).set j (x.stages.getD j 0 + 1)
          -- layer index at the boundary that moves
          let layer := if j < i then (x.stages.take i).foldl (· + ·) 0 else (x.stages.take (i + 1)).foldl (· + ·) 0 - 1
          (s.modTp t fun x => { x with stages := st, stageCount := 0, lastRebalance := s.time }).placeEvent t 0x0101 4 0 layer n (n - 1)
            (ratio32 hi lo) 0 0)

/-- POOL_JOIN (R190): at the pool's step boundary after its share is in place, the module joins. -/
def execPoolJoin (tenant : Fin 512) (rank : Fin 64) (s : State) : Out :=
  let t := tenant.val
  .next (match (s.tp t).joining.find? (·.1 == rank.val) with
    | none => s
    | some (_, p) =>
      let s := s.modTp t fun x => { x with joining := x.joining.filter (·.1 != rank.val) }
      let l := rankInsert rank ((s.tp t).pools.get p)
      match p with
      | .dec => s.setDecode t l
      | .pre => s.setPrefill t l
      | p => s.modTp t fun x => { x with pools := x.pools.put p l })

end Sys2Proof.Machine
end

