-- ==== Sys2Proof/Machine/TurnOps.lean ====
section
/-! DEFINITION. Operations of turns (10): models, the first split, conversion of parts, publication, and the
policies for requests in flight. -/

namespace Sys2Proof.Machine

/-! Models (R284 to R288). -/

/-- Fields of MODEL_CREATE in their ranges (R284, 07 R194). -/
def createOk (p : List Byte) : Bool :=
  let f := fun (o n : Nat) => field o n p
  let learnable := f 4 1 == 0
  let w := f 0x14 2
  let kvh := f 0x16 2
  f 0 4 != 0 && f 0 4 != 0xFFFFFFFF && f 4 1 ≤ 1 && (!learnable || (f 5 1 ≤ 1 && f 7 1 ≤ 1)) && f 6 1 ≤ 1
    && 1 ≤ f 0x10 4 && f 0x10 4 ≤ 1048576 && 1 ≤ w && w ≤ 64 && 1 ≤ kvh && kvh ≤ 1024 && f 0x18 1 ≤ 1
    && (f 0x18 1 == 0 || kvh == 1) && [1, 2, 5].contains (f 0x19 1) && (if kvh ≥ w then kvh % w == 0 else w % kvh == 0)
    && 1 ≤ f 0x22 2 && f 0x22 2 ≤ 4096 && 2 ≤ f 0x24 4 && f 0x24 4 ≤ 2 ^ 24 && 1 ≤ f 0x28 4 && f 0x28 4 ≤ 2 ^ 24

/-- A tensor table entry (R286). -/
def tensorOf (bs : List Byte) : TensorDef :=
  ⟨field 0 4 bs, field 4 4 bs, field 8 1 bs == 1, field 9 1 bs, field 0xA 1 bs, field 0xC 2 bs, field 0xE 2 bs⟩

def tensorOk (w : Nat) (bs : List Byte) : Bool :=
  let x := tensorOf bs
  field 8 1 bs ≤ 1 && [0x1, 0x5, 0x6, 0x9, 0xB].contains x.genFmt && (!x.vector || x.genFmt == 1) && x.split ≤ 3
    && (if x.split == 3 then x.expert ≤ 65534 else x.expert == 0xFFFF)
    && (x.split != 2 || (x.rowLen % w == 0 && x.rowLen / w % 64 == 0))

def tableEntries (n : Nat) (bs : List Byte) : List (List Byte) := (List.range n).map fun i => (bs.drop (32 * i)).take 32

/-- The model that the parameters, the table and the images describe, without its learning layout. -/
def modelOf (p table : List Byte) (images : List (Option (List Byte))) : Model :=
  let f := fun (o n : Nat) => field o n p
  { learnable := f 4 1 == 0, compact := f 5 1 == 1, convSr := f 6 1 == 1, fromMaster := f 7 1 == 1, convSeed := BitVec.ofNat 64 (f 8 8)
    tensors := (tableEntries (f 0x10 4) table).map tensorOf, w := f 0x14 2, kvh := f 0x16 2, latent := f 0x18 1 == 1, kvFmt := f 0x19 1
    dk := f 0x1A 2, dv := f 0x1C 2, dc := f 0x1E 2, dr := f 0x20 2, layers := f 0x22 2, maxContext := f 0x24 4, vocab := f 0x28 4
    images := images, learn := none, highest := 0, published := none, layouts := [], deleted := false }

/-- The key-value layout is supported (07 R202). -/
def Model.kvOk (m : Model) : Bool :=
  (m.kvFmt != 5 || (if m.latent then m.dc % 32 == 0 && m.dr % 32 == 0 else m.dk % 32 == 0 && m.dv % 32 == 0)) && m.posBytes ≤ 4096

def Model.params (m : Model) : Nat := m.tensors.foldl (fun a x => a + x.rows * x.rowLen) 0

/-- A learning side with no step open. -/
def Learn.start (members : List Nat) (tableTva : Nat) (shards : List ShardPlace) : Learn where
  version := 0
  members := members
  tableTva := tableTva
  step := 1
  phase := .idle
  planned := 0
  sum := 0
  micros := 0
  kept := []
  setup := none
  prepared := none
  shards := shards
  tags := []
  undo := []
  go := none
  stopped := false
  swept := false
  undoRedos := 0
  blocksSkipped := 0
  sweepStart := 0
  partials := []
  unattributed := 0
  mirrorDone := false
  ckptVersion := none
  held := none
  noise := none
  noiseValid := false
  hint := 0
  hintRun := 0
  update := none
  takeovers := []
  rerunAt := none
  failedRerun := none
  noSpare := false

/-- The model with its learning layout on this module, zeroed; or the status that refuses it (R285). -/
def State.addModel (s : State) (t mid : Nat) (m : Model) : Except Nat State :=
  if !m.learnable then .ok (s.setModel t mid m)
  else
    let members := s.allocRanks t
    if !members.contains s.dom.rank then .ok (s.setModel t mid { m with learn := some (Learn.start members 0 []) })
    else
      match (s.allocShards t m members.length).bind fun (ps, s) => (s.deviceAlloc t m.tableBytes .any).map fun (tv, s) => (ps, tv, s) with
      | some (ps, tv, s) => .ok (s.setModel t mid { m with learn := some (Learn.start members tv ps) })
      | none => .error stBulkCapacity

/-- Every check of R285 but the images'. -/
def createRefusal (p table : List Byte) : Option Nat :=
  let m := modelOf p table []
  if !createOk p || !((tableEntries (field 0x10 4 p) table).all (tensorOk m.w)) || m.params ≥ 2 ^ 56 then some stIllegalOperand
  else if !m.kvOk then some stKvLayoutUnsupported
  else none

/-! The first split (06 R184, 07 R230). -/

/-- Sizes of the prefill, decode and cache pools of n modules, from INIT_PREFILL and INIT_CACHE. -/
def splitSizes (n w initPre initCache : Nat) : Nat × Nat × Nat :=
  let pre := min initPre (n - w)
  let cache := min initCache (n - w - pre)
  let pre' := if pre == 0 || pre ≥ w then pre else if n - cache ≥ 2 * w then w else 0
  (pre', n - pre' - cache, cache)

/-- The tenant's modules in ascending rank: prefill, then decode, then cache. -/
def State.firstSplit (s : State) (t w : Nat) : List Nat × List Nat × List Nat :=
  let rs := s.allocRanks t
  let (a, b, _) := splitSizes rs.length w (s.cfg t 0x0308) (s.cfg t 0x0309)
  (rs.take a, (rs.drop a).take b, rs.drop (a + b))

/-! Freeze (R298 to R301). -/

/-- The groups that receive parts. -/
def State.freezeGroups (s : State) (p : FreezePlan) : List (List Nat) :=
  poolGroups p.width p.prefillPool ++
    (if p.fromLearn || p.width != (s.tp p.tenant).width then poolGroups p.width p.decodePool else (s.tp p.tenant).groups)

def State.receivers (s : State) (p : FreezePlan) : List Nat := (s.freezeGroups p).flatten.eraseDups

def State.partIndex (s : State) (p : FreezePlan) (rank : Nat) : Option Nat := (s.freezeGroups p).findSome? fun g => g.findIdx? (· == rank)

/-- Global rows of unit u (128 rows) of the shard of member index j that exist. -/
def unitRows (n rows j u : Nat) : List (Nat × Nat) :=
  let sh := shardRows n rows
  ((List.range (min 128 (sh - 128 * u))).map fun i => (128 * u + i, globalRow n j (128 * u + i))).filter fun (_, r) => r < rows

/-- Where member i of W holds a row of a tensor: its row in the part; none where it does not. -/
def TensorDef.heldRow (x : TensorDef) (w i r : Nat) : Option Nat :=
  match x.split with
  | 1 => let h := (x.rows + w - 1) / w; if i * h ≤ r && r < i * h + h then some (r - i * h) else none
  | 3 => if x.expert % w == i then some r else none
  | _ => some r

/-- Columns that member i holds of each row: first and count. -/
def TensorDef.cols (x : TensorDef) (w i : Nat) : Nat × Nat := if x.split == 2 then (i * (x.rowLen / w), x.rowLen / w) else (0, x.rowLen)

/-- Bytes of one stored row: elements, and scales. -/
def TensorDef.rowBytes (x : TensorDef) (w i : Nat) : Nat × Nat := (x.elemBytes 1 (x.cols w i).2, x.scaleBytes 1 (x.cols w i).2)

/-- The units of member index j that hold rows of member i's part. -/
def Model.partUnits (m : Model) (n i k j : Nat) : List Nat :=
  (m.tensors[k]?).elim [] fun x =>
    (List.range ((shardRows n x.rows + 127) / 128)).filter fun u => (unitRows n x.rows j u).any fun (_, r) => (x.heldRow m.w i r).isSome

/-- Everything that member i is to receive: (tensor, source rank, unit). -/
def Model.expectedParts (m : Model) (l : Learn) (i : Nat) : List (Nat × Nat × Nat) :=
  (List.range m.tensors.length).flatMap fun k => (l.members.zipIdx).flatMap fun (r, j) => (m.partUnits l.n i k j).map fun u => (k, r, u)

/-! Conversion of a row (R299). -/

/-- Codes laid in bytes, the first in the lowest bits. -/
def packCodes (bits n : Nat) (cs : List Nat) : List Byte := leBytes n (cs.foldr (fun c a => c + a * 2 ^ bits) 0)

/-- Element codes and scale codes of a run of values along a row. -/
def convertRow (fmt : Nat) (t : Word) (xs : List Src) : List Nat × List Nat :=
  match formatOf fmt with
  | none => ([], [])
  | some f =>
    match f.scale with
    | .mx =>
      let bs := (chunks 32 xs.length xs).map (mxBlock f.elem true)
      (bs.flatMap (·.codes), bs.map (·.x))
    | .bfp4 =>
      let bs := (chunks 32 xs.length xs).map (bfp4Block t)
      (bs.flatMap (·.codes), bs.map (·.x))
    | _ => (xs.map fun s => (f.elem.encode s.mode false s.r s.val).code, [])

/-- The source value of an element of this member's shard: its BF16 weight, or its master. -/
def State.sourceValue (s : State) (t : Nat) (m : Model) (n k : Nat) (p : ShardPlace) (e : Nat) : FV :=
  if m.fromMaster then fv (s.elemIn t m n k p e).w else fv (BitVec.ofNat 32 (s.peekLE t (p.w + 2 * e) 2 * 65536))

/-- A row of this member's shard converted for member i: element bytes, then scale bytes. -/
def State.convertShardRow (s : State) (t : Nat) (m : Model) (n k : Nat) (x : TensorDef) (p : ShardPlace) (v i q r : Nat) (tsc : Word) : List Byte :=
  let (c0, len) := x.cols m.w i
  let srcs : List Src := (List.range len).map fun c =>
    let gi := m.bases.getD k 0 + r * x.rowLen + c0 + c
    ⟨s.sourceValue t m n k p (q * x.rowLen + c0 + c), if m.convSr then .sr else .rne,
      if m.convSr then rngR (rngWord m.convSeed (BitVec.ofNat 32 v) (BitVec.ofNat 64 gi)) else 0⟩
  let (es, ss) := convertRow x.genFmt tsc srcs
  let (eb, sb) := x.rowBytes m.w i
  packCodes (fmtBits x.genFmt) eb es ++ packCodes 8 sb ss

/-- The part of unit u of this member's shard for member i. -/
def State.convertPart (s : State) (t : Nat) (m : Model) (l : Learn) (k u v i : Nat) (tsc : Word) : List Byte :=
  match m.tensors[k]?, l.shards[k]? with
  | some x, some p =>
    ((unitRows l.n x.rows (l.index s.dom.rank) u).filter fun (_, r) => (x.heldRow m.w i r).isSome).flatMap fun (q, r) =>
      s.convertShardRow t m l.n k x p v i q r tsc
  | _, _ => []

/-- A part's bytes written into the staging layout. -/
def State.storePart (s : State) (t : Nat) (m : Model) (l : Learn) (g : GenPart) (x : TensorDef) (j u : Nat) (data : List Byte) : State :=
  let (eb, sb) := x.rowBytes m.w g.part
  let rows := (unitRows l.n x.rows j u).filterMap fun (_, r) => x.heldRow m.w g.part r
  rows.zipIdx.foldl (fun s (r, i) =>
    let bs := (data.drop (i * (eb + sb))).take (eb + sb)
    (s.writeCommittedAll t (g.elemTva + r * eb) (bs.take eb)).writeCommittedAll t (g.scaleTva + r * sb) (bs.drop eb)) s

/-! Jobs. -/

def State.modFreeze (s : State) (c : CmdRef) (f : FreezeJob → FreezeJob) : State :=
  { s with turn := { s.turn with freezes := updFirst (·.cmd == c) f s.turn.freezes } }

def State.freezeOf (s : State) (t mid : Nat) : Option FreezeJob := s.turn.freezes.find? fun j => j.plan.tenant == t && j.plan.model == mid && j.since != 0

/-- The staging of a Freeze discarded. -/
def State.dropStaging (s : State) (t mid v : Nat) : State :=
  match (s.modelAt t mid).bind fun m => (m.layout v).map fun l => (m, l) with
  | some (m, l) =>
    if !l.staging then s
    else
      let s := if l.mapTva == 0 then s else s.deviceFree t l.mapTva (m.shareBytes ((l.parts.head?).elim 0 (·.part)))
      s.modModel t mid fun y => { y with layouts := y.layouts.filter fun x => !(x.version == v && x.staging) }
  | none => s

/-- A Freeze ends without publishing (R297, R298). -/
def State.failFreeze (s : State) (j : FreezeJob) (status detail : Nat) : State :=
  let p := j.plan
  let s := (s.dropStaging p.tenant p.model p.version)
  let s := { s with turn := { s.turn with freezes := s.turn.freezes.filter (·.cmd != j.cmd) } }
  let s := if p.fromLearn then s.setPhase p.tenant .learn else s
  if j.home == s.dom.rank then s.finish j.cmd status detail 0
  else s.send ⟨j.home, .vote, refArgs j.cmd ++ [s.dom.rank, status, detail, 0], []⟩

/-- A Freeze begun on this module: its staging allocated where it receives parts. -/
def State.beginFreeze (s : State) (c : CmdRef) (home : Nat) (p : FreezePlan) : Except Nat State :=
  match s.modelAt p.tenant p.model with
  | none => .error stModelUnknown
  | some m =>
    let part := s.partIndex p s.dom.rank
    let landed := if m.learn.isNone then s.receivers p else []
    let j : FreezeJob := ⟨c, home, p, max s.time 1, part, [], landed, p.foil && (tgetD s.place.leases p.tenant ⟨.none, 0, 0, [], [], false, none, [], []⟩).state == .none⟩
    let s := { s with turn := { s.turn with freezes := s.turn.freezes.filter (·.cmd != c) ++ [j] } }
    let s := if p.fromLearn then s.setPhase p.tenant .freezing else s
    if m.hasLayout p.version then .ok s
    else
      match part with
      | none => .ok (s.modModel p.tenant p.model fun y => { y with layouts := y.layouts ++ [⟨p.version, true, false, 0, [], 0⟩] })
      | some i =>
        match s.deviceAlloc p.tenant (m.shareBytes i) .any with
        | none => .error stBulkFull
        | some (a, s) => .ok (s.modModel p.tenant p.model fun y => { y with layouts := y.layouts ++ [⟨p.version, true, false, 0, m.layParts i a, a⟩] })

/-! Requests at a turn (R307 to R309). -/

/-- A request leaves its pages, slots, prefix references and version, and stands in QUEUED; under refill it keeps
its records. -/
def State.requeueReq (s : State) (r : GenReq) (v : Nat) (refill : Bool) : State :=
  let s := s.freeKv r
  let s := s.setGen { s.gen with shipQueue := s.gen.shipQueue.filter fun x => !(x.tenant == r.tenant && x.tag == r.tag && x.kind != 4) }
  let home := (s.chooseHome r.tenant (s.tp r.tenant).groups).getD r.home
  let q := (s.chooseQueue r.tenant home).getD (home.headD 0)
  let s := s.modReq r.tenant r.tag fun x => { x with
    state := .queued, version := v, refill := refill, records := if refill then x.records else [], tFirst := if refill then x.tFirst else 0
    specAccepted := if refill then x.specAccepted else 0, prefixHit := 0, len := 0, idleSteps := 0, parkedFrom := none, toInstall := 0
    home := home, homeDie := (s.freeDie (home.headD 0)).getD 0, queueAt := q, order := s.gen.nextOrder, since := s.time, starved := false }
  let s := s.setGen { s.gen with nextOrder := s.gen.nextOrder + 1 }
  match s.reqAt r.tenant r.tag with
  | some y => s.sendOutput y y.records.length []
  | none => s

/-- Prefix lookup of a request that restarts, under the root of its version. -/
def State.relookup (s : State) (x : Model) (r : GenReq) : State :=
  if !bit r.flags 0 || !s.cacheOn r.tenant then s
  else
    let (path, hit, s) := s.lookup r.tenant r.model r.version x r.inputs
    s.modReq r.tenant r.tag fun y => { y with prefixHit := hit, len := hit, path := path.map (·.hash), pages := prefixPages x path hit }

/-- A request parked with its pages, or without them under refill. -/
def State.parkReq (s : State) (r : GenReq) (refill : Bool) : State :=
  let s := if refill then s.freeKv r else s
  let s := s.modReq r.tenant r.tag fun x => { x with
    state := .parked, parkedFrom := some (if r.state == .migrating then .decode else r.state), refill := refill }
  match s.reqAt r.tenant r.tag with
  | some y => s.sendOutput y y.records.length []
  | none => s

/-- What a policy did: requests left on the old version, requeued, and carried or parked. -/
structure PolicyCount where
  drained : Nat
  requeued : Nat
  carried : Nat
  deriving DecidableEq, Repr

/-- A request has no committed prompt position and no record: it takes the new version under every policy. -/
def GenReq.untouched (r : GenReq) : Bool := r.state == .queued && r.len == 0 && r.records.isEmpty

/-- A request at a THAW's boundary. -/
def State.thawReq (s : State) (policy : Nat) (n : PolicyCount) (r : GenReq) : State × PolicyCount :=
  if r.untouched then (s.modReq r.tenant r.tag fun x => { x with version := 0 }, n)
  else if r.state == .queued || policy == 1 then (s.requeueReq r 0 (r.state == .queued && r.refill), { n with requeued := n.requeued + 1 })
  else if policy == 2 || policy == 3 then (s.parkReq r (policy == 3), { n with carried := n.carried + 1 })
  else (s, n)

/-- Live generation requests of a tenant, of a model where one is named. -/
def State.liveReqs (s : State) (t : Nat) (model : Option Nat) : List GenReq :=
  s.gen.reqs.filter fun r => r.tenant == t && (model.isNone || model == some r.model) && !r.score && !r.state.terminal && r.state != .parked

def State.thawPolicy (s : State) (t policy : Nat) : State × PolicyCount :=
  (s.liveReqs t none).foldl (fun (s, n) r => s.thawReq policy n r) (s, ⟨0, 0, 0⟩)

/-- A request of the model at a publication: `policy` 0 leaves it on its version. -/
def State.publishReq (s : State) (x : Model) (v policy : Nat) (n : PolicyCount) (r : GenReq) : State × PolicyCount :=
  let redo := fun (s : State) (v : Nat) (refill : Bool) =>
    let s := s.requeueReq r v refill
    (s.reqAt r.tenant r.tag).elim s fun y => s.relookup x y
  if r.untouched then
    -- requeued by a THAW: the selector resolves again
    let v' := if r.version == 0 && r.selector != 0 then (match x.resolve r.selector with | .ok k => k | .error _ => v) else v
    (redo s v' false, n)
  else if r.version == 0 then (redo s v r.refill, n)
  else match policy with
    | 1 => (redo s v false, { n with requeued := n.requeued + 1 })
    | 2 => (s.modReq r.tenant r.tag fun y => { y with version := v }, { n with carried := n.carried + 1 })
    | 3 => (redo s v true, { n with requeued := n.requeued + 1 })
    | _ => (s, { n with drained := n.drained + 1 })

/-- A parked request of the model resumes on the published version (R308). -/
def State.resumeReq (s : State) (x : Model) (v : Nat) (n : PolicyCount) (r : GenReq) : State × PolicyCount :=
  let n := { n with carried := n.carried + 1 }
  if r.refill then
    let s := s.requeueReq r v true
    ((s.reqAt r.tenant r.tag).elim s fun y => s.relookup x y, n)
  else
    match s.chooseHome r.tenant (s.tp r.tenant).groups with
    | none => (s, n)
    | some g =>
      let s := s.modReq r.tenant r.tag fun y => { y with
        state := .migrating, version := v, home := g, homeDie := (s.freeDie (g.headD 0)).getD 0, since := s.time, starved := false }
      let s := (s.reqAt r.tenant r.tag).elim s fun y => s.shipRequest y 3 r.home g
      match s.reqAt r.tenant r.tag with
      | some y => (if y.toInstall == 0 then s.arrive y else s, n)
      | none => (s, n)

/-! Publication (R301, R302, R307). -/

/-- The published pointer moves to a version: staging is a layout, its map is written, references of the old
version and of an unpublished load go. -/
def State.movePointer (s : State) (t mid v : Nat) : State :=
  match s.modelAt t mid with
  | none => s
  | some m =>
    let s := match m.layout v with
      | some l => if l.mapTva == 0 then s else s.writeCommittedAll t l.mapTva (m.mapBytes l.parts)
      | none => s
    s.modModel t mid fun y => { y with
      published := some v, highest := max y.highest v
      layouts := y.layouts.map fun l => if l.version == v then { l with staging := false, loaded := false } else l }

/-- FOIL at publication: a switch of the tenant's lease, or a grant; parts that were also written into the lease
area make it ACTIVE at once (R302). A status where R177 refuses. -/
def State.publishFoil (s : State) (j : FreezeJob) : State × Nat :=
  let p := j.plan
  match s.leaseRefusal p.tenant p.model p.version with
  | .error e => (s, e)
  | .ok v =>
    let l := s.leaseOf p.tenant
    if l.state == .none then
      let s := s.beginLease p.tenant p.model v .loading []
      if j.lease then
        let s := s.streamLease p.tenant (s.leaseOf p.tenant)
        (s.activateLease p.tenant (s.leaseOf p.tenant), 0)
      else (s, 0)
    else if l.state == .active then (s.setLease p.tenant { l with switchTo := some (p.model, v) }, 0)
    else (s, 0)

/-- The swap on this module. -/
def State.publishHere (s : State) (j : FreezeJob) : State :=
  let p := j.plan
  let t := p.tenant
  match s.modelAt t p.model with
  | none => s
  | some old =>
    let prev := old.published.getD 0
    let s := s.movePointer t p.model p.version
    let s := { s with turn := { s.turn with freezes := s.turn.freezes.filter (·.cmd != j.cmd) } }
    let s := if !p.fromLearn then s
      else
        let s := s.modTp t fun y => { y with
          width := p.width, groups := poolGroups p.width p.decodePool
          pools := { y.pools with prefillPool := p.prefillPool, decodePool := p.decodePool, cachePool := p.cachePool, learnPool := [], scorePool := [] } }
        s.setPhase t .generate
    let x := (s.modelAt t p.model).getD old
    let policy := s.cfg t 0x0200
    let live := if s.phaseOf t == .generate then s.liveReqs t (some p.model) else []
    let (s, n) := live.foldl (fun (s, n) r => s.publishReq x p.version policy n r) (s, (⟨0, 0, 0⟩ : PolicyCount))
    let parked := s.gen.reqs.filter fun r => r.tenant == t && r.model == p.model && r.state == .parked
    let (s, n) := parked.foldl (fun (s, n) r => s.resumeReq x p.version n r) (s, n)
    let s := if n.drained == 0 || s.cfg t 0x0201 == 0 then s
      else { s with turn := { s.turn with drains := s.turn.drains ++ [⟨t, some p.model, p.version, s.time⟩] } }
    let (s, st) := if p.foil then s.publishFoil j else (s, 0)
    let s := if p.fromLearn then s.releaseZero t else s.refDropped t
    if j.home != s.dom.rank then s
    else
      let us := (s.time - j.since) / 1000
      let s := { s with turn := { s.turn with publishCount := s.turn.publishCount + 1, lastTurn := min us 0xFFFFFFFF } }
      let s := s.turnEvent t 0x0201 p.model p.version prev n.drained n.requeued n.carried us
      if st == 0 then s.vote j.cmd p.version 0 [] else s.finish j.cmd st 0 0

/-- Every receiver has landed and the source version is committed (R301, R304). -/
def State.publishable (s : State) (j : FreezeJob) : Bool :=
  (s.receivers j.plan).all j.landed.contains
    && (((s.modelAt j.plan.tenant j.plan.model).bind (·.learn)).all fun l => l.version == j.plan.version)

/-- From LEARN publication follows at once; in GENERATE and SCORE it waits for the boundary. -/
def State.publishFromLearn (s : State) (j : FreezeJob) : State :=
  if j.home == s.dom.rank && j.plan.fromLearn && s.publishable j then
    let s := s.sendAll ((s.allocRanks j.plan.tenant).filter (· != s.dom.rank)) .publish [j.plan.tenant, j.plan.model, j.plan.version]
    s.publishHere j
  else s

/-- LANDED of a receiver. -/
def State.addLanded (s : State) (j : FreezeJob) (r : Nat) : State :=
  let j := { j with landed := if j.landed.contains r then j.landed else j.landed ++ [r] }
  (s.modFreeze j.cmd fun _ => j).publishFromLearn j

/-- A rank that is lost during a Freeze (R298, R305): under overlap its parts are sent again after takeover; without
a spare the Freeze fails. -/
def State.freezeLoss (s : State) (rank : Nat) : State :=
  s.turn.freezes.foldl (fun s j =>
    let p := j.plan
    match s.learnAt p.tenant p.model with
    | none => s
    | some l =>
      let hit := l.members.contains rank || (s.receivers p).contains rank || (l.takeovers.any fun x => x.lost == rank)
      if !hit then s
      else if l.noSpare then (if j.home == s.dom.rank then s.failFreeze j stNoSpare 0 else s)
      else
        let swap := fun (xs : List Nat) => match l.takeovers.find? fun x => x.lost == rank with
          | some x => swapRank rank x.spare xs
          | none => xs.filter (· != rank)
        let again := j.got.filter fun g => g.2.1 == rank
        let p' := { p with prefillPool := swap p.prefillPool, decodePool := swap p.decodePool, cachePool := swap p.cachePool }
        let s := s.modFreeze j.cmd fun j => { j with plan := p', got := j.got.filter fun g => g.2.1 != rank, landed := j.landed.filter (· != rank) }
        if !p.overlap then s
        else
          let s := { s with turn := { s.turn with restreamCount := s.turn.restreamCount + again.length } }
          if j.home == s.dom.rank then s.turnEvent p.tenant 0x0203 p.model p.version 0 0 0 0 0 else s) s

end Sys2Proof.Machine
end

