-- ==== Sys2Proof/Machine/Turns.lean ====
section
/-! DEFINITION. Commands and events of turns (10): models, Freeze, Thaw, holds and releases. -/

namespace Sys2Proof.Machine

/-! MODEL_CREATE (R284 to R288). -/

/-- The images of a step program set, each checked; 0 is an absent role. -/
def State.stepImages (s : State) (c : Option CmdRef) (t : Nat) : List Nat → Except MemErr (Except Nat (List (Option (List Byte))))
  | [] => .ok (.ok [])
  | 0 :: rest => do
    match ← State.stepImages s c t rest with
    | .error o => return .error o
    | .ok xs => return .ok (none :: xs)
  | tva :: rest => do
    match ← s.imageAt c t tva with
    | .error o => return .error o
    | .ok img =>
      match ← State.stepImages s c t rest with
      | .error o => return .error o
      | .ok xs => return .ok (some (s.imageBytes t tva img) :: xs)

def modelCreateBody (s : State) (c : Cmd) : CmdRes :=
  let t := c.tenant
  let mid := c.u 0 4
  if (s.modelAt t mid).isSome then .fail stModelExists 0
  else if !createOk c.params then .fail stIllegalOperand 0
  else
    match s.readTva (some c.ref) t (c.u 0x30 8) (32 * c.u 0x10 4), s.readTva (some c.ref) t (c.u 0x38 8) 32 with
    | .error e, _ => .ofErr s e
    | _, .error e => .ofErr s e
    | .ok table, .ok set =>
      match createRefusal c.params table with
      | some st => .fail st 0
      | none =>
        match s.stepImages (some c.ref) t ((List.range 4).map fun i => field (8 * i) 8 set) with
        | .error e => .ofErr s e
        | .ok (.error o) => .fail stProgramInvalid o
        | .ok (.ok images) =>
          match s.addModel t mid (modelOf c.params table images) with
          | .ok s => .ok s 0 0
          | .error st => .fail st 0

/-- MODEL_CREATE: on its interpreter, or a member's part with the parameters, the table and the images. -/
def execModelCreate (c : CmdRef) (part : Option (Fin 512 × List Byte × List Byte × List (Option (List Byte)))) (s : State) : Out :=
  .next (match part with
    | none => runCommand 0x200 c modelCreateBody s
    | some (t, p, table, images) =>
      let mid := field 0 4 p
      if (s.modelAt t mid).isSome || (createRefusal p table).isSome then s
      else
        match s.addModel t mid (modelOf p table images) with
        | .ok s => s
        | .error st => s.send ⟨s.dom.anchor, .vote, refArgs c ++ [s.dom.rank, st, 0, 0], []⟩)

/-! MODEL_LOAD (R290, R291, R294; 13 R407). -/

/-- The limit of R294: DETAIL gives the oldest version and its references. -/
def State.versionLimit (s : State) (t mid : Nat) (m : Model) : Option Nat :=
  if m.layouts.length < s.cfg t 0x0203 then none
  else
    let v := ((m.layouts.map (·.version)).min?).getD 0
    some (v + s.refs t mid v * 2 ^ 32)

/-- A load begins on this module; a generation layout stands in staging from here (R294). -/
def State.beginLoad (s : State) (c : CmdRef) (mid target v : Nat) : State :=
  let s := s.setHost { s.host with relay := s.host.relay ++ [⟨c, mid, target, v, none, [], [], [], [], false, []⟩] }
  if target == 2 then s.modModel (c.fn.val - 1) mid fun m => { m with layouts := m.layouts ++ [⟨v, true, false, 0, [], 0⟩] } else s

def modelLoadBody (s : State) (c : Cmd) : CmdRes :=
  let t := c.tenant
  let target := c.u 4 1
  let v := c.u 8 4
  if s.host.relay.any (·.cmd == c.ref) then .wait s
  else
    match s.modelAt t (c.u 0 4) with
    | none => .fail stModelUnknown 0
    | some m =>
      if target > 2 || (target ≤ 1 && m.learn.isNone) || v == 0 || v == 0xFFFFFFFF || v ≤ m.highest || !isHostTva (c.u 0x10 8) then .fail stIllegalOperand 0
      else if target ≤ 1 && m.learn.any (fun l => l.phase != .idle && l.phase != .lost) then .fail stStepNotIdle 0
      else
        match (if target == 2 then s.versionLimit t (c.u 0 4) m else none) with
        | some d => .fail stVersionLimit d
        | none =>
          let s := s.beginLoad c.ref (c.u 0 4) target v
          .wait (s.modCmd c.ref fun k => { k with tiles := (ranksOf s.dom.members).map fun r => (r, 0) })

/-- MODEL_LOAD: the load begins; its segments arrive by IMAGE_RELAY. -/
def execModelLoad (c : CmdRef) (s : State) : Out := .next (runCommand 0x201 c modelLoadBody s)

/-! FREEZE (R297, R298, R300, R304). -/

/-- The LEARN_UPDATE with OVERLAP_FREEZE right before a command in its queue, for the same model (R304). -/
def State.overlapped (s : State) (c : Cmd) : Bool :=
  match (s.earlier c.ref).getLast? with
  | none => false
  | some u => u.opcode == 0x402 && u.learnModel == c.u 0 4 && bit (u.u 0x18 4) 0 && u.phase != .fetched && u.phase != .done

/-- The pools that a Freeze streams into. -/
def State.planOf (s : State) (t mid : Nat) (m : Model) (v : Nat) (foil overlap : Bool) : FreezePlan :=
  if s.phaseOf t == .learn then
    let (a, b, d) := s.firstSplit t m.w
    ⟨t, mid, v, foil, overlap, true, m.w, a, b, d⟩
  else
    let p := s.poolsOf t
    ⟨t, mid, v, foil, overlap, false, m.w, p.prefillPool, p.decodePool ++ p.scorePool, p.cachePool⟩

/-- A Freeze of version v starts here: its parts go out to the other modules of the tenant. -/
def State.startFreeze (s : State) (c : CmdRef) (p : FreezePlan) : CmdRes :=
  match s.beginFreeze c s.dom.rank p with
  | .error st => .fail st 0
  | .ok s =>
    match s.turn.freezes.find? (·.cmd == c) with
    | some j =>
      let others := (s.allocRanks p.tenant).filter (· != s.dom.rank)
      let s := others.foldl (fun s r => s.send ⟨r, .startPart, refArgs c ++ [0x202, p.tenant, p.model, p.version], []⟩) s
      .wait (s.publishFromLearn j)
    | none => .wait s

/-- Once the source version is known: what refuses the Freeze, or its start. -/
def State.freezeVersion (s : State) (c : Cmd) (m : Model) (v : Nat) (overlap : Bool) : CmdRes :=
  let t := c.tenant
  let mid := c.u 0 4
  if c.u 8 4 != 0 && c.u 8 4 != v then .fail stVersionMismatch 0
  else if m.published == some v then .ok s v 0
  else
    match (if (m.layout v).isSome then none else s.versionLimit t mid m) with
    | some d => .fail stVersionLimit d
    | none => s.startFreeze c.ref (s.planOf t mid m v (bit (c.u 4 4) 0) overlap)

def freezeBody (s : State) (c : Cmd) : CmdRes :=
  let t := c.tenant
  let mid := c.u 0 4
  if s.turn.freezes.any fun j => j.cmd == c.ref && j.since != 0 then .wait s
  else if s.phaseOf t == .freezing || s.phaseOf t == .thawing || s.turn.freezes.any (fun j => j.plan.tenant == t && j.plan.model == mid && j.cmd != c.ref) then .wait s
  else
    match s.modelAt t mid with
    | none => .fail stModelUnknown 0
    | some m =>
      match m.learn with
      | none =>
        match ((m.layouts.filter (!·.staging)).map (·.version)).max? with
        | none => .fail stModelUnknown 0
        | some v => s.freezeVersion c m v false
      | some l =>
        if l.phase == .lost then .fail stLearnStateLost 0
        else if l.noSpare then .fail stNoSpare 0
        else if l.phase == .updating || l.phase == .preparing then .wait s
        else s.freezeVersion c m l.version false

/-- An overlapped FREEZE before its turn: from GO it freezes n + 1; until GO it stands as a job that the update's
end would abort. -/
def State.overlapFreeze (s : State) (c : Cmd) : State :=
  let t := c.tenant
  let mid := c.u 0 4
  match s.modelAt t mid with
  | none => s
  | some m =>
    match m.learn with
    | none => s
    | some l =>
      let mine := s.turn.freezes.any (·.cmd == c.ref)
      let started := s.turn.freezes.any fun j => j.cmd == c.ref && j.since != 0
      if started || !(c.u 8 4 == 0 || c.u 8 4 == l.version + 1) || s.phaseOf t == .freezing || s.phaseOf t == .thawing then s
      else if l.phase == .preparing then
        if mine then s
        else
          let j : FreezeJob := ⟨c.ref, s.dom.rank, s.planOf t mid m (l.version + 1) (bit (c.u 4 4) 0) true, 0, none, [], [], false⟩
          let s := s.start c
          { s with turn := { s.turn with freezes := s.turn.freezes ++ [j] } }
      else if l.phase == .updating && l.go.isSome then
        let s := if mine then s else s.start c
        match s.freezeVersion c m (l.version + 1) true with
        | .ok s d _ => s.vote c.ref d 0 []
        | .fail st d => s.finish c.ref st d 0
        | .failWith s st d => s.finish c.ref st d 0
        | .wait s => s
      else s

/-- FREEZE: on its interpreter, or a module's part of a plan from the interpreter at a rank. -/
def execFreeze (c : CmdRef) (part : Option (Nat × FreezePlan)) (s : State) : Out :=
  .next (match part with
    | some (home, p) =>
      if s.turn.freezes.any (·.cmd == c) || home == s.dom.rank then s
      else
        match s.beginFreeze c home p with
        | .ok s => s
        | .error st => s.send ⟨home, .vote, refArgs c ++ [s.dom.rank, st, 0, 0], []⟩
    | none =>
      match s.cmdAt c with
      | some k => if k.opcode == 0x202 && (k.phase == .fetched || k.phase == .started) && s.overlapped k then
            (if k.phase == .fetched && !s.eligible k then s else s.overlapFreeze k)
          else runCommand 0x202 c freezeBody s
      | none => s)

/-! Parts (R299 to R301, R303 to R305). -/

/-- Is the source tensor of this member ready: under overlap, every block of it at n + 1? -/
def sourceReady (m : Model) (l : Learn) (j : FreezeJob) (k : Nat) : Bool :=
  !j.plan.overlap || l.version == j.plan.version
    || (l.go.any fun g => (List.range (m.blockCount l.n k (groupOf g.setup k))).all fun b => (l.tag k b).2 == j.plan.version)

/-- This member's unit converted and sent to every other receiver that holds rows of it. -/
def State.sendParts (s : State) (j : FreezeJob) (m : Model) (l : Learn) (k u : Nat) (tsc : Word) : State :=
  let p := j.plan
  (s.freezeGroups p).foldl (fun s g => g.zipIdx.foldl (fun s (r, i) =>
    if r == s.dom.rank || !((m.partUnits l.n i k (l.index s.dom.rank)).contains u) then s
    else s.send ⟨r, .reshardPart, [p.tenant, p.model, p.version, k, s.dom.rank, u, tsc.toNat], s.convertPart p.tenant m l k u p.version i tsc⟩) s) s

/-- A part in staging: recorded, its per-tensor scale set, and LANDED reported when all are there. -/
def State.partHere (s : State) (j : FreezeJob) (m : Model) (l : Learn) (i k src u : Nat) (tsc : Word) (data : List Byte) : State :=
  let p := j.plan
  match m.tensors[k]?, (m.layout p.version).bind fun y => y.parts.find? (·.tensor == k) with
  | some x, some g =>
    let s := s.storePart p.tenant m l g x (l.index src) u data
    let s := if x.genFmt != 0xB then s
      else s.modModel p.tenant p.model fun y => { y with layouts := y.layouts.map fun ly =>
        if ly.version == p.version then { ly with parts := ly.parts.map fun q => if q.tensor == k then { q with tscale := tsc } else q } else ly }
    let key := (k, src, u)
    let j := { j with got := if j.got.contains key then j.got else j.got ++ [key] }
    let s := s.modFreeze j.cmd fun _ => j
    if !((m.expectedParts l i).all j.got.contains) then s
    else if j.home == s.dom.rank then s.addLanded j s.dom.rank
    else s.sendTo j.home .landed [p.tenant, p.model, s.dom.rank]
  | _, _ => s

/-- RESHARD_PART: unit `unit` of tensor `tensor` from `src`, with the tensor's BFP4 scale `t`. With no data the
unit is this member's own: it is converted here by a Re-shard Engine that the heat of its die does not pause (15 R455), kept where this module holds it, and sent on. -/
def execReshardPart (tenant : Fin 512) (model tensor src unit : Nat) (t : Word) (data : Option (List Byte)) (s : State) : Out :=
  .next (match s.freezeOf tenant model, s.modelAt tenant model with
    | some j, some m =>
      match m.learn with
      | none => s
      | some l =>
        if !l.members.contains src then s
        else
          match data with
          | some bs =>
            match j.part with
            | some i => if (m.partUnits l.n i tensor (l.index src)).contains unit && src != s.dom.rank then s.partHere j m l i tensor src unit t bs else s
            | none => s
          | none =>
            if src != s.dom.rank || !sourceReady m l j tensor then s
            else
              let es := ((m.tensors[tensor]?).elim [] fun x => unitRows l.n x.rows (l.index src) unit).map Prod.fst
              let len := (m.tensors[tensor]?).elim 0 (·.rowLen)
              let bad := (l.shards[tensor]?).any fun p => es.any fun q => s.poisonedRange tenant (p.w + 2 * q * len) (2 * len)
              let held := (l.shards[tensor]?).any fun p => es.any fun q => s.restoring tenant (p.w + 2 * q * len) (2 * len)
              if held || (s.dieAt (4 + unit % 2)).throttle then s
              else if bad then s.failFreeze j stMemoryPoison 0
              else
                let s := (s.sendParts j m l tensor unit t).progressed 2 (srcReshard (unit % 2))
                match j.part with
                | some i =>
                  if (m.partUnits l.n i tensor (l.index src)).contains unit then
                    s.partHere j m l i tensor src unit t (s.convertPart tenant m l tensor unit j.plan.version i t)
                  else s
                | none => s
    | _, _ => s)

/-- LANDED at the coordinator. -/
def execLanded (tenant : Fin 512) (model : Nat) (rank : Fin 64) (s : State) : Out :=
  .next (match s.freezeOf tenant model with
    | some j => if j.home == s.dom.rank && (s.receivers j.plan).contains rank.val then s.addLanded j rank else s
    | none => s)

/-- PUBLISH: at the coordinator the boundary at which a publishable Freeze is published; elsewhere its message. A
module that has swapped has no job left, and ignores it. -/
def execPublish (tenant : Fin 512) (model version : Nat) (s : State) : Out :=
  .next (match s.freezeOf tenant model with
    | none => s
    | some j =>
      if j.plan.version != version then s
      else if j.home != s.dom.rank then s.publishHere j
      else if !s.publishable j then s
      else
        let s := s.sendAll ((s.allocRanks tenant).filter (· != s.dom.rank)) .publish [tenant, model, version]
        s.publishHere j)

/-! THAW (R306, R307). -/

def thawBody (s : State) (c : Cmd) : CmdRes :=
  let t := c.tenant
  if s.turn.thaws.any (·.cmd == c.ref) then .wait s
  else
    match s.phaseOf t with
    | .learn => .ok s 0 0
    | .freezing | .thawing => .wait s
    | _ =>
      let j : ThawJob := ⟨c.ref, t, s.time, 0, 0, s.cfg t 0x0200 != 0⟩
      let drain := s.cfg t 0x0200 == 0 && s.cfg t 0x0201 != 0
      let s := s.setPhase t .thawing
      .wait { s with turn := { s.turn with
        thaws := s.turn.thaws ++ [j], drains := if drain then s.turn.drains ++ [⟨t, none, 0, s.time⟩] else s.turn.drains } }

def execThaw (c : CmdRef) (s : State) : Out := .next (runCommand 0x203 c thawBody s)

/-- The tenant is back in LEARN: leases released, pools dissolved, THAW completed. -/
def State.endThaw (s : State) (j : ThawJob) : State :=
  let t := j.tenant
  let l := s.leaseOf t
  let s := if l.state == .none then s else s.endLease t l 0
  let us := (s.time - j.since) / 1000
  let s := s.modTp t fun x => { x with
    pools := { Pools.empty with learnPool := s.allocRanks t }, groups := [], moveDue := none, joining := [], imbalance := 0, cacheHigh := 0, cacheLow := 0 }
  let s := s.setPhase t .learn
  let s := { s with turn := { s.turn with
    thaws := s.turn.thaws.filter (·.cmd != j.cmd), drains := s.turn.drains.filter (·.tenant != t), scoring := tdel s.turn.scoring t
    thawCount := s.turn.thawCount + 1 } }
  let s := s.releaseZero t
  let s := s.turnEvent t 0x0205 0 0 0 0 j.requeued j.parked us
  s.vote j.cmd (j.parked % 2 ^ 20 + j.requeued % 2 ^ 20 * 2 ^ 20) 0 []

/-- THAW_DONE, at a step boundary of a thawing tenant: the in-flight policy where it is due, then the end once no
request is live but those parked or queued. -/
def execThawDone (tenant : Fin 512) (s : State) : Out :=
  .next (match s.turn.thaws.find? (·.tenant == tenant.val) with
    | none => s
    | some j =>
      let t := tenant.val
      let (s, j) := if !j.due then (s, j)
        else
          let (s, n) := s.thawPolicy t (s.cfg t 0x0200)
          (s, { j with due := false, parked := j.parked + n.carried, requeued := j.requeued + n.requeued })
      let s := { s with turn := { s.turn with thaws := updFirst (·.cmd == j.cmd) (fun _ => j) s.turn.thaws } }
      let live := s.gen.reqs.any fun r => r.tenant == t && !r.state.terminal && r.state != .parked && r.state != .queued
      let scoring := s.gen.reqs.any fun r => r.tenant == t && r.score
      if live || scoring || (s.gen.reqs.any fun r => r.tenant == t && r.state.terminal) then s else s.endThaw j)

/-- DRAIN_LIMIT (R310): the fallback applies to every request still live on the old version. -/
def execDrainLimit (tenant : Fin 512) (model : Option Nat) (s : State) : Out :=
  .next (match s.turn.drains.find? fun d => d.tenant == tenant.val && d.model == model with
    | none => s
    | some d =>
      let t := tenant.val
      if s.time < d.since + s.cfg t 0x0201 * ms then s
      else
        let s := { s with turn := { s.turn with drains := s.turn.drains.filter (· != d) } }
        let policy := s.cfg t 0x0202
        match model with
        | none =>
          let (s, n) := s.thawPolicy t policy
          let s := { s with turn := { s.turn with thaws := s.turn.thaws.map fun (j : ThawJob) =>
            if j.tenant == t then { j with parked := j.parked + n.carried, requeued := j.requeued + n.requeued } else j } }
          s.turnEvent t 0x0204 0 0 0 n.drained n.requeued n.carried ((s.time - d.since) / 1000)
        | some mid =>
          match s.modelAt t mid with
          | none => s
          | some x =>
            let v := x.published.getD d.version
            let old := (s.liveReqs t (some mid)).filter fun r => r.version != v
            let (s, n) := old.foldl (fun (s, n) r => s.publishReq x v policy n r) (s, (⟨0, 0, 0⟩ : PolicyCount))
            (s.refDropped t).turnEvent t 0x0204 mid v d.version n.drained n.requeued n.carried ((s.time - d.since) / 1000))

/-! Holds, records and deletion (R293 to R296). -/

def versionHoldBody (s : State) (c : Cmd) : CmdRes :=
  let t := c.tenant
  let mid := c.u 0 4
  let v := c.u 4 4
  match s.modelAt t mid with
  | none => .fail stModelUnknown 0
  | some m =>
    let bump := fun (f : Nat → Nat) => s.modModel t mid fun y => { y with
      layouts := y.layouts.map fun l => if l.version == v then { l with holds := f l.holds } else l }
    match c.u 8 4 with
    | 0 =>
      if !m.hasLayout v then .fail stVersionReleased 0
      else if m.layouts.foldl (fun a l => a + l.holds) 0 ≥ 8 then .fail stHoldLimit 0
      else .ok (bump (· + 1)) 0 0
    | 1 =>
      if m.layouts.any fun l => l.version == v && l.holds != 0 then .ok ((bump (· - 1)).refDropped t) 0 0
      else .fail stIllegalOperand 0
    | _ => .fail stIllegalOperand 0

def execVersionHold (c : CmdRef) (s : State) : Out := .next (runCommand 0x204 c versionHoldBody s)

/-- The record of VERSION_QUERY (R295). -/
def State.versionRecord (s : State) (t mid : Nat) (m : Model) : List Byte :=
  fields [(4, m.learn.elim 0 (·.version)), (1, m.learn.elim 0 (·.phase.code)), (1, m.layouts.length), (2, 0), (4, m.published.getD 0), (4, 0)]
    ++ m.layouts.flatMap fun l =>
      fields [(4, l.version), (1, if l.staging then 0 else if m.published == some l.version then 2 else if l.loaded then 1 else 3), (3, 0),
        (4, s.refs t mid l.version), (4, l.holds)]

def versionQueryBody (s : State) (c : Cmd) : CmdRes :=
  match s.modelAt c.tenant (c.u 0 4) with
  | none => .fail stModelUnknown 0
  | some m =>
    match s.output c (c.u 8 8) (s.versionRecord c.tenant (c.u 0 4) m) with
    | .ok s => .ok s 0 0
    | .error e => .ofErr s e

def execVersionQuery (c : CmdRef) (s : State) : Out := .next (runCommand 0x205 c versionQueryBody s)

/-- Does something refer to the model (R296)? -/
def State.modelBusy (s : State) (t mid : Nat) : Bool :=
  (s.gen.reqs.any fun r => r.tenant == t && r.model == mid && !r.state.terminal && r.state != .parked)
    || (s.place.leases.any fun (k, l) => k == t && l.state != .none && l.model == mid)
    || (s.cmd.cmds.any fun c => c.opcode == learnOpcode && c.tenant == t && c.learnModel == mid && bit c.learnFlags 3 && c.running)
    || (s.turn.freezes.any fun j => j.plan.tenant == t && j.plan.model == mid)

/-- The learning layout freed, the pointer and the holds dropped; the record goes with its last layout. -/
def State.deleteModel (s : State) (t mid : Nat) (m : Model) : State :=
  let s := match m.learn with
    | some l => (s.freeShards t m l.n l.shards).deviceFree t l.tableTva (if l.tableTva == 0 then 0 else m.tableBytes)
    | none => s
  let s := s.modModel t mid fun y => { y with
    learn := none, published := none, deleted := true, layouts := y.layouts.map fun l => { l with holds := 0 } }
  let s := s.refDropped t
  { s with turn := { s.turn with models := s.turn.models.filter fun (k, y) => !(k == (t, mid) && y.deleted && y.layouts.isEmpty) } }

def modelDeleteBody (s : State) (c : Cmd) : CmdRes :=
  match s.modelAt c.tenant (c.u 0 4) with
  | none => .fail stModelUnknown 0
  | some m => if s.modelBusy c.tenant (c.u 0 4) then .fail stModelBusy 0 else .ok (s.deleteModel c.tenant (c.u 0 4) m) 0 0

def execModelDelete (c : CmdRef) (s : State) : Out := .next (runCommand 0x206 c modelDeleteBody s)

/-- LAYOUT_RELEASE at the step boundary: a layout whose count is 0. -/
def execLayoutRelease (tenant : Fin 512) (model version : Nat) (s : State) : Out :=
  .next (match (s.modelAt tenant model).bind fun m => (m.layout version).map fun l => (m, l) with
    | some (m, l) => if l.staging || s.refs tenant model version != 0 then s else s.releaseLayout tenant model m l
    | none => s)

end Sys2Proof.Machine
end

