-- ==== Sys2Proof/Machine/FaultOps.lean ====
section
/-! DEFINITION. Recovery (14): fault events, capture records, revocation, kills, tenant reset and the resets of
tiles, engines, link groups and dies. -/

namespace Sys2Proof.Machine

/-! Events (R442). -/

structure FaultEvent where
  kind : Nat
  cls : Nat
  level : Nat
  unit : Nat
  tenant : Nat
  record : Nat
  value : Nat
  sq : Nat
  detail : Nat
  deriving DecidableEq, Repr

def FaultEvent.payload (e : FaultEvent) : List Byte :=
  fields [(2, e.kind), (1, e.cls), (1, e.level), (2, e.unit), (2, e.tenant), (8, e.record), (4, e.value), (2, e.sq), (2, 0), (8, e.detail)]

/-- To PF0, and to the tenant that it names, whose copy gives 0 in UNIT and RECORD. -/
def State.faultEvent (s : State) (source : Nat) (e : FaultEvent) : State :=
  let s := s.emitPf0 source 0x0A e.payload
  if e.tenant < 512 then s.emitTenant e.tenant source 0x0A { e with unit := 0, record := 0 }.payload else s

def State.recoveryEvent (s : State) (e : FaultEvent) : State := s.faultEvent (srcCore 0 7) e

/-- Die of a source ID, for the core that reports on it; units of the I/O dies report from Q0. -/
def sourceDie (u : Nat) : Nat :=
  match u / 4096 with
  | 0 => u % 4096 / 8
  | 1 => u % 4096
  | 3 => u % 4096 / 4
  | _ => 0

/-- Die of a unit that a reset level names. -/
def unitDie (l : ResetLevel) (u : Nat) : Nat :=
  match l with
  | .tile => u / 40
  | .engine => sourceDie u
  | .die => u
  | _ => 0

/-- UNIT of events and records: a source ID. A tile has none of its own: its die's engine stands for it. -/
def unitSource (l : ResetLevel) (u : Nat) : Nat :=
  match l with
  | .tile => srcEngine (u / 40)
  | .engine => u
  | .linkGroup => srcLinkGroup u
  | .die => srcCore u 7
  | _ => srcCore 0 7

/-! Capture records (R432, R433). -/

/-- Bytes of a record: header, directory and sections. -/
def Capture.bytesLen (c : Capture) : Nat := 0x40 + c.sections.foldl (fun a x => a + 16 + x.2.2.length) 0

/-- A record begun at a detection, or the record of the same unit still being collected: its ID. -/
def State.beginCapture (s : State) (unit cause : Nat) (level : ResetLevel) (tenant : Nat) : Nat × State :=
  match s.flt.captures.find? fun c => !c.collected && c.unit == unit && c.level == level && c.tenant == tenant with
  | some c => (c.id, s)
  | none =>
    let id := s.flt.nextRecord
    let fw := s.pkgImage.elim 0 fun f => f.major % 65536 * 65536 + f.minor % 65536
    let c : Capture := ⟨id, s.time, unit, cause, s.flt.mode.code, level, s.dom.rank, tenant, fw, false, []⟩
    (id, s.setFlt { s.flt with captures := c :: s.flt.captures, nextRecord := id + 1 })

/-! Kills (R417, R424; 12 R373). -/

/-- The status of a vote by which another module's interpreter runs the command again without blame (R425);
no reply ever carries it. -/
def voteRerun : Nat := 0xFFFF

/-- A command killed on all its modules and put back to its start, with its work counted as lost. -/
def State.killCmd (s : State) (c : Cmd) : State :=
  if !c.running then s
  else if c.home == s.dom.rank then s.rerun c true
  else (s.dropPart c.ref).send ⟨c.home, .vote, refArgs c.ref ++ [s.dom.rank, voteRerun, 0, 0], []⟩

/-- Collective instances issued here that meet a test end with COLL_ABORT on every member (11 R347). -/
def State.abortColls (s : State) (cause : Nat) (p : CollInst → Bool) : State :=
  (s.coll.insts.filter p).foldl (fun s i =>
    (s.collAudience i).foldl (fun s a => s.send ⟨a, .collAbort, refArgs i.key.cmd ++ [i.key.group, i.key.lane, i.key.seq, cause], []⟩)
      (s.failFence i (failExc stCollAbort i.key.group i.key.seq cause))) s

/-! Revocation (R425): kinds in the order of the table (log entry 40). -/

def State.revoked (s : State) (t kind record : Nat) : State :=
  s.recoveryEvent ⟨0x0A06, 3, 0, 0, t, record, kind, 0, 0⟩

/-- A tenant's reset takes back what its contexts hold: the count, by kind. -/
def State.revocations (s : State) (t : Nat) : List Nat :=
  let many := fun (k n : Nat) => List.replicate n k
  many 0 (if (s.leaseOf t).state == .none then 0 else 1)
    ++ many 1 ((s.mem.units.filter fun (k, u) => k.1 == t && (u.hint == .pin || u.hint == .neverEvict)).length)
    ++ many 2 ((s.mem.migrations.filter fun g => g.key.1 == t).length)
    ++ many 6 ((s.turn.freezes.filter fun j => j.plan.tenant == t).length)
    ++ many 7 ((s.gen.reqs.filter fun r => r.tenant == t).length)

/-- A Foil lease revoked: its units free at once, NONE (06 R178). -/
def State.revokeLease (s : State) (t cause : Nat) : State :=
  let l := s.leaseOf t
  if l.state == .none then s else s.endLease t l cause

/-! Tenant reset (R420 to R422). -/

/-- Commands of the tenant on this module killed, with no replies. -/
def State.killCommands (s : State) (t : Nat) : State :=
  let mine := s.cmd.cmds.filter fun c => c.ref.fn.val == t + 1
  let s := mine.foldl (fun s c => (s.killLocal c.ref).sendAll (s.others c) .abort (refArgs c.ref)) s
  s.setCmds (s.cmd.cmds.filter fun c => c.ref.fn.val != t + 1)

/-- Commands of the tenant on this module vanish with no replies; their queues go, and with them the reserved
places; CONFIG_SETs of PF0 that target it complete with RESET_KILLED. Its suspects leave every replay (14 R441). -/
def State.killTenant (s : State) (t : Nat) : State :=
  let s := s.killCommands t
  let jobs := s.cmd.configJobs.filter fun j => j.tenant == t
  let s := s.setCmd { s.cmd with
    sqs := s.cmd.sqs.filter fun q => q.fn != t + 1
    cqs := s.cmd.cqs.filter fun q => q.fn != t + 1
    configJobs := s.cmd.configJobs.filter fun j => j.tenant != t
    staged := s.cmd.staged.filter fun x => x.1 != t }
  let s := s.setFlt { s.flt with replays := s.flt.replays.map fun (x : HangReplay) =>
    { x with suspects := x.suspects.filter fun c => c.fn.val != t + 1 } }
  jobs.foldl (fun s j => s.finish j.cmd stResetKilled 0 0) s

/-- t0 of a tenant reset on this module. -/
def State.beginTenantReset (s : State) (t : Nat) (cmd : Option CmdRef) (capture disable : Bool) : State :=
  if (s.flt.tenantResets.any (·.tenant == t)) && cmd.isNone then
    s.setFlt { s.flt with tenantResets := s.flt.tenantResets.map fun (x : TenantReset) =>
      if x.tenant == t then { x with disable := x.disable || disable } else x }
  else
    let s := if capture then (s.beginCapture (srcCore 0 7) 3 .tenant t).2 else s
    let killed := (s.cmd.cmds.filter fun c => c.ref.fn.val == t + 1 && c.running).length
    let s := s.killTenant t
    s.setFlt { s.flt with tenantResets := s.flt.tenantResets ++ [⟨t, cmd, s.time, killed, 0, disable⟩] }

/-- A tenant reset of another cause than TENANT_RESET, begun here and told to every other member. -/
def State.resetTenant (s : State) (t : Nat) (disable : Bool) : State :=
  let s := s.beginTenantReset t none s.flt.captureTenant disable
  s.sendAll ((ranksOf s.dom.members).filter (· != s.dom.rank)) .startPart [0, 0, 0, 0x80, t]

/-- Everything that the module holds of a tenant discarded. -/
def State.discardTenant (s : State) (t : Nat) (disable : Bool) : State :=
  let s := s.revokeLease t 3
  let notMine := fun (k : Nat × Nat) => k.1 != t
  let s := s.setColl { s.coll with
    groups := s.coll.groups.filter (·.tenant != t), insts := s.coll.insts.filter (·.tenant != t)
    early := s.coll.early.filter (·.1.cmd.fn.val != t + 1), earlyFail := s.coll.earlyFail.filter (·.1.cmd.fn.val != t + 1)
    done := s.coll.done.filter (·.1.1.fn.val != t + 1) }
  let keys := (s.mem.units.filter fun (k, _) => k.1 == t).map (·.1)
  let s := keys.foldl State.unmapUnit s
  let s := s.setMem { s.mem with
    bulkKeys := s.mem.bulkKeys &&& ~~~(1#513 <<< t), staging := s.mem.staging.filter (·.tenant != t)
    tlb := s.mem.tlb.filter fun (_, k) => k.1 != t }
  let g := s.gen
  let s := s.setGen { g with
    reqs := g.reqs.filter (·.tenant != t), nodes := g.nodes.filter (·.tenant != t), arenas := g.arenas.filter fun (k, _) => notMine k
    shipQueue := g.shipQueue.filter (·.tenant != t), ships := g.ships.filter (·.tenant != t)
    landed := g.landed.filter fun (h, _, _) => h.tenant != t, publishing := g.publishing.filter fun (n, _) => n.tenant != t
    stalled := g.stalled.filter (· != t), stats := g.stats.filter (·.1 != t), runs := g.runs.filter (·.tenant != t)
    waiting := g.waiting.filter fun (c, _, _) => c.fn.val != t + 1, phaseJobs := g.phaseJobs.filter (·.tenant != t)
    outQueue := g.outQueue.filter (·.tenant != t) }
  let u := s.turn
  let s := { s with turn := { u with
    models := u.models.filter fun (k, _) => notMine k, phases := u.phases.filter (·.1 != t)
    freezes := u.freezes.filter (·.plan.tenant != t), thaws := u.thaws.filter (·.tenant != t)
    drains := u.drains.filter (·.tenant != t), scoring := u.scoring.filter (·.1 != t) } }
  let s := s.setPlace { s.place with tenants := tdel s.place.tenants t, leases := tdel s.place.leases t }
  let s := s.setHost { s.host with
    relay := s.host.relay.filter (·.cmd.fn.val != t + 1), copies := s.host.copies.filter (·.1.fn.val != t + 1)
    invalidations := s.host.invalidations.filter fun (f, _) => f != t + 1 }
  let s := { s with boot := { s.boot with
    imageKeys := s.boot.imageKeys.filter fun (k, _) => notMine k, keyWaits := s.boot.keyWaits.filter (·.tenant != t)
    sessions := s.boot.sessions.filter (·.fn != t + 1) } }
  let s := s.setFn (tenantFn t) FnState.zero
  let s := s.modTnt t fun x => { x with
    pewter := s.sig.compatSel, locked := false, acctTensor := 0, acctVector := 0, acctDma := 0, acctLink := 0, acctReshard := 0, acctLost := 0
    enable := x.enable && !disable }
  s.setCmd { s.cmd with config := s.cmd.config.filter (·.tenant != t) }

/-- TENANT_RESET_DONE on this module: revocations, then everything discarded; the command that asked for it
completes with what was killed and revoked. -/
def State.finishTenantReset (s : State) (x : TenantReset) : State :=
  let rs := s.revocations x.tenant
  let record := (s.flt.captures.find? fun c => c.level == .tenant && c.tenant == x.tenant).elim 0 (·.id)
  let s := rs.foldl (fun s k => s.revoked x.tenant k record) s
  let s := s.discardTenant x.tenant x.disable
  let s := s.setFlt { s.flt with tenantResets := s.flt.tenantResets.filter (· != x) }
  let s := s.emitPf0 (srcCore 0 7) 0x0A (FaultEvent.payload ⟨0x0A0C, 3, 5, 0, x.tenant, record, 0, 0, 0⟩)
  x.cmd.elim s fun c => s.vote c (x.killed % 2 ^ 32 + rs.length % 65536 * 2 ^ 32) 0 []

/-- Tenants that this module knows: enabled, or holding commands, queues, units or models here. -/
def State.knownTenants (s : State) : List Nat :=
  (List.range 512).filter fun t => (s.tntOf t).enable || s.cmd.cmds.any (·.ref.fn.val == t + 1) || s.cmd.sqs.any (·.fn == t + 1)
    || s.mem.units.any (·.1.1 == t) || s.turn.models.any (·.1.1 == t)

/-- An anchor reset: every tenant of the domain (13 R396). -/
def State.resetAllTenants (s : State) : State := s.knownTenants.foldl (fun s t => s.resetTenant t false) s

/-! Resets of tiles, engines, link groups and dies (R415 to R418). -/

/-- Does reset domain (l, u) contain (l', u')? -/
def covers (l : ResetLevel) (u : Nat) (l' : ResetLevel) (u' : Nat) : Bool :=
  l == .module || (l == l' && u == u') || (l == .die && (l' == .tile || l' == .engine && (u' / 4096 == 1)) && unitDie l' u' == u)

def State.underReset (s : State) (l : ResetLevel) (u : Nat) : Bool := s.flt.resets.any fun r => covers r.level r.unit l u

/-- Tiles with contexts in a domain. -/
def State.contextOn (s : State) (l : ResetLevel) (u : Nat) (i : Fin 160) : Bool :=
  match l with
  | .tile => i.val == u
  | .engine => u / 4096 == 1 && i.val / 40 == u % 4096 && !s.tiles[i].sync.outstanding.isEmpty
  | .linkGroup => false
  | .die => i.val / 40 == u
  | .tenant => false
  | .module => true

/-- Commands with contexts on a domain. On the ingest engine they are the loads; a Freeze goes on after a reset of its
Re-shard Engine, and sends the unit again (R425). -/
def State.cmdsUnder (s : State) (l : ResetLevel) (u : Nat) : List Cmd :=
  let loads := l == .module || (l == .engine && u == 0x6000)
  s.cmd.cmds.filter fun c => ((s.localTiles c.ref).any (s.contextOn l u)) || (loads && s.host.relay.any (·.cmd == c.ref))

/-- Every command that runs on a domain killed on all its modules. -/
def State.killOn (s : State) (l : ResetLevel) (u : Nat) : State :=
  (s.cmdsUnder l u).foldl (fun s c => (s.cmdAt c.ref).elim s s.killCmd) s

/-- Tenants with a lease on a die. -/
def State.leasesOnDie (s : State) (d : Nat) : List Nat :=
  (s.place.leases.filter fun (_, l) => l.units.any fun x => x.1 == d).map (·.1)

/-- What a domain loses at its reset (R415): pads, translations, bonded SRAM, training. -/
def State.loseDomain (s : State) (l : ResetLevel) (u : Nat) : State :=
  match l with
  | .tile => if u < 160 then s.setTile (Fin.ofNat 160 u) Tile.idle else s
  | .engine =>
    if u / 4096 == 1 then s.setMem { s.mem with tlb := s.mem.tlb.filter fun (d, _) => d != u % 4096 } else s
  | .linkGroup =>
    ((groupLinks u).foldl (fun s l => if (s.linkAt l).phase == .up || (s.linkAt l).phase == .recal then s.linkSettle l .retrain else s) s).recalEnd u
  | .die =>
    let s := (s.leasesOnDie u).foldl (fun s t => (s.revoked t 0 0).revokeLease t 1) s
    let s := (List.finRange 160).foldl (fun s i => if i.val / 40 == u then s.setTile i Tile.idle else s) s
    s.setMem { (s.mem.setCells (s.mem.cells.clear (bsramBase + u * bsramSpan) bsramSpan)).unmarkWhole (bsramBase + u * bsramSpan) bsramSpan with
      tlb := s.mem.tlb.filter fun (d, _) => d != u }
  | _ => s

/-- The I/O die's copy of the registers that a compute die keeps (18 R510). -/
def State.takeCopy (s : State) (d : Nat) : State :=
  let live := (s.gen.reqs.filter fun r => r.home.head? == some s.dom.rank).length
  let c : RegCopy := ⟨d, s.cmd.tnt, s.cmd.sliceMs, s.place, s.turn, (s.gen.hitCount, s.gen.mismatchCount, s.gen.padCount), live, s.dom,
    s.mem.dies, s.pat, s.pwr⟩
  { s with regs := { s.regs with copies := c :: s.regs.copies } }

/-- A reset of a tile, engine, link group or die begins; one that is under reset already absorbs it (R441).
Contexts killed, and the record taken before. -/
def State.beginReset (s : State) (l : ResetLevel) (u cause : Nat) (escalated : Bool) : State :=
  if s.underReset l u then s
  else
    let (id, s) := s.beginCapture (unitSource l u) cause l 0xFFFF
    let s := if l == .die then s.takeCopy u else s
    let s := (s.killOn l u).loseDomain l u
    s.setFlt { s.flt with
      resets := s.flt.resets.filter (fun r => !covers l u r.level r.unit) ++ [⟨l, u, id, s.time, escalated⟩]
      resetCount := (s.flt.resetCount + 1) % 2 ^ 64, mode := .recovery }

/-- A tile out of service (R419). -/
def State.tileOut (s : State) (u : Nat) : State :=
  let s := if u < 160 then s.setTile (Fin.ofNat 160 u) Tile.idle else s
  let s := s.setFlt { s.flt with tileMap := s.flt.tileMap &&& ~~~(1#160 <<< u) }
  s.recoveryEvent ⟨0x0A05, 3, 1, unitSource .tile u, 0xFFFF, 0, 0, 0, 0⟩

/-- FAULT_N driven low: by class 4, by start-up without a start, by thermal shutdown (16 R473). -/
def State.driveFault (s : State) : State := { s with sig := { s.sig with faultDrive := true, faultLow := true } }

/-- Class 4 (R413, R414): the record, the event, the anchor's AER message, FAULT_N, and the report to the
coordinator. The module withdraws. -/
def State.withdraw (s : State) (unit cause : Nat) : State :=
  if s.flt.withdrawn then s
  else
    let (id, s) := s.beginCapture unit cause .module 0xFFFF
    let s := s.recoveryEvent ⟨0x0A08, 4, 6, unit, 0xFFFF, id, 0, 0, 0⟩
    let s := if s.dom.rank == s.dom.anchor then s.setHost { s.host with aer := s.host.aer + 1 } else s
    let s := s.killOn .module 0
    let s := (s.setFlt { s.flt with withdrawn := true }).driveFault
    if s.dom.rank == s.dom.coord then s else s.sendTo s.dom.coord .domainReport [1, s.dom.rank]

end Sys2Proof.Machine
end

