-- ==== Sys2Proof/Machine/ConfigOps.lean ====
section
/-! DEFINITION. Configuration epochs (12 R377 to R380; 07 R230): validation, phases, the domain barrier and
the report. -/

namespace Sys2Proof.Machine

/-- An entry of CONFIG_SET (R377). -/
def configEntries (n : Nat) (ps : List Byte) : List (Nat × Nat) :=
  (List.range n).map fun i => (field (0x10 + 16 * i) 2 ps, field (0x18 + 16 * i) 8 ps)

/-- A validated set: fields with their values, and clamps (FIELD_ID, REASON, REQUESTED, APPLIED). A Pewter
tenant has no fields of groups 0x02xx and 0x03xx (R381). -/
def validate (pewter : Bool) : List (Nat × Nat) → List (Nat × Nat) × List (Nat × Nat × Nat × Nat)
  | [] => ([], [])
  | (f, v) :: rest =>
    let (fs, cs) := validate pewter rest
    match if pewter then none else fieldSpec f with
    | none => (fs, (f, 2, v, v) :: cs)
    | some x =>
      if rest.any (·.1 == f) then (fs, (f, 3, v, v) :: cs)
      else
        match x.apply v with
        | (a, some r) => ((f, a) :: fs, (f, r, v, a) :: cs)
        | (a, none) => ((f, a) :: fs, cs)

/-- The first split's rule (07 R230) on new values with unchanged fields at their current ones: the fields as it
leaves them, and its clamps with REASON 4. -/
def State.splitClamp (s : State) (t : Nat) (fs : List (Nat × Nat)) : List (Nat × Nat) × List (Nat × Nat × Nat × Nat) :=
  let n := (s.allocRanks t).length
  if n == 0 || !(fs.any fun (f, _) => 0x0308 ≤ f && f ≤ 0x030B) then (fs, [])
  else
    let v := fun (f : Nat) => tgetD fs f (s.cfg t f)
    let (a, b, c) := splitSizes n (s.tp t).width (v 0x0308) (v 0x0309)
    let want := [(0x0309, c), (0x0308, a), (0x030A, min (v 0x030A) a), (0x030B, min (v 0x030B) b)]
    want.foldl (fun (fs, cs) (f, x) => if x == v f then (fs, cs) else (tset fs f x, cs ++ [(f, 4, v f, x)])) (fs, [])

/-- The phase of a field (R379). -/
def State.phaseOfField (s : State) (t f v : Nat) : Nat :=
  let cur := s.cfg t f
  match (fieldSpec f).map (·.cls) with
  | some 1 => if v < cur then 0 else if v > cur then 2 else 1
  | some 2 => if v > cur then 0 else if v < cur then 2 else 1
  | _ => 1

/-! Applying a phase on a module. -/

/-- Does this module run steps of the tenant? -/
def State.runsSteps (s : State) (t : Nat) : Bool :=
  s.gen.runs.any (fun r => r.tenant == t && r.rank == s.dom.rank)
    || (List.finRange 160).any fun i => s.tiles[i].ctl.cmd.any fun c => c.fn.val == t + 1

/-- Modules that a raised minimum moves (R379, 06 R190): from decode to prefill, and otherwise from prefill while it
is above its own minimum; a lease fixes the decode pool (06 R181). -/
def State.meetMinimum (s : State) (t : Nat) (p : PoolId) : State :=
  let x := s.tp t
  let have' := (x.pools.get p).length
  let giver := if p == .pre || x.pools.prefillPool.length ≤ s.poolMin t .pre then PoolId.dec else .pre
  let pool := x.pools.get giver
  let groups := if giver == .dec then x.groups else poolGroups x.width pool
  let need := min (s.poolMin t p - have') (pool.length - s.poolMin t giver)
  if s.phaseOf t != .generate || need == 0 || giver == p || (p == .pre && have' == 0) then s
  else if (giver == .dec || p == .dec) && (s.leaseOf t).state != .none then
    s.moveBlocked t .dec 0
  else
    let rs := (s.leavingOrder t x.width pool groups).take need
    if s.overGroups t rs giver p then s.moveBlocked t p 0 else s.leavePool t rs giver p

/-- A phase's fields in force on this module at its epoch. -/
def State.applyFields (s : State) (t epoch : Nat) (fs : List (Nat × Nat)) : State :=
  let s := s.setCmd { s.cmd with
    config := fs.foldl (fun cs (f, v) => ⟨t, f, v, epoch⟩ :: cs.filter fun c => !(c.tenant == t && c.field == f)) s.cmd.config
    staged := s.cmd.staged.filter fun x => !(x.1 == t && x.2.1 == epoch) }
  [(0x030A, PoolId.pre), (0x030B, .dec), (0x030C, .cache)].foldl (fun s (f, p) => if fs.any (·.1 == f) then s.meetMinimum t p else s) s

/-! The coordinator's side. -/

def State.modJob (s : State) (c : CmdRef) (f : ConfigJob → ConfigJob) : State :=
  s.setCmd { s.cmd with configJobs := updFirst (·.cmd == c) f s.cmd.configJobs }

def ConfigJob.ofPhase (j : ConfigJob) : List (Nat × Nat) := (j.fields.filter fun x => x.2.2 == j.phase).map fun x => (x.1, x.2.1)

/-- The report (R380); at most 64 clamps are written. -/
def configReport (j : ConfigJob) : List Byte :=
  let cl := j.clamps.take 64
  fields [(8, j.firstEpoch), (1, j.phases), (1, cl.length), (1, if j.clamps.length > 64 then 1 else 0), (1, 0), (4, j.effected.length)]
    ++ j.effected.flatMap (fun (f, p, e) => fields [(2, f), (1, p), (5, 0), (8, e)])
    ++ cl.flatMap fun (f, r, q, a) => fields [(2, f), (1, r), (5, 0), (8, q), (8, a)]

/-- Bytes written by a command: to its tenant's memory through staging, to PF0's host memory at its commit. -/
def State.outputAny (s : State) (c : Cmd) (a : Nat) (bs : List Byte) : Except MemErr State :=
  if c.ref.fn.val == 0 then
    if s.translates 0 a (max bs.length 1) then .ok (s.hostWrite 0 a bs) else .error (.fault (excAddress a))
  else s.output c a bs

/-- The last phase has taken effect: the report, then OK with the last epoch in DETAIL. -/
def State.finishConfig (s : State) (j : ConfigJob) : State :=
  let s := s.setCmd { s.cmd with configJobs := s.cmd.configJobs.filter (·.cmd != j.cmd) }
  match s.cmdAt j.cmd with
  | none => s
  | some c =>
    match s.outputAny c j.report (configReport j) with
    | .ok s' => s'.vote j.cmd ((j.effected.getLast?).elim s.dom.epoch fun x => x.2.2) (if j.clamps.isEmpty then 0 else 0x40) []
    | .error (.fault e) => s.finish j.cmd e.code e.detail 0
    | .error _ => s.finish j.cmd stBulkFull 0 0

/-- Members that have not replied APPLIED for the phase. -/
def State.missingApplied (s : State) (j : ConfigJob) : List Nat := (ranksOf s.dom.members).filter fun r => !j.applied.contains r

/-- The first CONFIG_SET in order of arrival goes on as far as it can (sets of two tenants wait for each other
too, log entry 41): empty phases are passed over, a phase that every member has
applied takes effect at its epoch, and the next begins. -/
def State.pumpConfig : Nat → State → CmdRef → State
  | 0, s, _ => s
  | fuel + 1, s, c =>
    match s.cmd.configJobs.find? (·.cmd == c) with
    | none => s
    | some j =>
      if s.cmd.configJobs.head?.any (·.cmd != c) then s
      else if j.phase ≥ 3 then
        let s := s.finishConfig j
        match s.cmd.configJobs.head? with
        | some k => State.pumpConfig fuel s k.cmd
        | none => s
      else if j.ofPhase.isEmpty then State.pumpConfig fuel (s.modJob c fun x => { x with phase := x.phase + 1, applied := [] }) c
      else
        let epoch := s.dom.epoch + 1
        let begun := s.cmd.staged.any (fun x => x.1 == j.tenant && x.2.1 == epoch) || j.applied.contains s.dom.rank
        if !begun then
          let s := s.sendAll ((ranksOf s.dom.members).filter (· != s.dom.rank)) .apply
            ([j.tenant, epoch] ++ j.ofPhase.flatMap fun (f, v) => [f, v])
          if s.runsSteps j.tenant then s.setCmd { s.cmd with staged := s.cmd.staged ++ [(j.tenant, epoch, j.ofPhase)] }
          else State.pumpConfig fuel ((s.applyFields j.tenant epoch j.ofPhase).modJob c fun x => { x with applied := s.dom.rank :: x.applied }) c
        else if !(s.missingApplied j).isEmpty then s
        else
          let s := s.setDom { s.dom with epoch := epoch }
          let s := s.emitCommand (tenantFn j.tenant) (s.homeDie c) 0x0002 c.sq 0 epoch
          State.pumpConfig fuel (s.modJob c fun x => { x with
            phase := x.phase + 1, applied := [], phases := x.phases + 1
            firstEpoch := if x.phases == 0 then epoch else x.firstEpoch
            effected := x.effected ++ j.ofPhase.map fun (f, _) => (f, j.phase, epoch) }) c

def State.pump (s : State) (c : CmdRef) : State := State.pumpConfig (12 * (s.cmd.configJobs.length + 1)) s c

/-- Barriers reconsidered after a change of membership (R380). -/
def State.pumpAll (s : State) : State := s.cmd.configJobs.foldl (fun s j => s.pump j.cmd) s

/-- APPLY at the tenant's step boundary on this module: the fields of the coordinator's message, or those staged
here by this module as the coordinator; APPLIED goes back. -/
def State.applyPhase (s : State) (t epoch : Nat) (fs : List (Nat × Nat)) : State :=
  match s.cmd.staged.find? fun x => x.1 == t && x.2.1 == epoch with
  | some (_, _, mine) =>
    let s := s.applyFields t epoch mine
    match s.cmd.configJobs.find? (·.tenant == t) with
    | some j => (s.modJob j.cmd fun x => { x with applied := s.dom.rank :: x.applied }).pump j.cmd
    | none => s
  | none =>
    if epoch ≤ s.dom.epoch || s.cmd.configJobs.any (·.tenant == t) then s
    else
      let s := (s.applyFields t epoch fs).setDom { s.dom with epoch := epoch }
      s.sendTo s.dom.coord .applied [t, epoch, s.dom.rank]

end Sys2Proof.Machine
end

