-- ==== Sys2Proof/Machine/Relay.lean ====
section
/-! DEFINITION. Weight images on the relay chains (13 R407, R408; 17 R497, R498; 10 R290). -/

namespace Sys2Proof.Machine

/-! Chains (13 R407). -/

/-- Ranks of chain k in order, those that are members. -/
def State.chain (s : State) (k : Nat) : List Nat :=
  ((List.range s.dom.size).map fun p => (s.dom.anchor + p * (2 * k + 1)) % s.dom.size).filter fun r => s.dom.members.getLsbD r

/-- The rank that this module passes chain k on to. -/
def State.chainNext (s : State) (k : Nat) : Option Nat := ((s.chain k).dropWhile (· != s.dom.rank))[1]?

def State.passOn (s : State) (c : CmdRef) (k : Nat) (params data : List Byte) : State :=
  (s.chainNext k).elim s fun r => s.send ⟨r, .imageSegment, refArgs c ++ [k], params ++ data⟩

/-! Loads on this module. -/

def State.loadOf (s : State) (c : CmdRef) : Option RelayLoad := s.host.relay.find? (·.cmd == c)

def State.modLoad (s : State) (c : CmdRef) (f : RelayLoad → RelayLoad) : State :=
  s.setHost { s.host with relay := updFirst (·.cmd == c) f s.host.relay }

/-- The member index under which a rank holds part of the layout (09 R252, 10 R287); none where it holds nothing. -/
def State.loadShare (s : State) (r : RelayLoad) (rank : Nat) : Option Nat :=
  let t := r.cmd.fn.val - 1
  (s.modelAt t r.model).bind fun m =>
    if r.target ≤ 1 then m.learn.bind fun l => l.members.findIdx? (· == rank)
    else s.partIndex (s.planOf t r.model m r.version false false) rank

/-- The load fails and commits nothing (17 R498). -/
def State.failLoad (s : State) (c : CmdRef) (reason seg : Nat) : State :=
  (s.cmdAt c).elim s fun k => s.failCmd k stIllegalOperand (seg % 2 ^ 32 + reason * 2 ^ 32) 0

/-! The format (17 R497). -/

/-- PARTs that a tensor needs under a target. -/
def loadNeeds (target : Nat) (x : TensorDef) : List Nat :=
  match target with
  | 0 => [0, 3, 4, 5]
  | 1 => [0]
  | _ => 0 :: (if fmtScaled x.genFmt then [1] else []) ++ (if x.genFmt == 0xB then [2] else [])

/-- The format code of a PART. The 16-bit extension has no code of its own: any stands. -/
def loadFmt (m : Model) (target part fmt : Nat) (x : TensorDef) : Bool :=
  if target == 2 then fmt == x.genFmt
  else
    match part with
    | 0 => fmt == 1
    | 3 => m.compact || fmt == 0
    | 4 => fmt == if m.compact then 0xC else 0
    | _ => fmt == if m.compact then 0xD else 0

/-- Bytes of one row of a PART. -/
def loadRow (m : Model) (target part : Nat) (x : TensorDef) : Nat :=
  match part with
  | 0 => if target == 2 then x.elemBytes 1 x.rowLen else 2 * x.rowLen
  | 1 => x.scaleBytes 1 x.rowLen
  | 3 => (if m.compact then 2 else 4) * x.rowLen
  | _ => (if m.compact then 1 else 4) * x.rowLen

def loadLen (m : Model) (target part count : Nat) (x : TensorDef) : Nat :=
  match part with
  | 2 => 4
  | 0 => if target == 2 then x.elemBytes count x.rowLen else 2 * count * x.rowLen
  | p => count * loadRow m target p x

/-- Does the module with a share keep part of a run of rows? -/
def Model.keepsRows (m : Model) (target share part first count : Nat) (x : TensorDef) : Bool :=
  if part == 2 then (x.part m.w share).isSome
  else (List.range count).any fun i =>
    if target == 2 then (x.heldRow m.w share (first + i)).isSome
    else
      let n := (m.learn.elim 1 fun l => l.members.length)
      (first + i) / (shardBlock n).2 % max n 1 == share

/-! What the commit writes. -/

/-- Local row of a global row on its member (09 R252). -/
def localRow (n r : Nat) : Nat := let u := (shardBlock n).2; r / (u * n) * u + r % u

/-- A kept segment's bytes in a learning shard: rows of the weights and of the three state fields. Under TARGET 1 a
weight gives its master too. -/
def learnWrites (m : Model) (l : Learn) (target share : Nat) (g : RelaySeg) : List (Nat × List Byte) :=
  match m.tensors[g.tensor]?, l.shards[g.tensor]? with
  | some x, some p =>
    let n := l.members.length
    let c := m.shardCount n g.tensor
    let rb := loadRow m target g.part x
    ((List.range g.count).filter fun i => (g.first + i) / (shardBlock n).2 % max n 1 == share).flatMap fun i =>
      let bs := (g.data.drop (i * rb)).take rb
      let e := localRow n (g.first + i) * x.rowLen
      match g.part with
      | 0 => (p.w + 2 * e, bs) :: (if target == 1 && !m.compact then
          [(p.st + 4 * e, (List.range x.rowLen).flatMap fun j => 0 :: 0 :: (bs.drop (2 * j)).take 2)] else [])
      | 3 => [(p.st + (if m.compact then 2 else 4) * e, bs)]
      | 4 => [(p.st + (if m.compact then 2 * c + e else 4 * c + 4 * e), bs)]
      | _ => [(p.st + (if m.compact then 3 * c + e else 8 * c + 4 * e), bs)]
  | _, _ => []

/-- A kept segment's bytes in a part of a generation layout. -/
def genWrites (m : Model) (ps : List GenPart) (g : RelaySeg) : List (Nat × List Byte) :=
  match m.tensors[g.tensor]?, ps.find? fun p => p.tensor == g.tensor with
  | some x, some p =>
    let (c0, len) := x.cols m.w p.part
    let rb := loadRow m 2 g.part x
    let (eb, sb) := x.rowBytes m.w p.part
    if g.part == 2 then []
    else (List.range g.count).filterMap fun i => (x.heldRow m.w p.part (g.first + i)).map fun h =>
      let bs := (g.data.drop (i * rb)).take rb
      if g.part == 0 then (p.elemTva + h * eb, (bs.drop (c0 * fmtBits x.genFmt / 8)).take eb)
      else (p.scaleTva + h * sb, (bs.drop (c0 / 32)).take (len / 32 + (if len % 32 == 0 then 0 else 1)))
  | _, _ => []

/-- Every part is in: the writes are made ready and the module votes; a generation layout is allocated. -/
def State.completeLoad (s : State) (c : CmdRef) (r : RelayLoad) (m : Model) : State :=
  let t := c.fn.val - 1
  let ready := fun (s : State) (units : List (Nat × Nat)) (ws : List (Nat × List Byte)) =>
    let s := s.modLoad c fun r => { r with complete := true, writes := ws, units := units }
    match s.cmdAt c with
    | none => s
    | some k =>
      if k.home == s.dom.rank then s.vote c 0 0 []
      else (s.modCmd c fun k => { k with phase := .voting }).send ⟨k.home, .vote, refArgs c ++ [s.dom.rank, 0, 0, 0], []⟩
  match s.loadShare r s.dom.rank with
  | none => ready s [] []
  | some i =>
    if r.target == 2 then
      match s.deviceAlloc t (m.shareBytes i) .any with
      | none => (s.cmdAt c).elim s fun k => s.failCmd k stBulkFull 0 0
      | some (a, s) =>
        let ps := m.layParts i a
        let scale := fun (k : Nat) => (r.kept.find? fun (g : RelaySeg) => g.part == 2 && g.tensor == k).elim (0x3F800000#32) fun g => BitVec.ofNat 32 (leNat g.data)
        let mapped := m.mapBytes (ps.map fun p => { p with tscale := scale p.tensor })
        let s := s.modModel t r.model fun m => { m with layouts := m.layouts.map fun l =>
          if l.version == r.version then { l with parts := ps, mapTva := a } else l }
        ready s (unitRange t (a / unitBytes) (unitsFor (m.shareBytes i))) ((a, mapped) :: r.kept.flatMap (genWrites m ps))
    else
      let zeroed := if r.target == 1 then
        (List.range m.tensors.length).filterMap fun k => (m.learn.bind fun l => l.shards[k]?).map fun p =>
          (p.st, zeros (m.stateBytes (m.learn.elim 1 (·.members.length)) k)) else []
      ready s [] (zeroed ++ (m.learn.elim [] fun l => r.kept.flatMap (learnWrites m l r.target i)))

/-- After a segment: all of them in, and every row of every PART seen? Missing rows name no segment: that field of
DETAIL is a free value. -/
def State.checkLoad (s : State) (c : CmdRef) : State :=
  match s.loadOf c with
  | none => s
  | some r =>
    match r.head, s.modelAt (c.fn.val - 1) r.model with
    | some h, some m =>
      let n := field 0x10 8 h
      if r.complete || (List.range 10).any fun k => tgetD r.next k k < n then s
      else
        let full := m.tensors.zipIdx.all fun (x, k) => (loadNeeds r.target x).all fun p =>
          ((r.rows.filter (·.1 == (k, p))).foldl (fun a y => a + y.2.2) 0) == x.rows
        if full then s.completeLoad c r m
        else
          let (v, s) := s.freeValue
          s.failLoad c 5 v
    | _, _ => s

/-- The header (17 R497, R498). -/
def State.takeHead (s : State) (c : CmdRef) (r : RelayLoad) (params h : List Byte) (tagOk digestOk : Bool) : State :=
  let t := c.fn.val - 1
  if r.head.isSome then s
  else
    let named := field 0 4 h == 0x3149574A && field 4 2 h == 1 && field 7 1 h == r.target && field 8 4 h == r.model && field 0xC 4 h == r.version
    if !named then s.failLoad c 1 0xFFFFFFFF
    else if (tget s.boot.imageKeys (t, field 6 1 h)).isNone then s.failLoad c 3 0xFFFFFFFF
    else if !tagOk then s.failLoad c 1 0xFFFFFFFF
    else if !digestOk then s.failLoad c 5 0xFFFFFFFF
    else
      let s := s.modLoad c fun r => { r with head := some (padTo 128 h) }
      ((List.range 10).foldl (fun s k => s.passOn c k params (padTo 128 h)) s).checkLoad c

/-- A segment: taken once, checked, passed on as it stands, and kept in part where this module's layout holds rows
of it. -/
def State.takeSegment (s : State) (c : CmdRef) (r : RelayLoad) (params h cipher : List Byte) (plain : Option (List Byte)) : State :=
  match r.head, s.modelAt (c.fn.val - 1) r.model with
  | some hd, some m =>
    let idx := field 0 8 h
    let k := idx % 10
    let tensor := field 8 4 h
    let part := field 0xC 1 h
    let first := field 0x10 4 h
    let count := field 0x14 4 h
    if r.complete || idx < tgetD r.next k k then s
    else if idx != tgetD r.next k k || idx ≥ field 0x10 8 hd then s.failLoad c 4 idx
    else
      match m.tensors[tensor]? with
      | none => s.failLoad c 5 idx
      | some x =>
        let span := if part == 2 then (0, x.rows) else (first, count)
        let fits := (loadNeeds r.target x).contains part && loadFmt m r.target part (field 0xD 1 h) x
          && span.2 != 0 && span.1 + span.2 ≤ x.rows && field 0x18 4 h == loadLen m r.target part count x
          && field 0x18 4 h ≤ 16 * mib
        let again := r.rows.any fun (k, (a, n)) => k == (tensor, part) && a < span.1 + span.2 && span.1 < a + n
        let mine := (s.loadShare r s.dom.rank).any fun i => m.keepsRows r.target i part first count x
        if !fits || again then s.failLoad c 5 idx
        else if mine && plain.isNone then s.failLoad c 2 idx
        else
          let s := s.passOn c k params (padTo 64 h ++ cipher)
          let s := s.modLoad c fun r => { r with
            next := tset r.next k (idx + 10)
            rows := ((tensor, part), span) :: r.rows
            kept := if mine then r.kept ++ [⟨tensor, part, first, count, padTo (field 0x18 4 h) (plain.getD [])⟩] else r.kept }
          s.checkLoad c
  | _, _ => s

/-- The image ended before its N_SEGMENTS. -/
def State.endImage (s : State) (c : CmdRef) (r : RelayLoad) : State :=
  let n := r.head.elim 1 (field 0x10 8)
  let left := (List.range 10).filterMap fun k => if tgetD r.next k k < n then some (tgetD r.next k k) else none
  match left.min? with
  | some i => if r.complete then s else s.failLoad c 4 i
  | none => s

/-- The part of a load on a module other than the anchor, begun by its header. -/
def State.joinLoad (s : State) (c : CmdRef) (params : List Byte) : State :=
  let mid := field 0 4 params
  if (s.cmdAt c).isSome || s.dom.rank == s.dom.anchor || c.fn.val == 0 || (s.modelAt (c.fn.val - 1) mid).isNone then s
  else
    let s := s.setCmds (s.cmd.cmds ++ [partCmd c ⟨s.dom.anchor, 0x201, params, [], []⟩ [] s.time])
    s.beginLoad c mid (field 4 1 params) (field 8 4 params)

/-- IMAGE_RELAY (13 R407): what arrives of an image, from the host on the anchor or on a chain. -/
def execImageRelay (c : CmdRef) (params : List Byte) (item : ImageItem) (s : State) : Out :=
  let s' := (match item with
    | .head b tagOk digestOk =>
      let params := (s.cmdAt c).elim params (·.params)
      let s := if (s.loadOf c).isNone then s.joinLoad c params else s
      (s.loadOf c).elim s fun r => s.takeHead c r params b tagOk digestOk
    | .seg h cipher plain => (s.loadOf c).elim s fun r => s.takeSegment c r ((s.cmdAt c).elim params (·.params)) h cipher plain
    | .last => if s.dom.rank == s.dom.anchor then (s.loadOf c).elim s fun r => s.endImage c r else s)
  -- a load that has committed takes the reference of an earlier one (10 R292)
  .next (if (s.loadOf c).isSome && (s'.loadOf c).isNone then s'.refDropped (c.fn.val - 1) else s')

/-! Loss of a module (13 R408). -/

/-- The loads that a lost rank takes part in: it leaves every chain and the commit; a spare that takes its place
takes the image's segments anew; without one the load ends with NO_SPARE where the rank held parts. `held` are
the loads in which it did, `spare` the spare. -/
def State.loseRelay (s : State) (rank : Nat) (held : List CmdRef) (spare : Option Nat) : State :=
  s.host.relay.foldl (fun s r =>
    match s.cmdAt r.cmd with
    | none => s
    | some k =>
      let s := s.modCmd r.cmd fun k => { k with tiles := k.tiles.filter (·.1 != rank) }
      if held.contains r.cmd && spare.isNone then
        if k.home == s.dom.rank then s.failCmd k stNoSpare 0 0 else s
      else if held.contains r.cmd && spare == some s.dom.rank then
        (s.modLoad r.cmd fun x => { x with next := [], rows := [], kept := [], complete := false, writes := [] })
      else s) s

end Sys2Proof.Machine
end

