-- ==== Sys2Proof/Machine/DomOps.lean ====
section
/-! DEFINITION. Formation rounds and the loss of a member (13 R397 to R401). -/

namespace Sys2Proof.Machine

def State.isCoord (s : State) : Bool := s.dom.rank == s.dom.coord

/-- The other members of the domain. -/
def State.peers (s : State) : List Nat := (ranksOf s.dom.members).filter (· != s.dom.rank)

/-- M of R397. -/
def State.majority (s : State) : Nat := s.dom.size / 2 + 1

def countBits (m : BitVec 64) : Nat := (ranksOf m).length

/-! Rounds (R397, R398). -/

/-- The FORM record that this module sends. -/
def State.formRecord (s : State) : Form where
  serial := s.regs.serial
  rank := s.dom.rank
  flags := (if s.sig.anchorSel then 1 else 0) + (if s.dom.phase == .quarantined then 2 else 0) + (if s.dom.heldState then 4 else 0)
  fwMajor := s.pkgImage.elim 0 (·.major)
  fwMinor := s.pkgImage.elim 0 (·.minor)
  level := s.levelMax
  reach := s.dom.reach
  digest := s.boot.record.elim 0 (·.digest)
  time := s.dom.time
  epoch := s.dom.epoch
  round := s.dom.round

/-- The 64 bytes of a FORM record (R397). -/
def Form.bytes (f : Form) : List Byte :=
  fields [(8, f.serial.toNat), (1, f.rank), (1, f.flags), (2, f.fwMajor), (2, f.fwMinor), (2, f.level), (8, f.reach.toNat),
    (16, f.digest), (8, f.time), (8, f.epoch), (4, f.round), (4, 0)]

/-- Ranks that this module reaches, directly or by detour. -/
def State.reachNow (s : State) : BitVec 64 :=
  (List.range 64).foldl (fun (m : BitVec 64) r =>
    let a := s.addrOf r
    if r < s.dom.size && (r == s.dom.rank || !(s.upLinks a).isEmpty || (s.via a).isSome) then m ||| (1#64 <<< r) else m) 0

/-- Ranks reached now or within the last 50 ms. -/
def State.reachRecent (s : State) : BitVec 64 :=
  (List.range 64).foldl (fun (m : BitVec 64) r =>
    if r < s.dom.size && (tget s.lnk.settling (s.addrOf r)).any fun t => s.time < t + 50 * ms then m ||| (1#64 <<< r) else m) s.reachNow

/-- A round begins: the module's FORM record goes to every rank it reaches. A module that comes back more than 2 s after
its reset, and so was declared lost, says that it holds tenant state (14 R417; R401). A quarantined module is checked
again in every round (R400). -/
def State.beginRound (s : State) (round : Nat) : State :=
  let away := s.dom.resetAt.any fun t => s.time > t + 2000 * ms
  let s := s.setDom { s.dom with
    round := round, roundAt := s.time, forms := [], accepts := [], accepted := none, reach := s.reachNow
    heldState := s.dom.heldState || away }
  let f := s.formRecord
  let phase := if s.dom.phase == .quarantined then .forming else s.dom.phase
  let s := s.setDom { s.dom with forms := [f], phase := phase }
  ((ranksOf s.dom.reach).filter (· != s.dom.rank)).foldl (fun s r => s.send ⟨r, .form, [f.round], f.bytes⟩) s

/-! Loss of a member (R401). -/

/-- Tenants with work on a rank: it stands in their pools, or a command of theirs runs there. -/
def State.tenantsOn (s : State) (rank : Nat) : List Nat :=
  s.knownTenants.filter fun t => (s.poolsOf t).all.contains rank
    || s.cmd.cmds.any fun c => c.ref.fn.val == t + 1 && c.running && c.tiles.any (·.1 == rank)

/-- A page of the peer tier poisoned whole (05 R148). -/
def MemState.markPage (m : MemState) (dpa : Nat) : MemState :=
  (List.range 256).foldl (fun m i => m.mark (dpa + 256 * i)) m

/-- Every peer page on the rank poisoned; the prefix nodes that it caches leave the tree (07 R210). -/
def State.poisonPeer (s : State) (rank : Nat) : State :=
  let lo := peerBase + rank * portSpan
  let pages := s.mem.units.flatMap fun (_, u) => u.backing.entries.filter fun p => p.tier == .peer && lo ≤ p.dpa && p.dpa < lo + portSpan
  let s := s.setMem (pages.foldl (fun m p => m.markPage p.dpa) s.mem)
  s.setGen { s.gen with nodes := s.gen.nodes.map fun n => if n.cache == rank then { n with removed := true } else n }

/-- The lost rank leaves a tenant's pools, or the spare takes its index (09 R275). -/
def State.leavePools (s : State) (t rank : Nat) (spare : Option Nat) : State :=
  if !(s.tp t).pools.all.contains rank then s
  else
    match spare with
    | some sp =>
      let s := (s.replaceRank t rank sp)
      { s with turn := { s.turn with spareMask := s.turn.spareMask &&& ~~~(1#64 <<< sp) } }
    | none =>
      let drop := fun (l : List Nat) => l.filter (· != rank)
      let p := (s.tp t).pools
      let s := s.modTp t fun x => { x with
        pools := { x.pools with cachePool := drop p.cachePool, scorePool := drop p.scorePool, learnPool := drop p.learnPool } }
      let s := if p.decodePool.contains rank then s.setDecode t (drop p.decodePool) else s
      if p.prefillPool.contains rank then s.setPrefill t (drop p.prefillPool) else s

/-- Requests whose home the rank was end with REQUEST_LOST (07 R200). -/
def State.loseRequests (s : State) (rank : Nat) : State :=
  let lost := s.gen.reqs.filter fun r => r.home.contains rank && !r.state.terminal
  lost.foldl (fun s r =>
    let s := s.endReq r.tenant r.tag .failed stRequestLost 0
    (s.reqAt r.tenant r.tag).elim s s.finalise) s

/-- Commands of this interpreter before their decision that the rank took part in run again; parts of the rank's own
commands leave (R401; 12 R370). Relay loads have a rule of their own (R408). -/
def State.loseCommands (s : State) (rank : Nat) : State :=
  s.cmd.cmds.foldl (fun s c =>
    if c.home == rank then s.dropPart c.ref
    else if c.home == s.dom.rank && c.running && c.opcode != 0x201 && c.tiles.any (·.1 == rank) then s.rerun c false
    else s) s

/-- The message that a coordinator sends for a lost rank's instances, and its effect here (11 R347). -/
def State.abortLost (s : State) (rank : Nat) : State :=
  (s.coll.insts.filter fun i => i.members.contains (s.addrOf rank)).foldl (fun s i =>
    s.failFence i (failExc stCollAbort i.key.group i.key.seq 1)) s

/-- Replies and barriers that no longer wait for a rank. -/
def State.resettle (s : State) : State :=
  (s.cmd.sqs.foldl (fun s q => s.settleQueue ⟨Fin.ofNat 513 q.fn, q.idx, 0⟩) s).pumpAll

/-- The declaration of a lost rank as this module takes it: as the coordinator that makes it, or as a member. -/
def State.memberLost (s : State) (rank cause : Nat) : State :=
  if rank == s.dom.rank || !((s.dom.members ||| s.dom.quarantined).getLsbD rank) then s
  else
    let tenants := s.tenantsOn rank
    let held := (s.host.relay.filter fun r => (s.loadShare r rank).isSome).map (·.cmd)
    let wasAnchor := rank == s.dom.anchor
    let wasCoord := rank == s.dom.coord
    let b := 1#64 <<< rank
    let s := s.setDom { s.dom with
      members := s.dom.members &&& ~~~b, quarantined := s.dom.quarantined &&& ~~~b, lost := s.dom.lost ||| b
      resetting := s.dom.resetting.filter (·.1 != rank) }
    let s := if !s.isCoord then s
      else
        let s := s.emitDomain 0x0902 rank 0 cause
        let s := tenants.foldl (fun s t => s.emitTenant t (srcCore 0 5) 0x09 (hostPayload 0x0902 rank s.dom.round 0 cause)) s
        (s.sendAll s.peers .domainOrder [2, rank, cause]).sendAll s.peers .collAbort [1, rank]
    let s := (s.abortLost rank).loseCommands rank
    let spare := s.spareFor rank
    let s := (s.loseMember rank).freezeLoss rank
    let s := tenants.foldl (fun s t => s.leavePools t rank spare) s
    let s := ((s.loseRequests rank).poisonPeer rank).loseRelay rank held spare
    let s := s.resettle
    let s := if wasAnchor then (s.setDom { s.dom with noHost := true }).resetAllTenants else s
    if wasCoord then s.beginRound (s.dom.round + 1) else s

end Sys2Proof.Machine
end

