-- ==== Sys2Proof/Machine/Collectives.lean ====
section
/-! DEFINITION. Collective groups, contributions, failures, heat notices and aborts (11 R336 to R348), and modules that
announce a reset (14 R417). -/

namespace Sys2Proof.Machine

/-! Groups (R336 to R338). -/

/-- The pool of a POOL code, in its member order; the ranks of a stage come with the command (06 R189). -/
def State.groupPool (s : State) (t pool : Nat) (stage : List Nat) : List Nat :=
  let p := s.poolsOf t
  match pool with
  | 0 => p.prefillPool | 1 => p.decodePool | 2 => p.cachePool | 3 => p.scorePool | 4 => p.learnPool
  | _ => stage

/-- Partitions over a pool within the domain (R337). -/
def formPartitions (g : Nat) (strided : Bool) (pool : List Nat) : List (List Nat) :=
  let n := pool.length / max g 1
  (List.range n).map fun k => (List.range g).map fun i => pool.getD (if strided then k + i * n else k * g + i) 0

/-- The tenant's domains of the grid in ascending (row, column) order, with its pool in each; this one among them. -/
def State.gridPools (s : State) (pool : List Nat) (grid : List (Nat × Nat × List Nat)) : List (Nat × Nat × List Nat) :=
  sortBy (fun x => x.1 * 16 + x.2.1) ((s.dom.row, s.dom.col, pool) :: grid.filter fun x => !(x.1 == s.dom.row && x.2.1 == s.dom.col))

def gridPartitions (ds : List (Nat × Nat × List Nat)) : List (List Nat) :=
  (List.range ((ds.head?).elim 0 fun x => x.2.2.length)).map fun k => ds.map fun (r, c, p) => mkAddr r c (p.getD k 0)

/-- Partitions of a group, as addresses. -/
def State.partitionsOf (s : State) (t pool : Nat) (g : Nat) (strided acrossGrid : Bool) (stage : List Nat)
    (grid : List (Nat × Nat × List Nat)) : List (List Nat) :=
  let ranks := s.groupPool t pool stage
  if acrossGrid then gridPartitions (s.gridPools ranks grid)
  else (formPartitions (if g == 0 then ranks.length else g) strided ranks).map fun p => p.map s.addrOf

/-- The group that the parameters create, its ID and its number of partitions; or the status. -/
def State.newGroup (s : State) (t : Nat) (p : List Byte) (stage : List Nat) (grid : List (Nat × Nat × List Nat)) : Except Nat CollGroup :=
  let pool := field 0 1 p
  let size := field 4 2 p
  let us := field 6 2 p
  let ranks := s.groupPool t pool stage
  let ds := s.gridPools ranks grid
  let across := field 3 1 p == 1
  let bad := pool > 5 || field 2 1 p > 1 || field 3 1 p > 1 || us < 20 || us > 1900 || ranks.isEmpty
    || (if across then (ds.any fun x => x.2.2.length != ranks.length) || (size != 0 && size != ds.length)
        else size > 64 || size > ranks.length)
  if bad then .error stIllegalOperand
  else
    let used := (s.coll.groups.filter (·.tenant == t)).map (·.id)
    match (List.range 256).find? fun i => !used.contains i with
    | none => .error stCollGroupLimit
    | some id =>
      if ranks.any fun r => s.groupsHeld r ≥ 256 then .error stCollGroupLimit
      else
        let strided := field 2 1 p == 1
        .ok ⟨t, id, pool, field 1 1 p, strided, across, size, us, s.partitionsOf t pool size strided across stage grid⟩

def State.addGroup (s : State) (g : CollGroup) : State := s.setColl { s.coll with groups := s.coll.groups ++ [g] }

/-- A table command of a tenant told to every other member. -/
def State.tellMembers (s : State) (c : Cmd) : State :=
  s.peers.foldl (fun s r => s.send ⟨r, .startPart, refArgs c.ref ++ [c.opcode, c.tenant], c.params⟩) s

/-- COLL_GROUP_CREATE: on its interpreter, or the table command that another member carries out. -/
def execCollGroupCreate (c : CmdRef) (stage : List Nat) (grid : List (Nat × Nat × List Nat)) (part : Option (Fin 512 × List Byte))
    (s : State) : Out :=
  .next (match part with
    | none => runCommand 0x600 c (fun s k =>
        match s.newGroup k.tenant k.params stage grid with
        | .error st => .fail st 0
        | .ok g => .ok ((s.addGroup g).tellMembers k) (g.id + g.partitions.length % 256 * 256) 0) s
    | some (t, p) =>
      match s.newGroup t.val p stage grid with
      | .error _ => s
      | .ok g => s.addGroup g)

/-- Does a command join a group of its tenant? A queued one by its parameters (12 R366; 09 R257). -/
def Cmd.joins (c : Cmd) (g : Nat) : Bool :=
  if c.phase == .done then false
  else if c.phase != .fetched then c.groups.contains g
  else if c.opcode == 0x500 then ((List.range (c.u 9 1)).map fun i => c.u (0x10 + i) 1).contains g
  else c.opcode == learnOpcode

def State.dropGroup (s : State) (t g : Nat) : State :=
  s.setColl { s.coll with groups := s.coll.groups.filter fun x => !(x.tenant == t && x.id == g) }

/-- COLL_GROUP_DESTROY (R338). -/
def execCollGroupDestroy (c : CmdRef) (part : Option (Fin 512 × Nat)) (s : State) : Out :=
  .next (match part with
    | none => runCommand 0x601 c (fun s k =>
        let g := k.u 0 1
        if !(s.coll.groups.any fun x => x.tenant == k.tenant && x.id == g) || (k.params.drop 1 |>.take 7).any (· != 0) then .fail stIllegalOperand 0
        else if s.cmd.cmds.any fun x => x.ref.fn == k.ref.fn && x.joins g then .fail stGroupBusy 0
        else .ok ((s.dropGroup k.tenant g).tellMembers k) 0 0) s
    | some (t, g) => s.dropGroup t g)

/-- COLL_GROUP_REFORMED (R338): the partitions from the pools as they now are. -/
def execCollGroupReformed (tenant : Fin 512) (g : Fin 256) (stage : List Nat) (grid : List (Nat × Nat × List Nat)) (s : State) : Out :=
  .next (match s.coll.groups.find? fun x => x.tenant == tenant.val && x.id == g.val with
    | none => s
    | some x =>
      let ps := s.partitionsOf tenant x.pool x.size x.strided x.grid stage grid
      let s := s.setColl { s.coll with groups := updFirst (fun y => y.tenant == tenant.val && y.id == g.val) (fun y => { y with partitions := ps }) s.coll.groups }
      s.collGroupEvent tenant g ps.length)

/-! Messages of an instance (R340, R343). -/

def State.instAt (s : State) (k : CollKey) : Option CollInst := s.coll.insts.find? (·.key == k)

/-- COLL_CONTRIBUTION: checked and held for the reduction, or kept until this module issues the instance. -/
def execCollContribution (c : CmdRef) (group lane seq : Nat) (part : CollPart) (s : State) : Out :=
  let k : CollKey := ⟨c, group, lane, seq⟩
  .next (match s.instAt k with
    | some i => s.acceptPart i part
    | none =>
      if (s.cmdAt c).isNone || seq < tgetD s.coll.done (c, group, lane) 0 then s
      else s.setColl { s.coll with early := s.coll.early ++ [(k, part)] })

/-- A failure by its code: the fence FAILED, or kept until the instance is issued. -/
def State.takeFail (s : State) (k : CollKey) (code cause : Nat) : State :=
  match s.instAt k with
  | some i => s.failFence i (failExc code k.group k.seq cause)
  | none =>
    if (s.cmdAt k.cmd).isNone || s.coll.earlyFail.any (·.1 == k) || k.seq < tgetD s.coll.done (k.cmd, k.group, k.lane) 0 then s
    else s.setColl { s.coll with earlyFail := s.coll.earlyFail ++ [(k, code, cause)] }

/-- COLL_FAIL (R343). -/
def execCollFail (c : CmdRef) (group lane seq code : Nat) (s : State) : Out := .next (s.takeFail ⟨c, group, lane, seq⟩ code 0)

/-- The instance that a tile's fence stands for. -/
def State.instOn (s : State) (t : Fin 160) (f : Fin 64) : Option CollInst := s.coll.insts.find? fun i => i.tile == t.val && i.fence == f.val

/-- Time that an instance's timer has run (R345, R346). -/
def State.instElapsed (s : State) (i : CollInst) : Nat := s.time - i.issuedAt - (i.held - (i.heldUntil - s.time))

/-- COLL_TIMEOUT (R345): raised once the timer passes TIMEOUT_US; not while a notice holds it (R348). -/
def execCollTimeout (t : Fin 160) (fence : Fin 64) (s : State) : Out :=
  .next (match s.instOn t fence with
    | none => s
    | some i =>
      if s.time < i.heldUntil || s.instElapsed i ≤ i.timeoutUs * us then s
      else s.detectFail i (excColl 0x09 i.key.group i.key.seq 0))

/-! Heat notices (R346). -/

/-- HEAT_NOTICE: the timer of the named instance is held until 500 µs from now. -/
def execHeatNotice (c : CmdRef) (group lane seq _level _unit : Nat) (s : State) : Out :=
  .next (match s.instAt ⟨c, group, lane, seq⟩ with
    | none => s
    | some i =>
      let til := s.time + 500 * us
      s.setInst { i with held := i.held + (til - max i.heldUntil s.time), heldUntil := til })

/-- HEAT_NOTICE_RENEWAL: every 250 µs while the condition lasts, for every instance that is not DONE. -/
def execHeatNoticeRenewal (s : State) : Out := .next (s.coll.insts.foldl State.sendHeat s)

/-- HEAT_NOTICE_HOLD_END: the timer runs again. -/
def execHeatNoticeHoldEnd (t : Fin 160) (fence : Fin 64) (s : State) : Out :=
  .next (match s.instOn t fence with
    | none => s
    | some i => if i.heldUntil == 0 || s.time < i.heldUntil then s else s.setInst { i with heldUntil := 0 })

/-! Aborts (R347; 14 R417). -/

/-- COLL_ABORT: the named instance, or every instance of a lost member. -/
def execCollAbort (inst : Option (CmdRef × Nat × Nat × Nat)) (cause : Fin 3) (lost : Fin 64) (s : State) : Out :=
  .next (match inst with
    | some (c, g, l, q) => s.takeFail ⟨c, g, l, q⟩ stCollAbort cause
    | none => s.abortLost lost)

/-- MODULE_RESETTING: the loss declaration is held; commands that involve the module and are not decided go back to
their start, and instances that it is a member of end. -/
def execModuleResetting (rank : Fin 64) (s : State) : Out :=
  .next (if rank.val == s.dom.rank || !s.dom.members.getLsbD rank.val || s.dom.resetting.any (·.1 == rank.val) then s
    else
      let s := s.setDom { s.dom with resetting := s.dom.resetting ++ [(rank.val, s.time)] }
      let s := if s.isCoord then s.sendAll (s.peers.filter (· != rank.val)) .moduleResetting [rank] else s
      let s := (s.coll.insts.filter fun i => i.members.contains (s.addrOf rank)).foldl (fun s i =>
        s.failFence i (failExc stCollAbort i.key.group i.key.seq 2)) s
      s.cmd.cmds.foldl (fun s c =>
        if c.home == s.dom.rank && c.running && c.opcode != 0x201 && c.tiles.any (·.1 == rank.val) then s.rerun c true else s) s)

/-- MODULE_RESET_HOLD_EXPIRY: 2 s have passed without a return; the coordinator declares the module lost. -/
def execModuleResetHoldExpiry (rank : Fin 64) (s : State) : Out :=
  .next (match s.dom.resetting.find? (·.1 == rank.val) with
    | none => s
    | some (_, since) => if s.time < since + 2000 * ms || !s.isCoord then s else s.memberLost rank 1)

end Sys2Proof.Machine
end

