-- ==== Sys2Proof/Machine/Queues.lean ====
section
/-! DEFINITION. Queues (12 R354 to R361, R368, R371 to R376, R381): creation, doorbells, fetch, duplicates, paced
admission, charges and pre-emption. -/

namespace Sys2Proof.Machine

/-! Limits of a function (R354, 13 R389). -/

def queueLimit (fn : Nat) : Nat := if fn == 0 then 64 else 512

def vectorLimit (fn : Nat) : Nat := if fn == 0 then 256 else 64

def vectorOk (fn v : Nat) : Bool := v == 0xFFFF || v < vectorLimit fn

/-- IDs open to a function. -/
def idRange (fn : Nat) : List Nat := if fn == 0 then (List.range 64).map (8192 + ·) else List.range 8192

/-- The ID of a new queue (R355): the lowest free one on the die that holds the fewest of the function's. -/
def newId (fn : Nat) (mine used : List Nat) : Option Nat :=
  let count := fun (d : Nat) => (mine.filter fun i => i % 4 == d).length
  let die := ((List.range 4).find? fun d => (List.range 4).all fun e => count d ≤ count e).getD 0
  (idRange fn).find? fun i => i % 4 == die && !used.contains i

def State.newSqId (s : State) (fn : Nat) : Option Nat :=
  newId fn ((s.cmd.sqs.filter (·.fn == fn)).map (·.id)) (s.cmd.sqs.map (·.id))

/-- CQs have IDs of their own, given by the same rule. -/
def State.newCqId (s : State) (fn : Nat) : Option Nat :=
  newId fn ((s.cmd.cqs.filter (·.fn == fn)).map (·.id)) (s.cmd.cqs.map (·.id))

def newSq (fn idx id depth slot : Nat) (paced : Bool) (cq ring : Nat) : Sq where
  fn := fn
  idx := idx
  id := id
  depth := depth
  slotBytes := slot
  paced := paced
  cq := cq
  ring := ring
  fetchPos := 0
  tail := 0
  expSeq := none
  firstSeq := none
  posted := none
  tokens := []
  closing := false
  faulted := false

def newCq (fn idx id depth vector coal us ring : Nat) : Cq where
  fn := fn
  idx := idx
  id := id
  depth := depth
  vector := vector
  coalCount := coal
  coalUs := us
  ring := ring
  written := 0
  returned := 0
  head := 0
  reserved := 0
  unsignalled := 0
  firstAt := 0
  faulted := false

def State.addSq (s : State) (q : Sq) : State := s.setCmd { s.cmd with sqs := s.cmd.sqs ++ [q] }
def State.addCq (s : State) (q : Cq) : State := s.setCmd { s.cmd with cqs := s.cmd.cqs ++ [q] }

def ringOk (a : Nat) : Bool := a % 4096 == 0 && a < 2 ^ 56

def depthOk (d : Nat) : Bool := 2 ≤ d && d ≤ 65536

/-- Slot codes of SQ_CREATE; the last is Pewter's. -/
def slotOf (pewter : Bool) (code : Nat) : Option Nat :=
  match code with
  | 0 => some 64 | 1 => some 256 | 2 => some 1024 | 3 => some 4096 | 4 => if pewter then some 8192 else none | _ => none

/-! Commands on queues (R356). -/

/-- NOP (R364). -/
def execNopCommand (c : CmdRef) (s : State) : Out := .next (runCommand 0 c (fun s _ => .ok s 0 0) s)

def sqCreateBody (s : State) (c : Cmd) : CmdRes :=
  let fn := c.ref.fn.val
  let pewter := s.pewterFn fn
  let paced := bit (c.u 9 1) 0
  match slotOf pewter (c.u 8 1) with
  | none => .fail stIllegalOperand 0
  | some slot =>
    if c.u 0 2 ≥ queueLimit fn || (s.sqAt fn (c.u 0 2)).isSome || (s.cqAt fn (c.u 2 2)).isNone || !depthOk (c.u 4 4)
        || !ringOk (c.u 0x10 8) || (paced && pewter) then .fail stIllegalOperand 0
    else
      match s.newSqId fn with
      | none => .fail stQueueLimit 0
      | some id => .ok (s.addSq (newSq fn (c.u 0 2) id (c.u 4 4) slot paced (c.u 2 2) (c.u 0x10 8))) id 0

/-- SQ_CREATE. -/
def execSqCreate (c : CmdRef) (s : State) : Out := .next (runCommand 1 c sqCreateBody s)

def cqCreateBody (s : State) (c : Cmd) : CmdRes :=
  let fn := c.ref.fn.val
  if c.u 0 2 ≥ queueLimit fn || (s.cqAt fn (c.u 0 2)).isSome || !depthOk (c.u 4 4) || !ringOk (c.u 0x10 8) || !vectorOk fn (c.u 2 2) then
    .fail stIllegalOperand 0
  else
    match s.newCqId fn with
    | none => .fail stQueueLimit 0
    | some id => .ok (s.addCq (newCq fn (c.u 0 2) id (c.u 4 4) (c.u 2 2) (c.u 8 2) (c.u 0xA 2) (c.u 0x10 8))) id 0

/-- CQ_CREATE. -/
def execCqCreate (c : CmdRef) (s : State) : Out := .next (runCommand 3 c cqCreateBody s)

/-- The commands of a closing queue that wait on WAIT or on an admission queue end with RESET_KILLED (R384). -/
def State.endWaiting (s : State) (fn idx : Nat) : State :=
  let mine := s.cmd.cmds.filter fun k => k.ref.fn.val == fn && k.ref.sq == idx
  (mine.filter fun k => (k.phase == .fetched && !s.waitOver k) || s.gen.waiting.any (·.1 == k.ref)).foldl (fun s k =>
    let s := s.setGen { s.gen with waiting := s.gen.waiting.filter (·.1 != k.ref) }
    s.finish k.ref stResetKilled 0 0) s

def sqDestroyBody (s : State) (c : Cmd) : CmdRes :=
  let fn := c.ref.fn.val
  let idx := c.u 0 2
  -- a queue cannot destroy itself: this command would wait for its own reply
  if (s.sqAt fn idx).isNone || idx == c.ref.sq then .fail stIllegalOperand 0
  else
    let s := (s.modSq fn idx fun q => { q with closing := true }).endWaiting fn idx
    if s.cmd.cmds.any fun k => k.ref.fn.val == fn && k.ref.sq == idx then .wait s
    else .ok (s.setCmd { s.cmd with sqs := s.cmd.sqs.filter fun q => !(q.fn == fn && q.idx == idx) }) 0 0

/-- SQ_DESTROY: fetching stops at once; it completes when every fetched command of the queue has posted. -/
def execSqDestroy (c : CmdRef) (s : State) : Out := .next (runCommand 2 c sqDestroyBody s)

def cqDestroyBody (s : State) (c : Cmd) : CmdRes :=
  let fn := c.ref.fn.val
  let idx := c.u 0 2
  if (s.cqAt fn idx).isNone then .fail stIllegalOperand 0
  else if s.cmd.sqs.any fun q => q.fn == fn && q.cq == idx then .fail stGroupBusy 0
  else .ok (s.setCmd { s.cmd with cqs := s.cmd.cqs.filter fun q => !(q.fn == fn && q.idx == idx) }) 0 0

/-- CQ_DESTROY. -/
def execCqDestroy (c : CmdRef) (s : State) : Out := .next (runCommand 4 c cqDestroyBody s)

/-! Doorbells (R357). -/

/-- Is the function's doorbell page in use: PF0 on a visible anchor, a VF that exists and is not being reset? -/
def State.doorbellOpen (s : State) (f : Fin 513) : Bool :=
  s.sig.visible && s.dom.rank == s.dom.anchor
    && (f.val == 0 || (s.fnExists (f.val - 1) && !s.tdiError (f.val - 1)))

def State.doorbellInvalid (s : State) (f : Fin 513) (idx die : Nat) (v : Word) : State :=
  s.emitCommand f die 0x0001 idx 0 v.toNat

/-- Entries up to the new tail may be fetched. -/
def State.sqDoorbell (s : State) (f : Fin 513) (idx : Nat) (v : Word) : State :=
  if !s.doorbellOpen f then s
  else
    match s.sqAt f idx with
    | none => s.doorbellInvalid f idx 0 v
    | some q =>
      if q.closing then s
      else
        let added := (v.toNat + q.depth - q.tail) % q.depth
        let waiting := (q.tail + q.depth - q.fetchPos) % q.depth
        if v.toNat ≥ q.depth || added + waiting > q.depth - 1 then s.doorbellInvalid f idx (q.id % 4) v
        else s.modSq f idx fun q => { q with tail := v.toNat }

/-- SQ_TAIL_DOORBELL. -/
def execSqTailDoorbell (f : Fin 513) (idx : Nat) (v : Word) (s : State) : Out := .next (s.sqDoorbell f idx v)

/-- Replies of every queue bound to a CQ that can now be posted. -/
def State.settleCq (s : State) (f : Fin 513) (cq : Nat) : State :=
  (s.cmd.sqs.filter fun q => q.fn == f.val && q.cq == cq).foldl (fun s q => s.settleQueue ⟨f, q.idx, 0⟩) s

/-- Slots up to the new head are returned. -/
def State.cqDoorbell (s : State) (f : Fin 513) (idx : Nat) (v : Word) : State :=
  if !s.doorbellOpen f then s
  else
    match s.cqAt f idx with
    | none => s.doorbellInvalid f idx 0 v
    | some q =>
      let n := (v.toNat + q.depth - q.head) % q.depth
      if v.toNat ≥ q.depth || n > q.written - q.returned then s.doorbellInvalid f idx (q.id % 4) v
      else (s.modCq f idx fun q => { q with head := v.toNat, returned := q.returned + n, faulted := false }).settleCq f idx

/-- CQ_HEAD_DOORBELL. -/
def execCqHeadDoorbell (f : Fin 513) (idx : Nat) (v : Word) (s : State) : Out := .next (s.cqDoorbell f idx v)

/-- CQ_COALESCE_TIMEOUT: COAL_US after the first unsignalled reply (R358). -/
def execCqCoalesceTimeout (f : Fin 513) (cq : Nat) (s : State) : Out :=
  .next (match s.cqAt f cq with
    | none => s
    | some q =>
      if q.unsignalled == 0 || s.time < q.firstAt + q.coalUs * us then s
      else (s.modCq f cq fun q => { q with unsignalled := 0 }).interrupt f q.vector)

/-! Fetch (R359 to R361, R368, R375, R376, R381). -/

/-- A header as the device reads it, native or Pewter. -/
structure Header where
  opcode : Nat
  flags : Nat
  sq : Nat
  plen : Nat
  seq : Word
  verSel : Nat
  token : DWord
  deadline : Nat
  waitSq : Nat
  waitSeq : Word
  rsvZero : Bool
  maxLen : Nat
  size : Nat
  deriving DecidableEq, Repr

def nativeHeader (slot : Nat) (b : List Byte) : Header where
  opcode := field 0 2 b
  flags := field 2 2 b
  sq := field 4 2 b
  plen := field 6 2 b
  seq := BitVec.ofNat 32 (field 8 4 b)
  verSel := field 0xC 4 b
  token := BitVec.ofNat 64 (field 0x10 8 b)
  deadline := field 0x18 8 b
  waitSq := field 0x20 2 b
  waitSeq := BitVec.ofNat 32 (field 0x24 4 b)
  rsvZero := field 2 2 b < 8 && field 0x22 2 b == 0 && field 0x28 24 b == 0
  maxLen := min 4032 (slot - 64)
  size := 64

def pewterHeader (slot now : Nat) (b : List Byte) : Header where
  opcode := field 0 2 b
  flags := field 2 2 b
  sq := field 0x12 2 b
  plen := field 0x10 2 b
  seq := BitVec.ofNat 32 (field 4 4 b)
  verSel := 0
  token := BitVec.ofNat 64 (field 8 8 b)
  deadline := if field 0x14 4 b == 0 then 0 else now + field 0x14 4 b * us
  waitSq := 0
  waitSeq := 0
  rsvZero := field 2 2 b < 4 && field 0x18 8 b == 0
  maxLen := min 8160 (slot - 32)
  size := 32

/-- Opcodes of R364 but the self-tests, and those that only PF0 may issue. -/
def tenantOpcodes : List Nat :=
  [0, 1, 2, 3, 4, 5, 6, 7, 8, 0x100, 0x101, 0x102, 0x103, 0x104, 0x105, 0x200, 0x201, 0x202, 0x203, 0x204, 0x205, 0x206,
   0x300, 0x301, 0x302, 0x303, 0x304, 0x400, 0x401, 0x402, 0x500, 0x600, 0x601, 0x700, 0xF00]

def pf0Opcodes : List Nat :=
  [0, 1, 2, 3, 4, 5, 6, 7, 8, 0x80, 0x81, 0x82, 0x83, 0xF00, 0xF10, 0xF11, 0xF20, 0xF21, 0xF30]

def pewterOpcodes : List Nat := [0, 1, 2, 3, 4, 5, 6, 7, 8, 0x100, 0x101, 0x102, 0x103, 0x500, 0x600, 0x601, 0xF00]

def opcodeOk (fn : Nat) (pewter : Bool) (op : Nat) : Bool :=
  if fn == 0 then pf0Opcodes.contains op else if pewter then pewterOpcodes.contains op else tenantOpcodes.contains op

/-- Is the header valid for the queue that it came from (R360)? -/
def State.headerOk (s : State) (q : Sq) (h : Header) : Bool :=
  h.rsvZero && h.plen ≤ h.maxLen && h.sq == q.idx && q.expSeq.all (· == h.seq)
    && (!bit h.flags 2 || h.size == 32 || (s.sqAt q.fn h.waitSq).isSome)

/-- A fetched command, at its place in the queue. -/
def fetchedCmd (fn : Fin 513) (q : Sq) (place : Word) (h : Header) (params : List Byte) (home now : Nat) : Cmd where
  ref := ⟨fn, q.idx, place⟩
  hdrSeq := h.seq
  opcode := h.opcode
  flags := h.flags
  verSel := h.verSel
  token := h.token
  deadline := h.deadline
  waitSq := h.waitSq
  waitSeq := h.waitSeq
  params := params
  phase := .fetched
  status := 0
  detail := 0
  rflags := 0
  home := home
  engineUs := 0
  runUs := (0, 0, 0)
  fetchedAt := now
  startedAt := 0
  sliceMs := 0
  runs := 0
  collAborts := 0
  exempt := false
  preempt := false
  dupOf := none
  tiles := []
  groups := []
  flagSum := 0
  records := []
  votes := []
  acks := []
  work := []

/-- TOTAL_WCET of the image that a TILE_RUN names, in cycles; 0 where it cannot be read. -/
def State.wcetOf (s : State) (c : Cmd) : Nat :=
  match s.readTva none c.tenant (c.u 0 8) 64 with
  | .ok h => field 0x18 8 h
  | .error _ => 0

/-- The bound of R375 in ns of device time, rounded up. -/
def State.pacedBound (s : State) (c : Cmd) : Nat :=
  let pacedSq := fun (k : Cmd) => (s.sqAt k.ref.fn k.ref.sq).any (·.paced)
  let out := s.cmd.cmds.filter fun k => k.ref.fn == c.ref.fn && k.ref != c.ref && pacedSq k && k.phase != .done
  let cycles := (c :: out).foldl (fun a k => a + s.wcetOf k) 0
  let cls := (s.classOfCmd c).getD .vector
  let holders := (List.range 512).filter fun t => s.cmd.sqs.any fun q => q.fn == t + 1 && q.paced
  let wp := holders.foldl (fun a t => a + (s.tntOf t).share cls) 0
  let d := max (s.pat.maxMhz * (s.tntOf c.tenant).share cls) 1
  s.time + s.regs.segLimitUs * us + (cycles * 1000 * wp + d - 1) / d + 20 * us

/-- What becomes of a command with a valid header: a duplicate, a refusal, or a command that may start. -/
def State.admitCmd (s : State) (q : Sq) (c : Cmd) : State :=
  let put := fun (s : State) (c : Cmd) (tok : DWord) =>
    let s := s.modSq q.fn q.idx fun x => { x with tokens := (⟨tok, c.opcode, c.ref.seq, none⟩ :: x.tokens).take 4096 }
    s.setCmds (s.cmd.cmds ++ [c])
  let done := fun (c : Cmd) (st d : Nat) => { c with phase := .done, status := st, detail := BitVec.ofNat 64 d }
  match if c.token == 0 then none else q.tokens.find? fun t => t.token == c.token with
  | some t => put s (if t.opcode != c.opcode then done c stTokenConflict 0 else { c with phase := .done, dupOf := some t.seq }) 0
  | none =>
    let pewter := s.pewterFn q.fn
    if !opcodeOk q.fn pewter c.opcode then put s (done c stOpcodeUnsupported 0) c.token
    else if q.paced && (c.opcode != 0x500 || c.deadline == 0) then put s (done c stIllegalOperand 0) c.token
    else if q.paced && s.pacedBound c > c.deadline then put s (done c stDeadlineInfeasible (s.pacedBound c)) c.token
    else put s c c.token

/-- The queue of a die that core 0 serves next (R368, R383): queues are numbered by ID div 4. -/
def State.fetchChoice (s : State) (die : Nat) : Option Sq :=
  let pending := s.cmd.sqs.filter fun q => q.id % 4 == die && q.tail != q.fetchPos && !q.closing && !q.faulted
  (arbiter 2064 (s.cmd.fetchLast[die]?.getD 2063) (pending.map (·.id / 4))).bind fun i => pending.find? fun q => q.id / 4 == i

/-- CMD_FETCH: one entry fetched from the queue chosen; `data` is what the host returns for its slot. -/
def execCmdFetch (die : Fin 4) (data : List Byte) (s : State) : Out :=
  .next (if s.flt.resets.any (fun r => r.level == .module || (r.level == .die && r.unit == die.val)) then s
    else
      match s.fetchChoice die with
      | none => s
      | some q =>
        let f := Fin.ofNat 513 q.fn
        let s := s.setCmd { s.cmd with fetchLast := s.cmd.fetchLast.set die (q.id / 4) }
        let a := q.ring + q.slotBytes * q.fetchPos
        if !s.translates q.fn a q.slotBytes then
          (s.modSq q.fn q.idx fun x => { x with faulted := true }).emitHost f 0x0907 q.idx a 0
        else
          let b := padTo q.slotBytes data
          let h := if s.pewterFn q.fn then pewterHeader q.slotBytes s.time b else nativeHeader q.slotBytes b
          let place := q.expSeq.getD h.seq
          let c := fetchedCmd f q place h ((b.drop h.size).take h.plen) s.dom.rank s.time
          let ok := s.headerOk q h
          let s := s.modSq q.fn q.idx fun x => { x with
            fetchPos := (x.fetchPos + 1) % x.depth, expSeq := some (place + 1), firstSeq := some (x.firstSeq.getD place) }
          let s := if ok then s.admitCmd q c
            else s.setCmds (s.cmd.cmds ++ [{ c with phase := .done, status := stHeaderInvalid, dupOf := none }])
          (s.settleQueue c.ref).syncStride)

/-- DEADLINE_MISSED: a command that has not started when its DEADLINE passes (R371). -/
def execDeadlineMissed (c : CmdRef) (s : State) : Out :=
  .next (match s.cmdAt c with
    | none => s
    | some k => if k.phase == .fetched && s.missed k then s.finish c stDeadlineMissed 0 0 else s)

/-! Charges and pre-emption (R372 to R374). -/

def strideClassOf : Fin 3 → StrideClass
  | 0 => .tensor | 1 => .vector | 2 => .dma

/-- A command's use of an engine class in the last 10 µs, charged to its tenant. -/
def execStrideCharge (c : CmdRef) (cls : Fin 3) (us : Nat) (s : State) : Out :=
  .next (match s.cmdAt c with
    | none => s
    | some k =>
      let j := strideClassOf cls
      let t := k.tenant
      let x := s.cmd.stride
      let s := s.setCmd { s.cmd with stride := { x with
        pass := tset x.pass (t, j) (tgetD x.pass (t, j) 0 + 2 ^ 32 / max ((s.tntOf t).share j) 1 * us) } }
      let s := s.modTnt t fun x => match j with
        | .tensor => { x with acctTensor := x.acctTensor + us }
        | .vector => { x with acctVector := x.acctVector + us }
        | .dma => { x with acctDma := x.acctDma + us }
      let s := s.modCmd c fun k =>
        let (a, b, d) := k.runUs
        { k with
          engineUs := k.engineUs + us
          runUs := match j with | .tensor => (a + us, b, d) | .vector => (a, b + us, d) | .dma => (a, b, d + us) }
      s.syncStride)

/-- Does a command run that may be pre-empted: a tile or update command of a queue that is not paced? -/
def State.preemptable (s : State) (k : Cmd) : Bool :=
  k.running && (tileOpcode k.opcode || k.opcode == 0x402) && !(s.sqAt k.ref.fn k.ref.sq).any (·.paced)

/-- CMD_SLICE_EXPIRY (R373): a pre-emption request, for another tenant's command that stride scheduling has chosen
and that waits for tiles, or for a paced command that waits; of the holders of its tiles the most recently started
goes first. -/
def execCmdSliceExpiry (c : CmdRef) (waiter : CmdRef) (s : State) : Out :=
  .next (match s.cmdAt c, s.cmdAt waiter with
    | some k, some w =>
      let paced := (s.sqAt waiter.fn waiter.sq).any (·.paced)
      let waits := w.phase == .fetched && s.eligible w && tileOpcode w.opcode
        && (s.assignTiles waiter [s.dom.rank] (if w.opcode == 0x500 then w.u 0xA 2 else 160)).isNone
      let slice := w.tenant != k.tenant && s.scheduled w && !k.exempt && s.time > k.startedAt + k.sliceMs * ms
      let newest := s.cmd.cmds.all fun x => !(s.preemptable x && !x.preempt && x.startedAt > k.startedAt)
      if s.preemptable k && waits && (slice || (paced && newest)) then s.modCmd c fun k => { k with preempt := true } else s
    | _, _ => s)

end Sys2Proof.Machine
end

