-- ==== Sys2Proof/Machine/Commands.lean ====
section
/-! DEFINITION. Commands of 12 (configuration, accounting, TILE_RUN, RND_FILL, DIAG_ECHO), of 13 (EVENT_RING, MEM_COPY) and
of 14 (TENANT_RESET, CAPTURE_READ, self-tests). -/

namespace Sys2Proof.Machine

/-! Configuration (12 R377 to R380). -/

/-- The target of a CONFIG_SET, or the status that refuses it. -/
def State.configTarget (s : State) (c : Cmd) : Except Nat Nat :=
  let n := c.u 2 2
  let target := c.u 0 2
  if n == 0 || n > 251 then .error stIllegalOperand
  else if c.ref.fn.val != 0 then (if target == 0xFFFF then .ok c.tenant else .error stIllegalOperand)
  else if target > 511 then .error stIllegalOperand
  else if !(s.tntOf target).enable then .error stTenantState
  else .ok target

def configSetBody (s : State) (c : Cmd) : CmdRes :=
  if s.cmd.configJobs.any (·.cmd == c.ref) then .wait (s.pump c.ref)
  else
    match s.configTarget c with
    | .error st => .fail st 0
    | .ok t =>
      match s.outputAny c (c.u 8 8) (zeros 16) with
      | .error e => .ofErr s e
      | .ok _ =>
        let (fs, cl) := validate (s.tntOf t).pewter (configEntries (c.u 2 2) c.params)
        let (fs, cl4) := s.splitClamp t fs
        let job : ConfigJob := ⟨c.ref, t, c.u 8 8, fs.map fun (f, v) => (f, v, s.phaseOfField t f v), cl ++ cl4, 0, [], [], 0, 0⟩
        .wait ((s.setCmd { s.cmd with configJobs := s.cmd.configJobs ++ [job] }).pump c.ref)

/-- CONFIG_SET. -/
def execConfigSet (c : CmdRef) (s : State) : Out := .next (runCommand 5 c configSetBody s)

/-- Records of CONFIG_GET: fields from an ID onward (R380). -/
def State.configRecords (s : State) (t first count : Nat) : List Byte :=
  let fs := fieldTable.filter fun f => first ≤ f.id && !(s.tntOf t).pewter
  (fs.take count).flatMap fun f =>
    let epoch := (s.cmd.config.find? fun c => c.tenant == t && c.field == f.id).elim 0 (·.epoch)
    fields [(2, f.id), (6, 0), (8, s.cfg t f.id), (8, epoch)]

def configGetBody (s : State) (c : Cmd) : CmdRes :=
  let bs := if c.ref.fn.val == 0 then [] else s.configRecords c.tenant (c.u 8 2) (c.u 10 2)
  match s.outputAny c (c.u 0 8) bs with
  | .ok s' => .ok s' 0 0
  | .error e => .ofErr s e

/-- CONFIG_GET. -/
def execConfigGet (c : CmdRef) (s : State) : Out := .next (runCommand 6 c configGetBody s)

/-- The accounting counters in register order (R374, R387). -/
def TenantRegs.acct (x : TenantRegs) : List Byte :=
  fields [(8, x.acctTensor), (8, x.acctVector), (8, x.acctDma), (8, x.acctLink / 25000), (8, x.acctReshard), (8, x.acctLost)]

/-- ACCOUNT_READ. -/
def execAccountRead (c : CmdRef) (s : State) : Out :=
  .next (runCommand 7 c (fun s k =>
    match s.output k (k.u 0 8) (s.tntOf k.tenant).acct with
    | .ok s' => .ok s' 0 0
    | .error e => .ofErr s e) s)

/-! Event ring (13 R405). -/

def eventRingBody (s : State) (c : Cmd) : CmdRes :=
  let depth := c.u 8 4
  if !ringOk (c.u 0 8) || depth < 64 || depth > 65536 || depth != 2 ^ Nat.log2 depth || !vectorOk c.ref.fn (c.u 0xC 2) then
    .fail stIllegalOperand 0
  else
    let ring : EvRing := ⟨c.u 0 8, depth, c.u 0xC 2, max 1 (c.u 0xE 2), 0, 0, 0, 0, 0, false⟩
    .ok ((s.modFn c.ref.fn fun x => { x with ring := some ring }).flushEvents c.ref.fn) 0 0

/-- EVENT_RING: replaces the function's ring; records not yet written go to the new one. -/
def execEventRing (c : CmdRef) (s : State) : Out := .next (runCommand 8 c eventRingBody s)

/-! Tenant reset and capture (14 R420, R421, R432, R434). -/

/-- TENANT_RESET: begun on this module and told to every other; TENANT_RESET_DONE completes it. -/
def tenantResetBody (s : State) (c : Cmd) : CmdRes :=
  let t := c.u 0 2
  let capture := bit (c.u 2 2) 0
  if s.flt.tenantResets.any (·.cmd == some c.ref) then .wait s
  else if c.u 2 2 > 1 then .fail stIllegalOperand 0
  else if t > 511 || !s.fnExists t then .fail stTenantState 0
  else
    let s := s.beginTenantReset t (some c.ref) capture false
    .wait (s.sendAll s.peers .startPart [0, 0, 0, 0x80, t, if capture then 1 else 0])

def execTenantReset (c : CmdRef) (part : Option (Fin 512 × Bool)) (s : State) : Out :=
  .next (match part with
    | none => runCommand 0x80 c tenantResetBody s
    | some (t, capture) => s.beginTenantReset t none capture false)

/-- Section bytes laid one after the other from an offset, with their directory entries. -/
def captureDir (off : Nat) : List (Nat × Bool × List Byte) → List Byte
  | [] => []
  | (ty, cut, d) :: xs => fields [(2, ty), (2, if cut then 1 else 0), (4, d.length), (8, off)] ++ captureDir (off + d.length) xs

/-- A capture record as bytes (R432). -/
def Capture.bytes (c : Capture) : List Byte :=
  fields [(4, 0x54434C46), (2, 1), (2, c.sections.length), (8, c.id), (8, c.time), (2, c.unit), (1, c.cause), (1, c.mode),
    (1, c.level.code), (1, c.rank), (2, c.tenant), (4, c.bytesLen), (4, c.fw)] ++ zeros 24
    ++ captureDir (0x40 + 16 * c.sections.length) c.sections ++ c.sections.flatMap fun x => x.2.2

def captureReadBody (s : State) (c : Cmd) : CmdRes :=
  match s.flt.captures.find? fun r => r.collected && (c.u 0 8 == 0 || r.id == c.u 0 8) with
  | none => .fail stIllegalOperand 0
  | some r =>
    match s.outputAny c (c.u 8 8) (r.bytes.take (c.u 0x10 4)) with
    | .ok s' => .ok s' r.bytesLen 0
    | .error e => .ofErr s e

/-- CAPTURE_READ: captures are held newest first. -/
def execCaptureRead (c : CmdRef) (s : State) : Out := .next (runCommand 0x81 c captureReadBody s)

/-! MEM_COPY (13 R394). -/

/-- Source bytes: from device memory, or those that the host returned, with the mark of a poisoned TLP. -/
def State.copySource (s : State) (c : Cmd) (src len : Nat) (host : Option (List Byte × Bool)) : Except CmdRes (List Byte) :=
  if isHostTva src then
    let a := src % 2 ^ 56
    if !s.translates c.ref.fn a len then .error (.ofErr s (.fault (excAddress src)))
    else
      match host with
      | none => .error (.wait s)
      | some (_, true) => .error (.fail stMemoryPoison 0)
      | some (bs, false) => .ok (padTo len bs)
  else
    match s.readTva (some c.ref) c.tenant src len with
    | .ok bs => .ok bs
    | .error e => .error (.ofErr s e)

/-- Invalidations that waited for a command's host writes are completed (R394). -/
def State.completeInvalidations (s : State) (c : CmdRef) : State :=
  let mine := s.host.invalidations.filter fun x => x.2.2.2 == c
  s.setHost { s.host with
    invalidations := s.host.invalidations.filter fun x => x.2.2.2 != c
    invalidated := mine.map (fun (f, a, n, _) => (f, a, n)) ++ s.host.invalidated }

/-- Toward the host it runs twice: to its decision, and to its last host write. -/
def memCopyBody (host : Option (List Byte × Bool)) (s : State) (c : Cmd) : CmdRes :=
  let (src, dst, len) := (c.u 0 8, c.u 8 8, c.u 0x10 8)
  match s.host.copies.find? (·.1 == c.ref) with
  | some (_, a, bs) =>
    let s := s.setHost { s.host with copies := s.host.copies.filter (·.1 != c.ref) }
    .ok ((s.hostWrite c.ref.fn a bs).completeInvalidations c.ref) 0 0
  | none =>
    if len == 0 || len > 2 ^ 40 || src ≥ 2 ^ 57 || dst ≥ 2 ^ 57 then .fail stIllegalOperand 0
    else
      match s.copySource c src len host with
      | .error r => r
      | .ok bs =>
        if isHostTva dst then
          if !s.translates c.ref.fn (dst % 2 ^ 56) len then .ofErr s (.fault (excAddress dst))
          else .wait (s.setHost { s.host with copies := s.host.copies ++ [(c.ref, dst % 2 ^ 56, bs)] })
        else
          match s.stageWrite c.ref c.tenant dst bs with
          | .ok s' => .ok s' 0 0
          | .error e => .ofErr s e

/-- MEM_COPY. -/
def execMemCopy (c : CmdRef) (host : Option (List Byte × Bool)) (s : State) : Out := .next (runCommand 0x105 c (memCopyBody host) s)

/-! TILE_RUN (12 R366; 11 R339; 14 R419). -/

/-- Ranks of a POOL code. -/
def State.tilePool (s : State) (t code : Nat) : Option (List Nat) :=
  let p := s.poolsOf t
  match code with
  | 0 => some p.prefillPool | 1 => some p.decodePool | 2 => some p.cachePool | 3 => some p.scorePool | 4 => some p.learnPool
  | 0xFF => some (s.allocRanks t)
  | _ => none

def Cmd.tileGroups (c : Cmd) : List Nat := (List.range (c.u 9 1)).map fun i => c.u (0x10 + i) 1

/-- Is every member of a joined group a module that runs the command, with the same number of tiles? Members in
other domains run it through their own anchors. -/
def State.groupCovered (s : State) (t g : Nat) (ranks : List Nat) : Bool :=
  (s.coll.groups.find? fun x => x.tenant == t && x.id == g).any fun x => x.partitions.flatten.all fun a =>
    addrRow a != s.dom.row % 16 || addrCol a != s.dom.col % 16 || ranks.contains (addrRank a)

def tilesInService (m : BitVec 160) : Nat := ((List.range 160).filter fun i => m.getLsbD i).length

/-- `others` are the tiles in service on the pool's other modules. -/
def tileRunBody (others : List Nat) (s : State) (c : Cmd) : CmdRes :=
  let t := c.tenant
  let n := c.u 0xA 2
  match s.tilePool t (c.u 8 1) with
  | none => .fail stIllegalOperand 0
  | some ranks =>
    let least := ((if ranks.contains s.dom.rank then [tilesInService s.flt.tileMap] else []) ++ others).min?.getD 160
    if ranks.isEmpty || c.u 9 1 > 8 || n == 0 || n > 160
        || c.tileGroups.any fun g => !(s.coll.groups.any fun x => x.tenant == t && x.id == g) then .fail stIllegalOperand 0
    else if n > least then .fail stIllegalOperand least
    else if c.tileGroups.any fun g => !s.groupCovered t g ranks then .fail stIllegalOperand 0
    else
      match s.imageAt (some c.ref) t (c.u 0 8) with
      | .error e => .ofErr s e
      | .ok (.error o) => .fail stProgramInvalid o
      | .ok (.ok img) =>
        match s.assignTiles c.ref ranks n with
        | none => .wait s
        | some tiles => .wait (s.launch c img c.params (c.params.drop 4096) tiles c.tileGroups (s.imageBytes t (c.u 0 8) img))

/-- TILE_RUN: on its interpreter, or a part that starts on another module. -/
def execTileRun (c : CmdRef) (others : List Nat) (part : Option TilePart) (s : State) : Out :=
  .next (match part with
    | none => startCommand 0x500 c (tileRunBody others) s
    | some p =>
      let groups := (List.range (field 9 1 p.params)).map fun i => field (0x10 + i) 1 p.params
      s.startPart c p p.params (p.params.drop 4096) groups)

/-! RND_FILL and DIAG_ECHO (12 R367). -/

def rndFillBody (s : State) (c : Cmd) : CmdRes :=
  let n := c.u 0x18 8
  let out := c.u 0x20 8
  if n == 0 || n > 2 ^ 24 || out % 8 != 0 then .fail stIllegalOperand 0
  else
    let seed := BitVec.ofNat 64 (c.u 0 8)
    let stream := BitVec.ofNat 32 (c.u 8 4)
    let bs := (List.range n).flatMap fun i => leBytes 8 (rngWord seed stream (BitVec.ofNat 64 (c.u 0x10 8 + i))).toNat
    match s.output c out bs with
    | .ok s' => .ok s' 0 0
    | .error e => .ofErr s e

/-- RND_FILL. -/
def execRndFill (c : CmdRef) (s : State) : Out := .next (runCommand 0x700 c rndFillBody s)

/-- DIAG_ECHO. -/
def execDiagEcho (c : CmdRef) (s : State) : Out :=
  .next (runCommand 0xF00 c (fun s k =>
    match s.output k (k.u 0 8) (k.params.drop 8) with
    | .ok s' => .ok s' 0 0
    | .error e => .ofErr s e) s)

/-! Self-tests (14 R434). -/

/-- A self-test: `drained` says whether its resource is free, `drain` begins to free it, `failed` and `passed` are what
follows. `result` gives pass bit, failing address or lane, and duration once the test has run. -/
def selfTest (inRange : Nat → Bool) (drained : State → Nat → Bool) (drain failed' : State → Nat → Nat → State)
    (passed : State → Nat → State) (result : Option (Bool × Nat × Nat)) (s : State) (c : Cmd) : CmdRes :=
  let target := c.u 0 4
  let out := c.u 4 8
  let service := fun (s : State) => s.setFlt { s.flt with mode := .service }
  if !inRange target then .fail stIllegalOperand 0
  else if !s.translates 0 out 64 then .ofErr s (.fault (excAddress out))
  else if !drained s target then
    if s.time ≥ c.startedAt + 10000 * ms then .failWith (service (passed s target)) stGroupBusy 0
    else .wait (drain (s.setFlt { s.flt with mode := .test }) target c.startedAt)
  else
    match result with
    | none => .wait (drain (s.setFlt { s.flt with mode := .test }) target c.startedAt)
    | some (pass, at', dur) =>
      let s := s.hostWrite 0 out (leBytes 64 (Config.testRecord c.opcode pass at' dur).toNat)
      .ok (service (if pass then passed s target else failed' s target at')) 0 0

/-- A tile's test: the tile takes no new work while the test waits for it (`tileFree`). -/
def tileTest (result : Option (Bool × Nat × Nat)) : State → Cmd → CmdRes :=
  selfTest (· < 160) (fun s i => s.tiles[Fin.ofNat 160 i].ctl.status == .idle) (fun s _ _ => s) (fun s i _ => s.tileOut i) (fun s _ => s) result

/-- TILE_SELF_TEST. -/
def execTileSelfTest (c : CmdRef) (result : Option (Bool × Nat × Nat)) (s : State) : Out := .next (runCommand 0xF10 c (tileTest result) s)

/-- Engine domains of R415 by their source IDs (13 R403): DMA/collective engines, HBM controllers, CXL ports, Re-shard
Engines and the ingest engine. -/
def engineId (u : Nat) : Bool :=
  (0x1000 ≤ u && u < 0x1004) || (0x3000 ≤ u && u < 0x3010) || (0x4000 ≤ u && u < 0x4008) || (0x5000 ≤ u && u < 0x5002) || u == 0x6000

/-- Is an engine without work: no transfer outstanding on its die, no Freeze or load in progress? -/
def State.engineIdle (s : State) (u : Nat) : Bool :=
  match u / 4096 with
  | 1 => (List.finRange 160).all fun i => i.val / 40 != u % 4096 || s.tiles[i].sync.outstanding.isEmpty
  | 3 => s.regionEmpty (u % 4096 / 4)
  | 4 => !(s.mem.units.any fun (_, x) => x.backing.extents.any fun (a, _) => onPort (u % 4096) a)
  | 5 => s.turn.freezes.isEmpty
  | _ => s.host.relay.isEmpty

def engineTest (result : Option (Bool × Nat × Nat)) : State → Cmd → CmdRes :=
  selfTest engineId State.engineIdle (fun s _ _ => s) (fun s u _ => s.beginReset .engine u 6 false) (fun s _ => s) result

/-- ENGINE_SELF_TEST. -/
def execEngineSelfTest (c : CmdRef) (result : Option (Bool × Nat × Nat)) (s : State) : Out := .next (runCommand 0xF11 c (engineTest result) s)

/-- The drain of a die region for a test maps nothing out. -/
def State.drainForTest (s : State) (pc : Nat) : State :=
  let d := dieOfPc pc
  let r := s.mem.die d
  if r.draining || r.retired then s else (s.setDie d { r with draining := true, request := none }).evacuate d

/-- The drain for a test ends, unless a map-out waits for it. -/
def State.endTestDrain (s : State) (pc : Nat) : State :=
  let r := s.mem.die (dieOfPc pc)
  if r.request.isNone then s.setDie (dieOfPc pc) { r with draining := false } else s

/-- A failing pseudo-channel is mapped out of the region that the test has drained. -/
def pcTest (result : Option (Bool × Nat × Nat)) : State → Cmd → CmdRes :=
  selfTest (· < 1024) (fun s pc => s.regionEmpty (dieOfPc pc)) (fun s pc _ => s.drainForTest pc)
    (fun s pc _ => (s.endTestDrain pc).beginDrain (dieOfPc pc) (pclOf pc) 3) State.endTestDrain result

/-- HBM_PC_SELF_TEST. -/
def execHbmPcSelfTest (c : CmdRef) (result : Option (Bool × Nat × Nat)) (s : State) : Out := .next (runCommand 0xF20 c (pcTest result) s)

/-- Leases of the die end first; units that fail leave the lease area. -/
def bsramTest (result : Option (Bool × Nat × Nat)) : State → Cmd → CmdRes :=
  selfTest (· < 4) (fun s d => (s.leasesOnDie d).isEmpty) (fun s d _ => (s.leasesOnDie d).foldl (fun s t => s.revokeLease t 2) s)
    (fun s d at' => s.withdrawLease (bsramBase + d * bsramSpan + at' % bsramSpan)) (fun s _ => s) result

/-- BSRAM_SELF_TEST. -/
def execBsramSelfTest (c : CmdRef) (result : Option (Bool × Nat × Nat)) (s : State) : Out := .next (runCommand 0xF21 c (bsramTest result) s)

/-- The link leaves service, its traffic takes a detour; a failing link is FAILED. -/
def linkTest (result : Option (Bool × Nat × Nat)) : State → Cmd → CmdRes :=
  selfTest (· < 96) (fun s l => (s.linkAt l).phase == .disabled && (s.linkAt l).queue.isEmpty)
    (fun s l _ => if (s.linkAt l).phase == .disabled then s else s.disableLink l) (fun s l _ => s.linkFailed l 1) State.releaseLink result

/-- LINK_LOOPBACK_TEST. -/
def execLinkLoopbackTest (c : CmdRef) (result : Option (Bool × Nat × Nat)) (s : State) : Out := .next (runCommand 0xF30 c (linkTest result) s)

end Sys2Proof.Machine
end

