-- ==== Sys2Proof/Machine/Votes.lean ====
section
/-! DEFINITION. Commit across modules (12 R370; 11 R344) and the configuration barrier (12 R379). -/

namespace Sys2Proof.Machine

/-- After a commit: the reference that an earlier load held is dropped (10 R292). -/
def State.afterCommit (s : State) (c : Cmd) : State := if c.opcode == 0x201 then s.refDropped c.tenant else s

/-- VOTE at the interpreter. A failing vote decides at once. -/
def execVote (c : CmdRef) (rank : Fin 64) (status detail flags : Nat) (counts : List (Nat × Nat)) (s : State) : Out :=
  .next (match s.cmdAt c with
    | none => s
    | some k =>
      if k.home != s.dom.rank || !k.running || (status == 0 && !(s.ranks k).contains rank.val) then s
      else if status == voteRerun then s.rerun k true
      else if status != 0 then
        match s.turn.freezes.find? (·.cmd == c) with
        | some j => s.failFreeze j status detail
        | none => s.failCmd k status detail flags
      else
        let s := s.modCmd c fun k => { k with
          phase := if (s.ranks k).contains s.dom.rank then k.phase else .voting
          flagSum := k.flagSum ||| BitVec.ofNat 32 (flags % 32)
          votes := k.votes.filter (·.rank != rank.val) ++ [⟨rank, 0, 0, counts⟩] }
        ((s.settleQueue c).afterCommit k).spareBoundary)

/-- COMMIT on another module of the command: its atomic mapping swap, and the acknowledgement. -/
def execCommit (c : CmdRef) (s : State) : Out :=
  .next (match s.cmdAt c with
    | none => s
    | some k =>
      if k.home == s.dom.rank || k.phase != .voting then s
      else
        let s := ((s.commitStaging c).commitLearn k).commitLoad k
        let s := (s.dropPart c).afterCommit k
        s.sendTo k.home .commitAck (refArgs c ++ [s.dom.rank]))

/-- ABORT on another module of the command: its part and staging are discarded. -/
def execAbort (c : CmdRef) (s : State) : Out :=
  .next (match s.cmdAt c with
    | none => s
    | some k => if k.home == s.dom.rank then s else s.dropPart c)

/-- COMMIT_ACK at the interpreter: the reply follows the last. -/
def execCommitAck (c : CmdRef) (rank : Fin 64) (s : State) : Out :=
  .next (match s.cmdAt c with
    | none => s
    | some k =>
      if k.phase != .deciding || k.home != s.dom.rank || k.acks.contains rank.val then s
      else (s.modCmd c fun k => { k with acks := k.acks ++ [rank.val] }).settleQueue c)

/-- APPLY on a module, at the tenant's next step boundary. -/
def execApply (tenant : Fin 512) (epoch : Nat) (fs : List (Nat × Nat)) (s : State) : Out := .next (s.applyPhase tenant epoch fs).spareBoundary

/-- APPLIED at the coordinator: after the last, the phase takes effect. -/
def execApplied (tenant : Fin 512) (epoch : Nat) (rank : Fin 64) (s : State) : Out :=
  .next (match s.cmd.configJobs.head? with
    | none => s
    | some j =>
      if j.tenant != tenant.val || epoch != s.dom.epoch + 1 || j.applied.contains rank.val || !s.dom.members.getLsbD rank then s
      else (s.modJob j.cmd fun x => { x with applied := rank.val :: x.applied }).pump j.cmd)

end Sys2Proof.Machine
end

