-- ==== Sys2Proof/Machine/StartOps.lean ====
section
/-! DEFINITION. Start-up, module reset and power loss (14 R415, R417; 16 R475 to R482; 17 R488), and escalation
(14 R418). -/

namespace Sys2Proof.Machine

abbrev second : Nat := 1000000000

/-! Signal events (16 R482). -/

/-- Is the package held in reset, or without power? -/
abbrev State.inReset (s : State) : Bool := s.sig.phase != .starting && s.sig.phase != .running

/-- A record of a signal event with its source TIME. -/
def State.emitSignalAt (s : State) (kind value time : Nat) : State :=
  let e := { s.makeRecord 0 srcSecurity 0x09 (fields [(2, kind), (2, s.dom.rank), (4, 0), (8, value), (4, 0)]) with time := time }
  if s.dom.rank == s.dom.anchor then s.deliverEvent 0 e
  else
    (s.modFn 0 fun x => { x with sseq := tset x.sseq srcSecurity ((e.sseq + 1) % 2 ^ 32) }).send
      ⟨s.dom.anchor, .eventRelay, [0], e.bytes false⟩

/-- A signal event: held by the management controller, at most 64 of them, while the package is in reset. -/
def State.sigEvent (s : State) (kind value : Nat) : State :=
  if !s.inReset then s.emitSignalAt kind value s.time
  else if s.sig.held.length < 64 then { s with sig := { s.sig with held := s.sig.held ++ [(kind, value, s.time)] } }
  else s

/-- The held events delivered after start-up. -/
def State.releaseHeld (s : State) : State :=
  s.sig.held.foldl (fun s (k, v, t) => s.emitSignalAt k v t) { s with sig := { s.sig with held := [] } }

/-! Firmware banks (17 R487, R488). -/

/-- The cause for which an image is invalid against the fused SVN; 0 where it is valid. -/
def imageFault (fused : Nat) : Option FwImage → Nat
  | none => 1
  | some i => if i.cause != 0 then i.cause else if i.svn > 255 || i.svn < fused then 4 else 0

/-- What start-up makes of two banks of which `b` is active: the bank that runs (none where both are invalid),
whether it fell back, and the cause of the last invalid image. -/
def pickBank (fused : Nat) (b : Bool) (x y : Option FwImage) : Option Bool × Bool × Nat :=
  let bad := fun (k : Bool) => imageFault fused (if k then y else x)
  if bad b == 0 then (some b, false, 0)
  else if bad (!b) == 0 then (some (!b), true, bad b)
  else (none, false, bad (!b))

/-- Event codes that the manual names without numbers (17 R488, R496): 0 BANK_FALLBACK, 1 ENTROPY_FAIL. -/
def State.bootEvent (s : State) (i : Nat) : State := s.sigEvent (Config.eventKind i).toNat 0

/-- The package firmware bank verified; none: the package stays in reset. -/
def State.bootBank (s : State) : Option State :=
  let b := s.boot
  let active := if b.pkgPending then !b.pkgBank else b.pkgBank
  match pickBank b.pkgSvn active b.pkgA b.pkgB with
  | (some k, fell, f) =>
    let s := { s with boot := { b with
      pkgBank := k, pkgPending := false, fallback := b.fallback || fell, fail := if fell then f else b.fail } }
    some (if fell then s.bootEvent 0 else s)
  | (none, _, _) => none

/-- The cause reported when both package banks are invalid. -/
def State.bootFail (s : State) : State :=
  let b := s.boot
  { s with boot := { b with fail := (pickBank b.pkgSvn (if b.pkgPending then !b.pkgBank else b.pkgBank) b.pkgA b.pkgB).2.2 } }

/-! The domain configuration record (17 R491). -/

def recordSize (r : DomainRecord) : Nat := if r.size == 0 then 16 else if r.size == 1 then 32 else 64

/-- Rank of a serial number in RANK_MAP; the value 0 marks an empty rank. -/
def recordRank (r : DomainRecord) (serial : DWord) : Option Nat := if serial == 0 then none else r.rankMap.findIdx? (· == serial)

/-- Position and extent that the record gives this module. -/
def State.takeRecord (s : State) (r : DomainRecord) : State :=
  let s := s.setDom { s.dom with
    size := recordSize r, row := r.row, col := r.col, rank := (recordRank r s.regs.serial).getD s.dom.rank }
  let s := s.setLnk { s.lnk with rowsM1 := r.rowsM1, colsM1 := r.colsM1 }
  { s with boot := { s.boot with record := some r } }

/-! Start-up at t2 (16 R478, R479). -/

def State.bootRecord (s : State) : State :=
  match s.boot.nextRecord with
  | some r => ({ s with boot := { s.boot with nextRecord := none } } : State).takeRecord r
  | none => s.boot.record.elim s s.takeRecord

/-- t2: straps latched, package reset released, package firmware verified. -/
def State.startPackage (s : State) (t2 : Nat) : State :=
  let g := s.sig
  let s := { s with sig := { g with
    phase := .starting, t2 := t2, anchorSel := g.anchorPin, compatSel := g.compatPin
    ready := false, visible := false, visibleMs := 0xFFFF, readyMs := 0xFFFF, heldEnables := [] } }
  let s := s.setFlt { s.flt with mode := .startUp, tileMap := BitVec.allOnes 160 }
  let s := s.setCmd { s.cmd with tnt := s.cmd.tnt.map fun x => { x with pewter := s.sig.compatSel, locked := false } }
  match s.bootBank with
  | none => { s.bootFail with sig := { s.sig with phase := .held } }
  | some s => s.bootRecord

/-! Module reset (14 R415, R417). -/

/-- Memory after a module reset: bonded SRAM lost; HBM and bulk kept, with what lies in them. -/
def MemState.moduleReset (m : MemState) : MemState :=
  let m := (List.range 4).foldl (fun (m : MemState) d =>
    (m.setCells (m.cells.clear (bsramBase + d * bsramSpan) bsramSpan)).unmarkWhole (bsramBase + d * bsramSpan) bsramSpan) m
  { m with tlb := [], leaseBad := m.leaseBad, regs := { MemState.reset.regs with pf0Mib := m.regs.pf0Mib } }

def PlaceState.moduleReset (p : PlaceState) : PlaceState :=
  { PlaceState.reset with
    prevSample := p.prevSample, lastSample := p.lastSample, lastVictim := p.lastVictim, lastPromoted := p.lastPromoted
    leases := p.leases, tenants := p.tenants }

/-- Allocations that the coordinator carried to a module other than the anchor stay with its tenant state. -/
def TenantRegs.moduleReset (keep : Bool) (x : TenantRegs) : TenantRegs :=
  { TenantRegs.zero with alloc := if keep then x.alloc else TenantRegs.zero.alloc }

def HostState.moduleReset (h : HostState) : HostState :=
  { HostState.reset with
    refused := h.refused, invalidated := h.invalidated, writes := h.writes, irqs := h.irqs, replies := h.replies, aer := h.aer }

/-- Membership is to be gained again; what later rounds need lies in HBM and in the timebase. -/
def DomState.moduleReset (d : DomState) : DomState :=
  { DomState.reset with
    size := d.size, rank := d.rank, row := d.row, col := d.col, level := d.level, epoch := d.epoch, round := d.round
    heldState := d.heldState, formed := d.formed, time := d.time, ratePpb := d.ratePpb, timeOffset := d.timeOffset
    resetAt := some d.time }

def LinkState.moduleReset (x : LinkState) : LinkState :=
  { LinkState.reset with
    groups := x.groups.map fun g => { (⟨false, false, 0, 0, 0, false, false⟩ : LinkGroup) with cr1 := g.cr1 }
    rowsM1 := x.rowsM1, colsM1 := x.colsM1, delivered := x.delivered }

def FaultState.moduleReset (f : FaultState) : FaultState :=
  { FaultState.reset with
    captures := f.captures, nextRecord := f.nextRecord, tenantResets := f.tenantResets, unreproduced := f.unreproduced
    lastReset := f.lastReset, dieEscalations := f.dieEscalations, guilty := f.guilty }

def TurnState.moduleReset (u : TurnState) : TurnState :=
  { u with
    publishCount := 0, thawCount := 0, restreamCount := 0, lastTurn := 0, prepareMs := TurnState.reset.prepareMs, spareMask := 0
    pendingSpares := none, commitCount := 0, abortCount := 0, takeoverCount := 0, undoCount := 0 }

def GenState.moduleReset (g : GenState) : GenState :=
  { g with runs := [], waiting := [], phaseJobs := [], stalled := [], hitCount := 0, mismatchCount := 0, padCount := 0 }

def BootState.moduleReset (b : BootState) : BootState :=
  { b with
    entropyFail := false, sessions := [], tdi := [], keyWaits := []
    unlocked := b.unlocked || b.unlockPending, unlockPending := false
    unlockCount := if b.unlockPending then (b.unlockCount + 1) % 2 ^ 32 else b.unlockCount }

/-- What a module reset discards (R415). -/
def State.wipeModule (s : State) : State :=
  let keep := s.dom.rank != s.dom.anchor
  { s with
    tiles := Vector.replicate 160 Tile.idle
    mem := s.mem.moduleReset
    place := s.place.moduleReset
    cmd := { CmdState.reset with tnt := s.cmd.tnt.map (TenantRegs.moduleReset keep), config := s.cmd.config }
    host := s.host.moduleReset
    dom := s.dom.moduleReset
    lnk := s.lnk.moduleReset
    coll := { s.coll with insts := [], early := [], earlyFail := [], done := [] }
    flt := s.flt.moduleReset
    pat := { s.pat with pending := none }
    pwr := { PowerState.reset with tripInHour := s.pwr.tripInHour, v10mv := s.pwr.v10mv, band := s.pwr.band }
    turn := s.turn.moduleReset
    gen := s.gen.moduleReset
    boot := s.boot.moduleReset
    regs := { s.regs with cfgLock := false, segLimitUs := RegState.reset.segLimitUs, heldWrites := [], copies := [] }
    sig := { s.sig with
      phase := .held, ready := false, visible := false, coldStart := false, portsTrained := 0, groupsReleased := 0, heldEnables := []
      faultDrive := false, faultLow := s.sig.faultLow && !s.sig.faultDrive, smbIso := false, smbLock := false, isoCount := 0
      bridgesDown := [] } }

/-- A debug unlock that takes effect ends every tenant and destroys every tenant and bulk key (17 R496). -/
def State.unlockReset (s : State) : State :=
  if !s.boot.unlockPending then s
  else
    let s := s.resetAllTenants
    { s with boot := { s.boot with imageKeys := [] }, mem := { s.mem with bulkKeys := 0 } }

/-- A module reset: the record, MODULE_RESETTING, contexts killed on all modules, and the package held in reset. -/
def State.moduleReset (s : State) (cause : Nat) : State :=
  if s.inReset then s
  else
    let (id, s) := s.beginCapture (srcCore 0 7) cause .module 0xFFFF
    let s := if s.isCoord || s.dom.phase == .forming then s else s.sendTo s.dom.coord .moduleResetting [s.dom.rank]
    let s := if s.dom.rank == s.dom.anchor && s.dom.admitted then s.resetAllTenants else s
    let s := (s.abortColls 2 fun _ => true).killOn .module 0
    let s := (s.cmd.cmds.foldl (fun s c => s.dropPart c.ref) s).unlockReset
    let since := s.time
    let s := s.wipeModule
    s.setFlt { s.flt with resets := [⟨.module, 0, id, since, false⟩] }

/-- A module reset that is not a fall of PERST_N starts again at once. -/
def State.restartModule (s : State) (cause : Nat) : State :=
  if s.inReset then s else (s.moduleReset cause).startPackage s.time

/-! Power loss (16 R476). -/

/-- What a power loss leaves: the boot flash and what lies outside the block. -/
def State.powerLoss (s : State) : State :=
  { State.reset with
    mem := { MemState.reset with dies := s.mem.dies.map fun d => { d with draining := false, request := none, retiring := false, lowered := false } }
    host := { HostState.reset with
      refused := s.host.refused, invalidated := s.host.invalidated, writes := s.host.writes, irqs := s.host.irqs
      replies := s.host.replies, aer := s.host.aer }
    dom := { DomState.reset with
      size := s.dom.size, rank := s.dom.rank, row := s.dom.row, col := s.dom.col, time := s.dom.time, ratePpb := s.dom.ratePpb
      heldState := s.dom.heldState || s.dom.formed }
    lnk := s.lnk.moduleReset
    flt := { FaultState.reset with nextRecord := s.flt.nextRecord }
    pat := { s.pat with pending := none, measured := [], eyes := [] }
    pwr := { PowerState.reset with tripInHour := s.pwr.tripInHour }
    sig := { s.sig with
      phase := .standby, ready := false, visible := false, coldStart := true, stacksTrained := 0, portsTrained := 0, groupsReleased := 0
      heldEnables := [], bridgesDown := [], visibleMs := 0xFFFF, readyMs := 0xFFFF }
    boot := { s.boot.moduleReset with unlocked := false, unlockPending := false, unlockCount := s.boot.unlockCount, imageKeys := [], keyWaits := [] }
    regs := { RegState.reset with serial := s.regs.serial, stepping := s.regs.stepping }
    outbox := s.outbox
    fresh := s.fresh
    pending := s.pending }

/-! Escalation (14 R418). -/

/-- A port that fails after its reset (05 R145). -/
def State.failPort (s : State) (p : Nat) : State :=
  if h : p < 8 then
    let x := s.mem.ports[p]
    if !x.inService then s
    else
      let s := s.losePort p
      let s := s.setPort ⟨p, h⟩ { x with up := false, failed := true }
      s.memEvent 0 ⟨7, 2, 0, none, p, 0, bulkBase + p * portSpan, x.capGib * 4194304, 0⟩
  else s

def State.escalatedEvent (s : State) (l : ResetLevel) (u record : Nat) : State :=
  (s.setFlt { s.flt with escalateCount := (s.flt.escalateCount + 1) % 2 ^ 64 }).recoveryEvent
    ⟨0x0A04, 3, l.code, unitSource l u, 0xFFFF, record, 0, 0, 0⟩

/-- A die reset that an escalation asks for; the second within 24 hours is a class 4 fault. -/
def State.escalateDie (s : State) (d : Nat) : State :=
  let again := s.flt.dieEscalations.any fun (x, t) => x == d && s.time < t + day
  let s := s.setFlt { s.flt with dieEscalations := (d, s.time) :: s.flt.dieEscalations }
  if again then s.withdraw (srcCore d 7) 5 else s.beginReset .die d 2 true

/-- The next step for a domain that failed its post-reset check or whose fault recurred within 1 s. -/
def State.escalate (s : State) (l : ResetLevel) (u record : Nat) : State :=
  match l with
  | .tile => s.tileOut u
  | .engine =>
    if u / 4096 == 4 then (s.escalatedEvent l u record).failPort (u % 4096)
    else if u / 4096 == 1 then (s.escalatedEvent l u record).escalateDie (u % 4096)
    else (s.escalatedEvent l u record).restartModule 2
  | .linkGroup => s
  | .die => (s.escalatedEvent l u record).restartModule 2
  | .tenant => s
  | .module => (s.escalatedEvent l u record).withdraw (srcCore 0 7) 5

end Sys2Proof.Machine
end

