-- ==== Sys2Proof/Machine/PowerOps.lean ====
section
/-! DEFINITION. Clocks, thermal levels and power events (15). -/

namespace Sys2Proof.Machine

def State.setStack (s : State) (k : Fin 16) (x : StackTherm) : State := s.setPwr { s.pwr with hbmTherm := s.pwr.hbmTherm.set k x }
def State.setDieTherm (s : State) (d : Fin 6) (x : DieTherm) : State := s.setPwr { s.pwr with dies := s.pwr.dies.set d x }

/-- Ceiling that the stacks of a compute die impose (R451), in MHz. -/
def State.stackCeil (s : State) (d : Nat) : Option Nat :=
  let ls := (stacksOf d).map fun k => (s.stackAt k).level
  let hot := (ls.filter fun l => l == .gale || l == .squall).length
  if ls.contains .squall then some 1300
  else if hot != 0 then some (1650 - 100 * (hot - 1))
  else none

/-- The die's thermal ceiling; f where none applies (R453). -/
def State.dieCeil (s : State) (d : Nat) : Nat :=
  min s.pat.maxMhz (min ((s.stackCeil d).getD s.pat.maxMhz) ((s.dieAt d).ceil.getD s.pat.maxMhz))

/-- The tensor clock (R453). -/
def State.dieMhz (s : State) (d : Nat) : Nat := if s.dieTripped d then 0 else min (s.dieCeil d) s.pwr.powerMhz

/-- Refresh multiplier in force (R451, R452; 14 R436). -/
def State.refreshX (s : State) (k : Nat) : Nat :=
  let base := match (s.stackAt k).level with
    | .calm => 1
    | .trip => 4
    | _ => 2
  min 4 (base * if s.pat.refresh2x.getLsbD k then 2 else 1)

/-- The payload of R463. -/
def State.powerPayload (s : State) (kind unit level : Nat) (temp : Int) (mhz detail : Nat) : List Byte :=
  fields [(2, kind), (1, unit), (1, level), (2, (temp % 65536).toNat), (2, mhz), (2, s.pwr.pkgW), (2, s.pwr.v10mv), (4, detail)]

/-- A power or thermal event from core 6 of a die (R463). -/
def State.powerEvent (s : State) (die kind unit level : Nat) (temp : Int) (mhz detail : Nat) : State :=
  s.emitPf0 (srcCore die 6) 0x0B (s.powerPayload kind unit level temp mhz detail)

/-- Byte of a temperature register. -/
def tempByte (t : Int) : Nat := (t % 256).toNat

/-- A clamp to the nearer limit. -/
def clampTo (lo hi v : Nat) : Nat := max lo (min hi v)

end Sys2Proof.Machine
end

