-- ==== Sys2Proof/Machine/RegMap.lean ====
section
/-! DEFINITION. The register map of PF0 and of the VFs (18 R503, R504), and what every register reads: 02 R73, 03 R112,
05 R160, 06 R193, 07 R232, 08 R250, 09 R283, 10 R315, 11 R353, 12 R386, R387, 13 R411, R412, 14 R443, R444, 15 R464,
16 R483, 17 R502, 18 R513. A register is named by its offset in PF0's BAR0. -/

namespace Sys2Proof.Machine

/-! The map. -/

/-- Registers of a block at a word offset: the register's offset in the block and its size, 4 or 8. -/
def one (o at' : Nat) : Option (Nat × Nat) := if o == at' then some (at', 4) else none

def pairAt (o at' : Nat) : Option (Nat × Nat) := if o == at' || o == at' + 4 then some (at', 8) else none

/-- n words from an offset. -/
def words (o at' n : Nat) : Option (Nat × Nat) := if at' ≤ o && o < at' + 4 * n then some (o, 4) else none

/-- n 64-bit registers from an offset. -/
def pairs (o at' n : Nat) : Option (Nat × Nat) := if at' ≤ o && o < at' + 8 * n then some (o / 8 * 8, 8) else none

/-- The register of a block that holds the word at an offset; `b` is the block's base. -/
def regIn (b o : Nat) : Option (Nat × Nat) :=
  match b with
  | 0x0 => words o 0 2 <|> pairAt o 8 <|> words o 0x10 6 <|> pairs o 0x40 8
  | 0x1000 => words o 0 2
  | 0x2000 => words o 0 3
  | 0x3000 => one o 0
  | 0x10000 => pairs o 0 2 <|> words o 0x10 2 <|> one o 0x20
  | 0x11000 => one o 0 <|> pairs o 8 2 <|> one o 0x18 <|> one o 0x20
  | 0x20000 => words o 0 0xA00 <|> pairs o 0x4000 0x1000 <|> pairs o 0xC000 512
  | 0x30000 => one o 0 <|> words o 0x10 4 <|> words o 0x20 2 <|> pairs o 0x30 3 <|> one o 0x48 <|> words o 0x60 8 <|> one o 0x80 <|> words o 0x100 64
  | 0x32000 => words o 0 3 <|> pairs o 0x10 3 <|> words o 0x1000 512
  | 0x34000 => one o 0 <|> pairs o 8 3
  | 0x35000 => one o 0 <|> pairs o 8 5
  | 0x36000 => pairs o 0 3 <|> one o 0x18
  | 0x40000 => words o 0 3 <|> words o 0x10 24 <|> words o 0x100 96 <|> pairs o 0x400 384
  | 0x41000 => one o 0 <|> pairs o 8 3 <|> one o 0x20
  | 0x50000 => words o 0 3 <|> words o 0x10 5 <|> pairs o 0x28 5
  | 0x51000 => one o 0 <|> words o 8 5 <|> words o 0x20 4 <|> words o 0x40 16 <|> one o 0x80
  | 0x52000 => words o 0 3 <|> pairs o 0x10 2 <|> words o 0x20 4
  | 0x53000 => words o 0 22 <|> one o 0x60
  | 0x54000 => words o 0 3 <|> pairAt o 0x10 <|> one o 0x18 <|> pairAt o 0x20
  | 0x55000 => words o 0 3
  | _ => none

/-- The block that holds an offset of PF0's BAR0 (R503). -/
def blockOf (o : Nat) : Nat :=
  if 0x20000 ≤ o && o < 0x30000 then 0x20000
  else if 0x32000 ≤ o && o < 0x34000 then 0x32000
  else o / 4096 * 4096

/-- The register that holds the word at an offset of PF0's BAR0: its own offset and size. -/
def regAt (o : Nat) : Option (Nat × Nat) := (regIn (blockOf o) (o - blockOf o)).map fun (r, n) => (blockOf o + r, n)

/-- Where an offset of a VF's BAR0 lies in PF0's map (R504). -/
def vfOffset (o : Nat) : Option Nat :=
  let at' := fun b => some (b + o % 4096)
  match o / 4096 with
  | 0 => at' 0
  | 1 => at' 0x1000
  | 2 => at' 0x2000
  | 3 => at' 0x3000
  | 4 => at' 0x10000
  | 5 => at' 0x11000
  | 6 => at' 0x51000
  | 7 => at' 0x52000
  | _ => none

/-- The PF0 offset of an access of a function. -/
def mapOffset (f : Fin 513) (o : Nat) : Option Nat := if f.val == 0 then (if o < 0x4000000 then some o else none) else vfOffset o

/-- May the function reach the register? PF0 has no HST_BAR4_WIN; a VF has its own instances and the read windows. -/
def permitted (f : Fin 513) (r : Nat) : Bool :=
  if f.val == 0 then r != 0x11008
  else
    (r < 0x1000 && r != 0x14) || r == 0x1000 || r == 0x1004 || r == 0x2000 || r == 0x2004 || r == 0x3000
      || (0x10000 ≤ r && r < 0x10020) || (0x11000 ≤ r && r < 0x11020) || r == 0x51000 || (0x52020 ≤ r && r < 0x52030)

/-- The compute die that keeps the register's value (R510; log entry 44): the die of an indexed register, and Q0 for
the blocks of the services that run on Q0 only. -/
def regDie (r : Nat) : Option Nat :=
  if 0x10000 ≤ r && r < 0x11000 || 0x20000 ≤ r && r < 0x30000 || 0x32000 ≤ r && r < 0x37000 || 0x41000 ≤ r && r < 0x42000 then some 0
  else if 0x30010 ≤ r && r < 0x30020 then some ((r - 0x30010) / 4)
  else if 0x30100 ≤ r && r < 0x30200 then some ((r - 0x30100) / 64)
  else if 0x51020 ≤ r && r < 0x51030 then some ((r - 0x51020) / 4)
  else if 0x52020 ≤ r && r < 0x52030 then some ((r - 0x52020) / 4)
  else none

/-! Values. -/

/-- Fields of (width, value), from bit 0 up. -/
def packBits : List (Nat × Nat) → Nat
  | [] => 0
  | (w, v) :: xs => v % 2 ^ w + 2 ^ w * packBits xs

def flagBit (b : Bool) : Nat × Nat := (1, if b then 1 else 0)

def intBits (w : Nat) (v : Int) : Nat × Nat := (w, (v % (2 ^ w : Nat)).toNat)

/-- PLC_CTRL as last written (06 R193: a write takes effect at the next sample period). -/
def plcCtrl (v : Nat) : Nat := packBits [(8, clampTo 1 100 (bits v 0 8)), (16, max 1 (bits v 8 16)), (8, bits v 24 8)]

/-- ID (R513). -/
def State.readId (s : State) (f : Fin 513) (o : Nat) : Nat :=
  let x := s.fnOf f
  match o with
  | 0 => packBits [(16, 0x7420), (8, s.regs.stepping)]
  | 4 => packBits [(10, f.val), flagBit (f.val != 0 && (s.tntOf (fnTenant f)).pewter)]
  | 8 => s.regs.serial.toNat
  | 0x10 => packBits [(8, s.levelMax), (8, if s.dom.admitted then s.dom.level else 0), (8, s.boot.record.elim 0 (·.levelCeil))]
  | 0x14 => if f.val == 0 && s.regs.cfgLock then 1 else 0
  | 0x18 => x.scratch0.toNat
  | 0x1C => x.scratch1.toNat
  | 0x20 => x.accCount.toNat
  | 0x24 => 0
  | _ => ((x.accLog[(o - 0x40) / 8]?).getD 0).toNat

/-- CMD (12 R386). -/
def State.readCmd (s : State) (f : Fin 513) (o : Nat) : Nat :=
  let x := s.fnOf f
  match o with
  | 0 => x.sqBase.toNat
  | 8 => x.cqBase.toNat
  | 0x10 => packBits [(16, x.sqDepthM1), (16, x.cqDepthM1)]
  | 0x14 => packBits [flagBit x.enable, flagBit x.error, (14, 0), (16, x.vector)]
  | _ => if f.val == 0 then s.cmd.sliceMs else 0

/-- HST_LINK_STAT (13 R411). -/
def State.linkStat (s : State) : Nat := packBits [(3, s.host.gen), (5, s.host.width), flagBit s.host.ide, flagBit s.sig.anchorSel]

/-- HST (13 R411). -/
def State.readHst (s : State) (f : Fin 513) (o : Nat) : Nat :=
  let x := s.fnOf f
  match o with
  | 0 => packBits [(20, x.pasid), flagBit x.pasidEn]
  | 8 => if f.val == 0 then 0 else x.bar4Win.toNat
  | 0x10 => s.dom.time % 2 ^ 64
  | 0x18 => 0
  | _ => if f.val == 0 then s.linkStat else 0

/-- TNT (12 R387). -/
def State.readTnt (s : State) (o : Nat) : Nat :=
  if o < 0x800 then
    let x := s.tntOf (o / 4)
    packBits [flagBit x.enable, flagBit x.pewter, flagBit x.locked]
  else if o < 0x4000 then
    let x := s.tntOf ((o - 0x800) / 16)
    match o % 16 with
    | 0 => packBits [(16, x.shareTensor), (16, x.shareVector)]
    | 4 => packBits [(16, x.shareDma), (16, x.shareLink)]
    | 8 => x.shareReshard
    | _ => 0
  else if o < 0xC000 then
    let x := s.tntOf ((o - 0x4000) / 64)
    (match o % 64 with
    | 0 => x.acctTensor
    | 8 => x.acctVector
    | 0x10 => x.acctDma
    | 0x18 => x.acctLink / 25000
    | 0x20 => x.acctReshard
    | 0x28 => x.acctLost
    | _ => 0) % 2 ^ 64
  else
    let t := (o - 0xC000) / 8
    ((s.tp t).pendingAlloc.elim (s.tntOf t).alloc.toNat (·.toNat))

/-- MEM (05 R160). -/
def State.readMem (s : State) (o : Nat) : Nat :=
  let m := s.mem
  let g := m.regs
  if 0x10 ≤ o && o < 0x20 then
    let d := m.die ((o - 0x10) / 4)
    packBits [(9, d.usableGib), (5, d.mapped.length), flagBit d.retired, flagBit d.draining]
  else if 0x60 ≤ o && o < 0x80 then
    let p := m.port ((o - 0x60) / 4)
    packBits [flagBit p.present, flagBit p.inService, (2, p.width), (2, p.rate), (11, p.gibInService), flagBit p.refused, flagBit p.failed]
  else if 0x100 ≤ o then
    match (m.die ((o - 0x100) / 64)).mapped[(o - 0x100) / 4 % 16]? with
    | some (pcl, cause) => packBits [(8, pcl), (1, 1), (2, cause)]
    | none => 0
  else
    match o with
    | 0 => packBits [(11, m.usableGib), (9, g.pf0Mib)]
    | 0x20 => packBits [(8, g.hbmHours), (8, g.bsramMin), (8, g.bulkHours)]
    | 0x24 => g.scrubStat.toNat
    | 0x30 => g.ce % 2 ^ 64
    | 0x38 => g.ue % 2 ^ 64
    | 0x40 => g.restored % 2 ^ 64
    | 0x48 => min m.poison.length 0xFFFFFFFF
    | _ => 0

/-- PLC (06 R193). -/
def State.readPlc (s : State) (o : Nat) : Nat :=
  let p := s.place
  match o with
  | 0 => match p.written.reverse.find? (·.1 == 0) with
    | some (_, v) => plcCtrl v
    | none => packBits [(8, p.sampleMs), (16, p.promoteHeat), (8, p.minResMs)]
  | 4 => match p.written.reverse.find? (·.1 == 4) with
    | some (_, v) => bits v 0 10
    | none => p.neMaxGib
  | 8 => packBits [(11, s.reservable / gib), (11, s.resvSum)]
  | 0x10 => p.evictCount % 2 ^ 64
  | 0x18 => p.promoteCount % 2 ^ 64
  | 0x20 => p.lent % 2 ^ 64
  | _ => p.resv[(o - 0x1000) / 4]?.getD 0

/-- GEN (07 R232). -/
def State.readGen (s : State) (o : Nat) : Nat :=
  match o with
  | 0 => (s.gen.reqs.filter fun r => r.home.head? == some s.dom.rank).length % 2 ^ 17
  | 8 => s.gen.hitCount % 2 ^ 64
  | 0x10 => s.gen.mismatchCount % 2 ^ 64
  | _ => s.gen.padCount % 2 ^ 64

/-- LRN (09 R283). -/
def State.readLrn (s : State) (o : Nat) : Nat :=
  match o with
  | 0 => s.turn.prepareMs
  | 8 => (s.turn.pendingSpares.getD s.turn.spareMask).toNat
  | 0x10 => s.turn.commitCount % 2 ^ 64
  | 0x18 => s.turn.abortCount % 2 ^ 64
  | 0x20 => s.turn.takeoverCount % 2 ^ 64
  | _ => s.turn.undoCount % 2 ^ 64

/-- TRN (10 R315). -/
def State.readTrn (s : State) (o : Nat) : Nat :=
  match o with
  | 0 => s.turn.publishCount % 2 ^ 64
  | 8 => s.turn.thawCount % 2 ^ 64
  | 0x10 => s.turn.restreamCount % 2 ^ 64
  | _ => min s.turn.lastTurn 0xFFFFFFFF

def State.linkBits (s : State) (g : Nat) (p : Link → Bool) : Nat :=
  packBits ((groupLinks g).map fun l => flagBit (p (s.linkAt l)))

/-- LNK_GRP_STAT (11 R353). -/
def State.groupStat (s : State) (g : Nat) : Nat :=
  packBits [(8, s.linkBits g fun x => x.phase == .up), (8, s.linkBits g fun x => x.phase == .failed || x.phase == .miswired),
    flagBit (s.groupAt g).recalling, flagBit ((groupLinks g).any fun l => (s.linkAt l).phase == .retrain), flagBit (s.groupAt g).cr1]

/-- LNK_STAT (11 R353). -/
def State.linkStatus (s : State) (l : Nat) : Nat :=
  let x := s.linkAt l
  match s.peerAddr l with
  | some p => packBits [(4, x.phase.code), (6, addrRank p), (4, addrRow p), (4, addrCol p), (2, (portOf l).1.code), flagBit x.detour]
  | none => packBits [(4, x.phase.code), (14, 0), (2, 3)]

/-- LNK (11 R353). -/
def State.readLnk (s : State) (o : Nat) : Nat :=
  if 0x400 ≤ o then
    let x := s.linkAt ((o - 0x400) / 32)
    match o % 32 with
    | 0 => x.fecCorr % 2 ^ 64
    | 8 => x.fecUncorr % 2 ^ 64
    | 0x10 => x.replayCount % 2 ^ 64
    | _ => 0
  else if 0x100 ≤ o then s.linkStatus ((o - 0x100) / 4)
  else if 0x40 ≤ o then 0
  else if 0x10 ≤ o then s.groupStat ((o - 0x10) / 4)
  else
    match o with
    | 0 => packBits [(2, if s.dom.size == 16 then 0 else if s.dom.size == 32 then 1 else 2), (6, s.dom.rank), (4, s.dom.row), (4, s.dom.col),
        (4, s.lnk.rowsM1), (4, s.lnk.colsM1)]
    | 4 => s.lnk.recalDrift
    | _ => s.coll.groups.length % 512

/-- DOM_STAT (13 R412). -/
def State.domStat (s : State) : Nat :=
  let d := s.dom
  packBits [(2, d.phase.code), (6, d.coord), (6, d.anchor), flagBit d.noHost, flagBit (d.admitted && d.coord == d.rank),
    (4, if d.admitted then d.level else 0), (3, d.qcause)]

/-- DOM (13 R412). -/
def State.readDom (s : State) (o : Nat) : Nat :=
  match o with
  | 0 => s.domStat
  | 8 => s.dom.members.toNat
  | 0x10 => s.dom.quarantined.toNat
  | 0x18 => if s.dom.admitted then s.dom.epoch % 2 ^ 64 else 0
  | _ => s.dom.round % 2 ^ 32

/-- FLT (14 R443). -/
def State.readFlt (s : State) (o : Nat) : Nat :=
  let f := s.flt
  if 0x10 ≤ o && o < 0x24 then bits f.tileMap.toNat (8 * (o - 0x10)) 32
  else
    match o with
    | 0 => packBits [(14, f.windowMs), (4, f.guiltyLimit), flagBit f.captureTenant]
    | 4 => f.mode.code
    | 8 => 0
    | 0x28 => (f.captures.foldl (fun a c => max a c.id) 0) % 2 ^ 64
    | 0x30 => f.capDropped % 2 ^ 64
    | 0x38 => f.hangCount % 2 ^ 64
    | 0x40 => f.resetCount % 2 ^ 64
    | _ => f.escalateCount % 2 ^ 64

/-- PAT (14 R444). -/
def State.readPat (s : State) (o : Nat) : Nat :=
  let p := s.pat
  if 0x20 ≤ o && o < 0x30 then
    let d := (o - 0x20) / 4
    packBits [intBits 16 (p.path[d]?.getD 0), intBits 16 (p.sram[d]?.getD 0)]
  else if 0x40 ≤ o && o < 0x80 then
    let k := (o - 0x40) / 4
    packBits [(16, p.ratio[k]?.getD 0), flagBit (p.refresh2x.getLsbD k)]
  else
    match o with
    | 0 => packBits [(12, p.maxMhz), (5, p.steps)]
    | 8 => p.hours % 2 ^ 32
    | 0xC => p.outHours % 2 ^ 32
    | 0x10 => p.eom % 2 ^ 32
    | 0x14 => packBits [flagBit p.valid, (3, p.cls), (12, p.unit), (12, p.lifeMhz)]
    | 0x18 => p.last % 2 ^ 32
    | _ => packBits [(16, p.eyeMin), (7, p.eyeLink)]

/-- PWR (15 R464). -/
def State.readPwr (s : State) (o : Nat) : Nat :=
  let p := s.pwr
  if 0x20 ≤ o then
    let d := (o - 0x20) / 4
    packBits [(12, s.dieMhz d), (12, s.dieCeil d), flagBit (s.dieCeil d < s.pat.maxMhz), flagBit (p.powerMhz < s.dieCeil d)]
  else
    match o with
    | 0 => p.capW
    | 4 => packBits [(12, p.pkgW), (12, p.inputW), flagBit p.limiting, flagBit p.duty]
    | 8 => packBits [(16, p.v10mv), (2, p.band)]
    | 0x10 => p.energyMj % 2 ^ 64
    | _ => p.tripCount % 2 ^ 64

/-- THM (15 R464). -/
def State.readThm (s : State) (o : Nat) : Nat :=
  if o < 0x40 then
    let x := s.stackAt (o / 4)
    packBits [(8, tempByte (x.tj / 10)), (3, x.level.code), (3, s.refreshX (o / 4))]
  else if o < 0x60 then
    let x := s.dieAt ((o - 0x40) / 4)
    packBits [(8, tempByte (x.tj / 10)), flagBit x.throttle, flagBit x.trip]
  else packBits [(8, s.pwr.tcC), (8, s.pwr.tcMaxC)]

/-- This module is the grid master (13 R402): the coordinator of a domain from which no link is UP towards a lower
(row, column) (log entry 45). -/
def State.gridMaster (s : State) : Bool :=
  s.dom.phase == .member && s.isCoord
    && !(List.range 96).any fun l => (s.linkAt l).phase == .up && (s.peerAddr l).any fun p =>
      addrRow p < s.dom.row || (addrRow p == s.dom.row && addrCol p < s.dom.col)

/-- SIG (16 R483). -/
def State.readSig (s : State) (o : Nat) : Nat :=
  let g := s.sig
  match o with
  | 0 => packBits [flagBit g.ready, flagBit g.perstN, flagBit g.pwrEn, flagBit g.faultDrive, flagBit g.faultLow, flagBit g.faultMask,
      flagBit g.smbIso, flagBit g.smbLock, flagBit g.tickFree, flagBit s.gridMaster, flagBit g.uartMask, flagBit g.hostRefclk]
  | 4 => packBits [flagBit g.anchorSel, flagBit g.compatSel, (2, g.smbAddr.toNat), flagBit g.anchorPin, flagBit g.compatPin, (2, g.addrPin.toNat)]
  | 8 => if g.tickOutEn then 2 else 0
  | 0x10 => g.tickNs % 2 ^ 64
  | 0x18 => packBits [(16, g.visibleMs), (16, g.readyMs)]
  | _ => g.isoCount % 2 ^ 64

/-- SEC (17 R502). -/
def State.readSec (s : State) (o : Nat) : Nat :=
  let b := s.boot
  match o with
  | 0 => packBits [flagBit b.mcBank, flagBit b.pkgBank, flagBit b.fallback, flagBit b.pkgPending, flagBit b.nextRecord.isSome, (3, b.fail),
      (8, b.mcSvn), (8, b.pkgSvn)]
  | 4 => packBits [(16, s.pkgImage.elim 0 (·.minor)), (16, s.pkgImage.elim 0 (·.major))]
  | _ => packBits [flagBit b.unlocked, flagBit b.unlockPending, flagBit b.entropyFail]

/-- NUM_SFT_ID.TABLE_SET (02 R73). -/
def tableSet : Nat := 0x0001

/-- What a register of the map reads. -/
def State.regVal (s : State) (f : Fin 513) (r : Nat) : Nat :=
  let b := blockOf r
  let o := r - b
  match b with
  | 0x0 => s.readId f o
  | 0x1000 => if o == 0 then packBits [(16, 0x7FFF), (1, 1), (1, 1)] else tableSet
  | 0x2000 => if o == 0 then packBits [(8, 0x40), (8, 0x20), (8, 0x40), (4, 4), (4, 4)] else if o == 4 then packBits [(16, 0x4000), (4, 1)]
      else s.regs.segLimitUs
  | 0x3000 => packBits [(8, 1), (8, 9), (8, 4), (1, 1)]
  | 0x10000 => s.readCmd f o
  | 0x11000 => s.readHst f o
  | 0x20000 => s.readTnt o
  | 0x30000 => s.readMem o
  | 0x32000 => s.readPlc o
  | 0x34000 => s.readGen o
  | 0x35000 => s.readLrn o
  | 0x36000 => s.readTrn o
  | 0x40000 => s.readLnk o
  | 0x41000 => s.readDom o
  | 0x50000 => s.readFlt o
  | 0x51000 => s.readPat o
  | 0x52000 => s.readPwr o
  | 0x53000 => s.readThm o
  | 0x54000 => s.readSig o
  | _ => s.readSec o

/-- The state in which a copied register is read (R510). -/
def State.withCopy (s : State) (c : RegCopy) : State :=
  { s with
    cmd := { s.cmd with tnt := c.tnt, sliceMs := c.sliceMs }, place := c.place, turn := c.turn, dom := c.dom, pat := c.pat, pwr := c.pwr
    mem := { s.mem with dies := c.hbm }, gen := { s.gen with hitCount := c.hits.1, mismatchCount := c.hits.2.1, padCount := c.hits.2.2 } }

/-- The copy that answers for a register whose die is under reset. -/
def State.copyFor (s : State) (r : Nat) : Option RegCopy := (regDie r).bind fun d => s.regs.copies.find? (·.die == d)

/-- What a function reads of a register: 0 where it may not read it. -/
def State.regRead (s : State) (f : Fin 513) (r : Nat) : Nat :=
  if !permitted f r then 0
  else
    match s.copyFor r with
    | some c => if r == 0x34000 then c.live % 2 ^ 17 else (s.withCopy c).regVal f r
    | none => s.regVal f r

end Sys2Proof.Machine
end

