-- ==== Sys2Proof/Machine/RegOps.lean ====
section
/-! DEFINITION. Register accesses (18 R505 to R515): checks, staging and latches, the access log, and the effect of a
write on each register. -/

namespace Sys2Proof.Machine

/-! The access log (R512). -/

/-- A log entry. -/
def logEntry (bar2 : Bool) (offset reason be count : Nat) : DWord :=
  BitVec.ofNat 64 (packBits [(26, offset), flagBit bar2, (5, reason), (4, be), (12, 0), (16, count)])

def State.logAccess (s : State) (f : Fin 513) (bar2 : Bool) (offset reason be : Nat) : State :=
  s.modFn f fun x =>
    let n := min (x.accCount.toNat + 1) 0xFFFFFFFF
    { x with accCount := BitVec.ofNat 32 n, accLog := (logEntry bar2 offset reason be n :: x.accLog).take 8 }

/-! The administration pair (12 R386). -/

/-- The pair comes into service, or ERROR where a ring does not translate. -/
def State.startAdmin (s : State) (f : Fin 513) : State :=
  let fn := f.val
  let x := s.fnOf f
  let pewter := s.pewterFn fn
  let slot := if pewter then 8192 else 4096
  let s := s.modFn f fun x => { x with enable := true }
  let s := if fn == 0 then s else s.modTnt (fn - 1) fun t => { t with locked := true }
  let depth := x.sqDepthM1 + 1
  if !s.translates fn x.sqBase.toNat (depth * slot) || !s.translates fn x.cqBase.toNat ((x.cqDepthM1 + 1) * 32) then
    s.modFn f fun x => { x with error := true }
  else
    match s.newSqId fn, s.newCqId fn with
    | some q, some k =>
      (s.addCq (newCq fn 0 k (x.cqDepthM1 + 1) x.vector 1 0 x.cqBase.toNat)).addSq
        (newSq fn 0 q depth slot false 0 x.sqBase.toNat)
    | _, _ => s.modFn f fun x => { x with error := true }

/-- ENABLE written as 1: at once while READY, held until then before (16 R480). -/
def State.enableAdmin (s : State) (f : Fin 513) : State :=
  if s.sig.ready then s.startAdmin f
  else { s with sig := { s.sig with heldEnables := if s.sig.heldEnables.contains f.val then s.sig.heldEnables else s.sig.heldEnables ++ [f.val] } }

/-! Security of a TDI (17 R494). -/

/-- A TDI in ERROR: every command of the tenant is killed, with no reply. -/
def State.tdiFail (s : State) (t : Nat) : State :=
  ({ s with boot := { s.boot with tdi := tset s.boot.tdi t .error } } : State).killCommands t

/-- Are the settings of the tenant's function frozen? -/
def State.tdiLocked (s : State) (t : Nat) : Bool :=
  match tget s.boot.tdi t with
  | some .locked => true
  | some .run => true
  | _ => false

/-! Writes register by register. Each answers the state and a REASON: 0 applied, 3 applied with a locked field kept,
6 refused. -/

abbrev RegOut := State × Nat

def applied (s : State) : RegOut := (s, 0)

/-- An RWL write that keeps its value while the lock is set. -/
def rwl (s : State) (locked : Bool) (cur new : Nat) (f : State → State) : RegOut :=
  if !locked then (f s, 0) else if cur == new then (s, 0) else (s, 3)

def State.writeId (s : State) (f : Fin 513) (o v : Nat) : RegOut :=
  applied (match o with
    | 0x14 => if bit v 0 then { s with regs := { s.regs with cfgLock := true } } else s
    | 0x18 => s.modFn f fun x => { x with scratch0 := BitVec.ofNat 32 v }
    | 0x1C => s.modFn f fun x => { x with scratch1 := BitVec.ofNat 32 v }
    | 0x24 => if bit v 0 then s.modFn f fun x => { x with accCount := 0, accLog := [] } else s
    | _ => s)

def State.writeCmd (s : State) (f : Fin 513) (o v : Nat) : RegOut :=
  let x := s.fnOf f
  match o with
  | 0 => rwl s x.enable x.sqBase.toNat (v / 4096 * 4096) fun s => s.modFn f fun x => { x with sqBase := BitVec.ofNat 64 (v / 4096 * 4096) }
  | 8 => rwl s x.enable x.cqBase.toNat (v / 4096 * 4096) fun s => s.modFn f fun x => { x with cqBase := BitVec.ofNat 64 (v / 4096 * 4096) }
  | 0x10 =>
    let a := max 1 (bits v 0 16)
    let b := max 1 (bits v 16 16)
    rwl s x.enable (packBits [(16, x.sqDepthM1), (16, x.cqDepthM1)]) (packBits [(16, a), (16, b)]) fun s =>
      s.modFn f fun x => { x with sqDepthM1 := a, cqDepthM1 := b }
  | 0x14 =>
    let new := packBits [flagBit (bit v 0), (15, 0), (16, bits v 16 16)]
    if x.enable then (s, if new == packBits [flagBit true, (15, 0), (16, x.vector)] then 0 else 3)
    else if bit v 0 && f.val != 0 && !(s.tntOf (fnTenant f)).enable then (s, 6)
    else
      let s := s.modFn f fun x => { x with vector := bits v 16 16 }
      applied (if bit v 0 then s.enableAdmin f else s)
  | _ => applied (s.setCmd { s.cmd with sliceMs := clampTo 2 1000 (bits v 0 16) })

/-- HST_EVT_HEAD (13 R405). -/
def State.writeEvtHead (s : State) (f : Fin 513) (v : Nat) : RegOut :=
  match (s.fnOf f).ring with
  | none => (s, 6)
  | some r =>
    let h := bits v 0 16
    let n := (h + r.depth - r.head) % r.depth
    if h ≥ r.depth || n > r.written - r.returned then (s, 6)
    else applied ((s.modFn f fun x => { x with ring := some { r with head := h, returned := r.returned + n, faulted := false } }).flushEvents f)

def State.writeHst (s : State) (f : Fin 513) (o v : Nat) : RegOut :=
  let x := s.fnOf f
  let frozen := f.val != 0 && s.tdiLocked (fnTenant f)
  match o with
  | 0 =>
    rwl s (x.enable || frozen) (packBits [(20, x.pasid), flagBit x.pasidEn]) (packBits [(20, bits v 0 20), flagBit (bit v 20)]) fun s =>
      s.modFn f fun x => { x with pasid := bits v 0 20, pasidEn := bit v 20 }
  | 8 =>
    if frozen then applied (s.tdiFail (fnTenant f))
    else applied (s.modFn f fun x => { x with bar4Win := BitVec.ofNat 64 (bits v 30 26 * 2 ^ 30) })
  | 0x18 => s.writeEvtHead f v
  | _ => applied s

/-- Does the tenant hold a queue? -/
def State.holdsQueue (s : State) (t : Nat) : Bool := s.cmd.sqs.any (·.fn == t + 1) || s.cmd.cqs.any (·.fn == t + 1)

def State.writeTntCtrl (s : State) (t v : Nat) : RegOut :=
  let x := s.tntOf t
  if !bit v 0 && s.holdsQueue t then (s, 6)
  else
    let moved := bit v 1 != x.pewter
    let s := if moved && s.tdiLocked t then s.tdiFail t else s
    let s := if bit v 0 && !x.enable && !s.boot.entropyFail then s.setMem { s.mem with bulkKeys := s.mem.bulkKeys ||| (1#513 <<< t) } else s
    (s.modTnt t fun x => { x with enable := bit v 0, pewter := if x.locked then x.pewter else bit v 1 }, if moved && x.locked then 3 else 0)

/-- TNT_ALLOC (06 R185, 12 R387): honoured on the anchor only; it takes effect at ALLOC_CHANGE. -/
def State.writeAlloc (s : State) (t v : Nat) : RegOut :=
  let m := BitVec.ofNat 64 v
  if s.dom.rank != s.dom.anchor then applied s
  else if m &&& s.dom.members &&& ~~~s.turn.spareMask == 0 then (s, 6)
  else applied (s.modTp t fun x => { x with pendingAlloc := some m })

def State.writeTnt (s : State) (o v : Nat) : RegOut :=
  let lo := max 1 (bits v 0 16)
  let hi := max 1 (bits v 16 16)
  if o < 0x800 then s.writeTntCtrl (o / 4) v
  else if o < 0x4000 then
    let t := (o - 0x800) / 16
    applied (s.modTnt t fun x => match o % 16 with
      | 0 => { x with shareTensor := lo, shareVector := hi }
      | 4 => { x with shareDma := lo, shareLink := hi }
      | 8 => { x with shareReshard := lo }
      | _ => x)
  else if o < 0xC000 then applied s
  else s.writeAlloc ((o - 0xC000) / 8) v

/-- MEM_MAPOUT_REQ (05 R138, R160). -/
def State.writeMapout (s : State) (v : Nat) : RegOut :=
  let pc := bits v 0 10
  let r := s.mem.die (dieOfPc pc)
  if !bit v 10 || r.mapped.any (·.1 == pclOf pc) then applied s
  else if r.draining || r.retired then (s, 6)
  else applied (s.beginDrain (dieOfPc pc) (pclOf pc) 3)

def State.writeMem (s : State) (o v : Nat) : RegOut :=
  match o with
  | 0x20 => applied (s.setMem { s.mem with regs := { s.mem.regs with
      hbmHours := clampTo 1 48 (bits v 0 6), bsramMin := clampTo 1 60 (bits v 8 6), bulkHours := clampTo 12 168 (bits v 16 8) } })
  | 0x24 => applied (s.setMem { s.mem with regs := { s.mem.regs with scrubStat := s.mem.regs.scrubStat &&& ~~~BitVec.ofNat 3 v } })
  | 0x80 => s.writeMapout v
  | _ => applied s

/-- PLC: every write takes effect at the start of the next sample period (06 R193). -/
def State.writePlc (s : State) (o v : Nat) : RegOut :=
  applied (if o == 0 || o == 4 || 0x1000 ≤ o then s.setPlace { s.place with written := s.place.written ++ [(o, v)] } else s)

/-- LRN_SPARE_MASK (09 R283): bits of ranks with tenant work, or outside the domain, are dropped and logged. -/
def State.writeSpares (s : State) (v : Nat) : RegOut :=
  let m := BitVec.ofNat 64 v
  let bad := (ranksOf m).filter fun r => r ≥ s.dom.size || !(s.tenantsOn r).isEmpty
  let m' := bad.foldl (fun (m : BitVec 64) r => m &&& ~~~(1#64 <<< r)) m
  (({ s with turn := { s.turn with pendingSpares := some m' } } : State).spareBoundary, if bad.isEmpty then 0 else 6)

def State.writeLrn (s : State) (o v : Nat) : RegOut :=
  match o with
  | 0 => applied { s with turn := { s.turn with prepareMs := clampTo 10 10000 (bits v 0 16) } }
  | 8 => s.writeSpares v
  | _ => applied s

/-- LNK_GRP_CMD (11 R353): the record of an operator's request comes before a reset (14 R432). -/
def State.writeGroupCmd (s : State) (g v : Nat) : State :=
  let s := if bit v 0 then (s.modGroup g fun x => { x with recalDue := true }).startRecal g else s
  let s := if !bit v 1 then s
    else
      let s := (s.beginCapture (srcLinkGroup g) 6 .linkGroup 0xFFFF).2
      let s := s.setFlt { s.flt with resetCount := (s.flt.resetCount + 1) % 2 ^ 64 }
      let s := s.modGroup g fun x => { x with held := false, recalling := false, recalDue := false }
      (groupLinks g).foldl (fun s l => (s.disableLink l).releaseLink l) s
  if !bit v 2 then s
  else
    let s := s.modGroup g fun x => { x with held := true, recalling := false, recalDue := false }
    (groupLinks g).foldl State.disableLink s

def State.writeLnk (s : State) (o v : Nat) : RegOut :=
  applied (if o == 4 then s.setLnk { s.lnk with recalDrift := clampTo 2 20 (bits v 0 5) }
    else if 0x40 ≤ o && o < 0x70 then s.writeGroupCmd ((o - 0x40) / 4) v
    else s)

/-- FLT_RESET (14 R443): level and unit of a reset that PF0 asks for; none where they name nothing. -/
def resetTarget (v : Nat) : Option (ResetLevel × Nat) :=
  let u := bits v 16 16
  match bits v 0 3 with
  | 1 => if u < 160 then some (.tile, u) else none
  | 2 => if engineId u then some (.engine, u) else none
  | 3 => if u < 12 then some (.linkGroup, u) else none
  | 4 => if u < 4 then some (.die, u) else none
  | 6 => some (.module, 0)
  | _ => none

def State.writeReset (s : State) (v : Nat) : RegOut :=
  if !bit v 3 then applied s
  else
    match resetTarget v with
    | none => (s, 6)
    | some (.module, _) => applied (s.restartModule 6)
    | some (l, u) => applied (s.beginReset l u 6 false)

def State.writeFlt (s : State) (o v : Nat) : RegOut :=
  match o with
  | 0 => applied (s.setFlt { s.flt with windowMs := clampTo 10 10000 (bits v 0 14), guiltyLimit := bits v 14 4, captureTenant := bit v 18 })
  | 8 => s.writeReset v
  | _ => applied s

/-- SIG_CTRL (16 R483). -/
def State.writeSig (s : State) (o v : Nat) : RegOut :=
  if o != 8 then applied s
  else
    let s := { s with sig := { s.sig with tickOutEn := bit v 1 } }
    if !bit v 0 || !s.sig.smbIso then applied s
    else if s.sig.sclLow || s.sig.sdaLow then (s, 6)
    else applied { s with sig := { s.sig with smbIso := false, smbLock := false } }

/-- The effect of a write of a whole register. -/
def State.regWrite (s : State) (f : Fin 513) (r v : Nat) : RegOut :=
  let b := blockOf r
  let o := r - b
  match b with
  | 0x0 => s.writeId f o v
  | 0x2000 => applied (if o == 8 then { s with regs := { s.regs with segLimitUs := clampTo 100 2000 (bits v 0 16) } } else s)
  | 0x10000 => s.writeCmd f o v
  | 0x11000 => s.writeHst f o v
  | 0x20000 => s.writeTnt o v
  | 0x30000 => s.writeMem o v
  | 0x32000 => s.writePlc o v
  | 0x35000 => s.writeLrn o v
  | 0x40000 => s.writeLnk o v
  | 0x50000 => s.writeFlt o v
  | 0x52000 => applied (if o == 0 then s.setPwr { s.pwr with capW := clampTo 1200 2800 (bits v 0 12) } else s)
  | 0x54000 => s.writeSig o v
  | _ => applied s

/-! Checks (R506). -/

/-- Registers whose RW fields CFG_LOCK covers (R513). -/
def lockCovers (r : Nat) : Bool :=
  [0x2008, 0x10020, 0x30020, 0x32000, 0x32004, 0x35000, 0x35008, 0x40004, 0x50000, 0x52000].contains r

/-- Does CFG_LOCK refuse the write? In SIG_CTRL only a write that would change TICK_OUT_EN (log entry 46). -/
def State.lockRefuses (s : State) (r v : Nat) : Bool :=
  s.regs.cfgLock && (lockCovers r || (r == 0x54008 && bit v 1 != s.sig.tickOutEn))

/-- A write that has passed checks 1 to 5: checks 6 and 7, and its effect. -/
def State.finishWrite (s : State) (f : Fin 513) (offset be r v : Nat) : State :=
  let (s, reason) := s.regWrite f r v
  if reason == 0 then s else s.logAccess f false offset reason be

/-- Data with its enabled bytes only: the offset of the first, and the span up to the last. -/
def trimAccess (o : Nat) : List (Option Byte) → Nat × List (Option Byte)
  | [] => (o, [])
  | none :: bs => trimAccess (o + 1) bs
  | bs => (o, (bs.reverse.dropWhile Option.isNone).reverse)

/-- Byte enables of the access's first 4-byte word. -/
def firstEnables (o : Nat) (bs : List (Option Byte)) : Nat :=
  packBits ((List.replicate (o % 4) false ++ bs.map Option.isSome ++ [false, false, false, false]).take 4 |>.map flagBit)

def alignedAccess (o : Nat) (bs : List (Option Byte)) : Bool :=
  o % 4 + bs.length ≤ 4 || (bs.length == 8 && o % 8 == 0 && bs.all Option.isSome)

def byteWritable (r : Nat) : Bool := r == 0x18 || r == 0x1C

/-- The value of a 4-byte register with the enabled bytes replaced. -/
def mergeBytes (cur o : Nat) (bs : List (Option Byte)) : Nat :=
  let lane := fun (i : Nat) => ((bs[i - o % 4]?).bind id).filter fun _ => o % 4 ≤ i
  leNat ((List.range 4).map fun i => (lane i).getD (BitVec.ofNat 8 (bits cur (8 * i) 8)))

def dataOf (bs : List (Option Byte)) : Nat := leNat (bs.map fun b => b.getD 0)

/-- One part of a write: the checks of R506 and the staging of R507. -/
def State.writePart (s : State) (f : Fin 513) (o : Nat) (bs : List (Option Byte)) : State :=
  let be := firstEnables o bs
  let drop := fun (reason : Nat) => s.logAccess f false o reason be
  if bs.isEmpty then s
  else if !alignedAccess o bs then drop 2
  else
    match (mapOffset f o).bind fun p => (regAt (p / 4 * 4)).map fun x => (p, x) with
    | none => drop 5
    | some (p, r, size) =>
      if !permitted f r then drop 4
      else if byteWritable r then
        -- any width: each word takes its enabled bytes
        let w0 := mergeBytes (s.regVal f r) o (bs.take (4 - o % 4))
        let s := s.finishWrite f o be r w0
        if bs.length == 8 then s.finishWrite f o be (r + 4) (dataOf (bs.drop 4)) else s
      else if !((bs.length == 4 && bs.all Option.isSome) || (bs.length == 8 && size == 8)) then drop 1
      else
        let v := dataOf bs
        if s.lockRefuses r v then drop 7
        else if size == 4 || bs.length == 8 then s.finishWrite f o be r v
        else if p % 8 == r % 8 then s.modFn f fun x => { x with slot := some (r, BitVec.ofNat 32 v) }
        else
          let low := match (s.fnOf f).slot with
            | some (r', w) => if r' == r then w.toNat else s.regVal f r % 2 ^ 32
            | none => s.regVal f r % 2 ^ 32
          (s.modFn f fun x => { x with slot := none }).finishWrite f o be r (low + 2 ^ 32 * v)

/-- The aligned 8-byte parts of a longer access, in ascending order (R508). -/
def splitAccess {α : Type} : Nat → Nat → List α → List (Nat × List α)
  | 0, _, _ => []
  | fuel + 1, o, bs =>
    if bs.isEmpty then []
    else if bs.length ≤ 8 && o / 8 == (o + bs.length - 1) / 8 then [(o, bs)]
    else
      let n := 8 - o % 8
      (o, bs.take n) :: splitAccess fuel (o + n) (bs.drop n)

/-- Parts of an access: one of at most 8 bytes stays whole. -/
def accessParts {α : Type} (o : Nat) (bs : List α) : List (Nat × List α) :=
  if bs.length ≤ 8 then [(o, bs)] else splitAccess (bs.length + 1) o bs

/-- Can the function's BAR0 be accessed (R510; 13 R390)? -/
def State.barOpen (s : State) (f : Fin 513) : Bool := if f.val == 0 then s.sig.visible else s.fnExists (fnTenant f)

/-- Accesses to a TDI in ERROR complete with Unsupported Request (17 R494). -/
def State.barFailed (s : State) (f : Fin 513) : Bool := f.val != 0 && tget s.boot.tdi (fnTenant f) == some .error

/-- Is the die that keeps the register under reset: the write is held (R510)? -/
def State.holdsWrite (s : State) (f : Fin 513) (o : Nat) : Bool :=
  ((mapOffset f o).bind fun p => (regAt (p / 4 * 4)).bind fun x => s.copyFor x.1).isSome

/-- A host write over BAR0. -/
def State.hostRegWrite (s : State) (f : Fin 513) (offset : Nat) (data : List (Option Byte)) : State :=
  if !s.barOpen f || s.barFailed f then s
  else
    let (o, bs) := trimAccess offset data
    (accessParts o bs).foldl (fun s (o, bs) =>
      let (o, bs) := trimAccess o bs
      if s.holdsWrite f o then { s with regs := { s.regs with heldWrites := s.regs.heldWrites ++ [⟨f, o, bs⟩] } }
      else s.writePart f o bs) s

/-- A host write of a 32-bit word. -/
def State.hostWriteWord (s : State) (f : Fin 513) (offset : Nat) (v : Word) : State :=
  s.hostRegWrite f offset ((leBytes 4 v.toNat).map some)

/-- Writes held for a die, applied in arrival order when its reset ends. -/
def State.releaseWrites (s : State) (d : Nat) : State :=
  let s := { s with regs := { s.regs with copies := s.regs.copies.filter (·.die != d) } }
  let (now, later) := s.regs.heldWrites.partition fun w => !s.holdsWrite w.fn w.offset
  now.foldl (fun s w => s.writePart w.fn w.offset w.data) { s with regs := { s.regs with heldWrites := later } }

/-- A setting of the domain configuration record, whatever CFG_LOCK says (R511; 17 R491). -/
def State.applySetting (s : State) (o : Nat) (v : Word) : State :=
  match regAt o with
  | none => s
  | some (r, size) =>
    if !(lockCovers r || r == 0x54008) then s
    else if size == 4 then (s.regWrite 0 r v.toNat).1
    else if o == r then s.modFn 0 fun x => { x with slot := some (r, v) }
    else
      let low := match (s.fnOf 0).slot with
        | some (r', w) => if r' == r then w.toNat else s.regVal 0 r % 2 ^ 32
        | none => s.regVal 0 r % 2 ^ 32
      ((s.modFn 0 fun x => { x with slot := none }).regWrite 0 r (low + 2 ^ 32 * v.toNat)).1

/-! Reads (R505, R507, R508). -/

/-- The word at an offset of the function's BAR0: 0 where nothing is readable. A 32-bit read of a low word latches the
high word; the next one of that high word returns it. -/
def State.readWord (s : State) (f : Fin 513) (o : Nat) (latch : Bool) : Nat × State :=
  match (mapOffset f o).bind fun p => (regAt p).map fun x => (p, x) with
  | none => (0, s)
  | some (p, r, size) =>
    let v := s.regRead f r
    if size == 4 then (v, s)
    else if p == r then
      (v % 2 ^ 32, if latch then s.modFn f fun x => { x with latch := some (r, BitVec.ofNat 32 (v / 2 ^ 32)) } else s)
    else
      match (s.fnOf f).latch with
      | some (r', w) =>
        if latch && r' == r then (w.toNat, s.modFn f fun x => { x with latch := none }) else (v / 2 ^ 32, s)
      | none => (v / 2 ^ 32, s)

/-- One part of an aligned read: its words, with the bytes that are not enabled 0. BAR2 reads 0 (R509). -/
def State.readPart (s : State) (f : Fin 513) (bar2 : Bool) (o : Nat) (be : List Bool) : List Byte × State :=
  let word := o / 4 * 4
  if bar2 then (zeros be.length, s)
  else if be.length ≤ 4 - o % 4 then
    let (v, s) := s.readWord f word (be.length == 4 && be.all id)
    (be.zipIdx.map fun (b, i) => if b then BitVec.ofNat 8 (bits v (8 * (o % 4 + i)) 8) else 0, s)
  else
    let (a, s) := s.readWord f o false
    let (b, s) := s.readWord f (o + 4) false
    (leBytes 4 a ++ leBytes 4 b, s)

/-- The parts of a read, from its byte enables. -/
def readParts (offset : Nat) (be : List Bool) : List (Nat × List (Option Byte)) :=
  let (o, bs) := trimAccess offset (be.map fun b => if b then some (0 : Byte) else none)
  (accessParts o bs).map fun (o, bs) => trimAccess o bs

/-- The first unaligned part of a read. -/
def unalignedPart (offset : Nat) (be : List Bool) : Option (Nat × List (Option Byte)) :=
  (readParts offset be).find? fun (o, bs) => !(bs.isEmpty || alignedAccess o bs)

/-- Is the function's BAR in use? -/
def State.barInUse (s : State) (f : Fin 513) (bar2 : Bool) : Bool := if bar2 then s.doorbellOpen f else s.barOpen f

/-- A host read over BAR0 or BAR2: Unsupported Request where a part is unaligned, logged once. -/
def State.hostRegRead (s : State) (f : Fin 513) (bar2 : Bool) (offset : Nat) (be : List Bool) : State :=
  if !s.barInUse f bar2 then s
  else if s.barFailed f then s.reply .unsupported
  else
    match unalignedPart offset be with
    | some (o, bs) => (s.logAccess f bar2 o 8 (firstEnables o bs)).reply .unsupported
    | none =>
      let (data, s) := (readParts offset be).foldl (fun (acc : List Byte × State) (o, bs) =>
        let (d, s) := acc.2.readPart f bar2 o (bs.map Option.isSome)
        (acc.1 ++ d, s)) ([], s)
      s.reply (.data data)

/-! BAR2 (R509; 12 R357). -/

/-- The doorbell of a word of BAR2. -/
def State.doorbellWord (s : State) (f : Fin 513) (o : Nat) (v : Word) : State :=
  if o < 0x800 then s.sqDoorbell f (o / 4) v else if o < 0x1000 then s.cqDoorbell f ((o - 0x800) / 4) v else s

/-- A host write over BAR2: an aligned 8-byte write is two doorbell writes, low word first. -/
def State.hostDoorbellWrite (s : State) (f : Fin 513) (offset : Nat) (data : List (Option Byte)) : State :=
  if !s.doorbellOpen f then s
  else
    let (o, bs) := trimAccess offset data
    (accessParts o bs).foldl (fun s (o, bs) =>
      let (o, bs) := trimAccess o bs
      if bs.isEmpty then s
      else if !alignedAccess o bs then s.logAccess f true o 2 (firstEnables o bs)
      else if bs.length == 8 then
        (s.doorbellWord f o (BitVec.ofNat 32 (dataOf (bs.take 4)))).doorbellWord f (o + 4) (BitVec.ofNat 32 (dataOf (bs.drop 4)))
      else if bs.length == 4 && bs.all Option.isSome then s.doorbellWord f o (BitVec.ofNat 32 (dataOf bs))
      else s.logAccess f true o 1 (firstEnables o bs)) s

end Sys2Proof.Machine
end

