-- ==== Sys2Proof/Machine/Domain.lean ====
section
/-! DEFINITION. The host port and its functions (13 R388 to R396), domain formation and membership (R397 to R401), time
(R402), event coalescing (R405) and DOMAIN_STATUS (R409). -/

namespace Sys2Proof.Machine

/-! The host port and functions. -/

/-- HOST_LINK_CHANGE: a retraining to another rate or width. -/
def execHostLinkChange (gen : Fin 8) (width : Fin 32) (s : State) : Out :=
  .next (if !s.sig.visible || gen.val < 4 || !([4, 8, 16].contains width.val) || (gen.val == s.host.gen && width.val == s.host.width) then s
    else
      let s := s.setHost { s.host with gen := gen, width := width }
      s.emitHost 0 0x0909 s.dom.rank s.linkStat 0)

/-- Pages of an I/O virtual range. -/
def iovaPages (iova len : Nat) : List Nat := if len == 0 then [] else (List.range ((iova + len - 1) / 4096 - iova / 4096 + 1)).map (iova / 4096 + ·)

/-- Rings that translate again: held replies and records go on (R393). -/
def State.resumeRings (s : State) (f : Fin 513) : State :=
  let s := s.setCmd { s.cmd with cqs := s.cmd.cqs.map fun q => if q.fn == f.val then { q with faulted := false } else q }
  let s := s.modFn f fun x => { x with ring := x.ring.map fun r => { r with faulted := false } }
  ((s.cmd.cqs.filter (·.fn == f.val)).foldl (fun s q => s.settleCq f q.idx) s).flushEvents f

/-- ATS_INVALIDATION: translations of a range change; `refused` says whether the host refuses it from now on. It completes
at once, or after the last host write of a copy that covers it (R394). -/
def execAtsInvalidation (f : Fin 513) (iova len : Nat) (refused : Bool) (s : State) : Out :=
  .next (if !s.barOpen f then s
    else
      let ps := iovaPages iova len
      let others := s.host.refused.filter fun (g, p) => !(g == f.val && ps.contains p)
      let s := s.setHost { s.host with refused := if refused then ps.map (fun p => (f.val, p)) ++ others else others }
      let hit := s.host.copies.filter fun (c, a, bs) => c.fn == f && a < iova + len && iova < a + bs.length
      let s := match hit.getLast? with
        | some (c, _, _) => s.setHost { s.host with invalidations := s.host.invalidations ++ [(f.val, iova, len, c)] }
        | none => s.setHost { s.host with invalidated := (f.val, iova, len) :: s.host.invalidated }
      if refused then s else s.resumeRings f)

/-- PF0's queues reset: its commands vanish with no replies, and its administration pair can be enabled again
(log entry 47). -/
def State.resetPf0Queues (s : State) : State :=
  let mine := s.cmd.cmds.filter fun c => c.ref.fn.val == 0
  let s := mine.foldl (fun s c => (s.killLocal c.ref).sendAll (s.others c) .abort (refArgs c.ref)) s
  let s := s.setCmd { s.cmd with
    cmds := s.cmd.cmds.filter fun c => c.ref.fn.val != 0
    sqs := s.cmd.sqs.filter (·.fn != 0)
    cqs := s.cmd.cqs.filter (·.fn != 0)
    configJobs := s.cmd.configJobs.filter fun j => j.cmd.fn.val != 0 }
  let s := s.setFlt { s.flt with tenantResets := s.flt.tenantResets.map fun (x : TenantReset) => { x with cmd := x.cmd.filter fun c => c.fn.val != 0 } }
  s.modFn 0 fun x => { x with enable := false, error := false }

/-- FUNCTION_LEVEL_RESET. -/
def execFunctionLevelReset (f : Fin 513) (s : State) : Out :=
  .next (if !s.barOpen f then s else if f.val == 0 then s.resetPf0Queues else s.resetTenant (fnTenant f) false)

/-- VF_ENABLE_CHANGE: tenants that no longer exist are reset, and need ENABLE again. A locked interface among them goes to
ERROR (17 R494). -/
def execVfEnableChange (numVfs : Fin 513) (enable : Bool) (s : State) : Out :=
  .next (if !s.sig.visible || s.dom.rank != s.dom.anchor then s
    else
      let gone := (List.range 512).filter fun t => s.fnExists t && !(enable && t < numVfs.val)
      let s := gone.foldl (fun s t => (if s.tdiLocked t then s.tdiFail t else s).resetTenant t true) s
      s.setHost { s.host with numVfs := numVfs, vfEnable := enable })

/-- ANCHOR_HOST_RESET: conventional reset, hot reset or link-down. Membership and coordinator are kept. -/
def execAnchorHostReset (kind : Fin 3) (s : State) : Out :=
  .next (if !s.sig.visible || s.dom.rank != s.dom.anchor then s
    else
      let s := s.resetAllTenants
      if kind == 2 then s.setHost { s.host with gen := 0, width := 0 } else s)

/-! Formation (R397 to R399). -/

/-- UP intra-domain links. -/
def State.intraUp (s : State) : Nat := ((List.range 96).filter fun l => (portOf l).1 == .intra && (s.linkAt l).phase == .up).length

/-- FORMATION_START: 0 at least M intra-domain links UP; 1 two seconds after the release of the link groups; 2 the
coordinator is lost; 3 a request to join. -/
def execFormationStart (cause : Fin 4) (s : State) : Out :=
  let released := s.sig.groupsReleased != 0 && s.dom.phase == .forming && s.dom.forms.isEmpty
  let due : Bool := match cause with
    | 0 => released && decide (s.intraUp ≥ s.majority)
    | 1 => released && decide (s.time ≥ s.sig.releasedAt + 2000 * ms)
    | 2 => s.dom.phase == .member && !s.isCoord && !((s.dom.members &&& s.reachRecent).getLsbD s.dom.coord)
    | 3 => !s.inReset && s.dom.phase != .minority
  .next (if due then s.beginRound (s.dom.round + 1) else s)

/-- The record of a FORM message (R397). -/
def formOf (b : List Byte) : Form where
  serial := BitVec.ofNat 64 (field 0 8 b)
  rank := field 8 1 b
  flags := field 9 1 b
  fwMajor := field 0xA 2 b
  fwMinor := field 0xC 2 b
  level := field 0xE 2 b
  reach := BitVec.ofNat 64 (field 0x10 8 b)
  digest := field 0x18 16 b
  time := field 0x28 8 b
  epoch := field 0x30 8 b
  round := field 0x38 4 b

/-- The candidate of the round for this module: the lowest rank with at least M bits in REACH that reaches it. -/
def State.candidate (s : State) : Option Nat :=
  (List.range 64).find? fun r => s.dom.forms.any fun f => f.rank == r && countBits f.reach ≥ s.majority && f.reach.getLsbD s.dom.rank

/-- What the coordinator decides on one module: the quarantine cause, 0 where it is admitted (R396, R399). The domain's
level is `level`, fixed where the domain has formed before. -/
def State.verdict (s : State) (anchor : Option Nat) (f : Form) : Nat :=
  let fits := s.boot.record.all fun r => recordRank r f.serial == some f.rank
  if f.rank == s.dom.rank then (if bit f.flags 0 && anchor != some f.rank then 3 else 0)
  else if f.fwMajor != s.formRecord.fwMajor then 1
  else if f.digest != s.boot.record.elim 0 (·.digest) && !fits then 2
  else if bit f.flags 0 && anchor != some f.rank then 3
  else if s.dom.formed && f.level < s.dom.level then 4
  else 0

/-- The lowest rank with ANCHOR_SEL. -/
def anchorOf (fs : List Form) : Option Nat := (List.range 64).find? fun r => fs.any fun f => f.rank == r && bit f.flags 0

def maskOf (rs : List Nat) : BitVec 64 := rs.foldl (fun (m : BitVec 64) r => m ||| (1#64 <<< r)) 0

/-- What the coordinator sends a module with its admission beside ELECTED itself (R399; 17 R491, R495). -/
def State.admissionFor (s : State) (f : Form) (cause : Nat) : Admission where
  cause := cause
  members := s.dom.members
  quarantined := s.dom.quarantined
  lost := s.dom.lost
  anchor := s.dom.anchor
  noHost := s.dom.noHost
  level := s.dom.level
  epoch := s.dom.epoch
  time := s.dom.time
  record := if f.digest == s.boot.record.elim 0 (·.digest) then none else s.boot.record
  config := if f.epoch < s.dom.epoch then s.cmd.config.map fun c => (c.tenant, c.field, c.value, c.epoch) else []
  keys := s.boot.imageKeys
  allocs := (List.range 512).filterMap fun t => if (s.tntOf t).alloc == TenantRegs.zero.alloc then none else some (t, (s.tntOf t).alloc)

/-- The numbers of ELECTED as sent. -/
def Admission.args (a : Admission) (coord round : Nat) : List Nat :=
  [coord, round, a.cause, a.members.toNat, a.quarantined.toNat, a.lost.toNat, a.anchor, if a.noHost then 1 else 0, a.level, a.epoch, a.time]

/-- ELECTED, with what goes before an admission: a discard of tenant state where FLAGS [2] asks for it, and values where the
epoch is behind. -/
def State.sendElected (s : State) (f : Form) (cause : Nat) (lost : BitVec 64) : State :=
  let a := s.admissionFor f cause
  let s := if cause == 0 && (bit f.flags 2 || lost.getLsbD f.rank) then s.sendTo f.rank .discardState [s.dom.round] else s
  let s := if a.config.isEmpty then s
    else s.sendTo f.rank .configCurrent ([s.dom.epoch] ++ a.config.flatMap fun (t, x, v, e) => [t, x, v, e])
  s.sendTo f.rank .elected (Admission.args a s.dom.rank s.dom.round)

/-- The signed difference as a 64-bit value. -/
def signed64 (v : Int) : Nat := (v % (2 ^ 64 : Nat)).toNat

/-- Events of one module's admission (R399, R400, R406). -/
def State.admissionEvents (s : State) (f : Form) (cause : Nat) (joined : Bool) : State :=
  if cause != 0 then s.emitDomain 0x0903 f.rank 0 cause
  else
    let off : Int := (s.dom.time : Int) - f.time
    let s := if f.digest != s.boot.record.elim 0 (·.digest) then s.emitDomain 0x090A f.rank 0 0 else s
    let s := if joined && off.natAbs > 1000 then s.emitDomain 0x0905 f.rank (signed64 off) 0 else s
    if joined then s.emitDomain 0x0901 f.rank 0 0 else s

/-- Settings of the record in force (17 R491; 18 R511). -/
def State.applySettings (s : State) : State :=
  match s.boot.record with
  | none => s
  | some r => (r.settings.foldl (fun s (o, v) => s.applySetting o v) s).writeSpares r.spares.toNat |>.1

/-- This module becomes a member. -/
def State.becomeMember (s : State) : State :=
  let wasMember := s.dom.phase == .member
  let s := s.setDom { s.dom with phase := .member, qcause := 0, admitted := true, formed := true, resetAt := none }
  let s := s.setFlt { s.flt with mode := if s.flt.mode == .startUp then .service else s.flt.mode }
  if wasMember then s else s.applySettings

/-- READY goes to 0 in MINORITY and in quarantine (16 R480). -/
def State.notReady (s : State) : State := { s with sig := { s.sig with ready := false } }

def State.becomeQuarantined (s : State) (cause : Nat) : State :=
  (s.setDom { s.dom with phase := .quarantined, qcause := cause, admitted := true }).notReady

/-- M acceptances: this module is the coordinator; every FORM record of the round is judged, and ELECTED goes to every
module that it reaches. -/
def State.elect (s : State) : State :=
  let forms := s.dom.forms
  let anchor := anchorOf forms
  let ranks := forms.map (·.rank)
  let judged := forms.map fun f => (f, s.verdict anchor f)
  let yes := (judged.filter fun x => x.2 == 0).map fun x => x.1
  let no := (judged.filter fun x => x.2 != 0).map fun x => x.1.rank
  let before := s.dom.members
  let lostBefore := s.dom.lost
  let kept := s.dom.members &&& ~~~maskOf ranks
  let members := kept ||| maskOf (yes.map (·.rank))
  let lowest := yes.foldl (fun a f => min a f.level) s.levelMax
  let ceil := s.boot.record.elim lowest (·.levelCeil)
  let keepAnchor := anchor.isNone && kept.getLsbD s.dom.anchor
  let moved := s.dom.coord != s.dom.rank || !s.dom.formed
  let s := s.setDom { s.dom with
    coord := s.dom.rank, electedIn := some s.dom.round, members := members
    quarantined := (s.dom.quarantined &&& ~~~maskOf ranks) ||| maskOf no
    lost := s.dom.lost &&& ~~~maskOf (yes.map (·.rank))
    anchor := anchor.getD s.dom.anchor, noHost := anchor.isNone && !keepAnchor
    level := if s.dom.formed then s.dom.level else min lowest ceil
    epoch := yes.foldl (fun a f => max a f.epoch) s.dom.epoch
    resetting := s.dom.resetting.filter fun (r, _) => !(yes.any fun f => f.rank == r) }
  let mine := ((judged.find? fun x => x.1.rank == s.dom.rank).map (·.2)).getD 0
  let s := if mine == 0 then s.becomeMember else s.becomeQuarantined mine
  let s := judged.foldl (fun s (f, c) => if f.rank == s.dom.rank then s else s.sendElected f c lostBefore) s
  let s := if moved then s.emitDomain 0x0904 s.dom.rank 0 0 else s
  (judged.foldl (fun s (f, c) => s.admissionEvents f c (!before.getLsbD f.rank)) s).resettle

/-- The round as far as it goes: when the records of every rank that this module reaches are in, it accepts one
candidate; a candidate with M acceptances is elected. -/
def State.pumpRound (s : State) : State :=
  let complete := (ranksOf s.dom.reach).all fun r => s.dom.forms.any (·.rank == r)
  let s := if s.dom.accepted.isSome || !complete then s
    else
      match s.candidate with
      | none => s
      | some r =>
        let s := s.setDom { s.dom with accepted := some r }
        if r == s.dom.rank then s.setDom { s.dom with accepts := s.dom.rank :: s.dom.accepts.filter (· != s.dom.rank) }
        else s.sendTo r .accept [s.dom.rank, s.dom.round]
  if s.dom.accepted == some s.dom.rank && s.dom.electedIn != some s.dom.round && s.dom.accepts.length ≥ s.majority then s.elect else s

/-- FORM. A record of a later round begins that round here too. -/
def execForm (record : List Byte) (s : State) : Out :=
  let f := formOf record
  .next (if s.inReset || f.rank ≥ s.dom.size || f.rank == s.dom.rank || f.round < s.dom.round then s
    else
      let s := if f.round > s.dom.round then s.beginRound f.round else s
      (s.setDom { s.dom with forms := s.dom.forms.filter (·.rank != f.rank) ++ [f] }).pumpRound)

/-- ACCEPT at a candidate. -/
def execAccept (rank : Fin 64) (round : Nat) (s : State) : Out :=
  .next (if s.inReset || round != s.dom.round || s.dom.accepts.contains rank.val then s
    else (s.setDom { s.dom with accepts := s.dom.accepts ++ [rank.val] }).pumpRound)

/-- All tenant state gone and the memory that it held zeroed (R399). -/
def State.discardHeld (s : State) : State :=
  let ext := s.mem.units.flatMap fun (_, u) => u.backing.extents
  let s := s.knownTenants.foldl (fun s t => (s.killTenant t).discardTenant t false) s
  (s.setMem (ext.foldl (fun m (a, n) => m.zero a n) s.mem)).setDom { s.dom with heldState := false }

/-- What an admitted module applies before it is a member: state discarded, record, time, values, keys, allocations. -/
def State.applyAdmission (s : State) (a : Admission) (discard : Bool) : State :=
  let s := if discard then s.discardHeld else s
  let s := a.record.elim s s.takeRecord
  let off : Int := (a.time : Int) - s.dom.time
  let s := s.setDom { s.dom with time := if off.natAbs > 1000 then a.time else s.dom.time, epoch := max s.dom.epoch a.epoch }
  let s := s.setCmd { s.cmd with
    config := a.config.foldl (fun cs (t, f, v, e) => ⟨t, f, v, e⟩ :: cs.filter fun c => !(c.tenant == t && c.field == f)) s.cmd.config }
  let s := { s with boot := { s.boot with imageKeys := a.keys.foldl (fun ks (k, b) => tset ks k b) s.boot.imageKeys } }
  a.allocs.foldl (fun s (t, m) => s.modTnt t fun x => { x with alloc := m }) s

/-- ELECTED: the coordinator's decision on this module. -/
def execElected (coord : Fin 64) (round : Nat) (a : Admission) (s : State) : Out :=
  .next (if s.inReset || round < s.dom.round || coord.val == s.dom.rank then s
    else
      let wasMember := s.dom.phase == .member
      let discard := s.dom.heldState || a.lost.getLsbD s.dom.rank
      let s := s.setDom { s.dom with
        coord := coord, round := round, electedIn := some round, members := a.members, quarantined := a.quarantined, lost := a.lost
        anchor := a.anchor, noHost := a.noHost, level := a.level
        resetting := s.dom.resetting.filter fun (r, _) => !a.members.getLsbD r }
      let s := if a.cause != 0 then s.becomeQuarantined a.cause
        else if wasMember then s.becomeMember
        else (s.applyAdmission a discard).becomeMember
      s.resettle)

/-- ROUND_TIMEOUT: 5 ms without ELECTED. -/
def execRoundTimeout (s : State) : Out :=
  .next (if s.dom.forms.isEmpty || s.dom.electedIn == some s.dom.round || s.time < s.dom.roundAt + 5 * ms then s
    else s.beginRound (s.dom.round + 1))

/-- No coordinator: a number that no rank has. -/
def noCoord : Nat := 64

/-- COORDINATOR_REACH_LOSS: fewer than M modules reached for 50 ms. -/
def execCoordinatorReachLoss (s : State) : Out :=
  .next (if !s.isCoord || s.dom.phase != .member || countBits s.reachRecent ≥ s.majority then s
    else (s.setDom { s.dom with coord := noCoord }).beginRound (s.dom.round + 1))

/-! Membership (R400, R401). -/

/-- MINORITY: every tenant context is killed; the module says so to the coordinator. -/
def execMinority (s : State) : Out :=
  .next (if s.dom.phase != .member || countBits s.reachRecent ≥ s.majority then s
    else
      let s := s.knownTenants.foldl State.killCommands s
      let s := if s.isCoord then s else s.sendTo s.dom.coord .domainReport [2, s.dom.rank]
      (s.setDom { s.dom with phase := .minority }).notReady)

/-- MAJORITY_REGAINED: FLAGS [2] set, and a round. -/
def execMajorityRegained (s : State) : Out :=
  .next (if s.dom.phase != .minority || countBits s.reachNow < s.majority then s
    else (s.setDom { s.dom with phase := .forming, heldState := true }).beginRound (s.dom.round + 1))

/-- MEMBER_LOST: 0 unreachable for 50 ms, 1 fatal fault, 2 minority. An unreachable module that has announced its reset is
waited for (14 R417). -/
def execMemberLost (rank : Fin 64) (cause : Fin 3) (s : State) : Out :=
  .next (if s.dom.phase != .member || (s.isCoord && cause == 0 && s.dom.resetting.any (·.1 == rank.val)) then s
    else s.memberLost rank cause)

/-! Time (R402). -/

/-- A rate correction of at most 200 ppm against an offset; its size is not stated (log entry 7). -/
def State.slew (s : State) (offset : Int) : State :=
  if offset == 0 then s.setDom { s.dom with ratePpb := 0 }
  else
    let (v, s) := s.freeValue
    let k : Int := v % 200001
    s.setDom { s.dom with ratePpb := if offset > 0 then -k else k }

/-- TIME_SYNC: the offset measured from the master, positive where this module is ahead. -/
def execTimeSync (offset : Int) (s : State) : Out :=
  .next (if s.dom.phase != .member || s.gridMaster then s
    else
      let held := s.dom.ratePpb == -200000 && s.dom.timeOffset > 25
      let s := s.setDom { s.dom with timeOffset := offset }
      if offset < -1000 then
        let s := s.setDom { s.dom with time := s.dom.time + offset.natAbs, ratePpb := 0 }
        if s.isCoord then s.emitDomain 0x0905 s.dom.rank (signed64 (-offset)) 0
        else s.sendTo s.dom.coord .domainReport [3, s.dom.rank, offset.natAbs]
      else if offset > 1000 || (held && offset > 25) then s.setDom { s.dom with ratePpb := -200000 }
      else s.slew offset)

/-! Events (R405). -/

/-- EVENT_COALESCE_TIMEOUT: 100 µs after the first unsignalled record. -/
def execEventCoalesceTimeout (f : Fin 513) (s : State) : Out :=
  .next (match (s.fnOf f).ring with
    | none => s
    | some r =>
      if r.unsignalled == 0 || s.time < r.firstAt + 100 * us then s
      else (s.modFn f fun x => { x with ring := some { r with unsignalled := 0 } }).interrupt f r.vector)

/-! DOMAIN_STATUS (R409). -/

/-- The status record. -/
def State.statusRecord (s : State) : List Byte :=
  fields [(4, s.domStat), (4, s.dom.round), (8, s.dom.members.toNat), (8, s.dom.quarantined.toNat), (8, s.dom.lost.toNat), (8, s.dom.epoch),
    (8, signed64 s.dom.timeOffset)]

def domainStatusBody (s : State) (c : Cmd) : CmdRes :=
  if c.u 8 1 > 1 then .fail stIllegalOperand 0
  else
    match s.outputAny c (c.u 0 8) s.statusRecord with
    | .error e => .ofErr s e
    | .ok s' => .ok (if c.u 8 1 == 1 then s'.beginRound (s'.dom.round + 1) else s') 0 0

/-- DOMAIN_STATUS. -/
def execDomainStatus (c : CmdRef) (s : State) : Out := .next (runCommand 0x83 c domainStatusBody s)

end Sys2Proof.Machine
end

