-- ==== Sys2Proof/Machine/Faults.lean ====
section
/-! DEFINITION. Doldrums and recovery (14 R418 to R434): hangs, replays of suspects, capture records, and the ends of
resets. -/

namespace Sys2Proof.Machine

/-! Doldrums (R426 to R431). -/

/-- Does a unit hold work that it has accepted and not finished (R426)? A firmware service always runs its loop. -/
def State.unitBusy (s : State) (l : ResetLevel) (u : Nat) : Bool :=
  match l with
  | .tile => s.tiles.toList[u]?.any fun (x : Tile) => x.ctl.status == .running || x.ctl.status == .blocked
  | .engine => engineId u && !s.engineIdle u
  | .linkGroup => u < 12 && (groupLinks u).any fun k => !(s.linkAt k).queue.isEmpty || !(s.linkAt k).replay.isEmpty
  | .die => u < 4
  | _ => false

/-- Units of an I/O die, and those of compute dies, that a thermal trip holds (R427). -/
def State.unitHeld (s : State) (l : ResetLevel) (u : Nat) : Bool :=
  match l with
  | .tile => s.dieTripped (u / 40)
  | .engine => (u / 4096 == 1 || u / 4096 == 3) && s.dieTripped (sourceDie u)
  | _ => false

/-- The mode when no reset and no replay is left: START_UP until the module has been admitted (R428). -/
def State.settleMode (s : State) : State :=
  if s.flt.mode == .recovery && s.flt.resets.isEmpty && s.flt.replays.isEmpty then
    let member := s.dom.phase == .member || s.dom.phase == .minority
    s.setFlt { s.flt with mode := if member then .service else .startUp, modeHangs := s.flt.modeHangs.filter fun x => x.2 != .recovery }
  else s

/-- Did a reset of the unit end within the last second (R418)? -/
def State.recurs (s : State) (l : ResetLevel) (u : Nat) : Bool := (tget s.flt.lastReset (l.code, u)).any fun t => s.time < t + second

def State.countHang (s : State) : State := s.setFlt { s.flt with hangCount := (s.flt.hangCount + 1) % 2 ^ 64 }

/-- A reset of a unit's domain, or what follows one that has not held. -/
def State.resetUnit (s : State) (l : ResetLevel) (u cause : Nat) : State :=
  if s.recurs l u then s.escalate l u 0 else s.beginReset l u cause false

/-- Order of suspects: tenant, module-wide SQ ID, SEQ (R429). -/
def State.suspectBefore (s : State) (a b : Cmd) : Bool :=
  let key := fun (c : Cmd) => (c.ref.fn.val, (s.sqAt c.ref.fn c.ref.sq).elim 0 (·.id), c.ref.seq.toNat)
  let (x, y) := (key a, key b)
  x.1 < y.1 || (x.1 == y.1 && (x.2.1 < y.2.1 || (x.2.1 == y.2.1 && x.2.2 ≤ y.2.2)))

def State.insertSuspect (s : State) (c : Cmd) : List Cmd → List Cmd
  | [] => [c]
  | d :: ds => if s.suspectBefore c d then c :: d :: ds else d :: s.insertSuspect c ds

/-- A hang in service: a record, the suspects' commands killed, the unit reset, then the replay. -/
def State.hangInService (s : State) (l : ResetLevel) (u : Nat) : State :=
  if s.recurs l u then s.escalate l u 0
  else
    let suspects := ((s.cmdsUnder l u).filter (·.running)).foldl (fun acc c => s.insertSuspect c acc) []
    let (id, s) := s.beginCapture (unitSource l u) 1 l 0xFFFF
    let s := s.beginReset l u 1 false
    s.setFlt { s.flt with replays := s.flt.replays ++ [⟨l, u, id, suspects.map (·.ref), false⟩] }

/-- A hang in START_UP or RECOVERY: the context is the device's own; a second one of the unit in the mode escalates. -/
def State.hangInMode (s : State) (l : ResetLevel) (u : Nat) : State :=
  let again := tget s.flt.modeHangs (l.code, u) == some s.flt.mode
  let s := s.setFlt { s.flt with modeHangs := tset s.flt.modeHangs (l.code, u) s.flt.mode }
  if again then s.escalate l u 0 else s.beginReset l u 1 false

/-- The self-test that runs ends with a failing result. -/
def State.failTest (s : State) : State :=
  let fail := some (false, 0, 0)
  match s.cmd.cmds.find? fun c => c.phase == .started && 0xF10 ≤ c.opcode && c.opcode ≤ 0xF30 with
  | none => s
  | some c =>
    match c.opcode with
    | 0xF10 => runCommand 0xF10 c.ref (tileTest fail) s
    | 0xF11 => runCommand 0xF11 c.ref (engineTest fail) s
    | 0xF20 => runCommand 0xF20 c.ref (pcTest fail) s
    | 0xF21 => runCommand 0xF21 c.ref (bsramTest fail) s
    | 0xF30 => runCommand 0xF30 c.ref (linkTest fail) s
    | _ => s

/-- HANG: levels 1 tile, 2 engine, 3 link group; 4 a firmware service of a die's cores (R427). A unit that is under reset
absorbs it (R441). -/
def execHang (level : Fin 5) (unit : Fin 65536) (s : State) : Out :=
  let l : Option ResetLevel := match level with
    | 0 => none | 1 => some .tile | 2 => some .engine | 3 => some .linkGroup | 4 => some .die
  .next (match l with
    | none => s
    | some l =>
      if s.inReset || s.flt.withdrawn || s.underReset l unit || s.unitHeld l unit || !s.unitBusy l unit then s
      else
        let s := s.countHang
        if l == .die then s.resetUnit .die unit 2
        else
          match s.flt.mode with
          | .service => s.hangInService l unit
          | .test => s.failTest
          | .startUp | .recovery => s.hangInMode l unit)

/-- A Doldrums event: core 6 of the affected die, or of Q0 (R442). -/
def State.hangEvent (s : State) (l : ResetLevel) (u : Nat) (e : FaultEvent) : State := s.faultEvent (srcCore (unitDie l u) 6) e

/-- HANG_UNREPRODUCED, and what it counts against the unit; the unit returns to service. -/
def State.endReplay (s : State) (x : HangReplay) : State :=
  let s := s.setFlt { s.flt with replays := s.flt.replays.filter (· != x) }
  if x.guilty then s
  else
    let s := s.hangEvent x.level x.unit ⟨0x0A02, 3, x.level.code, unitSource x.level x.unit, 0xFFFF, x.record, 0, 0, 0⟩
    let k := (x.level.code, x.unit)
    let again := (tget s.flt.unreproduced k).any fun t => s.time < t + day
    let s := s.setFlt { s.flt with unreproduced := tset s.flt.unreproduced k s.time }
    if again then s.escalate x.level x.unit x.record else s

/-- Replays with no suspect left end once their units are reset. -/
def State.settleReplays (s : State) : State :=
  let ended := s.flt.replays.filter fun x => x.suspects.isEmpty && !(s.flt.resets.any fun r => r.level == x.level && r.unit == x.unit)
  (ended.foldl State.endReplay s).settleMode

/-- Guilty (R430): RESET_KILLED, HANG_GUILTY, and the limit of findings within an hour. -/
def State.guiltyOf (s : State) (x : HangReplay) (c : Cmd) : State :=
  let src := unitSource x.level x.unit
  let local' := c.ref.sq
  let s := ((s.killLocal c.ref).sendAll (s.others c) .abort (refArgs c.ref)).finish c.ref stResetKilled (src + 0x10000) 0
  let s := s.hangEvent x.level x.unit
    ⟨0x0A01, 2, x.level.code, src, if c.ref.fn.val == 0 then 0xFFFF else c.tenant, x.record, c.hdrSeq.toNat, local', 0⟩
  if c.ref.fn.val == 0 then s
  else
    let s := s.setFlt { s.flt with guilty := (c.tenant, s.time) :: s.flt.guilty.filter fun g => s.time < g.2 + hour }
    let n := (s.flt.guilty.filter (·.1 == c.tenant)).length
    if s.flt.guiltyLimit != 0 && n ≥ s.flt.guiltyLimit && !(s.flt.tenantResets.any (·.tenant == c.tenant)) then s.resetTenant c.tenant false
    else s

/-- SUSPECT_REPLAY: the suspect whose turn it is hangs the unit again, or has ended. -/
def execSuspectReplay (level : Fin 5) (unit : Fin 65536) (hangs : Bool) (s : State) : Out :=
  .next (match s.flt.replays.find? fun x => x.level.code == level.val && x.unit == unit.val with
    | none => s
    | some x =>
      match x.suspects with
      | [] => s.settleReplays
      | c :: rest =>
        let next := fun (s : State) (g : Bool) => s.setFlt { s.flt with replays := s.flt.replays.map fun (y : HangReplay) =>
          if y == x then { y with suspects := rest, guilty := y.guilty || g } else y }
        match s.cmdAt c, hangs with
        | some k, true =>
          if !k.running then s
          else (((next s true).guiltyOf x k).countHang.beginReset x.level x.unit 1 false).settleReplays
        | some k, false => if k.phase == .done then (next s false).settleReplays else s
        | none, _ => (next s false).settleReplays)

/-! Capture records (R432 to R434). -/

def recordLimit : Nat := 16 * 2 ^ 20
def storeLimit : Nat := 64 * 2 ^ 20

/-- Sections as they fit into `room` bytes; what would pass the limit is cut and flagged. -/
def fitSections (room : Nat) : List (Nat × List Byte) → List (Nat × Bool × List Byte)
  | [] => []
  | (ty, d) :: xs => (ty, decide (d.length > room), d.take room) :: fitSections (room - d.length) xs

/-- The newest records that fit in the store, and how many do not. Records are newest first. -/
def fitStore (room : Nat) : List Capture → List Capture × Nat
  | [] => ([], 0)
  | c :: cs => if c.bytesLen ≤ room then let (k, n) := fitStore (room - c.bytesLen) cs; (c :: k, n) else ([], (c :: cs).length)

/-- CAPTURE_TAKEN: the record's sections have been collected; the oldest records leave a full store (R441). -/
def execCaptureTaken (record : Nat) (sections : List (Nat × List Byte)) (s : State) : Out :=
  .next (match s.flt.captures.find? fun c => c.id == record && !c.collected with
    | none => s
    | some c =>
      if sections.isEmpty || sections.length > 16 then s
      else
        let c' := { c with collected := true, sections := fitSections (recordLimit - 0x40 - 16 * sections.length) sections }
        let (kept, n) := fitStore storeLimit (s.flt.captures.map fun x => if x == c then c' else x)
        let s := s.setFlt { s.flt with captures := kept, capDropped := (s.flt.capDropped + n) % 2 ^ 64 }
        let cls := if c.cause == 5 then 4 else 3
        s.recoveryEvent ⟨0x0A07, cls, c.level.code, c.unit, c.tenant, c.id, 0, 0, 0⟩)

/-! Ends of resets (R415 to R418, R421). -/

/-- RESET_DONE: the post-reset check of a domain has passed or failed. A module reset ends at READY, unless its check
fails. -/
def execResetDone (level : Fin 7) (unit : Fin 65536) (ok : Bool) (s : State) : Out :=
  .next (match s.flt.resets.find? fun r => r.level.code == level.val && (r.level == .module || r.unit == unit.val) with
    | none => s
    | some r =>
      let drop := fun (s : State) => s.setFlt { s.flt with resets := s.flt.resets.filter (· != r) }
      if !ok then
        if r.level == .module then (drop s).escalate .module 0 r.record
        else ((drop s).escalate r.level r.unit r.record).settleReplays
      else if r.level == .module then s
      else
        let s := (drop s).setFlt { (drop s).flt with lastReset := tset s.flt.lastReset (r.level.code, r.unit) s.time }
        let s := s.recoveryEvent ⟨0x0A03, 3, r.level.code, unitSource r.level r.unit, 0xFFFF, r.record, 0, 0, (s.time - r.since) / 1000⟩
        let s := if r.level == .die then
            s.releaseWrites r.unit |> fun s => { s with sig := { s.sig with bridgesDown := s.sig.bridgesDown.filter (· / 2 != r.unit) } }
          else s
        s.settleReplays)

/-- TENANT_RESET_DONE on this module. -/
def execTenantResetDone (tenant : Fin 512) (s : State) : Out :=
  .next (match s.flt.tenantResets.find? (·.tenant == tenant.val) with
    | none => s
    | some x => (s.finishTenantReset x).settleReplays)

end Sys2Proof.Machine
end

