-- ==== Sys2Proof/Machine/Patina.lean ====
section
/-! DEFINITION. Patina (14 R435 to R440): measurements, fits, re-plans and power-on hours. -/

namespace Sys2Proof.Machine

/-! Fits (R437): a − b × h^0.25 by least squares over all samples of a margin. -/

/-- h^0.25 × 2^32, rounded down. -/
def root4 (h : Nat) : Nat := isqrt (isqrt (h * 2 ^ 128))

/-- Sums of a least-squares fit over x = h^0.25: count, x, y, x², xy. -/
structure Fit where
  n : Int
  sx : Int
  sy : Int
  sxx : Int
  sxy : Int
  deriving DecidableEq, Repr

def fitOf (xs : List (Nat × Int)) : Fit :=
  xs.foldl (fun f (h, y) => let x : Int := root4 h; ⟨f.n + 1, f.sx + x, f.sy + y, f.sxx + x * x, f.sxy + x * y⟩) ⟨0, 0, 0, 0, 0⟩

def Fit.det (f : Fit) : Int := f.n * f.sxx - f.sx * f.sx
def Fit.slope (f : Fit) : Int := f.n * f.sxy - f.sx * f.sy

/-- The projection at an hour as a fraction. The fit is flat while all samples are of one hour. -/
def Fit.at (f : Fit) (h : Nat) : Int × Int :=
  if f.det = 0 then (f.sy, f.n) else (f.sy * f.det + f.slope * (f.n * root4 h - f.sx), f.n * f.det)

/-- Is the projection at an hour at least a bound? The denominator is positive. -/
def Fit.meets (f : Fit) (h : Nat) (bound : Int) : Bool := let (a, b) := f.at h; bound * b ≤ a

/-- The projection at an hour, rounded down. -/
def Fit.value (f : Fit) (h : Nat) : Int := let (a, b) := f.at h; if b = 0 then 0 else a / b

/-- The last hour of [lo, hi) at which a margin that falls is at its floor or above, by halving. -/
def Fit.last (f : Fit) (bound : Int) : Nat → Nat → Nat → Nat
  | 0, lo, _ => lo
  | fuel + 1, lo, hi =>
    if hi ≤ lo + 1 then lo
    else
      let m := (lo + hi) / 2
      if f.meets m bound then f.last bound fuel m hi else f.last bound fuel lo m

/-- The hour at which the projection reaches its floor; none beyond the range of PAT_EOM. -/
def Fit.eom (f : Fit) (bound : Int) : Option Nat :=
  if f.meets 0xFFFFFFFE bound then none else if !f.meets 0 bound then some 0 else some (f.last bound 33 0 0xFFFFFFFE)

/-- Cycle time in fs. -/
def cycleFs (mhz : Nat) : Int := (1000000000 / mhz : Nat)

/-- What a path margin at 1,950 MHz gains at f. -/
def stepGain (mhz : Nat) : Int := cycleFs mhz - cycleFs 1950

def pathFloor : Int := 25000
def sramFloor : Int := 30
def eyeFloor : Nat := 12
def serviceLife : Nat := 61320

/-! Measurements (R435). -/

/-- PATINA_MEASURE: the path margin of each die in fs at f: compute dies 0 to 3, then the I/O dies. -/
def execPatinaMeasure (margins : List Int) (s : State) : Out :=
  let add := fun (m : List (Nat × (Int × Nat))) (x : Int × Nat) =>
    let (t, n) := tgetD m x.2 (0, 0)
    tset m x.2 (t + x.1, n + 1)
  .next (if s.inReset || margins.length != 6 then s
    else s.setPat { s.pat with measured := (margins.zipIdx).foldl add s.pat.measured })

/-- EYE_MEASURE: a link below its floor is retrained (11 R330). -/
def execEyeMeasure (l : Fin 96) (mv : Nat) (s : State) : Out :=
  .next (if s.inReset || (s.peerAddr l).isNone then s
    else
      let s := s.setPat { s.pat with eyes := tset s.pat.eyes l.val mv }
      if mv < eyeFloor && (s.linkAt l).phase == .up then s.linkSettle l .retrain else s)

/-! Re-plans (R436 to R439). -/

/-- One sample per margin per 24 hours. -/
def PatinaState.sample (p : PatinaState) (k : MarginKind × Nat) (v : Int) : PatinaState :=
  let old := tgetD p.samples k []
  if old.head?.any fun x => p.hours < x.1 + 24 then p else { p with samples := tset p.samples k ((p.hours, v) :: old) }

/-- The fit of a margin; none with fewer than 30 samples. -/
def PatinaState.fit (p : PatinaState) (k : MarginKind × Nat) : Option Fit :=
  let xs := tgetD p.samples k []
  if xs.length < 30 then none else some (fitOf xs)

/-- The value on which a margin without a projection is judged. -/
def PatinaState.latest (p : PatinaState) (k : MarginKind × Nat) : Option Int := ((tgetD p.samples k []).head?).map (·.2)

/-- Does a margin meet a bound at an hour, by its projection, or by its measured value where it has none? -/
def PatinaState.holds (p : PatinaState) (k : MarginKind × Nat) (h : Nat) (bound : Int) : Bool :=
  match p.fit k with
  | some f => f.meets h bound
  | none => (p.latest k).all (bound ≤ ·)

/-- Is a path or SRAM margin short at an hour with clock f and the capped voltage? -/
def PatinaState.short (p : PatinaState) (h f : Nat) : Bool :=
  (List.range 4).any fun d => !p.holds (.path, d) h (pathFloor - stepGain f) || !p.holds (.sram, d) h sramFloor

/-- The loop of R438 from f with `n` steps left to 1,500 MHz: the clock, and whether the margins are exhausted there. -/
def PatinaState.planClock (p : PatinaState) (h : Nat) : Nat → Nat → Nat × Bool
  | 0, f => (f, p.short h f)
  | n + 1, f => if p.short h f then p.planClock h n (f - 25) else (f, false)

/-- The highest clock in steps of 25 MHz that every path and SRAM margin allows at the service life (R439). -/
def PatinaState.life (p : PatinaState) : Nat :=
  (((List.range 78).map fun i => 1950 - 25 * i).find? fun f => !p.short serviceLife f).getD 0

/-- Average of the path margins measured since the last re-plan, by die. -/
def PatinaState.average (p : PatinaState) (d : Nat) : Option Int := (tget p.measured d).bind fun (t, n) => if n == 0 then none else some (t / n)

/-- Samples of a reading taken into the flash. -/
def PatinaState.takeReading (p : PatinaState) (r : PlanReading) : PatinaState :=
  let p := (List.range 6).foldl (fun (p : PatinaState) d => (p.average d).elim p fun m => p.sample (.path, d) (m - stepGain p.maxMhz)) p
  let p := (r.canary.zipIdx).foldl (fun (p : PatinaState) (mv, d) => p.sample (.sram, d) (900 - (mv : Int))) p
  let p := r.ratios.foldl (fun (p : PatinaState) (pc, x) => p.sample (.hbm, pc) x) p
  r.eyes.foldl (fun (p : PatinaState) (l, mv) => p.sample (.eye, l) mv) p

/-- Every margin with its floor under settings: class, unit, floor. -/
def marginList (f : Nat) (twice : BitVec 16) (pcs links : List Nat) : List ((MarginKind × Nat) × Int) :=
  ((List.range 6).map fun d => ((MarginKind.path, d), pathFloor - stepGain f))
    ++ ((List.range 4).map fun d => ((MarginKind.sram, d), sramFloor))
    ++ (pcs.map fun pc => ((MarginKind.hbm, pc), if twice.getLsbD (pc / 64) then 100 else 200))
    ++ links.map fun l => ((MarginKind.eye, l), (eyeFloor : Int))

/-- The earliest end of margin, and the margin that sets it. -/
def PatinaState.earliest (p : PatinaState) (ms : List ((MarginKind × Nat) × Int)) : Option (Nat × (MarginKind × Nat)) :=
  ms.foldl (fun (acc : Option (Nat × (MarginKind × Nat))) (k, floor) =>
    match (p.fit k).bind (·.eom floor) with
    | none => acc
    | some h => if acc.any (·.1 ≤ h) then acc else some (h, k)) none

/-- Pseudo-channels of a stack that are in service. -/
def State.pcInService (s : State) (pc : Nat) : Bool :=
  let d := s.mem.die (dieOfPc pc)
  !d.retired && !(d.mapped.any (·.1 == pclOf pc)) && !(d.request.any (·.1 == pclOf pc))

/-- Settings of HBM refresh: pseudo-channels to map out, lowest ratios by stack, stacks at m = 2 (R436). -/
def State.planHbm (s : State) (ratios : List (Nat × Nat)) : List Nat × Vector Nat 16 × BitVec 16 :=
  let live := ratios.filter fun (pc, _) => pc < 1024 && s.pcInService pc
  let out := (live.filter fun x => x.2 < 100).map (·.1)
  let low : Vector Nat 16 := Vector.ofFn fun k =>
    (((live.filter fun (pc, x) => pc / 64 == k.val && 100 ≤ x).map (·.2)).min?).getD (s.pat.ratio[k])
  (out, low, (List.finRange 16).foldl (fun (b : BitVec 16) k => if low[k] < 300 then b ||| (1#16 <<< k.val) else b) 0)

/-- CLOCK_STEP events, one for each step from f. -/
def State.stepEvents (s : State) (f : Nat) : Nat → State
  | 0 => s
  | n + 1 => (s.faultEvent (srcCore 0 6) ⟨0x0A0A, 0, 0, srcCore 0 6, 0xFFFF, 0, f - 25, 0, 0⟩).stepEvents (f - 25) n

/-- A re-plan (R436 to R438): the settings that wait for the step boundary. Margins exhausted at 1,500 MHz are a class 4
fault. -/
def State.replan (s : State) (cmds : List CmdRef) (r : PlanReading) : State :=
  let p := s.pat.takeReading r
  let h := p.hours + 720
  let (f, exhausted) := p.planClock h ((p.maxMhz - 1500) / 25) p.maxMhz
  let n := (p.maxMhz - f) / 25
  let s := (s.setPat p).stepEvents p.maxMhz n
  if exhausted then s.withdraw (srcCore 0 6) 5
  else
    let (out, low, twice) := s.planHbm r.ratios
    let links := (List.range 96).filter fun l => (s.peerAddr l).isSome
    let pcs := (r.ratios.map (·.1)).filter fun pc => s.pcInService pc && !out.contains pc
    let ms := marginList f twice pcs links
    let valid := ms.all fun (k, _) => (p.fit k).isSome
    let first := if valid then p.earliest ms else none
    let eyes := r.eyes.filter fun (l, _) => links.contains l
    let eye := eyes.foldl (fun (a : Option (Nat × Nat)) x => if a.any (·.2 ≤ x.2) then a else some x) none
    let canary := fun (d : Fin 4) => r.canary.getD d.val 900
    let drift := fun (d : Fin 4) => (p.fit (.sram, d.val)).elim 0 fun g => (max 0 (g.value p.hours - g.value h)).toNat
    let sram : Vector Nat 4 := Vector.ofFn fun d => min 900 (canary d + 30 + drift d)
    let plan : Replan := {
      cmds := cmds, maxMhz := f, steps := p.steps + n, refresh2x := twice
      eom := first.elim 0xFFFFFFFF (·.1), valid := valid, cls := first.elim 0 fun x => x.2.1.code, unit := first.elim 0 fun x => x.2.2
      lifeMhz := p.life, hours := p.hours
      path := Vector.ofFn fun d => (p.average d.val).elim p.path[d] fun m => (m + stepGain f - stepGain p.maxMhz) / 1000
      sram := Vector.ofFn fun d => (sram[d] : Int) - canary d
      ratio := low, eyeMin := eye.elim p.eyeMin (·.2), eyeLink := eye.elim p.eyeLink (·.1), mapOut := out
      railMv := Vector.ofFn fun d => min 850 (r.rails.getD d.val p.railMv[d]), sramMv := sram }
    s.setPat { p with pending := some plan }

/-- Does the module run a learning step? A generation step is one event. -/
def State.inStep (s : State) : Bool := s.cmd.cmds.any fun c => c.opcode == 0x401 && c.running

/-- Groups in use recalibrate with their new equalisation (11 R329). -/
def State.recalAll (s : State) : State :=
  let gs := (List.range 12).filter fun g => (groupLinks g).any fun l => (s.linkAt l).phase == .up
  gs.foldl (fun s g => s.startRecal g) (gs.foldl (fun s g => s.modGroup g fun x => { x with recalDue := true }) s)

/-- The settings of a re-plan take effect (R436, R439): the registers, the map-outs, recalibration, the events, and the
commands that asked for it. -/
def State.applyReplan (s : State) (p : Replan) : State :=
  let s := s.setPat { s.pat with
    maxMhz := p.maxMhz, steps := p.steps, refresh2x := p.refresh2x, eom := p.eom, valid := p.valid, cls := p.cls, unit := p.unit
    lifeMhz := p.lifeMhz, last := p.hours, path := p.path, sram := p.sram, ratio := p.ratio, eyeMin := p.eyeMin, eyeLink := p.eyeLink
    railMv := p.railMv, sramMv := p.sramMv, measured := [], pending := none }
  let s := p.mapOut.foldl (fun s pc => s.beginDrain (dieOfPc pc) (pclOf pc) 2) s.recalAll
  let event := fun (s : State) (kind : Nat) => s.faultEvent (srcCore 0 6) ⟨kind, 0, 0, srcCore 0 6, 0xFFFF, 0, p.maxMhz, 0, p.eom⟩
  let s := event s 0x0A09
  let s := if p.eom < serviceLife then event s 0x0A0B else s
  p.cmds.foldl (fun s c => s.finish c 0 0 0) s

/-- At the step boundary, configuration first, then the re-plan (R441). -/
def State.replanBoundary (s : State) : State :=
  match s.pat.pending with
  | none => s
  | some p => if s.inStep || !s.cmd.staged.isEmpty then s else s.applyReplan p

/-- PATINA_DAILY_REPLAN: deferred in RECOVERY (R441). -/
def execPatinaDailyReplan (r : PlanReading) (s : State) : Out :=
  .next (if s.inReset || s.flt.withdrawn || s.flt.mode == .recovery || s.pat.pending.isSome || s.pat.hours < s.pat.last + 24 then s
    else (s.replan [] r).replanBoundary)

/-- REPLAN_APPLY. -/
def execReplanApply (s : State) : Out := .next s.replanBoundary

/-- PATINA_REPLAN joins a re-plan that waits. -/
def patinaReplanBody (r : Option PlanReading) (s : State) (c : Cmd) : CmdRes :=
  match s.pat.pending, r with
  | some p, _ => .wait (if p.cmds.contains c.ref then s else s.setPat { s.pat with pending := some { p with cmds := p.cmds ++ [c.ref] } })
  | none, none => .wait s
  | none, some r => if s.flt.mode == .recovery then .wait s else .wait (s.replan [c.ref] r)

/-- PATINA_REPLAN: completes when the new settings have taken effect. -/
def execPatinaReplan (c : CmdRef) (r : Option PlanReading) (s : State) : Out :=
  .next (runCommand 0x82 c (patinaReplanBody r) s).replanBoundary

/-! Power-on hours (R440, R444; 15 R458). -/

/-- POWER_ON_HOUR: `outside` are the rated conditions that were left for more than 60 s of the hour. -/
def execPowerOnHour (outside : BitVec 5) (s : State) : Out :=
  .next (if s.inReset then s
    else
      let detail := outside.toNat + if s.pwr.tripInHour then 32 else 0
      let s := s.setPat { s.pat with
        hours := (s.pat.hours + 1) % 2 ^ 32, outHours := if detail == 0 then s.pat.outHours else (s.pat.outHours + 1) % 2 ^ 32 }
      let s := s.setPwr { s.pwr with tripInHour := false }
      if detail == 0 then s else s.powerEvent 0 0x0B06 0xFF 0 (10 * s.pwr.tcC) 0 detail)

end Sys2Proof.Machine
end

