-- ==== Sys2Proof/Machine/Power.lean ====
section
/-! DEFINITION. The power governor, input voltage, thermal levels and trips (15 R445 to R456). -/

namespace Sys2Proof.Machine

/-! The governor (R445, R447, R449, R450). -/

/-- Sustained package limit in W: 2,800, the cap, or 2,400 in the 46 V to 48 V band. -/
def State.packageLimit (s : State) : Nat := min (min 2800 s.pwr.capW) (if s.pwr.band == 1 then 2400 else 2800)

/-- Power limits in W: package sustained and peak, module input sustained and peak. -/
def State.powerLimits (s : State) : List Nat := [s.packageLimit, s.packageLimit + 150, 3000, 3200]

/-- The governor's clock as it stands: never above f. -/
def State.governorMhz (s : State) : Nat := min s.pwr.powerMhz s.pat.maxMhz

/-- The lowest of f and each die's thermal ceiling (R450). -/
def State.governorTop (s : State) : Nat := (List.range 4).foldl (fun a d => min a (s.dieCeil d)) s.pat.maxMhz

/-- POWER_LIMITING, at most once per second. -/
def State.limitEvent (s : State) (detail : Nat) : State :=
  if s.pwr.lastLimitEvent.any fun t => s.time < t + second then s
  else (s.setPwr { s.pwr with lastLimitEvent := some s.time }).powerEvent 0 0x0B04 0xFF 0 0 s.governorMhz detail

/-- A prediction above a limit: `steps` of 25 MHz are needed to meet it. What the clock cannot give, the duty cycle does. -/
def State.reducePower (s : State) (steps : Nat) : State :=
  let f := s.governorMhz
  let low := max (min f 975) (f - 25 * max steps 1)
  let duty := s.pwr.duty || f < 975 + 25 * max steps 1
  let s := s.setPwr { s.pwr with powerMhz := low, limiting := true, duty := duty, dutyAt := if s.pwr.duty then s.pwr.dutyAt else s.time, calmSince := none }
  s.limitEvent (if duty then 2 else 1)

/-- GOVERNOR_SAMPLE: what the regulators report: averages over 1 ms, energy since the last sample in mJ, the lid's
temperature, and the predictions of `powerLimits` in that order with the clock steps that they need. -/
def execGovernorSample (pkgW inputW : Fin 4096) (mj : Nat) (tc : Fin 256) (predicted : List Nat) (steps : Nat) (s : State) : Out :=
  .next (if s.inReset || predicted.length != 4 then s
    else
      let s := s.setPwr { s.pwr with
        pkgW := pkgW, inputW := inputW, energyMj := (s.pwr.energyMj + mj) % 2 ^ 64, tcC := tc, tcMaxC := max s.pwr.tcMaxC tc }
      let pairs := predicted.zip s.powerLimits
      if pairs.any fun (p, l) => p > l then s.reducePower steps
      else if pairs.all fun (p, l) => p + 50 ≤ l then
        if s.pwr.calmSince.isSome then s else s.setPwr { s.pwr with calmSince := some s.time }
      else s.setPwr { s.pwr with calmSince := none })

/-- GOVERNOR_RELEASE: the duty cycle ends, then the clock rises by 25 MHz every 100 µs. -/
def execGovernorRelease (s : State) : Out :=
  .next (if s.inReset || !(s.pwr.calmSince.any fun t => s.time ≥ t + 100 * us) then s
    else
      let s := s.setPwr { s.pwr with calmSince := some s.time }
      if s.pwr.duty then s.setPwr { s.pwr with duty := false, stopped := s.stoppedNs }
      else
        let f := s.governorMhz
        if f ≥ s.governorTop then s
        else
          let f' := min (f + 25) s.governorTop
          let s := s.setPwr { s.pwr with powerMhz := f', limiting := decide (f' < s.governorTop) }
          if f' == s.governorTop then s.limitEvent 0 else s)

/-! Input voltage (R446). -/

/-- INPUT_VOLTAGE, in 10 mV: `long` says whether it has been below 46 V for more than 1 ms. -/
def execInputVoltage (v : Fin 65536) (long : Bool) (s : State) : Out :=
  .next (if s.sig.phase == .off then s.setPwr { s.pwr with v10mv := v }
    else if v.val > 6200 || (v.val < 4600 && long) then
      let s := s.powerLoss
      { s with pwr := { s.pwr with v10mv := v }, sig := { s.sig with phase := .off, faultLow := s.sig.faultLow && !s.sig.faultDrive, faultDrive := false } }
    else
      let s := s.setPwr { s.pwr with v10mv := v }
      if v.val < 4600 then s
      else
        let band := if v.val < 4800 then 1 else if v.val > 6000 then 2 else 0
        if band == s.pwr.band then s else (s.setPwr { s.pwr with band := band }).powerEvent 0 0x0B05 0xFF 0 0 s.governorMhz 0)

/-! Notices (11 R346). -/

/-- Notices go out when the condition that they tell of begins. -/
def State.noticeFrom (before : Option (Nat × Nat)) (s : State) : State :=
  if before.isNone && s.heatLevel.isSome then s.coll.insts.foldl State.sendHeat s else s

/-! Stacks (R451, R452, R454). -/

/-- Entry thresholds in 0.1 °C; trip has rules of its own. -/
def entryLevel (tj : Int) : ThermLevel := if tj ≥ 1000 then .squall else if tj ≥ 950 then .gale else if tj ≥ 850 then .breeze else .calm

/-- The bound below which samples lower a level, and the level below. -/
def exitBound : ThermLevel → Option (Int × ThermLevel)
  | .calm => none
  | .breeze => some (820, .calm)
  | .gale => some (920, .breeze)
  | .squall => some (970, .gale)
  | .trip => some (1000, .squall)

/-- Event LEVEL_CHANGE. -/
def State.levelEvent (s : State) (k : Nat) : State :=
  let x := s.stackAt k
  s.powerEvent (k / 4) 0x0B01 k x.level.code x.tj (s.dieMhz (k / 4)) 0

/-- Commands with tiles on a die killed, to run again without blame (R454). -/
def State.tripDie (s : State) (d : Nat) : State := (s.abortColls 0 fun _ => true).killOn .die d

/-- A trip counted. -/
def State.countTrip (s : State) : State := s.setPwr { s.pwr with tripCount := (s.pwr.tripCount + 1) % 2 ^ 64, tripInHour := true }

/-- A stack at another level. A trip of a die that has tripped shares its sequence. -/
def State.moveStack (s : State) (k : Fin 16) (x : StackTherm) (l : ThermLevel) : State :=
  let d := k.val / 4
  let tripped := s.dieTripped d
  let before := s.heatLevel
  let s := s.setStack k { x with level := l, belowSince := none, tripAt := if l == .trip then s.time else x.tripAt }
  let s := (s.levelEvent k).noticeFrom before
  if l == .trip then
    let s := s.countTrip
    if tripped then s else (s.tripDie d).powerEvent d 0x0B02 k 4 x.tj 0 0
  else if l == .squall then
    let s := if x.level == .trip && !s.dieTripped d then s.powerEvent d 0x0B03 k 3 x.tj (s.dieMhz d) 0 else s
    s.evacuate d
  else s

/-- STACK_TEMP_SAMPLE: Tj of the hottest DRAM die of a stack in 0.1 °C. -/
def execStackTempSample (k : Fin 16) (tj : Int) (s : State) : Out :=
  .next (if s.inReset then s
    else
      let x := s.stackAt k
      let n := if tj ≥ 1050 then x.tripSamples + 1 else 0
      let low := (exitBound x.level).any fun b => tj < b.1
      let since := if low then some (x.belowSince.getD s.time) else none
      let x := { x with tj := tj, tripSamples := n, belowSince := since }
      let s := s.setStack k x
      let due := since.any fun t => s.time ≥ t + 100 * ms
      if x.level != .trip && n ≥ 2 then s.moveStack k x .trip
      else if x.level != .trip && (entryLevel tj).code > x.level.code then s.moveStack k x (entryLevel tj)
      else if due then (exitBound x.level).elim s fun b => s.moveStack k x b.2
      else s)

/-- TRIP_TIMEOUT: a stack 0 to 15 or a compute die 16 to 19 that has tripped is still at 100 °C or above after 60 s. -/
def execTripTimeout (unit : Fin 20) (s : State) : Out :=
  let (trip, since, below) :=
    if unit.val < 16 then let x := s.stackAt unit; (x.level == .trip, x.tripAt, x.belowSince)
    else let x := s.dieAt (unit.val - 16); (x.trip, x.tripAt, x.belowSince)
  let d := if unit.val < 16 then unit.val / 4 else unit.val - 16
  .next (if s.inReset || !trip || below.isSome || s.time < since + 60 * second then s else s.withdraw (srcCore d 7) 5)

/-! Dies (R455). -/

/-- The die's own ceiling lowered by one step; the tensor clock is at least 975 MHz (R459). -/
def State.lowerDie (s : State) (d : Nat) : Nat := max (min 975 (s.dieCeil d)) (s.dieCeil d - 25)

/-- A compute die that trips, and its return. -/
def State.sampleTripped (s : State) (d : Fin 6) (x : DieTherm) (tj : Int) : State :=
  let since := if tj < 1000 then some (x.belowSince.getD s.time) else none
  if since.any fun t => s.time ≥ t + 100 * ms then
    let s := s.setDieTherm d { x with trip := false, tripSamples := 0, belowSince := none, ceil := some (min 1300 s.pat.maxMhz), raisedAt := s.time, throttle := tj ≥ 980 }
    s.powerEvent d 0x0B03 (16 + d) 0 tj (s.dieMhz d) 0
  else s.setDieTherm d { x with belowSince := since }

/-- A compute die in service: its ceiling falls from 100 °C until Tj is below 98 °C, and rises again every 10 ms. -/
def State.sampleDie (s : State) (d : Fin 6) (x : DieTherm) (tj : Int) : State :=
  let hot := tj ≥ 1000 || (x.throttle && tj ≥ 980)
  if hot then s.setDieTherm d { x with throttle := true, ceil := some (s.lowerDie d) }
  else
    let raisedAt := if x.throttle then s.time else x.raisedAt
    match x.ceil with
    | none => s.setDieTherm d { x with throttle := false }
    | some c =>
      if tj < 980 && s.time ≥ raisedAt + 10 * ms then
        s.setDieTherm d { x with throttle := false, raisedAt := s.time, ceil := if c + 25 ≥ s.pat.maxMhz then none else some (c + 25) }
      else s.setDieTherm d { x with throttle := false, raisedAt := raisedAt }

/-- DIE_TEMP_SAMPLE: Tj of a compute die 0 to 3 or an I/O die 4, 5 in 0.1 °C. -/
def execDieTempSample (d : Fin 6) (tj : Int) (s : State) : Out :=
  .next (if s.inReset then s
    else
      let x := s.dieAt d
      let n := if tj ≥ 1100 then x.tripSamples + 1 else 0
      let x := { x with tj := tj, tripSamples := n }
      let s := s.setDieTherm d x
      let before := s.heatLevel
      if d.val ≥ 4 then
        if x.trip then if tj < 950 then s.restartModule 4 else s
        else
          let s := s.setDieTherm d { x with throttle := tj ≥ 1000 || (x.throttle && tj ≥ 980), trip := n ≥ 2, tripAt := if n ≥ 2 then s.time else x.tripAt }
          if n < 2 then s else ((s.countTrip).abortColls 0 fun _ => true).powerEvent 0 0x0B02 (16 + d) 4 tj 0 0
      else if x.trip then s.sampleTripped d x tj
      else if n ≥ 2 then
        let s := (s.setDieTherm d { x with trip := true, tripAt := s.time, belowSince := none }).countTrip
        (s.tripDie d).powerEvent d 0x0B02 (16 + d) 4 tj 0 0
      else (s.sampleDie d x tj).noticeFrom before)

/-- THERMAL_SHUTDOWN: the comparator switches the regulators off; FAULT_N is driven, and an isolated SMBus port returns to
service (16 R476, R481). -/
def execThermalShutdown (s : State) : Out :=
  .next (if s.sig.phase == .off || s.sig.phase == .standby then s
    else
      let s := s.setPwr { s.pwr with tripInHour := true }
      let s := s.powerLoss.driveFault
      { s with sig := { s.sig with smbIso := false, smbLock := false } })

end Sys2Proof.Machine
end

