-- ==== Sys2Proof/Machine/Signals.lean ====
section
/-! DEFINITION. Sideband signals and start-up (16 R469 to R482), and what trains at a start-up (04 R21; 05 R137, R143;
11 R327; 13 R388). -/

namespace Sys2Proof.Machine

def State.setSig (s : State) (x : SigState) : State := { s with sig := x }

/-- Is the standby supply on? -/
abbrev State.standby (s : State) : Bool := s.sig.phase != .off

/-! Start-up (R475 to R481). -/

/-- The board configuration record that waits takes effect at power-on (17 R490; 11 R317). -/
def State.takeBoard (s : State) : State :=
  match s.boot.nextBoard with
  | none => s
  | some (pmd, digest) =>
    let s := { s with boot := { s.boot with boardPmd := pmd, boardDigest := digest, nextBoard := none } }
    s.setLnk { s.lnk with groups := Vector.ofFn fun g => { s.lnk.groups[g] with cr1 := pmd.getLsbD g } }

/-- The boot ROM verifies the management controller (17 R488). With both banks invalid, only the update endpoint runs. -/
def State.bootController (s : State) : State :=
  let b := s.boot
  match pickBank b.mcSvn b.mcBank b.mcA b.mcB with
  | (some k, fell, f) =>
    let s := { s with boot := { b with mcBank := k, fallback := fell, fail := if fell then f else 0 } }
    if fell then s.bootEvent 0 else s
  | (none, _, f) => { s with boot := { b with fail := f } }

/-- Main rails on from t1; the package stays in reset (R478). -/
def State.railsOn (s : State) (t1 : Nat) : State := s.setSig { s.sig with phase := .held, t2 := t1 }

/-- POWER_ON: VIN reaches 48 V. The timebase starts; while the main rails are off, `sig.t2` keeps t0 + 200 ms. -/
def execPowerOn (s : State) : Out :=
  .next (if s.standby then s
    else
      let s := s.setDom { s.dom with time := 0, ratePpb := 0 }
      let s := s.setPwr { s.pwr with v10mv := max s.pwr.v10mv 4800, band := 0 }
      let s := s.setSig { s.sig with
        phase := .standby, t2 := 200 * ms, smbAddr := s.sig.addrPin, held := [], lastEdge := none, tickNs := 0, tickRun := 0, tickFree := true
        tickSec := 0, lastIso := none, smbIso := false, smbLock := false, recovering := false, faultMask := false, faultSince := 0 }
      let s := s.takeBoard.bootController
      if s.sig.pwrEn then s.railsOn (200 * ms) else s)

/-- PWR_EN_RISE: t1 is the later of t0 + 200 ms and this rise. -/
def execPwrEnRise (s : State) : Out :=
  let s := s.setSig { s.sig with pwrEn := true }
  .next (if s.sig.phase == .standby then s.railsOn (max s.time s.sig.t2) else s)

/-- PWR_EN_FALL: as power loss; a drive of FAULT_N after a hardware shutdown ends (R476). -/
def execPwrEnFall (s : State) : Out :=
  let s := s.setSig { s.sig with pwrEn := false }
  let s := if s.sig.phase == .off || s.sig.phase == .standby then s else s.powerLoss
  .next (s.setSig { s.sig with faultDrive := false, faultLow := s.sig.faultLow && !s.sig.faultDrive })

/-- PERST_N_FALL: a module reset of cause 4; the package stays in reset while PERST_N is low (R475). -/
def execPerstNFall (s : State) : Out := .next (({ s with sig := { s.sig with perstN := false } } : State).moduleReset 4)

/-- PERST_N_RELEASE: t2, at the earliest t1 + 30 ms; also where the pull-up holds it high from the start. -/
def execPerstNRelease (refclk : Bool) (s : State) : Out :=
  let s := s.setSig { s.sig with perstN := true, hostRefclk := refclk }
  .next (if s.sig.phase == .held then s.startPackage (if s.sig.coldStart then max s.time (s.sig.t2 + 30 * ms) else s.time) else s)

/-- Whole ms from t2, below the value that says none. -/
def State.sinceStart (s : State) : Nat := min ((s.time - s.sig.t2) / ms) 0xFFFE

/-- Straps as they now read (R482). -/
def SigState.pins (g : SigState) : Nat := packBits [flagBit g.anchorPin, flagBit g.compatPin, (2, g.addrPin.toNat)]

def SigState.latched (g : SigState) : Nat := packBits [flagBit g.anchorSel, flagBit g.compatSel, (2, g.smbAddr.toNat)]

/-- The conditions of R480. -/
def State.readyNow (s : State) : Bool :=
  s.dom.phase == .member && s.flt.mode == .service && s.sig.portsTrained == BitVec.allOnes 8
    && ((List.finRange 16).all fun k => s.sig.stacksTrained.getLsbD k || (s.mem.die (k.val / 4)).retired)
    && (s.dom.rank != s.dom.anchor || s.sig.visible)

/-- Fused SVNs raised to the running images' (17 R489). -/
def State.raiseSvn (s : State) : State :=
  let b := s.boot
  let run := fun (k : Bool) (x y : Option FwImage) (n : Nat) => max n ((if k then y else x).elim 0 (·.svn))
  { s with boot := { b with mcSvn := run b.mcBank b.mcA b.mcB b.mcSvn, pkgSvn := run b.pkgBank b.pkgA b.pkgB b.pkgSvn } }

/-- The end of a module reset: RESET_DONE (14 R442). -/
def State.endModuleReset (s : State) : State :=
  match s.flt.resets.find? (·.level == .module) with
  | none => s
  | some r =>
    let s := s.setFlt { s.flt with
      resets := s.flt.resets.filter (· != r), lastReset := tset s.flt.lastReset (ResetLevel.module.code, 0) s.time }
    s.recoveryEvent ⟨0x0A03, 3, 6, srcCore 0 7, 0xFFFF, r.record, 0, 0, (s.time - r.since) / 1000⟩

/-- STARTUP_READY: READY becomes 1. Held enables take effect, held events go out. -/
def execStartupReady (s : State) : Out :=
  .next (if s.inReset || s.sig.ready || !s.readyNow then s
    else
      let first := s.sig.phase == .starting
      let s := s.setSig { s.sig with phase := .running, ready := true, coldStart := false, readyMs := if first then s.sinceStart else s.sig.readyMs }
      let s := (if first then s.raiseSvn else s).endModuleReset.releaseHeld
      let s := if s.sig.pins != s.sig.latched then s.sigEvent 0x0918 s.sig.pins else s
      let fs := s.sig.heldEnables
      fs.foldl (fun s f => s.startAdmin (Fin.ofNat 513 f)) (s.setSig { s.sig with heldEnables := [] }))

/-- HOST_LINK_UP: the host port trains, and the device becomes visible; a port without its clock stays in Detect (R470). -/
def execHostLinkUp (gen : Fin 8) (width : Fin 32) (s : State) : Out :=
  .next (if s.inReset || !s.sig.hostRefclk || gen < 4 || !([4, 8, 16].contains width.val) || (s.sig.visible && s.host.gen != 0) then s
    else
      let s := s.setHost { s.host with gen := gen, width := width }
      if s.sig.visible then s else s.setSig { s.sig with visible := true, visibleMs := s.sinceStart })

/-- LINK_GROUP_RESET_RELEASED: used ports of the group train; a group that LNK_GRP_CMD holds stays. -/
def execLinkGroupResetReleased (g : Fin 12) (s : State) : Out :=
  .next (if s.inReset || s.sig.groupsReleased.getLsbD g then s
    else
      let s := s.setSig { s.sig with
        releasedAt := if s.sig.groupsReleased == 0 then s.time else s.sig.releasedAt
        groupsReleased := s.sig.groupsReleased ||| (1#12 <<< g.val) }
      if (s.groupAt g).held then s else (groupLinks g).foldl State.releaseLink s)

/-- A pseudo-channel that start-up maps out; a die region that would need more than 16 is retired (05 R137, R139). -/
def State.mapOutAtStart (s : State) (pc : Nat) : State :=
  let d := dieOfPc pc
  let r := s.mem.die d
  if r.retired || r.mapped.any (·.1 == pclOf pc) then s
  else if r.mapped.length ≥ 16 then s.setDie d { r with retired := true }
  else s.setDie d { r with mapped := r.mapped ++ [(pclOf pc, 0)] }

/-- HBM_STACK_TRAINED: both pseudo-channels of each channel that failed are mapped out. After a module reset no stack is
trained again (R479). -/
def execHbmStackTrained (k : Fin 16) (failed : List (Fin 32)) (s : State) : Out :=
  .next (if s.inReset || s.sig.stacksTrained.getLsbD k then s
    else
      let s := failed.foldl (fun s c => (s.mapOutAtStart (64 * k.val + 2 * c.val)).mapOutAtStart (64 * k.val + 2 * c.val + 1)) s
      s.setSig { s.sig with stacksTrained := s.sig.stacksTrained ||| (1#16 <<< k.val) })

/-- CXL_PORT_TRAINED: what the port found: none; or lanes, rate in GT/s, capacity in GiB, and whether R142 accepts it. -/
def execCxlPortTrained (p : Fin 8) (device : Option (Nat × Nat × Nat × Bool)) (s : State) : Out :=
  .next (if s.inReset || s.sig.portsTrained.getLsbD p then s
    else
      let s := s.setSig { s.sig with portsTrained := s.sig.portsTrained ||| (1#8 <<< p.val) }
      match device with
      | none => s.setPort p ⟨false, false, 0, 0, 0, false, false⟩
      | some (lanes, rate, gib, ok) =>
        if ok && [4, 8].contains lanes && [16, 32, 64].contains rate then
          s.setPort p ⟨true, true, if lanes == 4 then 1 else 2, Nat.log2 (rate / 16), min gib 1024, false, false⟩
        else (s.setPort p ⟨true, false, 0, 0, 0, true, false⟩).memEvent 0 ⟨6, 2, 0, none, p, 0, bulkBase + p * portSpan, 0, 0⟩)

/-- BRIDGE_TRAINING_LOST: a die-level fault; the sender holds the bridge's traffic until it is handled (04 R21). -/
def execBridgeTrainingLost (die : Fin 4) (iod : Fin 2) (s : State) : Out :=
  .next (if s.inReset || s.flt.withdrawn then s
    else
      let b := 2 * die.val + iod.val
      let s := s.setSig { s.sig with bridgesDown := if s.sig.bridgesDown.contains b then s.sig.bridgesDown else s.sig.bridgesDown ++ [b] }
      if s.underReset .die die then s else s.resetUnit .die die 2)

/-! FAULT_N (R473, R476). -/

/-- FAULT_SEEN: FAULT_N reads low while the module does not drive it. -/
def execFaultSeen (s : State) : Out :=
  .next (if !s.standby || s.sig.faultDrive || s.sig.faultLow then s
    else
      let s := s.setSig { s.sig with faultLow := true, faultSince := s.time }
      if s.sig.faultMask then s else s.sigEvent 0x0913 0)

/-- FAULT_MASKED: low for 1 s. -/
def execFaultMasked (s : State) : Out :=
  .next (if !s.standby || !s.sig.faultLow || s.sig.faultDrive || s.sig.faultMask || s.time < s.sig.faultSince + second then s
    else (s.setSig { s.sig with faultMask := true }).sigEvent 0x0914 0)

/-- FAULT_UNMASKED: high for 1 s. An input that was never masked is high without an event. -/
def execFaultUnmasked (s : State) : Out :=
  .next (if !s.standby || s.sig.faultDrive then s
    else
      let masked := s.sig.faultMask
      let s := s.setSig { s.sig with faultLow := false, faultMask := false }
      if masked then s.sigEvent 0x0915 0 else s)

/-! TICK_IN and TICK_OUT (R471, R473). -/

/-- An interval is valid at 1 s ± 100 µs. -/
def validTick (a b : Nat) : Bool := second ≤ b - a + 100 * us && b - a ≤ second + 100 * us

/-- TICK_IN_EDGE, captured to 4 ns. While the timebase runs free, intervals count from the last edge of any kind. On the
grid master a valid interval sets the rate; the third in a row ends the free run. -/
def execTickInEdge (s : State) : Out :=
  let g := s.sig
  let t := s.time / 4 * 4
  let prev := if g.tickFree then g.lastEdge else some g.tickNs
  .next (if !s.standby then s
    else
      match prev.filter fun a => validTick a t with
      | none => s.setSig { g with lastEdge := some t, tickRun := if g.tickFree then 0 else g.tickRun }
      | some a =>
        let rate : Int := (second : Int) - (t - a : Nat)
        let ends := g.tickFree && g.tickRun ≥ 2
        let s := s.setSig { g with
          lastEdge := some t, tickNs := t, tickRun := if ends || !g.tickFree then 0 else g.tickRun + 1, tickFree := g.tickFree && !ends }
        if !s.gridMaster || s.sig.tickFree then s
        else
          let s := s.setDom { s.dom with ratePpb := s.dom.ratePpb + rate }
          if ends then s.sigEvent 0x0917 (signed64 rate) else s)

/-- TICK_LOST: no valid edge for 2 s; the last disciplined rate stays. -/
def execTickLost (s : State) : Out :=
  .next (if !s.standby || s.sig.tickFree || s.time < s.sig.tickNs + 2 * second then s
    else
      let s := s.setSig { s.sig with tickFree := true, tickRun := 0 }
      if s.gridMaster then s.sigEvent 0x0916 s.sig.tickNs else s)

/-- TICK_OUT: device time has crossed a multiple of 10⁹ ns. -/
def execTickOut (s : State) : Out :=
  .next (if !s.standby || s.time / second ≤ s.sig.tickSec then s
    else s.setSig { s.sig with tickSec := s.time / second, tickPulses := s.sig.tickPulses + if s.sig.tickOutEn then 1 else 0 })

/-! The SMBus port, the console and the straps (R469, R473, R474). -/

/-- SMB_STUCK: lines low for more than 35 ms; recovery clocking starts. -/
def execSmbStuck (scl sda : Bool) (s : State) : Out :=
  .next (if !s.standby || s.sig.smbIso || s.sig.recovering || !(scl || sda) then s
    else s.setSig { s.sig with sclLow := scl, sdaLow := sda, recovering := true, stuckAt := s.time })

/-- SMB_RECOVERY_CHECK, 1 ms after the STOP that ends nine clocks at 100 kHz: lines that are still low isolate the port. -/
def execSmbRecoveryCheck (scl sda : Bool) (s : State) : Out :=
  .next (if !s.standby || !s.sig.recovering || s.time < s.sig.stuckAt + 1090 * us then s
    else
      let g := { s.sig with recovering := false, sclLow := scl, sdaLow := sda }
      if !(scl || sda) then (s.setSig g).sigEvent 0x0912 0
      else
        let again := g.lastIso.any fun t => s.time ≤ t + hour
        let g := { g with smbIso := true, smbLock := g.smbLock || again, lastIso := some s.time, isoCount := (g.isoCount + 1) % 2 ^ 64 }
        (s.setSig g).sigEvent 0x0910 (packBits [flagBit scl, flagBit sda]))

/-- SMB_REJOINED: both lines high for 1 s; a locked port stays isolated. -/
def execSmbRejoined (s : State) : Out :=
  .next (if !s.standby || !s.sig.smbIso then s
    else
      let g := { s.sig with sclLow := false, sdaLow := false }
      if g.smbLock then s.setSig g else (s.setSig { g with smbIso := false }).sigEvent 0x0911 0)

/-- UART_RX_STUCK: low for 1 s masks the console input, until the line has been high for 100 ms. -/
def execUartRxStuck (high : Bool) (s : State) : Out := .next (if s.standby then s.setSig { s.sig with uartMask := !high } else s)

/-- STRAP_CHANGED: contacts as they now read. They act only at their latch. -/
def execStrapChanged (anchor compat : Bool) (addr : BitVec 2) (s : State) : Out :=
  let old := s.sig.pins
  let s := s.setSig { s.sig with anchorPin := anchor, compatPin := compat, addrPin := addr }
  .next (if s.sig.ready && s.sig.pins != old then s.sigEvent 0x0918 s.sig.pins else s)

/-! The test access port (R477; 17 R496). -/

/-- The instruction in effect: EXTEST, CLAMP and HIGHZ only while PWR_EN is high and PERST_N holds the package in reset;
an instruction beyond those of R477 only while debug is unlocked. Otherwise BYPASS. -/
def State.tapEffect (s : State) : Nat :=
  if s.sig.tapReset then 0
  else if 3 ≤ s.sig.tap && s.sig.tap ≤ 5 && !(s.sig.pwrEn && !s.sig.perstN) then 0
  else if s.sig.tap == 6 && !s.boot.unlocked then 0
  else s.sig.tap

/-- TAP_INSTRUCTION: with TRST_N low the port is held in reset. -/
def execTapInstruction (trstHigh : Bool) (ir : Fin 7) (s : State) : Out :=
  .next (s.setSig { s.sig with tapReset := !trstHigh, tap := if trstHigh then ir else 0 })

end Sys2Proof.Machine
end

