-- ==== Sys2Proof/Machine/Boot.lean ====
section
/-! DEFINITION. Firmware update, measurements, SPDM sessions, TDISP, image keys, debug unlock and entropy (17 R486 to
R496, R501). -/

namespace Sys2Proof.Machine

def State.setBoot (s : State) (x : BootState) : State := { s with boot := x }

/-! Firmware (R487 to R491). -/

/-- Layout checks of a domain configuration record: a setting names only a register that CFG_LOCK covers, and a 64-bit one
takes two entries (R491). -/
def recordFits (r : DomainRecord) : Bool :=
  let covered := fun (o : Nat) => (regAt o).any fun (b, _) => lockCovers b || b == 0x54008
  let pairs := r.settings.zipIdx.all fun ((o, _), i) =>
    match regAt o with
    | some (b, 8) => if o == b then (r.settings[i + 1]?).any fun x => x.1 == b + 4 else i != 0 && (r.settings[i - 1]?).any fun x => x.1 == b
    | _ => true
  r.size ≤ 2 && r.rowsM1 < 16 && r.colsM1 < 16 && r.row < 16 && r.col < 16 && 1 ≤ r.levelCeil && r.rankMap.length == 64
    && r.settings.length ≤ 28 && (r.settings.all fun x => covered x.1) && pairs

/-- Does a transferred component verify? -/
def State.verifies (s : State) : FwPayload → Bool
  | .controller i => imageFault s.boot.mcSvn (some i) == 0
  | .package i => imageFault s.boot.pkgSvn (some i) == 0
  | .record r => recordFits r
  | .board _ _ => true

def componentOf : FwPayload → Nat
  | .controller _ => 0 | .package _ => 1 | .record _ => 2 | .board _ _ => 3

/-- The component stored: an image in the inactive bank. -/
def BootState.store (b : BootState) : FwPayload → BootState
  | .controller i => if b.mcBank then { b with mcA := some i } else { b with mcB := some i }
  | .package i => if b.pkgBank then { b with pkgA := some i } else { b with pkgB := some i }
  | _ => b

/-- Does the management controller run? With both of its banks invalid only component 0 is accepted (R488). -/
def State.controllerRuns (s : State) : Bool :=
  imageFault s.boot.mcSvn (if s.boot.mcBank then s.boot.mcB else s.boot.mcA) == 0

/-- FIRMWARE_UPDATE: a component that fails verification is refused, and the bank keeps its contents. -/
def execFirmwareUpdate (p : FwPayload) (s : State) : Out :=
  .next (if !s.standby || !s.verifies p || (componentOf p != 0 && !s.controllerRuns) then s
    else
      let b := s.boot.store p
      s.setBoot { b with transferred := p :: b.transferred.filter fun x => componentOf x != componentOf p })

/-- FIRMWARE_ACTIVATION of a transferred component (R490): the controller restarts on its new bank; the others wait for the
next module reset, start-up or power-on. -/
def execFirmwareActivation (component : Fin 4) (s : State) : Out :=
  .next (match s.standby, s.boot.transferred.find? fun x => componentOf x == component.val with
    | true, some p =>
      let b := { s.boot with transferred := s.boot.transferred.filter fun x => componentOf x != component.val }
      match p with
      | .controller _ => ({ s with boot := { b with mcBank := !b.mcBank } } : State).bootController
      | .package _ => s.setBoot { b with pkgPending := true }
      | .record r => s.setBoot { b with nextRecord := some r }
      | .board pmd d => s.setBoot { b with nextBoard := some (pmd, d) }
    | _, _ => s)

/-! SPDM (R492, R493). -/

/-- Can a requester reach the function: over its DOE mailbox, or over MCTP for PF0? -/
def State.spdmOpen (s : State) (f : Fin 513) (mctp : Bool) : Bool :=
  if mctp then f.val == 0 && s.standby && s.controllerRuns else s.sig.visible && s.barOpen f

/-- Digest of the running package firmware and controller images. -/
def BootState.controllerDigest (b : BootState) : Nat := (if b.mcBank then b.mcB else b.mcA).elim 0 (·.digest)
def BootState.packageDigest (b : BootState) : Nat := (if b.pkgBank then b.pkgB else b.pkgA).elim 0 (·.digest)

/-- Measurement blocks 1 to 7 (R493); 6 and 7 are raw values. -/
def State.measurements (s : State) : List Nat :=
  [s.boot.romDigest, s.boot.controllerDigest, s.boot.packageDigest, s.boot.record.elim 0 (·.digest), s.boot.boardDigest,
    packBits [(16, s.dom.level), (16, tableSet)], packBits [(1, if s.boot.unlocked then 1 else 0), (32, s.boot.unlockCount)]]

/-- GET_MEASUREMENTS of one index, or of all for index 0. -/
def execGetMeasurements (f : Fin 513) (mctp : Bool) (index : Fin 8) (s : State) : Out :=
  .next (if !s.spdmOpen f mctp then s
    else
      let ms := if index == 0 then s.measurements else (s.measurements[index.val - 1]?).toList
      s.setBoot { s.boot with measured := (f.val, ms) :: s.boot.measured })

/-- KEY_EXCHANGE: PF0 has 4 sessions across its DOE and MCTP, a VF one of its own. Without entropy no key is made (R496). -/
def execKeyExchange (f : Fin 513) (mctp : Bool) (s : State) : Out :=
  let held := (s.boot.sessions.filter (·.fn == f.val)).length
  .next (if !s.spdmOpen f mctp || s.boot.entropyFail || held ≥ (if f.val == 0 then 4 else 1) then s
    else s.setBoot { s.boot with sessions := s.boot.sessions ++ [⟨f, mctp⟩] })

/-- END_SESSION: image keys stay (R495). -/
def execEndSession (f : Fin 513) (mctp : Bool) (s : State) : Out :=
  .next (s.setBoot { s.boot with sessions := s.boot.sessions.eraseP fun x => x.fn == f.val && x.mctp == mctp })

/-! TDISP (R494). -/

def State.tdiOf (s : State) (t : Nat) : TdiState := (tget s.boot.tdi t).getD .unlocked

def State.setTdi (s : State) (t : Nat) (x : TdiState) : State :=
  s.setBoot { s.boot with tdi := if x == .unlocked then tdel s.boot.tdi t else tset s.boot.tdi t x }

/-- LOCK_INTERFACE: CONFIG_UNLOCKED to CONFIG_LOCKED. -/
def execLockInterface (t : Fin 512) (s : State) : Out :=
  .next (if s.fnExists t && s.tdiOf t == .unlocked then s.setTdi t .locked else s)

/-- START_INTERFACE: CONFIG_LOCKED to RUN. -/
def execStartInterface (t : Fin 512) (s : State) : Out :=
  .next (if s.fnExists t && s.tdiOf t == .locked then s.setTdi t .run else s)

/-- STOP_INTERFACE: a tenant reset, and CONFIG_UNLOCKED. -/
def execStopInterface (t : Fin 512) (s : State) : Out :=
  .next (if s.tdiOf t == .unlocked then s else (s.resetTenant t false).setTdi t .unlocked)

/-! Image keys (R495, R501). -/

/-- Has the VF a session of its own? -/
def State.hasSession (s : State) (t : Nat) : Bool := s.boot.sessions.any (·.fn == t + 1)

/-- A key request on this module: one for a key that a MODEL_LOAD names waits for the load. -/
def State.keyRequest (s : State) (t k : Nat) (key : Option (List Byte)) : State :=
  if s.keyInUse t k || s.boot.keyWaits.any fun w => w.tenant == t && w.keyId == k then
    s.setBoot { s.boot with keyWaits := s.boot.keyWaits ++ [⟨t, k, key⟩] }
  else s.putKey t k key

/-- The request sent on to every other member. -/
def State.sendKey (s : State) (t k : Nat) (key : Option (List Byte)) : State :=
  s.peers.foldl (fun s r => s.send ⟨r, .imageKey, [t, k, if key.isNone then 1 else 0], key.getD []⟩) s

/-- IMAGE_KEY_SET: over the VF's session on the anchor, or relayed by the anchor to a member. It fails during a reset of
the tenant, and without entropy. -/
def execImageKeySet (t : Fin 512) (k : Fin 16) (key : Vector Byte 32) (relayed : Bool) (s : State) : Out :=
  .next (if s.flt.tenantResets.any (·.tenant == t.val) then s
    else if relayed then s.keyRequest t k (some key.toList)
    else if !s.hasSession t || s.boot.entropyFail then s
    else (s.keyRequest t k (some key.toList)).sendKey t k (some key.toList))

/-- IMAGE_KEY_DESTROY. -/
def execImageKeyDestroy (t : Fin 512) (k : Fin 16) (relayed : Bool) (s : State) : Out :=
  .next (if relayed then s.keyRequest t k none
    else if !s.hasSession t then s
    else (s.keyRequest t k none).sendKey t k none)

/-! Debug unlock and entropy (R496). -/

/-- DEBUG_UNLOCK: within a session of PF0; `tokenOk` says whether the vendor's signature, the serial and the nonce verify.
It takes effect at the next module reset. -/
def execDebugUnlock (tokenOk : Bool) (s : State) : Out :=
  .next (if tokenOk && s.boot.sessions.any (·.fn == 0) then s.setBoot { s.boot with unlockPending := true } else s)

/-- ENTROPY_FAIL: key generation stops until the next module reset. -/
def execEntropyFail (s : State) : Out :=
  .next (if !s.standby || s.boot.entropyFail then s else (s.setBoot { s.boot with entropyFail := true }).bootEvent 1)

end Sys2Proof.Machine
end

