-- ==== Sys2Proof/Machine/Scalar.lean ====
section
/-! DEFINITION. SCALAR and AGEN instructions (03 R85, R86): 64-bit arithmetic, compares, scalar pad
access, descriptor load, store and update. -/

namespace Sys2Proof.Machine

/-- SD ← f SA (SB or IMM). -/
def scalarBody (w : Operand) (f : DWord → DWord → DWord) (x : Tile) : TileRes :=
  .next (x.setS (opFin5 w 45) (f (x.getS (opFin5 w 40)) (x.sbOrImm w)))

def execAdd (t : Fin 160) (w : Operand) (s : State) : Out :=
  .next (issue 1 0x00 rsvScalar (fun _ x => scalarBody w (· + ·) x) t w s)

def execSub (t : Fin 160) (w : Operand) (s : State) : Out :=
  .next (issue 1 0x01 rsvScalar (fun _ x => scalarBody w (· - ·) x) t w s)

/-- MUL keeps the low 64 bits. -/
def execMul (t : Fin 160) (w : Operand) (s : State) : Out :=
  .next (issue 1 0x02 rsvScalar (fun _ x => scalarBody w (· * ·) x) t w s)

def execAnd (t : Fin 160) (w : Operand) (s : State) : Out :=
  .next (issue 1 0x03 rsvScalar (fun _ x => scalarBody w (· &&& ·) x) t w s)

def execOr (t : Fin 160) (w : Operand) (s : State) : Out :=
  .next (issue 1 0x04 rsvScalar (fun _ x => scalarBody w (· ||| ·) x) t w s)

def execXor (t : Fin 160) (w : Operand) (s : State) : Out :=
  .next (issue 1 0x05 rsvScalar (fun _ x => scalarBody w (· ^^^ ·) x) t w s)

/-- Shifts use SB[5:0]. -/
def shiftCount (b : DWord) : Nat := b.toNat % 64

def execShl (t : Fin 160) (w : Operand) (s : State) : Out :=
  .next (issue 1 0x06 rsvScalar (fun _ x => scalarBody w (fun a b => a <<< shiftCount b) x) t w s)

def execShr (t : Fin 160) (w : Operand) (s : State) : Out :=
  .next (issue 1 0x07 rsvScalar (fun _ x => scalarBody w (fun a b => a >>> shiftCount b) x) t w s)

def execSra (t : Fin 160) (w : Operand) (s : State) : Out :=
  .next (issue 1 0x08 rsvScalar (fun _ x => scalarBody w (fun a b => a.sshiftRight (shiftCount b)) x) t w s)

/-- MOVHI: SD ← (IMM shl 32) or SA[31:0]. -/
def execMovhi (t : Fin 160) (w : Operand) (s : State) : Out :=
  .next (issue 1 0x09 rsvScalar
    (fun _ x => .next (x.setS (opFin5 w 45) (opImm w ++ (x.getS (opFin5 w 40)).setWidth 32))) t w s)

/-- A compare writes PD = [49:47]. -/
def compareBody (w : Operand) (f : DWord → DWord → Bool) (x : Tile) : TileRes :=
  .next (x.setP (opFin3 w 47) (f (x.getS (opFin5 w 40)) (x.sbOrImm w)))

def execCmpeq (t : Fin 160) (w : Operand) (s : State) : Out :=
  .next (issue 1 0x10 rsvCompare (fun _ x => compareBody w (· == ·) x) t w s)

def execCmplt (t : Fin 160) (w : Operand) (s : State) : Out :=
  .next (issue 1 0x11 rsvCompare (fun _ x => compareBody w BitVec.slt x) t w s)

def execCmpltu (t : Fin 160) (w : Operand) (s : State) : Out :=
  .next (issue 1 0x12 rsvCompare (fun _ x => compareBody w BitVec.ult x) t w s)

/-- LDS: SD ← 64 bits at pad address SA + IMM, a multiple of 8 (log entry 21). -/
def ldsBody (w : Operand) (x : Tile) : TileRes :=
  .of (do
    let a ← padAddr (x.saPlusImm w 40) 8 8 false (opFin5 w 40)
    .ok (x.setS (opFin5 w 45) (BitVec.ofNat 64 (x.pad.readLE a 8))))

/-- STS: 64 bits at pad address SA + IMM ← SB. IMM is the address offset, so IMMSEL does not replace SB
(log entry 28). -/
def stsBody (w : Operand) (x : Tile) : TileRes :=
  .of (do
    let a ← padAddr (x.saPlusImm w 40) 8 8 true (opFin5 w 40)
    .ok (x.setPad (x.pad.writeLE a 8 (x.getS (opFin5 w 35)).toNat)))

def execSts (t : Fin 160) (w : Operand) (s : State) : Out :=
  .next (issue 1 0x19 rsvScalar (fun _ x => stsBody w x) t w s)

/-- RDTIME: SD ← device time in ns. -/
def execRdtime (t : Fin 160) (w : Operand) (s : State) : Out :=
  .next (issue 1 0x1A rsvScalar (fun c x => .next (x.setS (opFin5 w 45) (BitVec.ofNat 64 c.time))) t w s)

/-! AGEN. -/

/-- DLOAD: DX ← 128 bytes at pad address SA + IMM, a multiple of 128; cursor ← 0. -/
def dloadBody (w : Operand) (x : Tile) : TileRes :=
  .of (do
    let a ← padAddr (x.saPlusImm w 39) 128 128 false (opFin5 w 39)
    let d := opFin6 w 44
    .ok ((x.setDesc d (BitVec.ofNat 1024 (x.pad.readLE a 128))).setCursor d 0))

def execDload (t : Fin 160) (w : Operand) (s : State) : Out :=
  .next (issue 2 0x00 rsvAgen (fun _ x => dloadBody w x) t w s)

/-- DSTORE: 128 bytes at pad address SA + IMM ← DX; the same alignment (log entry 21). -/
def dstoreBody (w : Operand) (x : Tile) : TileRes :=
  .of (do
    let a ← padAddr (x.saPlusImm w 39) 128 128 true (opFin5 w 39)
    .ok (x.setPad (x.pad.writeLE a 128 x.regs.descs[opFin6 w 44].toNat)))

def execDstore (t : Fin 160) (w : Operand) (s : State) : Out :=
  .next (issue 2 0x01 rsvAgen (fun _ x => dstoreBody w x) t w s)

/-- Word k of a descriptor. -/
def descWord (d : BitVec 1024) (k : Nat) : Word := d.extractLsb' (32 * k) 32

/-- A descriptor with word k replaced. -/
def setDescWord (d : BitVec 1024) (k : Nat) (v : Word) : BitVec 1024 :=
  (d &&& ~~~ ((BitVec.allOnes 32).setWidth 1024 <<< (32 * k))) ||| (v.setWidth 1024 <<< (32 * k))

/-- SA[31:0] + IMM. -/
def agenValue (w : Operand) (x : Tile) : Word := (x.getS (opFin5 w 39)).setWidth 32 + opImm w

/-- DSETW: word WORD of DX ← SA[31:0] + IMM. -/
def dsetwBody (w : Operand) (x : Tile) : TileRes :=
  let d := opFin6 w 44
  .next (x.setDesc d (setDescWord x.regs.descs[d] (opBits w 34 5) (agenValue w x)))

def execDsetw (t : Fin 160) (w : Operand) (s : State) : Out :=
  .next (issue 2 0x02 rsvAgen (fun _ x => dsetwBody w x) t w s)

/-- DADDW: word WORD of DX ← word + SA[31:0] + IMM, modulo 2^32. -/
def daddwBody (w : Operand) (x : Tile) : TileRes :=
  let d := opFin6 w 44
  let k := opBits w 34 5
  .next (x.setDesc d (setDescWord x.regs.descs[d] k (descWord x.regs.descs[d] k + agenValue w x)))

def execDaddw (t : Fin 160) (w : Operand) (s : State) : Out :=
  .next (issue 2 0x03 rsvAgen (fun _ x => daddwBody w x) t w s)

/-- DRESET: cursor of DX ← SA[31:0] + IMM. -/
def execDreset (t : Fin 160) (w : Operand) (s : State) : Out :=
  .next (issue 2 0x04 rsvAgen (fun _ x => .next (x.setCursor (opFin6 w 44) (agenValue w x))) t w s)

end Sys2Proof.Machine
end

