-- ==== Sys2Proof/Machine/PadReads.lean ====
section
/-! DEFINITION. Instructions whose reads of the pad its check may find in error (05 R141): LDS, VLD and MMA. -/

namespace Sys2Proof.Machine

/-- The tile's next word is this instruction, and it reads the pad: its predicate lets it, no reserved field is set and no
exception stops it before. -/
def State.readsPad (cls op : Nat) (rsv : List (Nat × Nat)) (body : TileCtx → Tile → TileRes) (t : Fin 160) (w : Operand)
    (s : State) : Bool :=
  s.issuesNow t (wordOf cls op w) && rsvClear rsv w
    && match body (s.tileCtx t s.tiles[t]) s.tiles[t] with
      | .next _ => true
      | _ => false

/-- The error that stood in the pad of tile t is met by a read. -/
def State.padMet (s : State) (t : Fin 160) : State :=
  s.setMem { s.mem with err := { s.mem.err with padFound := tdel s.mem.err.padFound t.val } }

/-- A corrected pad error is counted. -/
def State.padCorrected (s : State) (t : Fin 160) : State :=
  let s := s.padMet t
  s.setMem { s.mem with regs := { s.mem.regs with ce := (s.mem.regs.ce + 1) % 2 ^ 64 } }

/-- An uncorrectable pad error: the command is killed on all its tiles and runs again, MEM_PAD_UE goes to PF0, and the second
error of a tile within 24 hours takes it out of service (R141, R156; COUNT is the granules covered, none: log entry 80). -/
def State.padFailed (s : State) (t : Fin 160) (syndrome : Nat) : State :=
  let s := s.padMet t
  let hist := s.time :: within s.time day (tgetD s.mem.err.padUe t.val [])
  let s := s.setMem { s.mem with err := { s.mem.err with padUe := tset s.mem.err.padUe t.val hist } }
  let s := (s.tiles[t].ctl.cmd.bind s.cmdAt).elim s s.killCmd
  let s := s.memEvent (t.val / 40) ⟨5, 4, 0, none, t.val, 0, 0, 0, syndrome⟩
  if hist.length ≥ 2 then s.tileOut t.val else s

/-- An instruction that reads the pad: an error that stands in it is met. -/
def issueRead (cls op : Nat) (rsv : List (Nat × Nat)) (body : TileCtx → Tile → TileRes) (t : Fin 160) (w : Operand) (s : State) : State :=
  if s.readsPad cls op rsv body t w then
    match tget s.mem.err.padFound t.val with
    | some (.uncorrectable y) => s.padFailed t y
    | some (.correctable _) => issue cls op rsv body t w (s.padCorrected t)
    | _ => issue cls op rsv body t w s
  else issue cls op rsv body t w s

def execLds (t : Fin 160) (w : Operand) (s : State) : Out :=
  .next (issueRead 1 0x18 rsvScalar (fun _ x => ldsBody w x) t w s)

def execVld (t : Fin 160) (w : Operand) (s : State) : Out :=
  .next (issueRead 3 0x00 rsvMove (fun _ x => vldBody w x) t w s)

def execMma (t : Fin 160) (w : Operand) (s : State) : Out :=
  .next (issueRead 4 0x00 rsvMma (fun _ x => mmaBody w x) t w s)

end Sys2Proof.Machine
end

