-- ==== Sys2Proof/Machine/Random.lean ====
section
/-! DEFINITION. RAND instructions (03 R86, 08 R235 to R243). -/

namespace Sys2Proof.Machine

/-- RSETCTX: context RCTX ← seed SA, stream SB[31:0]. -/
def execRsetctx (t : Fin 160) (w : Operand) (s : State) : Out :=
  .next (issue 8 0x00 rsvRand
    (fun _ x => .next (x.setRctx (opFin4 w 46) (x.getS (opFin5 w 41), (x.getS (opFin5 w 36)).setWidth 32))) t w s)

def execRunif (t : Fin 160) (w : Operand) (s : State) : Out :=
  .next (issue 8 0x01 rsvRand (fun _ x => .of (randUniform x w)) t w s)

def execDrop (t : Fin 160) (w : Operand) (s : State) : Out :=
  .next (issue 8 0x02 rsvRand (fun _ x => .of (dropOut x w)) t w s)

def execInit (t : Fin 160) (w : Operand) (s : State) : Out :=
  .next (issue 8 0x03 rsvRand (fun _ x => .of (randInit x w)) t w s)

def execSample (t : Fin 160) (w : Operand) (s : State) : Out :=
  .next (issue 8 0x04 rsvRand (fun _ x => .of (sample x w)) t w s)

end Sys2Proof.Machine
end

