-- ==== Sys2Proof/Machine/Registers.lean ====
section
/-! DEFINITION. Host accesses to registers (18 R505 to R513): the writes that have a row of their own, writes of any other
register, and reads. -/

namespace Sys2Proof.Machine

/-- The offset in a function's own BAR0 of a register of its ID, CMD or HST instance. -/
def ownOffset (f : Fin 513) (pf0 vf o : Nat) : Nat := (if f.val == 0 then pf0 else vf) + o

/-- MEM_MAPOUT_REQ (05 R138, R160). -/
def execMemMapoutReq (v : Word) (s : State) : Out := .next (s.hostWriteWord 0 0x30080 v)

/-- HST_EVT_HEAD (13 R405, R411). -/
def execHstEvtHead (f : Fin 513) (v : Word) (s : State) : Out := .next (s.hostWriteWord f (ownOffset f 0x11000 0x5000 0x18) v)

/-- CMD_ADMQ_EN (12 R386). -/
def execCmdAdmqEn (f : Fin 513) (v : Word) (s : State) : Out := .next (s.hostWriteWord f (ownOffset f 0x10000 0x4000 0x14) v)

/-- ID_GLB_CTRL.CFG_LOCK (R513). -/
def execCfgLock (v : Word) (s : State) : Out := .next (s.hostWriteWord 0 0x14 v)

/-- ID_ACC_CLR (R512, R513). -/
def execIdAccClr (f : Fin 513) (v : Word) (s : State) : Out := .next (s.hostWriteWord f 0x24 v)

/-- LNK_GRP_CMD.RECAL (11 R329, R353). -/
def execLnkGrpRecal (g : Fin 12) (s : State) : Out := .next (s.hostWriteWord 0 (0x40040 + 4 * g.val) 1)

/-- LNK_GRP_CMD.RESET. -/
def execLnkGrpReset (g : Fin 12) (s : State) : Out := .next (s.hostWriteWord 0 (0x40040 + 4 * g.val) 2)

/-- LNK_GRP_CMD.DISABLE. -/
def execLnkGrpDisable (g : Fin 12) (s : State) : Out := .next (s.hostWriteWord 0 (0x40040 + 4 * g.val) 4)

/-- A write of FLT_RESET with GO (14 R443). -/
def State.writeFltReset (s : State) (level unit : Nat) : State :=
  s.hostWriteWord 0 0x50008 (BitVec.ofNat 32 (packBits [(3, level), (1, 1), (12, 0), (16, unit)]))

/-- FLT_RESET of a tile (14 R415). -/
def execFltResetTile (i : Fin 65536) (s : State) : Out := .next (s.writeFltReset 1 i)

/-- FLT_RESET of an engine. -/
def execFltResetEngine (u : Fin 65536) (s : State) : Out := .next (s.writeFltReset 2 u)

/-- FLT_RESET of a link group (14 R416). -/
def execFltResetLinkGroup (g : Fin 65536) (s : State) : Out := .next (s.writeFltReset 3 g)

/-- FLT_RESET of a compute die (14 R417). -/
def execFltResetDie (d : Fin 65536) (s : State) : Out := .next (s.writeFltReset 4 d)

/-- FLT_RESET of the module (14 R417). -/
def execFltResetModule (s : State) : Out := .next (s.writeFltReset 6 0)

/-- PWR_CAP (15 R447). -/
def execPwrCapWrite (v : Word) (s : State) : Out := .next (s.hostWriteWord 0 0x52000 v)

/-- SIG_CTRL.SMB_REJOIN (16 R474, R483). -/
def execSmbRejoin (tickOut : Bool) (s : State) : Out := .next (s.hostWriteWord 0 0x54008 (if tickOut then 3 else 1))

/-- A write over BAR0 or BAR2, of any width: none marks a byte that is not enabled. -/
def execRegisterWrite (f : Fin 513) (bar2 : Bool) (offset : Nat) (data : List (Option Byte)) (s : State) : Out :=
  .next (if bar2 then s.hostDoorbellWrite f offset data else s.hostRegWrite f offset data)

/-- A read with a part that is not aligned (R505, R508). -/
def execUnalignedRead (f : Fin 513) (bar2 : Bool) (offset : Nat) (be : List Bool) (s : State) : Out :=
  .next (if (unalignedPart offset be).isSome then s.hostRegRead f bar2 offset be else s)

/-- A read whose parts are aligned: it sets and uses the read latch (R507). -/
def execReadLatch (f : Fin 513) (bar2 : Bool) (offset : Nat) (be : List Bool) (s : State) : Out :=
  .next (if (unalignedPart offset be).isSome then s else s.hostRegRead f bar2 offset be)

end Sys2Proof.Machine
end

