-- ==== Sys2Proof/Machine/VectorOps.lean ====
section
/-! DEFINITION. VECTOR and element-wise SFU instructions (03 R85, R86; 02 R54, R57, R70, R71, R516): lane
arithmetic on FP32 and INT32. -/

namespace Sys2Proof.Machine

/-- FP32 lane arithmetic with RM and SAT (02 R50, R51, R57). -/
def floatBody (w : Operand) (f : RMode → Bool → Word → Word → Word → FRes) (x : Tile) : TileRes :=
  .of (do
    let m ← vecMode w
    .ok (x.mapLanes w fun i => f m (opBit w 26) (x.va w)[i] (x.vb w)[i] (x.vc w)[i]))

/-- Lane operations without rounding or flags. -/
def plainBody (w : Operand) (f : Word → Word → Word) (x : Tile) : TileRes :=
  .next (x.mapLanes w fun i => ⟨f (x.va w)[i] (x.vb w)[i], 0⟩)

/-- VD ← f(VA) by a special function; RM is ignored (02 R51, R70). -/
def sfuBody (w : Operand) (f : SfuFn) (x : Tile) : TileRes :=
  .next (x.mapLanes w fun i => sfuF f (opBit w 26) (x.va w)[i])

def execFadd (t : Fin 160) (w : Operand) (s : State) : Out :=
  .next (issue 5 0x00 rsvVec (fun _ x => floatBody w (fun m sat a b _ => faddF m sat a b) x) t w s)

def execFsub (t : Fin 160) (w : Operand) (s : State) : Out :=
  .next (issue 5 0x01 rsvVec (fun _ x => floatBody w (fun m sat a b _ => fsubF m sat a b) x) t w s)

def execFmul (t : Fin 160) (w : Operand) (s : State) : Out :=
  .next (issue 5 0x02 rsvVec (fun _ x => floatBody w (fun m sat a b _ => fmulF m sat a b) x) t w s)

/-- FFMA: VA × VB + VC rounded once. -/
def execFfma (t : Fin 160) (w : Operand) (s : State) : Out :=
  .next (issue 5 0x03 rsvVec (fun _ x => floatBody w ffmaF x) t w s)

def execFdiv (t : Fin 160) (w : Operand) (s : State) : Out :=
  .next (issue 5 0x04 rsvVec (fun _ x => floatBody w (fun m sat a b _ => fdivF m sat a b) x) t w s)

def execFsqrt (t : Fin 160) (w : Operand) (s : State) : Out :=
  .next (issue 5 0x05 rsvVec (fun _ x => floatBody w (fun m sat a _ _ => fsqrtF m sat a) x) t w s)

def execFmax (t : Fin 160) (w : Operand) (s : State) : Out :=
  .next (issue 5 0x06 rsvVec (fun _ x => plainBody w fmaxW x) t w s)

def execFmin (t : Fin 160) (w : Operand) (s : State) : Out :=
  .next (issue 5 0x07 rsvVec (fun _ x => plainBody w fminW x) t w s)

def execFneg (t : Fin 160) (w : Operand) (s : State) : Out :=
  .next (issue 5 0x08 rsvVec (fun _ x => plainBody w (fun a _ => fnegW a) x) t w s)

def execFabs (t : Fin 160) (w : Operand) (s : State) : Out :=
  .next (issue 5 0x09 rsvVec (fun _ x => plainBody w (fun a _ => fabsW a) x) t w s)

/-- FCMPLT writes the lane mask LMD where LMASK selects. -/
def fcmpltBody (w : Operand) (x : Tile) : TileRes :=
  let mask := x.getLM (opFin3 w 23)
  let old := x.getLM (opFin3 w 20)
  let hit : BitVec 512 := BitVec.ofNat 512
    ((List.finRange 512).foldr (fun (i : Fin 512) n => 2 * n + (if fltW (x.va w)[i] (x.vb w)[i] then 1 else 0)) 0)
  .next (x.setLM (opFin3 w 20) ((old &&& ~~~ mask) ||| (hit &&& mask)))

def execFcmplt (t : Fin 160) (w : Operand) (s : State) : Out :=
  .next (issue 5 0x0A rsvVec (fun _ x => fcmpltBody w x) t w s)

/-- SEL: VD ← VA where LMD is 1, else VB. -/
def execSel (t : Fin 160) (w : Operand) (s : State) : Out :=
  .next (issue 5 0x0B rsvVec (fun _ x => .next (x.mapLanes w fun i => ⟨if (x.getLM (opFin3 w 20)).getLsbD i then (x.va w)[i] else (x.vb w)[i], 0⟩)) t w s)

def execIadd (t : Fin 160) (w : Operand) (s : State) : Out :=
  .next (issue 5 0x10 rsvVec (fun _ x => plainBody w (· + ·) x) t w s)

def execIsub (t : Fin 160) (w : Operand) (s : State) : Out :=
  .next (issue 5 0x11 rsvVec (fun _ x => plainBody w (· - ·) x) t w s)

def execImul (t : Fin 160) (w : Operand) (s : State) : Out :=
  .next (issue 5 0x12 rsvVec (fun _ x => plainBody w (· * ·) x) t w s)

def execIand (t : Fin 160) (w : Operand) (s : State) : Out :=
  .next (issue 5 0x13 rsvVec (fun _ x => plainBody w (· &&& ·) x) t w s)

def execIor (t : Fin 160) (w : Operand) (s : State) : Out :=
  .next (issue 5 0x14 rsvVec (fun _ x => plainBody w (· ||| ·) x) t w s)

def execIxor (t : Fin 160) (w : Operand) (s : State) : Out :=
  .next (issue 5 0x15 rsvVec (fun _ x => plainBody w (· ^^^ ·) x) t w s)

/-- An INT32 lane shift; a count of 32 or more gives a free value (log entry 8). -/
def laneShift (which : Nat) (f : Word → Nat → Word) (a b : Word) : Word :=
  if b.toNat < 32 then f a b.toNat else Config.wideShift which a b

def execIshl (t : Fin 160) (w : Operand) (s : State) : Out :=
  .next (issue 5 0x16 rsvVec (fun _ x => plainBody w (laneShift 0 (· <<< ·)) x) t w s)

/-- ISHR shifts zeros in (log entry 8). -/
def execIshr (t : Fin 160) (w : Operand) (s : State) : Out :=
  .next (issue 5 0x17 rsvVec (fun _ x => plainBody w (laneShift 1 (· >>> ·)) x) t w s)

/-- IOTA: VD[lane] ← lane + SA[31:0]. -/
def execIota (t : Fin 160) (w : Operand) (s : State) : Out :=
  .next (issue 5 0x18 rsvVec (fun _ x => .next (x.mapLanes w fun i => ⟨BitVec.ofNat 32 i.val + (x.getS (opFin5 w 35)).setWidth 32, 0⟩)) t w s)

/-- CVTIF: INT32 to FP32 with RM. -/
def execCvtif (t : Fin 160) (w : Operand) (s : State) : Out :=
  .next (issue 5 0x19 rsvVec (fun _ x => floatBody w (fun m _ a _ _ => ⟨cvtIF m a, 0⟩) x) t w s)

/-- CVTFI: FP32 to INT32 with RM, saturating. -/
def execCvtfi (t : Fin 160) (w : Operand) (s : State) : Out :=
  .next (issue 5 0x1A rsvVec (fun _ x => floatBody w (fun m _ a _ _ => cvtFI m a) x) t w s)

def execExp (t : Fin 160) (w : Operand) (s : State) : Out :=
  .next (issue 6 0x00 rsvVec (fun _ x => sfuBody w .exp x) t w s)

def execLog (t : Fin 160) (w : Operand) (s : State) : Out :=
  .next (issue 6 0x01 rsvVec (fun _ x => sfuBody w .log x) t w s)

def execSigmoid (t : Fin 160) (w : Operand) (s : State) : Out :=
  .next (issue 6 0x02 rsvVec (fun _ x => sfuBody w .sigmoid x) t w s)

def execTanh (t : Fin 160) (w : Operand) (s : State) : Out :=
  .next (issue 6 0x03 rsvVec (fun _ x => sfuBody w .tanh x) t w s)

def execGelu (t : Fin 160) (w : Operand) (s : State) : Out :=
  .next (issue 6 0x04 rsvVec (fun _ x => sfuBody w .gelu x) t w s)

def execGeluTanh (t : Fin 160) (w : Operand) (s : State) : Out :=
  .next (issue 6 0x05 rsvVec (fun _ x => sfuBody w .geluTanh x) t w s)

def execSilu (t : Fin 160) (w : Operand) (s : State) : Out :=
  .next (issue 6 0x06 rsvVec (fun _ x => sfuBody w .silu x) t w s)

def execRecip (t : Fin 160) (w : Operand) (s : State) : Out :=
  .next (issue 6 0x07 rsvVec (fun _ x => sfuBody w .recip x) t w s)

def execRsqrt (t : Fin 160) (w : Operand) (s : State) : Out :=
  .next (issue 6 0x08 rsvVec (fun _ x => sfuBody w .rsqrt x) t w s)

def execSoftplus (t : Fin 160) (w : Operand) (s : State) : Out :=
  .next (issue 6 0x09 rsvVec (fun _ x => sfuBody w .softplus x) t w s)

def execErf (t : Fin 160) (w : Operand) (s : State) : Out :=
  .next (issue 6 0x0A rsvVec (fun _ x => sfuBody w .erf x) t w s)

end Sys2Proof.Machine
end

