-- ==== Sys2Proof/Machine/Dispatch.lean ====
section
/-! DEFINITION. The effect of every command on everything but the queue: one arm for each constructor. -/

namespace Sys2Proof.Machine

open Sys2Proof

/-- The meaning of a command. -/
def exec (i : Instr) (s : State) : Host.Outcome State Fault Refusal :=
  match i with
  | .nop t w => Sys2Proof.Machine.execNop t w s
  | .jmp t w => Sys2Proof.Machine.execJmp t w s
  | .loop t w => Sys2Proof.Machine.execLoop t w s
  | .seg t w => Sys2Proof.Machine.execSeg t w s
  | .endProg t w => Sys2Proof.Machine.execEndProg t w s
  | .trap t w => Sys2Proof.Machine.execTrap t w s
  | .flagrd t w => Sys2Proof.Machine.execFlagrd t w s
  | .flagclr t w => Sys2Proof.Machine.execFlagclr t w s
  | .add t w => Sys2Proof.Machine.execAdd t w s
  | .sub t w => Sys2Proof.Machine.execSub t w s
  | .mul t w => Sys2Proof.Machine.execMul t w s
  | .and t w => Sys2Proof.Machine.execAnd t w s
  | .or t w => Sys2Proof.Machine.execOr t w s
  | .xor t w => Sys2Proof.Machine.execXor t w s
  | .shl t w => Sys2Proof.Machine.execShl t w s
  | .shr t w => Sys2Proof.Machine.execShr t w s
  | .sra t w => Sys2Proof.Machine.execSra t w s
  | .movhi t w => Sys2Proof.Machine.execMovhi t w s
  | .cmpeq t w => Sys2Proof.Machine.execCmpeq t w s
  | .cmplt t w => Sys2Proof.Machine.execCmplt t w s
  | .cmpltu t w => Sys2Proof.Machine.execCmpltu t w s
  | .lds t w => Sys2Proof.Machine.execLds t w s
  | .sts t w => Sys2Proof.Machine.execSts t w s
  | .rdtime t w => Sys2Proof.Machine.execRdtime t w s
  | .dload t w => Sys2Proof.Machine.execDload t w s
  | .dstore t w => Sys2Proof.Machine.execDstore t w s
  | .dsetw t w => Sys2Proof.Machine.execDsetw t w s
  | .daddw t w => Sys2Proof.Machine.execDaddw t w s
  | .dreset t w => Sys2Proof.Machine.execDreset t w s
  | .vld t w => Sys2Proof.Machine.execVld t w s
  | .vst t w => Sys2Proof.Machine.execVst t w s
  | .padcopy t w => Sys2Proof.Machine.execPadcopy t w s
  | .mma t w => Sys2Proof.Machine.execMma t w s
  | .store t w => Sys2Proof.Machine.execStore t w s
  | .zero t w => Sys2Proof.Machine.execZero t w s
  | .fadd t w => Sys2Proof.Machine.execFadd t w s
  | .fsub t w => Sys2Proof.Machine.execFsub t w s
  | .fmul t w => Sys2Proof.Machine.execFmul t w s
  | .ffma t w => Sys2Proof.Machine.execFfma t w s
  | .fdiv t w => Sys2Proof.Machine.execFdiv t w s
  | .fsqrt t w => Sys2Proof.Machine.execFsqrt t w s
  | .fmax t w => Sys2Proof.Machine.execFmax t w s
  | .fmin t w => Sys2Proof.Machine.execFmin t w s
  | .fneg t w => Sys2Proof.Machine.execFneg t w s
  | .fabs t w => Sys2Proof.Machine.execFabs t w s
  | .fcmplt t w => Sys2Proof.Machine.execFcmplt t w s
  | .sel t w => Sys2Proof.Machine.execSel t w s
  | .iadd t w => Sys2Proof.Machine.execIadd t w s
  | .isub t w => Sys2Proof.Machine.execIsub t w s
  | .imul t w => Sys2Proof.Machine.execImul t w s
  | .iand t w => Sys2Proof.Machine.execIand t w s
  | .ior t w => Sys2Proof.Machine.execIor t w s
  | .ixor t w => Sys2Proof.Machine.execIxor t w s
  | .ishl t w => Sys2Proof.Machine.execIshl t w s
  | .ishr t w => Sys2Proof.Machine.execIshr t w s
  | .iota t w => Sys2Proof.Machine.execIota t w s
  | .cvtif t w => Sys2Proof.Machine.execCvtif t w s
  | .cvtfi t w => Sys2Proof.Machine.execCvtfi t w s
  | .exp t w => Sys2Proof.Machine.execExp t w s
  | .log t w => Sys2Proof.Machine.execLog t w s
  | .sigmoid t w => Sys2Proof.Machine.execSigmoid t w s
  | .tanh t w => Sys2Proof.Machine.execTanh t w s
  | .gelu t w => Sys2Proof.Machine.execGelu t w s
  | .geluTanh t w => Sys2Proof.Machine.execGeluTanh t w s
  | .silu t w => Sys2Proof.Machine.execSilu t w s
  | .recip t w => Sys2Proof.Machine.execRecip t w s
  | .rsqrt t w => Sys2Proof.Machine.execRsqrt t w s
  | .softplus t w => Sys2Proof.Machine.execSoftplus t w s
  | .erf t w => Sys2Proof.Machine.execErf t w s
  | .softmax t w => Sys2Proof.Machine.execSoftmax t w s
  | .logsoftmax t w => Sys2Proof.Machine.execLogsoftmax t w s
  | .rmsnorm t w => Sys2Proof.Machine.execRmsnorm t w s
  | .layernorm t w => Sys2Proof.Machine.execLayernorm t w s
  | .rsum t w => Sys2Proof.Machine.execRsum t w s
  | .rmax t w => Sys2Proof.Machine.execRmax t w s
  | .rdot t w => Sys2Proof.Machine.execRdot t w s
  | .cvt t w => Sys2Proof.Machine.execCvt t w s
  | .rsetctx t w => Sys2Proof.Machine.execRsetctx t w s
  | .runif t w => Sys2Proof.Machine.execRunif t w s
  | .drop t w => Sys2Proof.Machine.execDrop t w s
  | .init t w => Sys2Proof.Machine.execInit t w s
  | .sample t w => Sys2Proof.Machine.execSample t w s
  | .fwait t w => Sys2Proof.Machine.execFwait t w s
  | .fwaitall t w => Sys2Proof.Machine.execFwaitall t w s
  | .cwait t w => Sys2Proof.Machine.execCwait t w s
  | .cset t w => Sys2Proof.Machine.execCset t w s
  | .cadd t w => Sys2Proof.Machine.execCadd t w s
  | .csignal t w => Sys2Proof.Machine.execCsignal t w s
  | .get t w => Sys2Proof.Machine.execGet t w s
  | .put t w => Sys2Proof.Machine.execPut t w s
  | .padget t w => Sys2Proof.Machine.execPadget t w s
  | .padput t w => Sys2Proof.Machine.execPadput t w s
  | .atomadd t w => Sys2Proof.Machine.execAtomadd t w s
  | .cpfx t w => Sys2Proof.Machine.execCpfx t w s
  | .dmaTransferDone t fence => Sys2Proof.Machine.execDmaTransferDone t fence s
  | .counterArrival loc ct amount => Sys2Proof.Machine.execCounterArrival loc ct amount s
  | .collectiveDone t fence => Sys2Proof.Machine.execCollectiveDone t fence s
  | .segmentOverrun t => Sys2Proof.Machine.execSegmentOverrun t s
  | .preemption c => Sys2Proof.Machine.execPreemption c s
  | .migrationCopyDone tenant unit => Sys2Proof.Machine.execMigrationCopyDone tenant unit s
  | .patrolScrub granule found => Sys2Proof.Machine.execPatrolScrub granule found s
  | .scrubPassOverdue store => Sys2Proof.Machine.execScrubPassOverdue store s
  | .restorationDone granule remote => Sys2Proof.Machine.execRestorationDone granule remote s
  | .rowRepair pc row => Sys2Proof.Machine.execRowRepair pc row s
  | .memMapoutReq v => Sys2Proof.Machine.execMemMapoutReq v s
  | .mapoutTakesEffect die => Sys2Proof.Machine.execMapoutTakesEffect die s
  | .dieRegionRetire die => Sys2Proof.Machine.execDieRegionRetire die s
  | .cxlPortFailed port => Sys2Proof.Machine.execCxlPortFailed port s
  | .bar4Read tenant offset len => Sys2Proof.Machine.execBar4Read tenant offset len s
  | .bar4Write tenant offset data => Sys2Proof.Machine.execBar4Write tenant offset data s
  | .heatSample => Sys2Proof.Machine.execHeatSample s
  | .memAlloc c => Sys2Proof.Machine.execMemAlloc c s
  | .memFree c => Sys2Proof.Machine.execMemFree c s
  | .memHint c => Sys2Proof.Machine.execMemHint c s
  | .placeReport c => Sys2Proof.Machine.execPlaceReport c s
  | .foilLease c => Sys2Proof.Machine.execFoilLease c s
  | .leaseStreamDone tenant => Sys2Proof.Machine.execLeaseStreamDone tenant s
  | .leaseSwap tenant => Sys2Proof.Machine.execLeaseSwap tenant s
  | .leaseRelease tenant => Sys2Proof.Machine.execLeaseRelease tenant s
  | .actPolicy tenant measured => Sys2Proof.Machine.execActPolicy tenant measured s
  | .rebalance tenant tPre tDec => Sys2Proof.Machine.execRebalance tenant tPre tDec s
  | .cachePoolResize tenant used avail tPre tDec => Sys2Proof.Machine.execCachePoolResize tenant used avail tPre tDec s
  | .stageRebalance tenant times => Sys2Proof.Machine.execStageRebalance tenant times s
  | .poolJoin tenant rank => Sys2Proof.Machine.execPoolJoin tenant rank s
  | .allocChange tenant shards => Sys2Proof.Machine.execAllocChange tenant shards s
  | .genSubmit c => Sys2Proof.Machine.execGenSubmit c s
  | .genCancel c => Sys2Proof.Machine.execGenCancel c s
  | .boundaryCancel tenant tag => Sys2Proof.Machine.execBoundaryCancel tenant tag s
  | .genPhase c => Sys2Proof.Machine.execGenPhase c s
  | .phaseSwitch tenant => Sys2Proof.Machine.execPhaseSwitch tenant s
  | .genScore c => Sys2Proof.Machine.execGenScore c s
  | .genStats c => Sys2Proof.Machine.execGenStats c s
  | .prefillStep tenant rank results cache => Sys2Proof.Machine.execPrefillStep tenant rank results cache s
  | .decodeStep tenant rank results cache => Sys2Proof.Machine.execDecodeStep tenant rank results cache s
  | .scoreStep tenant rank results => Sys2Proof.Machine.execScoreStep tenant rank results s
  | .outputAreaCommit remote => Sys2Proof.Machine.execOutputAreaCommit remote s
  | .pageShip h data poison place => Sys2Proof.Machine.execPageShip h data poison place s
  | .reqStarved tenant tag => Sys2Proof.Machine.execReqStarved tenant tag s
  | .poolStarved tenant pool => Sys2Proof.Machine.execPoolStarved tenant pool s
  | .learnSetup c part => Sys2Proof.Machine.execLearnSetup c part s
  | .learnStep c part => Sys2Proof.Machine.execLearnStep c part s
  | .learnUpdate c => Sys2Proof.Machine.execLearnUpdate c s
  | .prepare tenant model version => Sys2Proof.Machine.execPrepare tenant model version s
  | .ready tenant model r => Sys2Proof.Machine.execReady tenant model r s
  | .prepareTimeout tenant model => Sys2Proof.Machine.execPrepareTimeout tenant model s
  | .go tenant model g => Sys2Proof.Machine.execGo tenant model g s
  | .updateBlock tenant model tensor block upto => Sys2Proof.Machine.execUpdateBlock tenant model tensor block upto s
  | .done tenant model r => Sys2Proof.Machine.execDone tenant model r s
  | .learnCommit tenant model version => Sys2Proof.Machine.execLearnCommit tenant model version s
  | .ckptDone tenant model held => Sys2Proof.Machine.execCkptDone tenant model held s
  | .takeoverCopyDone tenant model copied => Sys2Proof.Machine.execTakeoverCopyDone tenant model copied s
  | .exchangeRerun tenant model status writes work => Sys2Proof.Machine.execExchangeRerun tenant model status writes work s
  | .sweepResume tenant model copies => Sys2Proof.Machine.execSweepResume tenant model copies s
  | .modelCreate c part => Sys2Proof.Machine.execModelCreate c part s
  | .modelLoad c => Sys2Proof.Machine.execModelLoad c s
  | .freeze c part => Sys2Proof.Machine.execFreeze c part s
  | .thaw c => Sys2Proof.Machine.execThaw c s
  | .versionHold c => Sys2Proof.Machine.execVersionHold c s
  | .versionQuery c => Sys2Proof.Machine.execVersionQuery c s
  | .modelDelete c => Sys2Proof.Machine.execModelDelete c s
  | .reshardPart tenant model tensor src unit t data => Sys2Proof.Machine.execReshardPart tenant model tensor src unit t data s
  | .landed tenant model rank => Sys2Proof.Machine.execLanded tenant model rank s
  | .publish tenant model version => Sys2Proof.Machine.execPublish tenant model version s
  | .layoutRelease tenant model version => Sys2Proof.Machine.execLayoutRelease tenant model version s
  | .thawDone tenant => Sys2Proof.Machine.execThawDone tenant s
  | .drainLimit tenant model => Sys2Proof.Machine.execDrainLimit tenant model s
  | .linkTrainingDone l => Sys2Proof.Machine.execLinkTrainingDone l s
  | .linkTrainingTimeout l => Sys2Proof.Machine.execLinkTrainingTimeout l s
  | .fecAlignLock l => Sys2Proof.Machine.execFecAlignLock l s
  | .alignTimeout l => Sys2Proof.Machine.execAlignTimeout l s
  | .ident l r => Sys2Proof.Machine.execIdent l r s
  | .recal g temp => Sys2Proof.Machine.execRecal g temp s
  | .recalDone g => Sys2Proof.Machine.execRecalDone g s
  | .recalTimeout l => Sys2Proof.Machine.execRecalTimeout l s
  | .retrain l cause uncorr => Sys2Proof.Machine.execRetrain l cause uncorr s
  | .retrainDone l serial => Sys2Proof.Machine.execRetrainDone l serial s
  | .retrainAttemptFail l => Sys2Proof.Machine.execRetrainAttemptFail l s
  | .linkNotReady peer cs => Sys2Proof.Machine.execLinkNotReady peer cs s
  | .detourSwitch peer reported => Sys2Proof.Machine.execDetourSwitch peer reported s
  | .peerUnreachable peer => Sys2Proof.Machine.execPeerUnreachable peer s
  | .fecDegrade l corrected total => Sys2Proof.Machine.execFecDegrade l corrected total s
  | .frameTransmit l inject => Sys2Proof.Machine.execFrameTransmit l inject s
  | .dataFrame l f err => Sys2Proof.Machine.execDataFrame l f err s
  | .linkFrame l f err => Sys2Proof.Machine.execLinkFrame l f err s
  | .nak l f => Sys2Proof.Machine.execNak l f s
  | .replayTimeout l => Sys2Proof.Machine.execReplayTimeout l s
  | .e2eAck dst vc sseq => Sys2Proof.Machine.execE2eAck dst vc sseq s
  | .padputMsg c loc width codes ct => Sys2Proof.Machine.execPadputMsg c loc width codes ct s
  | .padgetRequest c loc dm origin tile fence => Sys2Proof.Machine.execPadgetRequest c loc dm origin tile fence s
  | .padgetData c tile fence codes err => Sys2Proof.Machine.execPadgetData c tile fence codes err s
  | .csignalMsg c loc ct amount => Sys2Proof.Machine.execCsignalMsg c loc ct amount s
  | .memoryWrite target data => Sys2Proof.Machine.execMemoryWrite target data s
  | .memoryReadRequest target len origin tag => Sys2Proof.Machine.execMemoryReadRequest target len origin tag s
  | .memoryReadData dpa data poison => Sys2Proof.Machine.execMemoryReadData dpa data poison s
  | .imageRelay c params item => Sys2Proof.Machine.execImageRelay c params item s
  | .collGroupCreate c stage grid part => Sys2Proof.Machine.execCollGroupCreate c stage grid part s
  | .collGroupDestroy c part => Sys2Proof.Machine.execCollGroupDestroy c part s
  | .collGroupReformed tenant g stage grid => Sys2Proof.Machine.execCollGroupReformed tenant g stage grid s
  | .collContribution c group lane seq part => Sys2Proof.Machine.execCollContribution c group lane seq part s
  | .collFail c group lane seq code => Sys2Proof.Machine.execCollFail c group lane seq code s
  | .collTimeout t fence => Sys2Proof.Machine.execCollTimeout t fence s
  | .heatNotice c group lane seq level unit => Sys2Proof.Machine.execHeatNotice c group lane seq level unit s
  | .heatNoticeRenewal => Sys2Proof.Machine.execHeatNoticeRenewal s
  | .heatNoticeHoldEnd t fence => Sys2Proof.Machine.execHeatNoticeHoldEnd t fence s
  | .collAbort inst cause lost => Sys2Proof.Machine.execCollAbort inst cause lost s
  | .moduleResetting rank => Sys2Proof.Machine.execModuleResetting rank s
  | .moduleResetHoldExpiry rank => Sys2Proof.Machine.execModuleResetHoldExpiry rank s
  | .nopCommand c => Sys2Proof.Machine.execNopCommand c s
  | .sqCreate c => Sys2Proof.Machine.execSqCreate c s
  | .sqDestroy c => Sys2Proof.Machine.execSqDestroy c s
  | .cqCreate c => Sys2Proof.Machine.execCqCreate c s
  | .cqDestroy c => Sys2Proof.Machine.execCqDestroy c s
  | .configSet c => Sys2Proof.Machine.execConfigSet c s
  | .configGet c => Sys2Proof.Machine.execConfigGet c s
  | .accountRead c => Sys2Proof.Machine.execAccountRead c s
  | .eventRing c => Sys2Proof.Machine.execEventRing c s
  | .tenantReset c part => Sys2Proof.Machine.execTenantReset c part s
  | .captureRead c => Sys2Proof.Machine.execCaptureRead c s
  | .patinaReplan c r => Sys2Proof.Machine.execPatinaReplan c r s
  | .domainStatus c => Sys2Proof.Machine.execDomainStatus c s
  | .memCopy c host => Sys2Proof.Machine.execMemCopy c host s
  | .tileRun c others part => Sys2Proof.Machine.execTileRun c others part s
  | .rndFill c => Sys2Proof.Machine.execRndFill c s
  | .diagEcho c => Sys2Proof.Machine.execDiagEcho c s
  | .tileSelfTest c result => Sys2Proof.Machine.execTileSelfTest c result s
  | .engineSelfTest c result => Sys2Proof.Machine.execEngineSelfTest c result s
  | .hbmPcSelfTest c result => Sys2Proof.Machine.execHbmPcSelfTest c result s
  | .bsramSelfTest c result => Sys2Proof.Machine.execBsramSelfTest c result s
  | .linkLoopbackTest c result => Sys2Proof.Machine.execLinkLoopbackTest c result s
  | .sqTailDoorbell f idx v => Sys2Proof.Machine.execSqTailDoorbell f idx v s
  | .cqHeadDoorbell f idx v => Sys2Proof.Machine.execCqHeadDoorbell f idx v s
  | .cmdFetch die data => Sys2Proof.Machine.execCmdFetch die data s
  | .deadlineMissed c => Sys2Proof.Machine.execDeadlineMissed c s
  | .strideCharge c cls us => Sys2Proof.Machine.execStrideCharge c cls us s
  | .cmdSliceExpiry c waiter => Sys2Proof.Machine.execCmdSliceExpiry c waiter s
  | .vote c rank status detail flags counts => Sys2Proof.Machine.execVote c rank status detail flags counts s
  | .commit c => Sys2Proof.Machine.execCommit c s
  | .abort c => Sys2Proof.Machine.execAbort c s
  | .commitAck c rank => Sys2Proof.Machine.execCommitAck c rank s
  | .cqCoalesceTimeout f cq => Sys2Proof.Machine.execCqCoalesceTimeout f cq s
  | .apply tenant epoch fs => Sys2Proof.Machine.execApply tenant epoch fs s
  | .applied tenant epoch rank => Sys2Proof.Machine.execApplied tenant epoch rank s
  | .hostLinkChange gen width => Sys2Proof.Machine.execHostLinkChange gen width s
  | .atsInvalidation f iova len refused => Sys2Proof.Machine.execAtsInvalidation f iova len refused s
  | .functionLevelReset f => Sys2Proof.Machine.execFunctionLevelReset f s
  | .vfEnableChange numVfs enable => Sys2Proof.Machine.execVfEnableChange numVfs enable s
  | .anchorHostReset kind => Sys2Proof.Machine.execAnchorHostReset kind s
  | .formationStart cause => Sys2Proof.Machine.execFormationStart cause s
  | .form record => Sys2Proof.Machine.execForm record s
  | .accept rank round => Sys2Proof.Machine.execAccept rank round s
  | .elected coord round a => Sys2Proof.Machine.execElected coord round a s
  | .roundTimeout => Sys2Proof.Machine.execRoundTimeout s
  | .coordinatorReachLoss => Sys2Proof.Machine.execCoordinatorReachLoss s
  | .minority => Sys2Proof.Machine.execMinority s
  | .majorityRegained => Sys2Proof.Machine.execMajorityRegained s
  | .memberLost rank cause => Sys2Proof.Machine.execMemberLost rank cause s
  | .timeSync offset => Sys2Proof.Machine.execTimeSync offset s
  | .hstEvtHead f v => Sys2Proof.Machine.execHstEvtHead f v s
  | .eventCoalesceTimeout f => Sys2Proof.Machine.execEventCoalesceTimeout f s
  | .hang level unit => Sys2Proof.Machine.execHang level unit s
  | .suspectReplay level unit hangs => Sys2Proof.Machine.execSuspectReplay level unit hangs s
  | .captureTaken record sections => Sys2Proof.Machine.execCaptureTaken record sections s
  | .fltResetTile tile => Sys2Proof.Machine.execFltResetTile tile s
  | .fltResetEngine u => Sys2Proof.Machine.execFltResetEngine u s
  | .fltResetLinkGroup g => Sys2Proof.Machine.execFltResetLinkGroup g s
  | .fltResetDie d => Sys2Proof.Machine.execFltResetDie d s
  | .fltResetModule => Sys2Proof.Machine.execFltResetModule s
  | .resetDone level unit ok => Sys2Proof.Machine.execResetDone level unit ok s
  | .tenantResetDone tenant => Sys2Proof.Machine.execTenantResetDone tenant s
  | .patinaMeasure margins => Sys2Proof.Machine.execPatinaMeasure margins s
  | .eyeMeasure l mv => Sys2Proof.Machine.execEyeMeasure l mv s
  | .patinaDailyReplan r => Sys2Proof.Machine.execPatinaDailyReplan r s
  | .replanApply => Sys2Proof.Machine.execReplanApply s
  | .powerOnHour outside => Sys2Proof.Machine.execPowerOnHour outside s
  | .governorSample pkgW inputW mj tc predicted steps => Sys2Proof.Machine.execGovernorSample pkgW inputW mj tc predicted steps s
  | .governorRelease => Sys2Proof.Machine.execGovernorRelease s
  | .inputVoltage v long => Sys2Proof.Machine.execInputVoltage v long s
  | .pwrCapWrite v => Sys2Proof.Machine.execPwrCapWrite v s
  | .stackTempSample k tj => Sys2Proof.Machine.execStackTempSample k tj s
  | .tripTimeout unit => Sys2Proof.Machine.execTripTimeout unit s
  | .dieTempSample d tj => Sys2Proof.Machine.execDieTempSample d tj s
  | .thermalShutdown => Sys2Proof.Machine.execThermalShutdown s
  | .powerOn => Sys2Proof.Machine.execPowerOn s
  | .pwrEnRise => Sys2Proof.Machine.execPwrEnRise s
  | .pwrEnFall => Sys2Proof.Machine.execPwrEnFall s
  | .perstNFall => Sys2Proof.Machine.execPerstNFall s
  | .perstNRelease refclk => Sys2Proof.Machine.execPerstNRelease refclk s
  | .startupReady => Sys2Proof.Machine.execStartupReady s
  | .faultSeen => Sys2Proof.Machine.execFaultSeen s
  | .faultMasked => Sys2Proof.Machine.execFaultMasked s
  | .faultUnmasked => Sys2Proof.Machine.execFaultUnmasked s
  | .tickInEdge => Sys2Proof.Machine.execTickInEdge s
  | .tickLost => Sys2Proof.Machine.execTickLost s
  | .tickOut => Sys2Proof.Machine.execTickOut s
  | .smbStuck scl sda => Sys2Proof.Machine.execSmbStuck scl sda s
  | .smbRecoveryCheck scl sda => Sys2Proof.Machine.execSmbRecoveryCheck scl sda s
  | .smbRejoined => Sys2Proof.Machine.execSmbRejoined s
  | .smbRejoin tickOut => Sys2Proof.Machine.execSmbRejoin tickOut s
  | .uartRxStuck high => Sys2Proof.Machine.execUartRxStuck high s
  | .strapChanged anchor compat addr => Sys2Proof.Machine.execStrapChanged anchor compat addr s
  | .firmwareUpdate p => Sys2Proof.Machine.execFirmwareUpdate p s
  | .getMeasurements f mctp index => Sys2Proof.Machine.execGetMeasurements f mctp index s
  | .imageKeySet t k key relayed => Sys2Proof.Machine.execImageKeySet t k key relayed s
  | .imageKeyDestroy t k relayed => Sys2Proof.Machine.execImageKeyDestroy t k relayed s
  | .debugUnlock tokenOk => Sys2Proof.Machine.execDebugUnlock tokenOk s
  | .stopInterface t => Sys2Proof.Machine.execStopInterface t s
  | .entropyFail => Sys2Proof.Machine.execEntropyFail s
  | .cmdAdmqEn f v => Sys2Proof.Machine.execCmdAdmqEn f v s
  | .cfgLock v => Sys2Proof.Machine.execCfgLock v s
  | .idAccClr f v => Sys2Proof.Machine.execIdAccClr f v s
  | .lnkGrpRecal g => Sys2Proof.Machine.execLnkGrpRecal g s
  | .lnkGrpReset g => Sys2Proof.Machine.execLnkGrpReset g s
  | .lnkGrpDisable g => Sys2Proof.Machine.execLnkGrpDisable g s
  | .registerWrite f bar2 offset data => Sys2Proof.Machine.execRegisterWrite f bar2 offset data s
  | .unalignedRead f bar2 offset be => Sys2Proof.Machine.execUnalignedRead f bar2 offset be s
  | .bridgeTrainingLost die iod => Sys2Proof.Machine.execBridgeTrainingLost die iod s
  | .linkGroupResetReleased g => Sys2Proof.Machine.execLinkGroupResetReleased g s
  | .hostLinkUp gen width => Sys2Proof.Machine.execHostLinkUp gen width s
  | .hbmStackTrained k failed => Sys2Proof.Machine.execHbmStackTrained k failed s
  | .cxlPortTrained p device => Sys2Proof.Machine.execCxlPortTrained p device s
  | .tapInstruction trstHigh ir => Sys2Proof.Machine.execTapInstruction trstHigh ir s
  | .readLatch f bar2 offset be => Sys2Proof.Machine.execReadLatch f bar2 offset be s
  | .keyExchange f mctp => Sys2Proof.Machine.execKeyExchange f mctp s
  | .endSession f mctp => Sys2Proof.Machine.execEndSession f mctp s
  | .lockInterface t => Sys2Proof.Machine.execLockInterface t s
  | .startInterface t => Sys2Proof.Machine.execStartInterface t s
  | .firmwareActivation component => Sys2Proof.Machine.execFirmwareActivation component s

end Sys2Proof.Machine
end

