-- ==== Sys2Proof/Safety.lean ====
section
/-! DEFINITION. A safe run: no step of it stops; and the terms in which claims are stated. -/

namespace Sys2Proof

/-- The step answers a next state. -/
def Goes (o : Host.Outcome Machine.State Machine.Fault Machine.Refusal) : Prop := ∃ s, o = .next s

/-- Every one of k steps answers a next state. -/
def SafeRun (k : Nat) (s : Machine.State) : Prop := Goes (core.run k s)

end Sys2Proof

namespace Sys2Proof.Claims

open Sys2Proof.Machine

/-! Terms that several statements use. -/

/-- Tile t is running or blocked, and its program's next word is the instruction of class `cls`, opcode `op` and bits w;
its predicate lets it and its reserved fields are zero (03 R75, R82, R83, R85). -/
def Issues (cls op : Nat) (rsv : List (Nat × Nat)) (t : Fin 160) (w : Operand) (s : State) : Prop :=
  (s.tiles[t].ctl.status = .running ∨ s.tiles[t].ctl.status = .blocked)
    ∧ s.tiles[t].ctl.istore[s.tiles[t].ctl.pc]? = some (wordOf cls op w)
    ∧ s.tiles[t].enabled w = true ∧ rsvClear rsv w = true

/-- Tile t holds y and goes on n words further; its engine's progress counter advances. Nothing else changes. -/
def wentOn (s : State) (t : Fin 160) (y : Tile) (n : Nat) : State :=
  (s.setTile t ((y.setPc (s.tiles[t].ctl.pc + n)).setStatus .running)).progressed 1 t

/-- Tile t goes on at word n. -/
def wentTo (s : State) (t : Fin 160) (y : Tile) (n : Nat) : State :=
  (s.setTile t ((y.setPc n).setStatus .running)).progressed 1 t

/-- The command c of opcode `op` acts at its turn on s0, where it is in flight as k: started before, or starting now (12
R358, R368, R369). -/
def Acts (op : Nat) (c : CmdRef) (k : Cmd) (s s0 : State) : Prop :=
  ∃ k', s.cmdAt c = some k' ∧ k'.opcode = op ∧ s.myTurn c = true ∧ s0.cmdAt c = some k
    ∧ ((k'.phase = .started ∧ s0 = s) ∨ (k'.phase = .fetched ∧ s.missed k' = false ∧ s.eligible k' = true ∧ s0 = s.start k'))

/-- The command's record in flight as it starts. -/
def Starts (op : Nat) (c : CmdRef) (k : Cmd) (s s0 : State) : Prop :=
  s.cmdAt c = some k ∧ k.opcode = op ∧ k.phase = .fetched ∧ s.eligible k = true ∧ s.missed k = false
    ∧ s0 = s.syncStride ∧ s0.scheduled k = true

/-- What a scheduled start leaves: the tenant is served in the class that the command waited for, unless it waits on. -/
def served (s0 : State) (c : CmdRef) (k : Cmd) (x : State) : State :=
  match s0.classOfCmd k with
  | some j => if (x.cmdAt c).any (·.phase == .fetched) then x else x.served k j
  | none => x

end Sys2Proof.Claims
end

