-- ==== Sys2Proof/WellFormed.lean ====
section
/-! DEFINITION. Well-formed commands: what the operand types do not say already. A command that is not well-formed spells
no frame, record, access or report of the manual. -/

namespace Sys2Proof

/-- Widths of a Zhoti frame's header fields, its VCs and its payload (11 R320 to R322). -/
def Frame.wf (f : Frame) : Bool :=
  f.type < 16 && f.vc < 5 && f.hop ≤ 6 && f.lseq < 65536 && f.lack < 65536 && f.src < 2 ^ 14 && f.dst < 2 ^ 14
    && f.payload.length ≤ 8192 && f.payload.length % 16 == 0

/-- Tiles of a command part: ranks and tile indices in range (12 R370). -/
def TilePart.wf (p : TilePart) : Bool := p.home < 64 && p.tiles.all fun (r, i) => r < 64 && i < 160

/-- A contribution holds one value for each element of its shape (11 R340). -/
def CollPart.wf (p : CollPart) : Bool := p.data.length == p.rows * p.rowLen

/-- Ranks of an admission (13 R399). -/
def Admission.wf (a : Admission) : Bool := a.cause ≤ 4 && a.anchor < 64

/-- Four dies, existing pseudo-channels and links (14 R435). -/
def PlanReading.wf (r : PlanReading) : Bool :=
  r.canary.length == 4 && r.rails.length == 4 && (r.ratios.all fun x => x.1 < 1024) && r.eyes.all fun x => x.1 < 96

/-- Positions of an IDENT exchange (11 R327). -/
def IdentRec.wf (r : IdentRec) : Bool := r.row < 16 && r.col < 16 && r.rank < 64

/-- Tenant and ranks of a page-ship header (07 R214). -/
def PageHeader.wf (h : PageHeader) : Bool := h.tenant < 512 && h.src < 64 && h.dst < 64

/-- A rate and a width that the host port trains to (13 R388). -/
def rateWf (gen : Fin 8) (width : Fin 32) : Bool := 4 ≤ gen.val && [4, 8, 16].contains width.val

/-- An error class of 05 R518. -/
def Finding.wf : Finding → Bool
  | .clean => true
  | .correctable y => y ≤ 8
  | .uncorrectable y => y ≤ 8

/-- A well-formed command. -/
def Instr.wellFormed (c : Instr) : Bool :=
  match c with
  | .nop _ _ => true
  | .jmp _ _ => true
  | .loop _ _ => true
  | .seg _ _ => true
  | .endProg _ _ => true
  | .trap _ _ => true
  | .flagrd _ _ => true
  | .flagclr _ _ => true
  | .add _ _ => true
  | .sub _ _ => true
  | .mul _ _ => true
  | .and _ _ => true
  | .or _ _ => true
  | .xor _ _ => true
  | .shl _ _ => true
  | .shr _ _ => true
  | .sra _ _ => true
  | .movhi _ _ => true
  | .cmpeq _ _ => true
  | .cmplt _ _ => true
  | .cmpltu _ _ => true
  | .lds _ _ => true
  | .sts _ _ => true
  | .rdtime _ _ => true
  | .dload _ _ => true
  | .dstore _ _ => true
  | .dsetw _ _ => true
  | .daddw _ _ => true
  | .dreset _ _ => true
  | .vld _ _ => true
  | .vst _ _ => true
  | .padcopy _ _ => true
  | .mma _ _ => true
  | .store _ _ => true
  | .zero _ _ => true
  | .fadd _ _ => true
  | .fsub _ _ => true
  | .fmul _ _ => true
  | .ffma _ _ => true
  | .fdiv _ _ => true
  | .fsqrt _ _ => true
  | .fmax _ _ => true
  | .fmin _ _ => true
  | .fneg _ _ => true
  | .fabs _ _ => true
  | .fcmplt _ _ => true
  | .sel _ _ => true
  | .iadd _ _ => true
  | .isub _ _ => true
  | .imul _ _ => true
  | .iand _ _ => true
  | .ior _ _ => true
  | .ixor _ _ => true
  | .ishl _ _ => true
  | .ishr _ _ => true
  | .iota _ _ => true
  | .cvtif _ _ => true
  | .cvtfi _ _ => true
  | .exp _ _ => true
  | .log _ _ => true
  | .sigmoid _ _ => true
  | .tanh _ _ => true
  | .gelu _ _ => true
  | .geluTanh _ _ => true
  | .silu _ _ => true
  | .recip _ _ => true
  | .rsqrt _ _ => true
  | .softplus _ _ => true
  | .erf _ _ => true
  | .softmax _ _ => true
  | .logsoftmax _ _ => true
  | .rmsnorm _ _ => true
  | .layernorm _ _ => true
  | .rsum _ _ => true
  | .rmax _ _ => true
  | .rdot _ _ => true
  | .cvt _ _ => true
  | .rsetctx _ _ => true
  | .runif _ _ => true
  | .drop _ _ => true
  | .init _ _ => true
  | .sample _ _ => true
  | .fwait _ _ => true
  | .fwaitall _ _ => true
  | .cwait _ _ => true
  | .cset _ _ => true
  | .cadd _ _ => true
  | .csignal _ _ => true
  | .get _ _ => true
  | .put _ _ => true
  | .padget _ _ => true
  | .padput _ _ => true
  | .atomadd _ _ => true
  | .cpfx _ _ => true
  | .dmaTransferDone _ _ => true
  | .counterArrival _ _ _ => true
  | .collectiveDone _ _ => true
  | .segmentOverrun _ => true
  | .preemption _ => true
  | .migrationCopyDone _ _ => true
  | .patrolScrub granule found => granule < 2 ^ 40 && found.wf
  | .scrubPassOverdue _ => true
  | .restorationDone _ _ => true
  | .rowRepair _ _ => true
  | .memMapoutReq _ => true
  | .mapoutTakesEffect _ => true
  | .dieRegionRetire _ => true
  | .cxlPortFailed _ => true
  | .bar4Read _ _ _ => true
  | .bar4Write _ _ _ => true
  | .heatSample => true
  | .memAlloc _ => true
  | .memFree _ => true
  | .memHint _ => true
  | .placeReport _ => true
  | .foilLease _ => true
  | .leaseStreamDone _ => true
  | .leaseSwap _ => true
  | .leaseRelease _ => true
  | .actPolicy _ _ => true
  | .rebalance _ _ _ => true
  | .cachePoolResize _ _ _ _ _ => true
  | .stageRebalance _ _ => true
  | .poolJoin _ _ => true
  | .allocChange _ _ => true
  | .genSubmit _ => true
  | .genCancel _ => true
  | .boundaryCancel _ _ => true
  | .genPhase _ => true
  | .phaseSwitch _ => true
  | .genScore _ => true
  | .genStats _ => true
  | .prefillStep _ _ _ _ => true
  | .decodeStep _ _ _ _ => true
  | .scoreStep _ _ _ => true
  | .outputAreaCommit _ => true
  | .pageShip h _ _ _ => h.wf
  | .reqStarved _ _ => true
  | .poolStarved _ _ => true
  | .learnSetup _ _ => true
  | .learnStep _ part => part.all TilePart.wf
  | .learnUpdate _ => true
  | .prepare _ _ _ => true
  | .ready _ _ _ => true
  | .prepareTimeout _ _ => true
  | .go _ _ _ => true
  | .updateBlock _ _ _ _ _ => true
  | .done _ _ _ => true
  | .learnCommit _ _ _ => true
  | .ckptDone _ _ _ => true
  | .takeoverCopyDone _ _ _ => true
  | .exchangeRerun _ _ _ _ _ => true
  | .sweepResume _ _ _ => true
  | .modelCreate _ _ => true
  | .modelLoad _ => true
  | .freeze _ _ => true
  | .thaw _ => true
  | .versionHold _ => true
  | .versionQuery _ => true
  | .modelDelete _ => true
  | .reshardPart _ _ _ _ _ _ _ => true
  | .landed _ _ _ => true
  | .publish _ _ _ => true
  | .layoutRelease _ _ _ => true
  | .thawDone _ => true
  | .drainLimit _ _ => true
  | .linkTrainingDone _ => true
  | .linkTrainingTimeout _ => true
  | .fecAlignLock _ => true
  | .alignTimeout _ => true
  | .ident _ r => r.wf
  | .recal _ _ => true
  | .recalDone _ => true
  | .recalTimeout _ => true
  | .retrain _ _ _ => true
  | .retrainDone _ _ => true
  | .retrainAttemptFail _ => true
  | .linkNotReady _ _ => true
  | .detourSwitch _ _ => true
  | .peerUnreachable _ => true
  | .fecDegrade _ _ _ => true
  | .frameTransmit _ inject => inject.all Frame.wf
  | .dataFrame _ f _ => f.wf
  | .linkFrame _ f _ => f.wf
  | .nak _ f => f.wf
  | .replayTimeout _ => true
  | .e2eAck _ _ _ => true
  | .padputMsg _ _ _ _ _ => true
  | .padgetRequest _ _ _ _ _ _ => true
  | .padgetData _ _ _ _ _ => true
  | .csignalMsg _ _ _ _ => true
  | .memoryWrite _ _ => true
  | .memoryReadRequest _ _ _ _ => true
  | .memoryReadData _ _ _ => true
  | .imageRelay _ _ _ => true
  | .collGroupCreate _ _ _ _ => true
  | .collGroupDestroy _ _ => true
  | .collGroupReformed _ _ _ _ => true
  | .collContribution _ _ _ _ part => part.wf
  | .collFail _ _ _ _ _ => true
  | .collTimeout _ _ => true
  | .heatNotice _ _ _ _ _ _ => true
  | .heatNoticeRenewal => true
  | .heatNoticeHoldEnd _ _ => true
  | .collAbort _ _ _ => true
  | .moduleResetting _ => true
  | .moduleResetHoldExpiry _ => true
  | .nopCommand _ => true
  | .sqCreate _ => true
  | .sqDestroy _ => true
  | .cqCreate _ => true
  | .cqDestroy _ => true
  | .configSet _ => true
  | .configGet _ => true
  | .accountRead _ => true
  | .eventRing _ => true
  | .tenantReset _ _ => true
  | .captureRead _ => true
  | .patinaReplan _ r => r.all PlanReading.wf
  | .domainStatus _ => true
  | .memCopy _ _ => true
  | .tileRun _ _ part => part.all TilePart.wf
  | .rndFill _ => true
  | .diagEcho _ => true
  | .tileSelfTest _ _ => true
  | .engineSelfTest _ _ => true
  | .hbmPcSelfTest _ _ => true
  | .bsramSelfTest _ _ => true
  | .linkLoopbackTest _ _ => true
  | .sqTailDoorbell _ _ _ => true
  | .cqHeadDoorbell _ _ _ => true
  | .cmdFetch _ data => data.length ≤ 16384
  | .deadlineMissed _ => true
  | .strideCharge _ _ _ => true
  | .cmdSliceExpiry _ _ => true
  | .vote _ _ _ _ _ _ => true
  | .commit _ => true
  | .abort _ => true
  | .commitAck _ _ => true
  | .cqCoalesceTimeout _ _ => true
  | .apply _ _ _ => true
  | .applied _ _ _ => true
  | .hostLinkChange gen width => rateWf gen width
  | .atsInvalidation _ iova len _ => iova + len ≤ 2 ^ 64
  | .functionLevelReset _ => true
  | .vfEnableChange _ _ => true
  | .anchorHostReset _ => true
  | .formationStart _ => true
  | .form record => record.length == 64
  | .accept _ _ => true
  | .elected _ _ a => a.wf
  | .roundTimeout => true
  | .coordinatorReachLoss => true
  | .minority => true
  | .majorityRegained => true
  | .memberLost _ _ => true
  | .timeSync _ => true
  | .hstEvtHead _ _ => true
  | .eventCoalesceTimeout _ => true
  | .hang _ _ => true
  | .suspectReplay _ _ _ => true
  | .captureTaken _ sections => 1 ≤ sections.length && sections.length ≤ 16
  | .fltResetTile _ => true
  | .fltResetEngine _ => true
  | .fltResetLinkGroup _ => true
  | .fltResetDie _ => true
  | .fltResetModule => true
  | .resetDone _ _ _ => true
  | .tenantResetDone _ => true
  | .patinaMeasure margins => margins.length == 6
  | .eyeMeasure _ _ => true
  | .patinaDailyReplan r => r.wf
  | .replanApply => true
  | .powerOnHour _ => true
  | .governorSample _ _ _ _ predicted _ => predicted.length == 4
  | .governorRelease => true
  | .inputVoltage _ _ => true
  | .pwrCapWrite _ => true
  | .stackTempSample _ _ => true
  | .tripTimeout _ => true
  | .dieTempSample _ _ => true
  | .thermalShutdown => true
  | .powerOn => true
  | .pwrEnRise => true
  | .pwrEnFall => true
  | .perstNFall => true
  | .perstNRelease _ => true
  | .startupReady => true
  | .faultSeen => true
  | .faultMasked => true
  | .faultUnmasked => true
  | .tickInEdge => true
  | .tickLost => true
  | .tickOut => true
  | .smbStuck _ _ => true
  | .smbRecoveryCheck _ _ => true
  | .smbRejoined => true
  | .smbRejoin _ => true
  | .uartRxStuck _ => true
  | .strapChanged _ _ _ => true
  | .firmwareUpdate _ => true
  | .getMeasurements _ _ _ => true
  | .imageKeySet _ _ _ _ => true
  | .imageKeyDestroy _ _ _ => true
  | .debugUnlock _ => true
  | .stopInterface _ => true
  | .entropyFail => true
  | .cmdAdmqEn _ _ => true
  | .cfgLock _ => true
  | .idAccClr _ _ => true
  | .lnkGrpRecal _ => true
  | .lnkGrpReset _ => true
  | .lnkGrpDisable _ => true
  | .registerWrite _ _ offset data => offset < 2 ^ 26 && !data.isEmpty
  | .unalignedRead _ _ offset be => offset < 2 ^ 26 && !be.isEmpty
  | .bridgeTrainingLost _ _ => true
  | .linkGroupResetReleased _ => true
  | .hostLinkUp gen width => rateWf gen width
  | .hbmStackTrained _ _ => true
  | .cxlPortTrained _ _ => true
  | .tapInstruction _ _ => true
  | .readLatch _ _ offset be => offset < 2 ^ 26 && !be.isEmpty
  | .keyExchange _ _ => true
  | .endSession _ _ => true
  | .lockInterface _ => true
  | .startInterface _ => true
  | .firmwareActivation _ => true

end Sys2Proof
end

