-- ==== Sys2Proof/Certificates/Slice0/Obligations.lean ====
section
/-! DEFINITION. The statements for the provers. Every per-command statement has as its conclusion that `exec` answers a
next state and which one, as an equation on the whole state: what the equation does not name is unchanged. -/


open Sys2Proof Sys2Proof.Machine Sys2Proof.Claims

/-! ## The block -/

/-- A step takes the command at the front of the queue and runs it on the state with the queue's rest. -/
def Obligations.StepRunsFrontCommand : Prop :=
  ∀ (c : Instr) (rest : List Instr) (s : State), s.pending = c :: rest → step s = exec c { s with pending := rest }

/-- On an empty queue device time goes on by 1 ns while the supply is on; nothing else changes. The model's choice
(log entry 1). -/
def Obligations.EmptyQueueOnlyAdvancesTime : Prop :=
  ∀ s : State, s.pending = [] →
    (s.sig.phase = .off → step s = .next s)
    ∧ (s.sig.phase ≠ .off → step s = .next (s.setDom { s.dom with time := s.dom.time + 1 }))

/-! ## Tiles: scalar, address and control instructions (03 R74, R83, R86) -/

/-- Scalar arithmetic, MOVHI, RDTIME and FLAGRD write SD (register [49:45]) and go on. -/
def Sys2Proof.Claims.ScalarArithmeticWritesDestination : Prop :=
  ∀ (s : State) (t : Fin 160) (w : Operand),
    let x := s.tiles[t]
    let a := x.getS (opFin5 w 40)
    let b := x.sbOrImm w
    let sh := (b.extractLsb' 0 6).toNat
    let gives := fun (v : DWord) => Host.Outcome.next (φ := Fault) (ρ := Refusal) (wentOn s t (x.setS (opFin5 w 45) v) 1)
    (Issues 1 0x00 rsvScalar t w s → exec (.add t w) s = gives (a + b))
    ∧ (Issues 1 0x01 rsvScalar t w s → exec (.sub t w) s = gives (a - b))
    ∧ (Issues 1 0x02 rsvScalar t w s → exec (.mul t w) s = gives (a * b))
    ∧ (Issues 1 0x03 rsvScalar t w s → exec (.and t w) s = gives (a &&& b))
    ∧ (Issues 1 0x04 rsvScalar t w s → exec (.or t w) s = gives (a ||| b))
    ∧ (Issues 1 0x05 rsvScalar t w s → exec (.xor t w) s = gives (a ^^^ b))
    ∧ (Issues 1 0x06 rsvScalar t w s → exec (.shl t w) s = gives (a <<< sh))
    ∧ (Issues 1 0x07 rsvScalar t w s → exec (.shr t w) s = gives (a >>> sh))
    ∧ (Issues 1 0x08 rsvScalar t w s → exec (.sra t w) s = gives (a.sshiftRight sh))
    ∧ (Issues 1 0x09 rsvScalar t w s → exec (.movhi t w) s = gives (opImm w ++ a.extractLsb' 0 32))
    ∧ (Issues 1 0x1A rsvScalar t w s → exec (.rdtime t w) s = gives (BitVec.ofNat 64 s.dom.time))
    ∧ (Issues 0 0x06 rsvCtrl t w s → exec (.flagrd t w) s = gives (x.regs.flags.zeroExtend 64))

/-- Compares write PD, with the comparison they name. -/
def Sys2Proof.Claims.ComparesWritePredicate : Prop :=
  ∀ (s : State) (t : Fin 160) (w : Operand),
    let x := s.tiles[t]
    let a := x.getS (opFin5 w 40)
    let b := x.sbOrImm w
    let gives := fun (v : Bool) => Host.Outcome.next (φ := Fault) (ρ := Refusal) (wentOn s t (x.setP (opFin3 w 47) v) 1)
    (Issues 1 0x10 rsvCompare t w s → exec (.cmpeq t w) s = gives (decide (a = b)))
    ∧ (Issues 1 0x11 rsvCompare t w s → exec (.cmplt t w) s = gives (decide (a.toInt < b.toInt)))
    ∧ (Issues 1 0x12 rsvCompare t w s → exec (.cmpltu t w) s = gives (decide (a.toNat < b.toNat)))

/-- What the check of the pad finds as LDS, VLD and MMA read it: a corrected error is counted and the instruction has its effect;
an uncorrectable one is no exception: the error is recorded for the tile, the command runs again from its start, MEM_PAD_UE goes
to PF0, and the tile's second within 24 hours takes it out of service (05 R141). -/
def Sys2Proof.Claims.PadErrorsCountOrKill : Prop :=
  (∀ (s : State) (t : Fin 160) (w : Operand) (y : Nat),
    let x := s.tiles[t]
    let a := (x.saPlusImm w 40).toNat
    let one := s.padCorrected t
    (Issues 1 0x18 rsvScalar t w s → a % 8 = 0 → a + 8 ≤ 2 ^ 22 →
      (tget s.mem.err.padFound t.val = some (.correctable y) → exec (.lds t w) s
        = .next (wentOn one t (x.setS (opFin5 w 45) (BitVec.ofNat 64 (x.pad.readLE a 8))) 1))
      ∧ (tget s.mem.err.padFound t.val = some (.uncorrectable y) → exec (.lds t w) s = .next (s.padFailed t y)))
    ∧ (Issues 3 0x00 rsvMove t w s → ∀ d c n, x.walk (opFin6 w 39) = .ok d → x.cursorSpan (opFin6 w 39) d = .ok (c, n) →
      (tget s.mem.err.padFound t.val = some (.correctable y) → exec (.vld t w) s = exec (.vld t w) one)
      ∧ (tget s.mem.err.padFound t.val = some (.uncorrectable y) → exec (.vld t w) s = .next (s.padFailed t y)))
    ∧ (Issues 4 0x00 rsvMma t w s → ∀ a b r, x.walk (opFin6 w 44) = .ok a → x.walk (opFin6 w 38) = .ok b →
      mmaBank x.pad a b x.regs.banks[opFin2 w 36] w x.ctl.pewter = .ok r →
      (tget s.mem.err.padFound t.val = some (.correctable y) → exec (.mma t w) s = exec (.mma t w) one)
      ∧ (tget s.mem.err.padFound t.val = some (.uncorrectable y) → exec (.mma t w) s = .next (s.padFailed t y)))
    ∧ one.mem.regs.ce = (s.mem.regs.ce + 1) % 2 ^ 64 ∧ tget one.mem.err.padFound t.val = none)
  ∧ (∀ (s : State) (t : Fin 160) (c : CmdRef) (k : Cmd) (y : Nat), s.tiles[t].ctl.cmd = some c → s.cmdAt c = some k → k.running = true →
    k.home = s.dom.rank →
    let earlier := (tgetD s.mem.err.padUe t.val []).filter fun u => s.dom.time < u + 86400 * 1000000000
    let s1 := s.setMem { s.mem with err := { s.mem.err with
      padFound := tdel s.mem.err.padFound t.val, padUe := tset s.mem.err.padUe t.val (s.dom.time :: earlier) } }
    let told := (s1.rerun k true).memEvent (t.val / 40) ⟨5, 4, 0, none, t.val, 0, 0, 0, y⟩
    s.padFailed t y = if earlier = [] then told else told.tileOut t.val)

/-- Scalar and descriptor accesses to the pad at SA + IMM: an address that is a multiple of the size and whose bytes lie in
the pad (below the parameter area for a store) is accessed; one outside raises PAD_BOUNDS; a misaligned one is an illegal
operand (log entry 21). -/
def Sys2Proof.Claims.PadAccessesLoadAndStore : Prop :=
  ∀ (s : State) (t : Fin 160) (w : Operand),
    let x := s.tiles[t]
    let a := (x.saPlusImm w 40).toNat
    let d := (x.saPlusImm w 39).toNat
    (Issues 1 0x18 rsvScalar t w s →
      (a % 8 = 0 → a + 8 ≤ 2 ^ 22 → tget s.mem.err.padFound t.val = none → exec (.lds t w) s = .next (wentOn s t (x.setS (opFin5 w 45) (BitVec.ofNat 64 (x.pad.readLE a 8))) 1))
      ∧ (a % 8 = 0 → 2 ^ 22 < a + 8 → exec (.lds t w) s = .next (s.raiseExc t (excPadBounds (x.saPlusImm w 40).toInt)))
      ∧ (a % 8 ≠ 0 → exec (.lds t w) s = .next (s.raiseExc t (illScalar (opFin5 w 40)))))
    ∧ (Issues 1 0x19 rsvScalar t w s →
      (a % 8 = 0 → a + 8 ≤ 0x3FF000 → exec (.sts t w) s = .next (wentOn s t (x.setPad (x.pad.writeLE a 8 (x.getS (opFin5 w 35)).toNat)) 1))
      ∧ (a % 8 = 0 → 0x3FF000 < a + 8 → exec (.sts t w) s = .next (s.raiseExc t (excPadBounds (x.saPlusImm w 40).toInt)))
      ∧ (a % 8 ≠ 0 → exec (.sts t w) s = .next (s.raiseExc t (illScalar (opFin5 w 40)))))
    ∧ (Issues 2 0x00 rsvAgen t w s →
      (d % 128 = 0 → d + 128 ≤ 2 ^ 22 → exec (.dload t w) s
        = .next (wentOn s t ((x.setDesc (opFin6 w 44) (BitVec.ofNat 1024 (x.pad.readLE d 128))).setCursor (opFin6 w 44) 0) 1))
      ∧ (d % 128 = 0 → 2 ^ 22 < d + 128 → exec (.dload t w) s = .next (s.raiseExc t (excPadBounds (x.saPlusImm w 39).toInt)))
      ∧ (d % 128 ≠ 0 → exec (.dload t w) s = .next (s.raiseExc t (illScalar (opFin5 w 39)))))
    ∧ (Issues 2 0x01 rsvAgen t w s →
      (d % 128 = 0 → d + 128 ≤ 0x3FF000 → exec (.dstore t w) s
        = .next (wentOn s t (x.setPad (x.pad.writeLE d 128 x.regs.descs[opFin6 w 44].toNat)) 1))
      ∧ (d % 128 = 0 → 0x3FF000 < d + 128 → exec (.dstore t w) s = .next (s.raiseExc t (excPadBounds (x.saPlusImm w 39).toInt)))
      ∧ (d % 128 ≠ 0 → exec (.dstore t w) s = .next (s.raiseExc t (illScalar (opFin5 w 39)))))

/-- DSETW, DADDW and DRESET: one 32-bit word of a descriptor, or its cursor; every other word of it stays. -/
def Sys2Proof.Claims.DescriptorWordsAndCursor : Prop :=
  ∀ (s : State) (t : Fin 160) (w : Operand),
    let x := s.tiles[t]
    let v : Word := (x.getS (opFin5 w 39)).extractLsb' 0 32 + opImm w
    let dx := opFin6 w 44
    let k := opBits w 34 5
    (Issues 2 0x02 rsvAgen t w s → ∃ d : BitVec 1024, exec (.dsetw t w) s = .next (wentOn s t (x.setDesc dx d) 1)
      ∧ d.extractLsb' (32 * k) 32 = v ∧ ∀ j < 32, j ≠ k → d.extractLsb' (32 * j) 32 = x.regs.descs[dx].extractLsb' (32 * j) 32)
    ∧ (Issues 2 0x03 rsvAgen t w s → ∃ d : BitVec 1024, exec (.daddw t w) s = .next (wentOn s t (x.setDesc dx d) 1)
      ∧ d.extractLsb' (32 * k) 32 = x.regs.descs[dx].extractLsb' (32 * k) 32 + v
      ∧ ∀ j < 32, j ≠ k → d.extractLsb' (32 * j) 32 = x.regs.descs[dx].extractLsb' (32 * j) 32)
    ∧ (Issues 2 0x04 rsvAgen t w s → exec (.dreset t w) s = .next (wentOn s t (x.setCursor dx v) 1))

/-- NOP, JMP, LOOP, TRAP and FLAGCLR. A branch whose target is not below N_INSTR, or is the word after a CPFX, raises
ILLEGAL_INSTRUCTION. -/
def Obligations.ControlInstructions : Prop :=
  ∀ (s : State) (t : Fin 160) (w : Operand),
    let x := s.tiles[t]
    let n := opBits w 0 14
    let y := x.setS (opFin5 w 45) (x.getS (opFin5 w 45) - 1)
    let ok := n < x.ctl.istore.length ∧ ¬(n ≠ 0 ∧ (x.ctl.istore[n - 1]?).any isCpfx = true)
    (Issues 0 0x00 rsvCtrl t w s → exec (.nop t w) s = .next (wentOn s t x 1))
    ∧ (Issues 0 0x01 rsvBranch t w s →
      (ok → exec (.jmp t w) s = .next (wentTo s t x n))
      ∧ (¬ok → exec (.jmp t w) s = .next (s.raiseExc t (excIllegalInstruction (wordOf 0 0x01 w)))))
    ∧ (Issues 0 0x02 rsvBranch t w s →
      (ok → y.getS (opFin5 w 45) ≠ 0 → exec (.loop t w) s = .next (wentTo s t y n))
      ∧ (ok → y.getS (opFin5 w 45) = 0 → exec (.loop t w) s = .next (wentOn s t y 1))
      ∧ (¬ok → exec (.loop t w) s = .next (s.raiseExc t (excIllegalInstruction (wordOf 0 0x02 w)))))
    ∧ (Issues 0 0x05 rsvCtrl t w s → exec (.trap t w) s = .next (s.raiseExc t ⟨0x0C, opBits w 0 16⟩))
    ∧ (Issues 0 0x07 rsvCtrl t w s →
      exec (.flagclr t w) s = .next (wentOn s t (x.setFlags (x.regs.flags &&& ~~~ (BitVec.ofNat 32 (opBits w 0 5)))) 1))

/-- SEG, END and FWAITALL raise the exception of the lowest FAILED fence, wait while a fence is ARMED or an operation is
outstanding, and else have their effect. -/
def Obligations.SegmentsEndAndWaitAll : Prop :=
  ∀ (s : State) (t : Fin 160) (w : Operand),
    let x := s.tiles[t]
    let failed := fun (i : Instr) => ∀ (f : Fin 64) (e : Exc), x.sync.fences[f] = .failed e →
      (∀ g < f, ∀ e', x.sync.fences[g] ≠ .failed e') → exec i s = .next (s.raiseExc t e)
    let clean := ∀ (f : Fin 64) (e : Exc), x.sync.fences[f] ≠ .failed e
    let quiet := x.sync.outstanding = [] ∧ ∀ f : Fin 64, x.sync.fences[f] ≠ .armed
    let waits := fun (i : Instr) => clean → ¬quiet → exec i s = .next (s.setTile t (x.setStatus .blocked))
    (Issues 0 0x03 rsvCtrl t w s → failed (.seg t w) ∧ waits (.seg t w) ∧ (clean → quiet → exec (.seg t w) s
      = .next (wentOn s t { x with ctl := { x.ctl with segCount := x.ctl.segCount + 1, segStart := s.dom.time, segExcluded := 0, segStopped := s.stoppedNs } } 1)))
    ∧ (Issues 0 0x04 rsvCtrl t w s → failed (.endProg t w) ∧ waits (.endProg t w)
      ∧ (clean → quiet → exec (.endProg t w) s = .next ((s.endTile t x).progressed 1 t)))
    ∧ (Issues 9 0x01 rsvSync t w s → failed (.fwaitall t w) ∧ waits (.fwaitall t w)
      ∧ (clean → quiet → exec (.fwaitall t w) s = .next (wentOn s t x 1)))

/-! ## Tiles: vector lanes (03 R85, R86; 02 R54, R57, R70) -/

/-- INT32 lane operations, IOTA, SEL and the sign operations write VD where LMASK selects, and no flag. A shift count of 32
or more gives a free value (log entry 8). -/
def Obligations.IntegerLanes : Prop :=
  ∀ (s : State) (t : Fin 160) (w : Operand),
    let x := s.tiles[t]
    let a := x.regs.v[opFin5 w 40]
    let b := x.regs.v[opFin5 w 35]
    let lm := x.getLM (opFin3 w 23)
    let gives := fun (f : Fin 512 → Word) => Host.Outcome.next (φ := Fault) (ρ := Refusal)
      (wentOn s t (x.setV (opFin5 w 45) (Vector.ofFn fun i => if lm.getLsbD i then f i else x.regs.v[opFin5 w 45][i])) 1)
    (Issues 5 0x10 rsvVec t w s → exec (.iadd t w) s = gives fun i => a[i] + b[i])
    ∧ (Issues 5 0x11 rsvVec t w s → exec (.isub t w) s = gives fun i => a[i] - b[i])
    ∧ (Issues 5 0x12 rsvVec t w s → exec (.imul t w) s = gives fun i => a[i] * b[i])
    ∧ (Issues 5 0x13 rsvVec t w s → exec (.iand t w) s = gives fun i => a[i] &&& b[i])
    ∧ (Issues 5 0x14 rsvVec t w s → exec (.ior t w) s = gives fun i => a[i] ||| b[i])
    ∧ (Issues 5 0x15 rsvVec t w s → exec (.ixor t w) s = gives fun i => a[i] ^^^ b[i])
    ∧ (Issues 5 0x16 rsvVec t w s → exec (.ishl t w) s
        = gives fun i => if b[i].toNat < 32 then a[i] <<< b[i].toNat else Config.wideShift 0 a[i] b[i])
    ∧ (Issues 5 0x17 rsvVec t w s → exec (.ishr t w) s
        = gives fun i => if b[i].toNat < 32 then a[i] >>> b[i].toNat else Config.wideShift 1 a[i] b[i])
    ∧ (Issues 5 0x18 rsvVec t w s → exec (.iota t w) s
        = gives fun i => BitVec.ofNat 32 i.val + (x.getS (opFin5 w 35)).extractLsb' 0 32)
    ∧ (Issues 5 0x0B rsvVec t w s → exec (.sel t w) s
        = gives fun i => if (x.getLM (opFin3 w 20)).getLsbD i then a[i] else b[i])
    ∧ (Issues 5 0x08 rsvVec t w s → exec (.fneg t w) s = gives fun i => fnegW a[i])
    ∧ (Issues 5 0x09 rsvVec t w s → exec (.fabs t w) s = gives fun i => fabsW a[i])
    ∧ (Issues 5 0x06 rsvVec t w s → exec (.fmax t w) s = gives fun i => fmaxW a[i] b[i])
    ∧ (Issues 5 0x07 rsvVec t w s → exec (.fmin t w) s = gives fun i => fminW a[i] b[i])

/-- FCMPLT writes lane i of LMD with VA[i] < VB[i] where LMASK selects; LM0 is never written. -/
def Sys2Proof.Claims.FloatCompareWritesLaneMask : Prop :=
  ∀ (s : State) (t : Fin 160) (w : Operand), Issues 5 0x0A rsvVec t w s →
    let x := s.tiles[t]
    ∃ m : BitVec 512, exec (.fcmplt t w) s = .next (wentOn s t (x.setLM (opFin3 w 20) m) 1)
      ∧ ∀ i : Fin 512, m.getLsbD i = if (x.getLM (opFin3 w 23)).getLsbD i
          then fltW x.regs.v[opFin5 w 40][i] x.regs.v[opFin5 w 35][i] else (x.getLM (opFin3 w 20)).getLsbD i

/-- The flags of an instruction's lanes, ORed (02 R54). -/
def laneFlags (rs : Fin 512 → FRes) : Word := (List.finRange 512).foldl (fun a i => a ||| (rs i).flags) 0

/-- FP32 lane arithmetic writes VD where LMASK selects with the result rounded by RM, and ORs the lanes' flags into the
flag word; a reserved RM, or stochastic rounding, is an illegal operand in bit 27 and changes nothing but by its exception. -/
def Sys2Proof.Claims.FloatLanes : Prop :=
  ∀ (s : State) (t : Fin 160) (w : Operand),
    let x := s.tiles[t]
    let a := x.regs.v[opFin5 w 40]
    let b := x.regs.v[opFin5 w 35]
    let addend := x.regs.v[opFin5 w 30]
    let lm := x.getLM (opFin3 w 23)
    let sat := opBit w 26
    let holds := fun (i : Instr) (f : RMode → Fin 512 → FRes) =>
      (∀ m, RMode.ofCode (opBits w 27 3) = some m → m ≠ .sr →
        exec i s = .next (wentOn s t ((x.setV (opFin5 w 45)
          (Vector.ofFn fun i => if lm.getLsbD i then (f m i).val else x.regs.v[opFin5 w 45][i])).orFlags (laneFlags (f m))) 1))
      ∧ (RMode.ofCode (opBits w 27 3) = none ∨ RMode.ofCode (opBits w 27 3) = some .sr →
        exec i s = .next (s.raiseExc t (illField 27)))
    (Issues 5 0x00 rsvVec t w s → holds (.fadd t w) fun m i => faddF m sat a[i] b[i])
    ∧ (Issues 5 0x01 rsvVec t w s → holds (.fsub t w) fun m i => fsubF m sat a[i] b[i])
    ∧ (Issues 5 0x02 rsvVec t w s → holds (.fmul t w) fun m i => fmulF m sat a[i] b[i])
    ∧ (Issues 5 0x03 rsvVec t w s → holds (.ffma t w) fun m i => ffmaF m sat a[i] b[i] addend[i])
    ∧ (Issues 5 0x04 rsvVec t w s → holds (.fdiv t w) fun m i => fdivF m sat a[i] b[i])
    ∧ (Issues 5 0x05 rsvVec t w s → holds (.fsqrt t w) fun m i => fsqrtF m sat a[i])
    ∧ (Issues 5 0x19 rsvVec t w s → holds (.cvtif t w) fun m i => ⟨cvtIF m a[i], 0⟩)
    ∧ (Issues 5 0x1A rsvVec t w s → holds (.cvtfi t w) fun m i => cvtFI m a[i])

/-- Special functions write VD where LMASK selects and OR the lanes' flags; RM is ignored. Which of two neighbouring values
a lane takes is a free value (log entry 3). -/
def Sys2Proof.Claims.SpecialFunctionLanes : Prop :=
  ∀ (s : State) (t : Fin 160) (w : Operand),
    let x := s.tiles[t]
    let lm := x.getLM (opFin3 w 23)
    let gives := fun (g : SfuFn) =>
      let f := fun (i : Fin 512) => sfuF g (opBit w 26) x.regs.v[opFin5 w 40][i]
      Host.Outcome.next (φ := Fault) (ρ := Refusal) (wentOn s t ((x.setV (opFin5 w 45)
        (Vector.ofFn fun i => if lm.getLsbD i then (f i).val else x.regs.v[opFin5 w 45][i])).orFlags (laneFlags f)) 1)
    (Issues 6 0x00 rsvVec t w s → exec (.exp t w) s = gives .exp)
    ∧ (Issues 6 0x01 rsvVec t w s → exec (.log t w) s = gives .log)
    ∧ (Issues 6 0x02 rsvVec t w s → exec (.sigmoid t w) s = gives .sigmoid)
    ∧ (Issues 6 0x03 rsvVec t w s → exec (.tanh t w) s = gives .tanh)
    ∧ (Issues 6 0x04 rsvVec t w s → exec (.gelu t w) s = gives .gelu)
    ∧ (Issues 6 0x05 rsvVec t w s → exec (.geluTanh t w) s = gives .geluTanh)
    ∧ (Issues 6 0x06 rsvVec t w s → exec (.silu t w) s = gives .silu)
    ∧ (Issues 6 0x07 rsvVec t w s → exec (.recip t w) s = gives .recip)
    ∧ (Issues 6 0x08 rsvVec t w s → exec (.rsqrt t w) s = gives .rsqrt)
    ∧ (Issues 6 0x09 rsvVec t w s → exec (.softplus t w) s = gives .softplus)
    ∧ (Issues 6 0x0A rsvVec t w s → exec (.erf t w) s = gives .erf)

/-! ## Tiles: moves, matrices, rows and conversions (03 R92 to R97) -/

/-- VLD, VST and PADCOPY over valid walks. VLD: lane i takes element c + i of DX widened, +0 past the end and at excluded
positions, and DX's cursor advances by the elements taken. VST: those lanes that LMASK selects go to DX, narrowed. -/
def Sys2Proof.Claims.MovesBetweenPadAndLanes : Prop :=
  ∀ (s : State) (t : Fin 160) (w : Operand),
    let x := s.tiles[t]
    let dx := opFin6 w 39
    let lm := x.getLM (opFin3 w 22)
    (Issues 3 0x00 rsvMove t w s → ∀ d c n, x.walk dx = .ok d → x.cursorSpan dx d = .ok (c, n) →
      let f : Fin 512 → FRes := fun i => if i.val < n then ((d.value x.pad .lanes (c + i)).map d.lane).getD ⟨0, 0⟩ else ⟨0, 0⟩
      tget s.mem.err.padFound t.val = none → exec (.vld t w) s = .next (wentOn s t (((x.setV (opFin5 w 45)
        (Vector.ofFn fun i => if lm.getLsbD i then (f i).val else x.regs.v[opFin5 w 45][i])).advance dx n).orFlags (laneFlags f)) 1))
    ∧ (Issues 3 0x01 rsvMove t w s → ∀ d c k n m fl, x.walk dx = .ok d → x.narrow w 30 29 25 = .ok c → x.cursorSpan dx d = .ok (k, n) →
      d.storeHeld c ((List.finRange 512).filterMap fun (i : Fin 512) =>
        if i.val < n && lm.getLsbD i then some (k + i.val, laneValue d x.regs.v[opFin5 w 45][i]) else none) x.pad = .ok (m, fl) →
      exec (.vst t w) s = .next (wentOn s t (((x.setPad m).advance dx n).orFlags fl) 1))
    ∧ (Issues 3 0x02 rsvMove t w s → ∀ dst src c m fl, x.walk dx = .ok dst → x.walk (opFin6 w 33) = .ok src →
      x.narrow w 30 29 25 = .ok c → src.total ≤ dst.total → dst.storeHeld c (src.copyValues x.pad) x.pad = .ok (m, fl) →
      exec (.padcopy t w) s = .next (wentOn s t ((x.setPad m).orFlags fl) 1))
    ∧ (∀ e, x.walk dx = .error e →
      (Issues 3 0x00 rsvMove t w s → exec (.vld t w) s = .next (s.raiseExc t e))
      ∧ (Issues 3 0x01 rsvMove t w s → exec (.vst t w) s = .next (s.raiseExc t e))
      ∧ (Issues 3 0x02 rsvMove t w s → exec (.padcopy t w) s = .next (s.raiseExc t e)))

/-- MMA leaves in BANK what the products give and ORs the flags, and touches neither pad nor registers; STORE writes the bank's
rows, scaled by tab and with c_in added where DC names one, through DD; ZERO leaves the bank empty. -/
def Sys2Proof.Claims.MatrixBanks : Prop :=
  ∀ (s : State) (t : Fin 160) (w : Operand),
    let x := s.tiles[t]
    let k := opFin2 w 36
    (Issues 4 0x00 rsvMma t w s → ∀ a b r fl, x.walk (opFin6 w 44) = .ok a → x.walk (opFin6 w 38) = .ok b →
      mmaBank x.pad a b x.regs.banks[k] w x.ctl.pewter = .ok (r, fl) →
      tget s.mem.err.padFound t.val = none → exec (.mma t w) s = .next (wentOn s t ((x.setBank k r).orFlags fl) 1))
    ∧ (Issues 4 0x01 rsvStore t w s → ∀ dd c m fl, x.walk (opFin6 w 44) = .ok dd → opFin6 w 38 = 63 → x.narrow w 33 32 28 = .ok c →
      (x.regs.banks[k].assay = true → x.regs.banks[k].closed = true) →
      storeRows x.pad dd none x.regs.banks[k].tab c (x.regs.banks[k].shape dd).1 (x.regs.banks[k].shape dd).2 x.regs.banks[k].at = .ok (m, fl) →
      exec (.store t w) s = .next (wentOn s t ((x.setPad m).orFlags fl) 1))
    ∧ (Issues 4 0x01 rsvStore t w s → ∀ dd dc c m fl, x.walk (opFin6 w 44) = .ok dd → opFin6 w 38 ≠ 63 → x.walk (opFin6 w 38) = .ok dc →
      x.narrow w 33 32 28 = .ok c → (x.regs.banks[k].assay = true → x.regs.banks[k].closed = true) →
      storeRows x.pad dd (some dc) x.regs.banks[k].tab c (x.regs.banks[k].shape dd).1 (x.regs.banks[k].shape dd).2 x.regs.banks[k].at = .ok (m, fl) →
      exec (.store t w) s = .next (wentOn s t ((x.setPad m).orFlags fl) 1))
    ∧ (Issues 4 0x01 rsvStore t w s → ∀ dd c, x.walk (opFin6 w 44) = .ok dd → opFin6 w 38 = 63 → x.narrow w 33 32 28 = .ok c →
      x.regs.banks[k].assay = true → x.regs.banks[k].closed = false →
      exec (.store t w) s = .next (s.raiseExc t (excAssay (x.regs.banks[k].kNext / 64))))
    ∧ (Issues 4 0x02 rsvStore t w s → exec (.zero t w) s = .next (wentOn s t (x.setBank k Bank.zero) 1))

/-- Row instructions and CVT over operands that their rules accept write the pad (or, for a reduction under CONT, one bank)
and OR their flags; no register, descriptor, cursor or fence of the tile changes. An operand their rules refuse raises its
exception. -/
def Sys2Proof.Claims.RowsAndConversions : Prop :=
  ∀ (s : State) (t : Fin 160) (w : Operand),
    let x := s.tiles[t]
    let holds := fun (i : Instr) (r : Except Exc Tile) =>
      (∀ y, r = .ok y → exec i s = .next (wentOn s t y 1) ∧ ∃ m fl, y = (x.setPad m).orFlags fl)
      ∧ (∀ e, r = .error e → exec i s = .next (s.raiseExc t e))
    let reduces := fun (i : Instr) (r : Except Exc Tile) =>
      (∀ y, r = .ok y → exec i s = .next (wentOn s t y 1)
        ∧ (opBit w 13 = false → ∃ m fl, y = (x.setPad m).orFlags fl)
        ∧ (opBit w 13 = true → ∃ b fl, y = (x.setBank (opFin2 w 14) b).orFlags fl))
      ∧ (∀ e, r = .error e → exec i s = .next (s.raiseExc t e))
    (Issues 6 0x20 rsvRow t w s → holds (.softmax t w) (rowWhole .softmax x w))
    ∧ (Issues 6 0x21 rsvRow t w s → holds (.logsoftmax t w) (rowWhole .logSoftmax x w))
    ∧ (Issues 6 0x22 rsvRow t w s → holds (.rmsnorm t w) (rowWhole .rmsNorm x w))
    ∧ (Issues 6 0x23 rsvRow t w s → holds (.layernorm t w) (rowWhole .layerNorm x w))
    ∧ (Issues 6 0x24 rsvRow t w s → reduces (.rsum t w) (rowReduce .sum x w))
    ∧ (Issues 6 0x25 rsvRow t w s → reduces (.rmax t w) (rowReduce .max x w))
    ∧ (Issues 6 0x26 rsvRow t w s → reduces (.rdot t w) (rowReduce .dot x w))
    ∧ (Issues 7 0x00 rsvCvt t w s → holds (.cvt t w) (convertWalk x w))

/-- RSETCTX sets a random context; RUNIF fills the lanes of VD with draws bound to the elements' logical indices, and +0
past the end; DROP and INIT write the pad and OR their flags; SAMPLE writes the pad. An operand their rules refuse raises its
exception. -/
def Sys2Proof.Claims.RandomInstructions : Prop :=
  ∀ (s : State) (t : Fin 160) (w : Operand),
    let x := s.tiles[t]
    let padOnly := fun (i : Instr) (r : Except Exc Tile) =>
      (∀ y, r = .ok y → exec i s = .next (wentOn s t y 1) ∧ ∃ m fl, y = (x.setPad m).orFlags fl)
      ∧ (∀ e, r = .error e → exec i s = .next (s.raiseExc t e))
    (Issues 8 0x00 rsvRand t w s → exec (.rsetctx t w) s = .next (wentOn s t
      (x.setRctx (opFin4 w 46) (x.getS (opFin5 w 41), (x.getS (opFin5 w 36)).extractLsb' 0 32)) 1))
    ∧ (Issues 8 0x01 rsvRand t w s → ∀ d c n, x.walk (opFin6 w 30) = .ok d → x.cursorSpan (opFin6 w 30) d = .ok (c, n) →
      exec (.runif t w) s = .next (wentOn s t ((x.setV (opFin5 w 19) (Vector.ofFn fun i =>
        if i.val < n then ((d.d.locate (c + i)).map fun p => rngLane (x.draw (opFin4 w 46) p.2)).getD 0 else 0)).advance (opFin6 w 30) n) 1))
    ∧ (Issues 8 0x01 rsvRand t w s → ∀ e, randUniform x w = .error e → exec (.runif t w) s = .next (s.raiseExc t e))
    ∧ (Issues 8 0x02 rsvRand t w s → padOnly (.drop t w) (dropOut x w))
    ∧ (Issues 8 0x03 rsvRand t w s → padOnly (.init t w) (randInit x w))
    ∧ (Issues 8 0x04 rsvRand t w s → padOnly (.sample t w) (sample x w))

/-! ## Tiles: fences, counters, transfers, collectives and what completes them (03 R98 to R108) -/

/-- FWAIT on fence f: IDLE goes on; ARMED waits; DONE becomes IDLE and goes on; FAILED raises the fence's exception. -/
def Sys2Proof.Claims.FenceWaitTable : Prop :=
  ∀ (s : State) (t : Fin 160) (w : Operand), Issues 9 0x00 rsvSync t w s →
    let x := s.tiles[t]
    let f := opFin6 w 44
    (x.sync.fences[f] = .idle → exec (.fwait t w) s = .next (wentOn s t x 1))
    ∧ (x.sync.fences[f] = .armed → exec (.fwait t w) s = .next (s.setTile t (x.setStatus .blocked)))
    ∧ (x.sync.fences[f] = .done → exec (.fwait t w) s = .next (wentOn s t (x.setFence f .idle) 1))
    ∧ (∀ e, x.sync.fences[f] = .failed e → exec (.fwait t w) s = .next (s.raiseExc t e))

/-- CWAIT goes on when (CT − v) mod 2^32 is below 2^31 and else waits; CSET and CADD write CT; CSIGNAL to a tile of its
command leaves the signal outstanding and, to another module, sends it; to any other place it raises ADDRESS_FAULT. -/
def Sys2Proof.Claims.CounterInstructions : Prop :=
  ∀ (s : State) (t : Fin 160) (w : Operand),
    let x := s.tiles[t]
    let ct := opFin5 w 39
    let v := if opBit w 33 then opImm w else (x.getS (opFin5 w 34)).extractLsb' 0 32
    let l := x.getS (opFin5 w 34)
    (Issues 9 0x02 rsvSync t w s →
      ((x.sync.counters[ct] - v).toNat < 2 ^ 31 → exec (.cwait t w) s = .next (wentOn s t x 1))
      ∧ (2 ^ 31 ≤ (x.sync.counters[ct] - v).toNat → exec (.cwait t w) s = .next (s.setTile t (x.setStatus .blocked))))
    ∧ (Issues 9 0x03 rsvSync t w s → exec (.cset t w) s = .next (wentOn s t (x.setCounter ct v) 1))
    ∧ (Issues 9 0x04 rsvSync t w s → exec (.cadd t w) s = .next (wentOn s t (x.setCounter ct (x.sync.counters[ct] + v)) 1))
    ∧ (Issues 9 0x05 rsvSync t w s →
      let sent := wentOn s t (x.addAsync (csignalOp w x)) 1
      (locOk (s.tileCtx t x) l = true → locRank l = s.dom.rank → exec (.csignal t w) s = .next sent)
      ∧ (locOk (s.tileCtx t x) l = true → locRank l ≠ s.dom.rank →
        exec (.csignal t w) s = .next (sent.send ⟨locRank l, .csignal, [l.toNat, opBits w 39 5, (opImm w).toNat], []⟩))
      ∧ (locOk (s.tileCtx t x) l = false → exec (.csignal t w) s = .next (s.raiseExc t (excAddress l.toNat))))

/-- The operands of a transfer that its rules accept: two valid walks, the destination writable and large enough, for ATOMADD
FP32 elements, and for a pad transfer a locator of the same command (03 R89, R98, R100). -/
def TransferOk (kind : AsyncKind) (s : State) (t : Fin 160) (w : Operand) (dp dm : Walk) : Prop :=
  let x := s.tiles[t]
  x.walk (dmaDp w) = .ok dp ∧ x.walkDm dp (dmaDm w) = .ok dm
    ∧ (if kind = .get ∨ kind = .padget then dmaShape dm dp else dmaShape dp dm) = .ok ()
    ∧ (kind = .atomadd → dp.d.fmtCode = 0) ∧ dmaLocator kind (s.tileCtx t x) dm (x.getS (opFin5 w 33)) = .ok ()

/-- GET, PUT, PADGET, PADPUT and ATOMADD on valid operands: on an IDLE or DONE fence they arm it, leave the transfer
outstanding with what it captured, and go on (a pad transfer to another module sends a message beside it); on an ARMED fence
they raise FENCE_BUSY, on a FAILED one its exception. No byte of any memory changes at issue. -/
def Sys2Proof.Claims.TransfersIssue : Prop :=
  ∀ (s : State) (t : Fin 160) (w : Operand) (dp dm : Walk),
    let x := s.tiles[t]
    let f := dmaFence w
    let issued := fun (k : AsyncKind) => wentOn s t ((x.setFence f .armed).addAsync (dmaOp k w x)) 1
    let free := x.sync.fences[f] = .idle ∨ x.sync.fences[f] = .done
    let stops := fun (i : Instr) => (x.sync.fences[f] = .armed → exec i s = .next (s.raiseExc t (excFenceBusy f)))
      ∧ (∀ e, x.sync.fences[f] = .failed e → exec i s = .next (s.raiseExc t e))
    let away := locRank (x.getS (opFin5 w 33)) ≠ s.dom.rank
    (Issues 0xA 0x00 rsvDma t w s → TransferOk .get s t w dp dm → stops (.get t w) ∧ (free → exec (.get t w) s = .next (issued .get)))
    ∧ (Issues 0xA 0x01 rsvDma t w s → TransferOk .put s t w dp dm → stops (.put t w) ∧ (free → exec (.put t w) s = .next (issued .put)))
    ∧ (Issues 0xA 0x04 rsvDma t w s → TransferOk .atomadd s t w dp dm →
      stops (.atomadd t w) ∧ (free → exec (.atomadd t w) s = .next (issued .atomadd)))
    ∧ (Issues 0xA 0x02 rsvDma t w s → TransferOk .padget s t w dp dm → stops (.padget t w)
      ∧ (free → ¬away → exec (.padget t w) s = .next (issued .padget))
      ∧ (free → away → ∃ m, exec (.padget t w) s = .next ((issued .padget).send m)
        ∧ m.dst = locRank (x.getS (opFin5 w 33)) ∧ m.kind = .padgetRequest))
    ∧ (Issues 0xA 0x03 rsvDma t w s → TransferOk .padput s t w dp dm → stops (.padput t w)
      ∧ (free → ¬away → exec (.padput t w) s = .next (issued .padput))
      ∧ (free → away → ∀ cs, sourceCodes dp (fun e => padReadCode x.pad dp dp.d.base e) = .ok cs →
        ∃ m, exec (.padput t w) s = .next ((issued .padput).send m) ∧ m.dst = locRank (x.getS (opFin5 w 33)) ∧ m.kind = .padput))

/-- CPFX and the instruction after it: checked, they arm the fence, count the SEQ, open the instance with this member's
contribution, and leave both words behind. A check that fails raises its exception (a SEQ out of order is reported besides).
A drain that covers no aligned subtree ends the collective with ASSAY_ORDER (02 R64).
A false predicate on the fused instruction leaves both without effect (log entry 34). -/
def Sys2Proof.Claims.FusedCollectiveIssues : Prop :=
  ∀ (s : State) (t : Fin 160) (w : Operand) (inner : DWord), Issues 0xB 0x00 rsvCpfx t w s →
    let x := s.tiles[t]
    let m := s.cpfxGroup t x w
    x.ctl.istore[x.ctl.pc + 1]? = some inner →
    (x.enabled (operandOf inner) = false → exec (.cpfx t w) s = .next (wentOn s t x 2))
    ∧ (x.enabled (operandOf inner) = true →
      (∀ e, cpfxCheck x w m = .error e → e.code ≠ 0x08 → exec (.cpfx t w) s = .next (s.raiseExc t e))
      ∧ (∀ i k c cmd, cpfxCheck x w m = .ok (i, inner, k, c) → x.ctl.cmd.bind s.cmdAt = some cmd →
        let went := wentOn s t (cpfxTile x w inner k) 2
        ∃ j : CollInst, (cpfxMisplaced x w i inner = none → exec (.cpfx t w) s = .next (went.issueInst j))
          ∧ (∀ e, cpfxMisplaced x w i inner = some e → s.coll.earlyFail = [] → exec (.cpfx t w) s
            = .next ((went.setColl { s.coll with early := s.coll.early.filter (·.1 != j.key) }).detectFail j e))
          ∧ j.key = ⟨cmd.ref, cxGroup w, k.lane, cxSeq w⟩ ∧ j.tile = t.val ∧ j.fence = (cxFence w).val ∧ j.members = k.members
          ∧ j.index = k.index ∧ j.fmt = c.fmt ∧ j.rows = c.rows ∧ j.rowLen = c.rowLen ∧ j.own.data = c.data ∧ j.parts = []))

/-- A transfer of this module that has moved its data leaves the tile with its fence DONE, and adds 1 to the counter it names;
one that faults leaves memory and pads as they were and its fence FAILED. An arrival is added to its counter. -/
def Sys2Proof.Claims.TransfersAndSignalsComplete : Prop :=
  ∀ (s : State) (t : Fin 160) (f : Fin 64) (a : AsyncOp) (c : Cmd),
    s.tiles[t].opOn f false = some a → s.tiles[t].ctl.cmd.bind s.cmdAt = some c → s.stackWaits c.tenant a = false →
    (a.tvaRange.any fun (lo, n) => s.gradForbidden c a lo n) = false →
    (a.kind = .padget ∨ a.kind = .padput → locRank a.loc = s.dom.rank) →
    let steps := fun (s : State) => s.progressed 2 (srcEngine (t.val / 40))
    let lands := fun (s' : State) => (((s'.gradPut t c a).modTile t fun y => y.landed a f .done).touched t c.tenant a)
    (∀ s', s.transfer t c.ref c.tenant a = .ok s' →
      (a.ct = none → exec (.dmaTransferDone t f) s = .next (steps (lands s')))
      ∧ (∀ k, a.ct = some k → exec (.dmaTransferDone t f) s
        = .next (steps ((lands s').addCounter (if a.kind = .padput then locTile a.loc else t) k 1))))
    ∧ (∀ e, s.transfer t c.ref c.tenant a = .error (.fault e) →
      exec (.dmaTransferDone t f) s = .next (steps (s.modTile t fun y => y.landed a f (.failed e))))

/-- A CSIGNAL's increment: the oldest one outstanding at the lowest tile that has it is complete, and a tile of this module
that it names adds the amount to its counter, modulo 2^32. -/
def Sys2Proof.Claims.CounterArrivalAdds : Prop :=
  ∀ (s : State) (l : DWord) (ct : Fin 32) (v : Word) (i : Fin 160) (a : AsyncOp) (rest : List AsyncOp),
    a.kind = .csignal → a.loc = l → a.ct = some ct.val → a.amount = v → s.tiles[i].sync.outstanding = a :: rest →
    (∀ j < i, s.tiles[j].sync.outstanding = []) →
    let s' := s.setTile i (s.tiles[i].setOutstanding rest)
    (locRank l = s.dom.rank → exec (.counterArrival l ct v) s = .next (s'.modTile (Fin.ofNat 160 (locTile l))
      fun x => x.setCounter ct (x.sync.counters[ct] + v)))
    ∧ (locRank l ≠ s.dom.rank → exec (.counterArrival l ct v) s = .next s')

/-- COLLECTIVE_DONE lands the reduced values through the fused instruction, with the fence DONE; nothing lands while a
contribution is missing; SEGMENT_OVERRUN raises SEGMENT_TIMEOUT past the limit and not before; PREEMPTION puts a command all
of whose tiles yield back to its start. -/
def Sys2Proof.Claims.CollectiveSegmentAndPreemption : Prop :=
  (∀ (s : State) (t : Fin 160) (f : Fin 64) (a : AsyncOp) (i : CollInst), s.tiles[t].opOn f true = some a →
    (s.coll.insts.find? fun i => i.tile == t.val && i.fence == f.val) = some i →
    (i.result = none → exec (.collectiveDone t f) s = .next s)
    ∧ (∀ e, i.result = some (.error e) → exec (.collectiveDone t f) s = .next (s.detectFail i e))
    ∧ (∀ vals, i.result = some (.ok vals) →
      exec (.collectiveDone t f) s = .next ((s.landCollective t a f i vals).progressed 2 (srcEngine (t.val / 40)))
      ∧ ∀ y, s.tiles[t].landFused a i vals = .ok y → ∃ z : Tile, (s.landCollective t a f i vals).tiles[t] = z
        ∧ z.pad = y.pad ∧ z.regs = y.regs ∧ z.sync.fences = y.sync.fences.set f .done))
  ∧ (∀ (s : State) (t : Fin 160), (s.tiles[t].ctl.status = .running ∨ s.tiles[t].ctl.status = .blocked) →
    (s.regs.segLimitUs * 1000 < s.segElapsed t →
      exec (.segmentOverrun t) s = .next (s.raiseExc t ⟨0x0B, s.tiles[t].ctl.segStart⟩))
    ∧ (s.segElapsed t ≤ s.regs.segLimitUs * 1000 → exec (.segmentOverrun t) s = .next s))
  ∧ (∀ (s : State) (c : CmdRef) (k : Cmd), s.cmdAt c = some k → k.preempt = true → k.running = true →
    (k.opcode = 0x402 → ∀ l, s.learnAt k.tenant k.learnModel = some l → l.phase ≠ .updating) →
    ((s.localTiles c).all fun i => s.tiles[i].yields) = true →
    let s' := ((s.withdrawUpdate k).rerun k true).modCmd c fun x => { x with exempt := true, preempt := false }
    exec (.preemption c) s = .next (s'.emitCommand k.ref.fn (s'.homeDie c) 0x0003 c.sq k.hdrSeq.toNat
      (k.runUs.1 + k.runUs.2.1 + k.runUs.2.2)))

/-! ## Tiles: what holds of every instruction -/

/-- S0, P0 and LM0 read 0, 1 and all ones, whatever was written; a write of any other register is read back, and no other
register changes by it. -/
def Obligations.HardwiredTileRegisters : Prop :=
  ∀ (x : Tile),
    (x.getS 0 = 0 ∧ x.getP 0 = true ∧ x.getLM 0 = BitVec.allOnes 512)
    ∧ (∀ v, x.setS 0 v = x) ∧ (∀ b, x.setP 0 b = x) ∧ (∀ m, x.setLM 0 m = x)
    ∧ (∀ i j v, i ≠ 0 → (x.setS i v).getS j = if j = i then v else x.getS j)
    ∧ (∀ i j b, i ≠ 0 → (x.setP i b).getP j = if j = i then b else x.getP j)
    ∧ (∀ i j m, i ≠ 0 → (x.setLM i m).getLM j = if j = i then m else x.getLM j)

/-- An instruction whose predicate is false has no effect but to be passed over, reserved fields and operands unseen. -/
def Sys2Proof.Claims.FalsePredicatePassesOver : Prop :=
  ∀ (cls op : Nat) (rsv : List (Nat × Nat)) (body : TileCtx → Tile → TileRes) (after : Tile → State → State) (s : State)
    (t : Fin 160) (w : Operand), cls < 16 → op < 64 →
    (s.tiles[t].ctl.status = .running ∨ s.tiles[t].ctl.status = .blocked) →
    s.tiles[t].ctl.istore[s.tiles[t].ctl.pc]? = some (wordOf cls op w) → s.tiles[t].enabled w = false →
    issueThen cls op rsv body after t w s = wentOn s t s.tiles[t] (if cls = 0xB ∧ op = 0 then 2 else 1)

/-- An instruction that is let by its predicate and has a reserved field that is not zero raises ILLEGAL_INSTRUCTION with the
word as DETAIL; so does a word of a reserved class or opcode, whatever instruction the event names; an event at a tile that
is neither running nor blocked has no effect. -/
def Sys2Proof.Claims.IllegalWordsRaise : Prop :=
  ∀ (cls op : Nat) (rsv : List (Nat × Nat)) (body : TileCtx → Tile → TileRes) (after : Tile → State → State) (s : State)
    (t : Fin 160) (w : Operand),
    let x := s.tiles[t]
    let live := x.ctl.status = .running ∨ x.ctl.status = .blocked
    (live → cls < 16 → op < 64 → validOp cls op = true → x.ctl.istore[x.ctl.pc]? = some (wordOf cls op w) → x.enabled w = true →
      rsvClear rsv w = false → issueThen cls op rsv body after t w s = s.raiseExc t ⟨0x01, (wordOf cls op w).toNat⟩)
    ∧ (∀ word, live → x.ctl.istore[x.ctl.pc]? = some word → x.enabled (operandOf word) = true →
      validOp (classOf word) (opcodeOf word) = false → issueThen cls op rsv body after t w s = s.raiseExc t ⟨0x01, word.toNat⟩)
    ∧ (¬live → issueThen cls op rsv body after t w s = s)

/-- An exception of a tile that runs no command stops that tile and nothing else. One of a command's tile sends the tenant
the 32-byte record (code, tile, rank, class, segment, pc, flags, DETAIL, time) and records it with the command before the
command fails. -/
def Obligations.ExceptionsRecordAndStop : Prop :=
  ∀ (s : State) (t : Fin 160) (e : Exc),
    let x := s.tiles[t]
    (x.ctl.cmd.bind s.cmdAt = none → s.raiseExc t e = s.setTile t (x.setStatus .stopped))
    ∧ (∀ c, x.ctl.cmd.bind s.cmdAt = some c →
      let s1 := s.emit (tenantFn c.tenant) (0x1000 + t.val / 40) 0x08 (fields [(2, e.code), (2, t.val), (1, s.dom.rank),
        (1, ((x.ctl.istore[x.ctl.pc]?).elim 0 classOf) % 16), (2, x.ctl.segCount), (4, x.ctl.pc), (4, x.regs.flags.toNat), (8, e.detail), (8, s.dom.time)])
      let s2 := s1.modCmd c.ref fun k => { k with
        records := k.records ++ [⟨s.dom.rank, t, x.ctl.pc, e⟩], flagSum := k.flagSum ||| x.regs.flags }
      s.raiseExc t e = (s2.setTile t (x.setStatus .stopped)).failCmd ((s2.cmdAt c.ref).getD c) e.code
        (x.ctl.pc % 2 ^ 32 + t.val % 256 * 2 ^ 32 + s.dom.rank % 64 * 2 ^ 40) 0x100)

/-! ## Queues and commands in flight (12) -/

/-- A row of a command acts only on a command of its opcode, in flight, started before or eligible now, at its turn: any other
event of the row changes nothing. A command without a QUEUE paced bound whose DEADLINE has passed before its start completes
with DEADLINE_MISSED. -/
def Obligations.CommandsActAtTheirTurn : Prop :=
  ∀ (op : Nat) (c : CmdRef) (body : State → Cmd → CmdRes) (s : State),
    (s.cmdAt c = none → runCommand op c body s = s)
    ∧ (∀ k, s.cmdAt c = some k →
      (k.opcode ≠ op → runCommand op c body s = s)
      ∧ (k.phase = .voting ∨ k.phase = .deciding ∨ k.phase = .done → runCommand op c body s = s)
      ∧ (s.myTurn c = false → s.missed k = false → runCommand op c body s = s)
      ∧ (k.phase = .fetched → s.eligible k = false → s.missed k = false → runCommand op c body s = s)
      ∧ (k.phase = .fetched → k.opcode = op → s.missed k = true → runCommand op c body s = s.finish c 0x15 0 0))

/-- NOP, SQ_CREATE, CQ_CREATE, SQ_DESTROY and CQ_DESTROY: accepted, each has its effect on the queues alone and is voted OK;
refused, it completes with the status and has none. -/
def Sys2Proof.Claims.QueueCommands : Prop :=
  ∀ (c : CmdRef) (k : Cmd) (s s0 : State),
    let fn := k.ref.fn.val
    let refuse := fun (i : Instr) (st : Nat) => exec i s = .next (s0.finish c st 0 0)
    (Acts 0 c k s s0 → exec (.nopCommand c) s = .next (s0.vote c 0 0 []))
    ∧ (Acts 1 c k s s0 →
      let bad := slotOf (s0.pewterFn fn) (k.u 8 1) = none ∨ queueLimit fn ≤ k.u 0 2 ∨ (s0.sqAt fn (k.u 0 2)).isSome ∨ s0.cqAt fn (k.u 2 2) = none
        ∨ ¬(2 ≤ k.u 4 4 ∧ k.u 4 4 ≤ 65536) ∨ ¬(k.u 0x10 8 % 4096 = 0 ∧ k.u 0x10 8 < 2 ^ 56) ∨ (bit (k.u 9 1) 0 = true ∧ s0.pewterFn fn = true)
      (bad → refuse (.sqCreate c) 0x02)
      ∧ (¬bad → s0.newSqId fn = none → refuse (.sqCreate c) 0x18)
      ∧ (¬bad → ∀ slot id, slotOf (s0.pewterFn fn) (k.u 8 1) = some slot → s0.newSqId fn = some id → exec (.sqCreate c) s
        = .next ((s0.addSq (newSq fn (k.u 0 2) id (k.u 4 4) slot (bit (k.u 9 1) 0) (k.u 2 2) (k.u 0x10 8))).vote c id 0 [])))
    ∧ (Acts 3 c k s s0 →
      let bad := queueLimit fn ≤ k.u 0 2 ∨ (s0.cqAt fn (k.u 0 2)).isSome ∨ ¬(2 ≤ k.u 4 4 ∧ k.u 4 4 ≤ 65536)
        ∨ ¬(k.u 0x10 8 % 4096 = 0 ∧ k.u 0x10 8 < 2 ^ 56) ∨ ¬(k.u 2 2 = 0xFFFF ∨ k.u 2 2 < vectorLimit fn)
      (bad → refuse (.cqCreate c) 0x02)
      ∧ (¬bad → s0.newCqId fn = none → refuse (.cqCreate c) 0x18)
      ∧ (¬bad → ∀ id, s0.newCqId fn = some id → exec (.cqCreate c) s
        = .next ((s0.addCq (newCq fn (k.u 0 2) id (k.u 4 4) (k.u 2 2) (k.u 8 2) (k.u 0xA 2) (k.u 0x10 8))).vote c id 0 [])))
    ∧ (Acts 2 c k s s0 →
      (s0.sqAt fn (k.u 0 2) = none ∨ k.u 0 2 = c.sq → k.ref = c → refuse (.sqDestroy c) 0x02)
      ∧ ((s0.sqAt fn (k.u 0 2)).isSome → k.u 0 2 ≠ c.sq → k.ref = c →
        let s1 := (s0.modSq fn (k.u 0 2) fun q => { q with closing := true }).endWaiting fn (k.u 0 2)
        ((s1.cmd.cmds.any fun x => x.ref.fn.val == fn && x.ref.sq == k.u 0 2) = true → exec (.sqDestroy c) s = .next s1)
        ∧ ((s1.cmd.cmds.any fun x => x.ref.fn.val == fn && x.ref.sq == k.u 0 2) = false → exec (.sqDestroy c) s
          = .next ((s1.setCmd { s1.cmd with sqs := s1.cmd.sqs.filter fun q => !(q.fn == fn && q.idx == k.u 0 2) }).vote c 0 0 []))))
    ∧ (Acts 4 c k s s0 →
      (s0.cqAt fn (k.u 0 2) = none → refuse (.cqDestroy c) 0x02)
      ∧ ((s0.cqAt fn (k.u 0 2)).isSome → (s0.cmd.sqs.any fun q => q.fn == fn && q.cq == k.u 0 2) = true → refuse (.cqDestroy c) 0x601)
      ∧ ((s0.cqAt fn (k.u 0 2)).isSome → (s0.cmd.sqs.any fun q => q.fn == fn && q.cq == k.u 0 2) = false → exec (.cqDestroy c) s
        = .next ((s0.setCmd { s0.cmd with cqs := s0.cmd.cqs.filter fun q => !(q.fn == fn && q.idx == k.u 0 2) }).vote c 0 0 [])))

/-- Doorbells: a tail that adds no more entries than the ring holds becomes the queue's tail; a head that returns no more
slots than were written returns them, and replies that waited for room are posted; any other value, and a queue that does not
exist, emits DOORBELL_INVALID with the value and changes no queue. Doorbells of a closed page change nothing. -/
def Sys2Proof.Claims.Doorbells : Prop :=
  ∀ (s : State) (f : Fin 513) (idx : Nat) (v : Word),
    (s.doorbellOpen f = false → exec (.sqTailDoorbell f idx v) s = .next s ∧ exec (.cqHeadDoorbell f idx v) s = .next s)
    ∧ (s.doorbellOpen f = true →
      (s.sqAt f idx = none → exec (.sqTailDoorbell f idx v) s = .next (s.emitCommand f 0 0x0001 idx 0 v.toNat))
      ∧ (∀ q, s.sqAt f idx = some q → q.closing = false →
        let added := (v.toNat + q.depth - q.tail) % q.depth
        let waiting := (q.tail + q.depth - q.fetchPos) % q.depth
        (v.toNat < q.depth → added + waiting ≤ q.depth - 1 →
          exec (.sqTailDoorbell f idx v) s = .next (s.modSq f idx fun q => { q with tail := v.toNat }))
        ∧ (q.depth ≤ v.toNat ∨ q.depth - 1 < added + waiting →
          exec (.sqTailDoorbell f idx v) s = .next (s.emitCommand f (q.id % 4) 0x0001 idx 0 v.toNat)))
      ∧ (s.cqAt f idx = none → exec (.cqHeadDoorbell f idx v) s = .next (s.emitCommand f 0 0x0001 idx 0 v.toNat))
      ∧ (∀ q, s.cqAt f idx = some q →
        let n := (v.toNat + q.depth - q.head) % q.depth
        (v.toNat < q.depth → n ≤ q.written - q.returned → exec (.cqHeadDoorbell f idx v) s
          = .next ((s.modCq f idx fun q => { q with head := v.toNat, returned := q.returned + n, faulted := false }).settleCq f idx))
        ∧ (q.depth ≤ v.toNat ∨ q.written - q.returned < n →
          exec (.cqHeadDoorbell f idx v) s = .next (s.emitCommand f (q.id % 4) 0x0001 idx 0 v.toNat))))

/-- CMD_FETCH takes the entry at the head of the queue that arbitration chooses: with a header that is valid it joins the
commands in flight or is refused at once, with one that is not it completes with HEADER_INVALID; the queue's place advances by
one entry and its next SEQ by one. A ring that does not translate faults the queue. With nothing pending it changes nothing. -/
def Sys2Proof.Claims.FetchTakesOneEntry : Prop :=
  ∀ (s : State) (die : Fin 4) (data : List Byte),
    (s.flt.resets.any fun r => r.level == .module || (r.level == .die && r.unit == die.val)) = false →
    (s.fetchChoice die = none → exec (.cmdFetch die data) s = .next s)
    ∧ (∀ q, s.fetchChoice die = some q →
      let s1 := s.setCmd { s.cmd with fetchLast := s.cmd.fetchLast.set die (q.id / 4) }
      let a := q.ring + q.slotBytes * q.fetchPos
      let b := padTo q.slotBytes data
      let h := if s.pewterFn q.fn then pewterHeader q.slotBytes s.dom.time b else nativeHeader q.slotBytes b
      let c := fetchedCmd (Fin.ofNat 513 q.fn) q (q.expSeq.getD h.seq) h ((b.drop h.size).take h.plen) s.dom.rank s.dom.time
      let s2 := s1.modSq q.fn q.idx fun x => { x with
        fetchPos := (x.fetchPos + 1) % x.depth, expSeq := some (q.expSeq.getD h.seq + 1), firstSeq := some (x.firstSeq.getD (q.expSeq.getD h.seq)) }
      (s.translates q.fn a q.slotBytes = false → exec (.cmdFetch die data) s = .next
        ((s1.modSq q.fn q.idx fun x => { x with faulted := true }).emitHost (Fin.ofNat 513 q.fn) 0x0907 q.idx a 0))
      ∧ (s.translates q.fn a q.slotBytes = true → s.headerOk q h = true → exec (.cmdFetch die data) s
        = .next (((s2.admitCmd q c).settleQueue c.ref).syncStride))
      ∧ (s.translates q.fn a q.slotBytes = true → s.headerOk q h = false → exec (.cmdFetch die data) s
        = .next (((s2.setCmds (s2.cmd.cmds ++ [{ c with phase := .done, status := 0x10, dupOf := none }])).settleQueue c.ref).syncStride)))

/-- DEADLINE_MISSED, STRIDE_CHARGE, CMD_SLICE_EXPIRY and CQ_COALESCE_TIMEOUT. A charge of u µs of an engine class adds
2^32 ÷ share × u to the tenant's pass, u to its accounting counter of the class and u to the command. -/
def Obligations.ChargesDeadlinesAndCoalescing : Prop :=
  (∀ (s : State) (c : CmdRef) (k : Cmd), s.cmdAt c = some k →
    (k.phase = .fetched → s.missed k = true → exec (.deadlineMissed c) s = .next (s.finish c 0x15 0 0))
    ∧ (k.phase ≠ .fetched ∨ s.missed k = false → exec (.deadlineMissed c) s = .next s))
  ∧ (∀ (s : State) (c : CmdRef) (k : Cmd) (cls : Fin 3) (u : Nat), s.cmdAt c = some k →
    let j := strideClassOf cls
    let p := s.cmd.stride
    let s1 := s.setCmd { s.cmd with stride := { p with
      pass := tset p.pass (k.tenant, j) (tgetD p.pass (k.tenant, j) 0 + 2 ^ 32 / max ((s.tntOf k.tenant).share j) 1 * u) } }
    let s2 := s1.modTnt k.tenant fun x => if cls = 0 then { x with acctTensor := x.acctTensor + u }
      else if cls = 1 then { x with acctVector := x.acctVector + u } else { x with acctDma := x.acctDma + u }
    let s3 := s2.modCmd c fun k => { k with
      engineUs := k.engineUs + u
      runUs := if cls = 0 then (k.runUs.1 + u, k.runUs.2) else if cls = 1 then (k.runUs.1, k.runUs.2.1 + u, k.runUs.2.2)
        else (k.runUs.1, k.runUs.2.1, k.runUs.2.2 + u) }
    exec (.strideCharge c cls u) s = .next s3.syncStride)
  ∧ (∀ (s : State) (c v : CmdRef) (k w : Cmd), s.cmdAt c = some k → s.cmdAt v = some w → s.preemptable k = true →
    w.phase = .fetched → s.eligible w = true → tileOpcode w.opcode = true →
    s.assignTiles v [s.dom.rank] (if w.opcode = 0x500 then w.u 0xA 2 else 160) = none →
    w.tenant ≠ k.tenant → s.scheduled w = true → k.exempt = false →
    (k.startedAt + k.sliceMs * 1000000 < s.dom.time → exec (.cmdSliceExpiry c v) s = .next (s.modCmd c fun k => { k with preempt := true }))
    ∧ (s.dom.time ≤ k.startedAt + k.sliceMs * 1000000 → (s.sqAt v.fn v.sq).any (·.paced) = false → exec (.cmdSliceExpiry c v) s = .next s))
  ∧ (∀ (s : State) (f : Fin 513) (i : Nat) (q : Cq), s.cqAt f i = some q → q.unsignalled ≠ 0 →
    (q.firstAt + q.coalUs * 1000 ≤ s.dom.time →
      exec (.cqCoalesceTimeout f i) s = .next ((s.modCq f i fun q => { q with unsignalled := 0 }).interrupt f q.vector))
    ∧ (s.dom.time < q.firstAt + q.coalUs * 1000 → exec (.cqCoalesceTimeout f i) s = .next s))

/-- A settled command at the head of its queue posts its reply: 32 bytes of SEQ, status (a Pewter function's in the Pewter
code), flags with the ring's phase bit, DETAIL, device time, engine µs and queue, at the CQ's next place; the place counts as
written, the queue has posted the SEQ, and the command leaves the device. With no room or no translation nothing is posted. -/
def Sys2Proof.Claims.ReplyWritten : Prop :=
  ∀ (s : State) (c : Cmd) (q : Sq) (cq : Cq), s.cqAt q.fn q.cq = some cq → c.dupOf = none → c.runs ≠ 0 →
    let place := cq.ring + 32 * (cq.written % cq.depth)
    let st := if s.pewterFn q.fn then pewterStatus c.status else c.status
    let phase := if cq.written / cq.depth % 2 = 0 then 0x8000 else 0
    (cq.faulted = true → s.post c q = (none, s))
    ∧ (cq.faulted = false → s.translates q.fn place 32 = true → ∃ s', (s.post c q).1 = some s'
      ∧ s'.host.writes = ⟨q.fn, place, fields [(4, c.hdrSeq.toNat), (2, st), (2, s.replyFlags c ||| phase), (8, c.detail.toNat),
          (8, s.dom.time), (4, min c.engineUs 0xFFFFFFFF), (2, q.idx), (2, if s.pewterFn q.fn then c.status else 0)]⟩ :: s.host.writes
      ∧ s'.cmd.cmds = s.cmd.cmds.filter (·.ref != c.ref)
      ∧ s'.cmd.cqs = updFirst (fun x => x.fn == q.fn && x.idx == q.cq) (fun x => { x with
          written := x.written + 1, reserved := x.reserved - 1
          unsignalled := if max 1 cq.coalCount ≤ cq.unsignalled + 1 ∨ bit c.flags 1 then 0 else cq.unsignalled + 1
          firstAt := if x.unsignalled = 0 then s.dom.time else x.firstAt }) s.cmd.cqs
      ∧ s'.tiles = s.tiles ∧ s'.mem = s.mem)

/-- Votes: the failing vote of a module that takes part decides at once; a vote that asks for a re-run puts the command back to
its start; the last good one decides. COMMIT on another module swaps its staging in, drops its part and acknowledges; ABORT
drops the part; the interpreter counts an acknowledgement once. -/
def Sys2Proof.Claims.VotesAndCommit : Prop :=
  ∀ (s : State) (c : CmdRef) (k : Cmd), s.cmdAt c = some k →
    (k.home = s.dom.rank → k.running = true → ∀ (r : Fin 64) (d f : Nat) (cs : List (Nat × Nat)),
      (exec (.vote c r voteRerun d f cs) s = .next (s.rerun k true))
      ∧ (∀ st, st ≠ 0 → st ≠ voteRerun → (∀ j ∈ s.turn.freezes, j.cmd ≠ c) → exec (.vote c r st d f cs) s = .next (s.failCmd k st d f))
      ∧ (r.val ∈ s.ranks k →
        let s1 := s.modCmd c fun k => { k with
          phase := if (s.ranks k).contains s.dom.rank then k.phase else .voting
          flagSum := k.flagSum ||| BitVec.ofNat 32 (f % 32)
          votes := k.votes.filter (·.rank != r.val) ++ [⟨r, 0, 0, cs⟩] }
        exec (.vote c r 0 d f cs) s = .next (((s1.settleQueue c).afterCommit k).spareBoundary))
      ∧ (r.val ∉ s.ranks k → exec (.vote c r 0 d f cs) s = .next s))
    ∧ (k.home ≠ s.dom.rank → k.phase = .voting →
      let s1 := ((((s.commitStaging c).commitLearn k).commitLoad k).dropPart c).afterCommit k
      exec (.commit c) s = .next (s1.sendTo k.home .commitAck (refArgs c ++ [s1.dom.rank])))
    ∧ (k.home ≠ s.dom.rank → exec (.abort c) s = .next (s.dropPart c))
    ∧ (k.home = s.dom.rank → exec (.abort c) s = .next s)
    ∧ (k.phase = .deciding → k.home = s.dom.rank → ∀ r : Fin 64,
      (r.val ∉ k.acks → exec (.commitAck c r) s = .next ((s.modCmd c fun k => { k with acks := k.acks ++ [r.val] }).settleQueue c))
      ∧ (r.val ∈ k.acks → exec (.commitAck c r) s = .next s))

/-- APPLY on a module whose tenant has no set of its own waiting here takes the fields at its epoch and answers APPLIED; an
epoch already in force changes no field. APPLIED at the coordinator counts a member once for the phase in progress. -/
def Sys2Proof.Claims.ConfigurationBarrier : Prop :=
  ∀ (s : State) (t : Fin 512) (e : Nat),
    (∀ fs, (∀ x ∈ s.cmd.staged, ¬(x.1 = t.val ∧ x.2.1 = e)) → (∀ j ∈ s.cmd.configJobs, j.tenant ≠ t.val) → s.dom.epoch < e →
      exec (.apply t e fs) s = .next (((((s.applyFields t e fs).setDom { s.dom with epoch := e }).sendTo s.dom.coord .applied
        [t.val, e, s.dom.rank])).spareBoundary))
    ∧ (∀ fs, (∀ x ∈ s.cmd.staged, ¬(x.1 = t.val ∧ x.2.1 = e)) → e ≤ s.dom.epoch → exec (.apply t e fs) s = .next s.spareBoundary)
    ∧ (∀ j rest (r : Fin 64), s.cmd.configJobs = j :: rest →
      (j.tenant = t.val → e = s.dom.epoch + 1 → r.val ∉ j.applied → s.dom.members.getLsbD r = true →
        exec (.applied t e r) s = .next ((s.modJob j.cmd fun x => { x with applied := r.val :: x.applied }).pump j.cmd))
      ∧ (j.tenant ≠ t.val ∨ e ≠ s.dom.epoch + 1 ∨ r.val ∈ j.applied → exec (.applied t e r) s = .next s))

/-! ## General, administration and diagnostic commands (12 R366, R367, R377 to R380, R387; 13 R394, R405, R409; 14 R420,
R432, R434, R439) -/

/-- DIAG_ECHO, RND_FILL, ACCOUNT_READ and CONFIG_GET write exactly the bytes that their rules give at OUT, through staging (an
administrator's CONFIG_GET to host memory), and are voted OK; OUT where nothing can be written fails the command. -/
def Sys2Proof.Claims.ReadingCommandsWriteOut : Prop :=
  ∀ (c : CmdRef) (k : Cmd) (s s0 : State),
    let u64 := fun (o : Nat) => field o 8 k.params
    let writes := fun (i : Instr) (a : Nat) (bs : List Byte) =>
      (∀ s', s0.output k a bs = .ok s' → exec i s = .next (s'.vote c 0 0 []))
      ∧ (∀ e, s0.output k a bs = .error (.fault e) → exec i s = .next (s0.finish c e.code e.detail 0))
    (Acts 0xF00 c k s s0 → writes (.diagEcho c) (u64 0) (k.params.drop 8))
    ∧ (Acts 0x700 c k s s0 →
      (1 ≤ u64 0x18 → u64 0x18 ≤ 2 ^ 24 → u64 0x20 % 8 = 0 → writes (.rndFill c) (u64 0x20)
        ((List.range (u64 0x18)).flatMap fun i => leBytes 8
          (rngWord (BitVec.ofNat 64 (u64 0)) (BitVec.ofNat 32 (field 8 4 k.params)) (BitVec.ofNat 64 (u64 0x10 + i))).toNat))
      ∧ (u64 0x18 = 0 ∨ 2 ^ 24 < u64 0x18 ∨ u64 0x20 % 8 ≠ 0 → exec (.rndFill c) s = .next (s0.finish c 0x02 0 0)))
    ∧ (Acts 7 c k s s0 →
      let r := s0.tntOf k.tenant
      writes (.accountRead c) (u64 0) (fields [(8, r.acctTensor), (8, r.acctVector), (8, r.acctDma), (8, r.acctLink / 25000),
        (8, r.acctReshard), (8, r.acctLost)]))
    ∧ (Acts 6 c k s s0 →
      (k.ref.fn.val ≠ 0 → writes (.configGet c) (u64 0) (s0.configRecords k.tenant (field 8 2 k.params) (field 0xA 2 k.params)))
      ∧ (k.ref.fn.val = 0 → s0.translates 0 (u64 0) 1 = true → exec (.configGet c) s = .next ((s0.hostWrite 0 (u64 0) []).vote c 0 0 [])))

/-- CONFIG_SET: 1 to 251 entries for a tenant that is enabled (a tenant's own function names 0xFFFF) begin a job with the
fields clamped and their phases; the job of a command that is in progress goes on; anything else is refused. -/
def Sys2Proof.Claims.ConfigurationSet : Prop :=
  ∀ (c : CmdRef) (k : Cmd) (s s0 : State), Acts 5 c k s s0 →
    let n := k.u 2 2
    let t := k.u 0 2
    ((s0.cmd.configJobs.any (·.cmd == k.ref)) = true → exec (.configSet c) s = .next (s0.pump k.ref))
    ∧ ((s0.cmd.configJobs.any (·.cmd == k.ref)) = false →
      (n = 0 ∨ 251 < n ∨ (k.ref.fn.val ≠ 0 ∧ t ≠ 0xFFFF) ∨ (k.ref.fn.val = 0 ∧ 511 < t) → exec (.configSet c) s = .next (s0.finish c 0x02 0 0))
      ∧ (1 ≤ n → n ≤ 251 → k.ref.fn.val = 0 → t ≤ 511 → (s0.tntOf t).enable = false → exec (.configSet c) s = .next (s0.finish c 0x19 0 0))
      ∧ (∀ target s', s0.configTarget k = .ok target → s0.outputAny k (k.u 8 8) (zeros 16) = .ok s' →
        let (fs, cl) := validate (s0.tntOf target).pewter (configEntries n k.params)
        let (fs', cl') := s0.splitClamp target fs
        exec (.configSet c) s = .next ((s0.setCmd { s0.cmd with configJobs := s0.cmd.configJobs
          ++ [⟨k.ref, target, k.u 8 8, fs'.map fun (f, v) => (f, v, s0.phaseOfField target f v), cl ++ cl', 0, [], [], 0, 0⟩] }).pump k.ref)))

/-- EVENT_RING replaces the function's ring by an empty one and lets the records that wait go on to it; DOMAIN_STATUS writes the
48-byte record and, asked to, begins a round; CAPTURE_READ writes the record's first bytes with its length in DETAIL. -/
def Sys2Proof.Claims.RingStatusAndCapture : Prop :=
  ∀ (c : CmdRef) (k : Cmd) (s s0 : State),
    (Acts 8 c k s s0 →
      let ok := k.u 0 8 % 4096 = 0 ∧ k.u 0 8 < 2 ^ 56 ∧ 64 ≤ k.u 8 4 ∧ k.u 8 4 ≤ 65536 ∧ k.u 8 4 = 2 ^ Nat.log2 (k.u 8 4)
        ∧ (k.u 0xC 2 = 0xFFFF ∨ k.u 0xC 2 < vectorLimit k.ref.fn)
      (ok → exec (.eventRing c) s = .next (((s0.modFn k.ref.fn fun x => { x with
        ring := some ⟨k.u 0 8, k.u 8 4, k.u 0xC 2, max 1 (k.u 0xE 2), 0, 0, 0, 0, 0, false⟩ }).flushEvents k.ref.fn).vote c 0 0 []))
      ∧ (¬ok → exec (.eventRing c) s = .next (s0.finish c 0x02 0 0)))
    ∧ (Acts 0x83 c k s s0 →
      let record := fields [(4, s0.domStat), (4, s0.dom.round), (8, s0.dom.members.toNat), (8, s0.dom.quarantined.toNat), (8, s0.dom.lost.toNat),
        (8, s0.dom.epoch), (8, signed64 s0.dom.timeOffset)]
      (1 < k.u 8 1 → exec (.domainStatus c) s = .next (s0.finish c 0x02 0 0))
      ∧ (∀ s', s0.outputAny k (k.u 0 8) record = .ok s' →
        (k.u 8 1 = 0 → exec (.domainStatus c) s = .next (s'.vote c 0 0 []))
        ∧ (k.u 8 1 = 1 → exec (.domainStatus c) s = .next ((s'.beginRound (s'.dom.round + 1)).vote c 0 0 []))))
    ∧ (Acts 0x81 c k s s0 →
      let found := s0.flt.captures.find? fun r => r.collected && (k.u 0 8 == 0 || r.id == k.u 0 8)
      (found = none → exec (.captureRead c) s = .next (s0.finish c 0x02 0 0))
      ∧ (∀ r s', found = some r → s0.outputAny k (k.u 8 8) (r.bytes.take (k.u 0x10 4)) = .ok s' →
        exec (.captureRead c) s = .next (s'.vote c r.bytesLen 0 [])))

/-- MEM_COPY of 1 to 2^40 bytes within the tenant's memory stages the destination; toward the host it first waits with the
bytes it read, and at its commit writes them there and ends the invalidations that waited for it. -/
def Sys2Proof.Claims.MemoryCopy : Prop :=
  ∀ (c : CmdRef) (k : Cmd) (host : Option (List Byte × Bool)) (s s0 : State), Acts 0x105 c k s s0 →
    let src := k.u 0 8
    let dst := k.u 8 8
    let len := k.u 0x10 8
    let run := exec (.memCopy c host) s
    (∀ a bs, (s0.host.copies.find? (·.1 == k.ref)) = some (k.ref, a, bs) →
      run = .next ((((s0.setHost { s0.host with copies := s0.host.copies.filter (·.1 != k.ref) }).hostWrite k.ref.fn a bs).completeInvalidations
        k.ref).vote c 0 0 []))
    ∧ ((s0.host.copies.find? (·.1 == k.ref)) = none →
      (len = 0 ∨ 2 ^ 40 < len ∨ 2 ^ 57 ≤ src ∨ 2 ^ 57 ≤ dst → run = .next (s0.finish c 0x02 0 0))
      ∧ (1 ≤ len → len ≤ 2 ^ 40 → src < 2 ^ 57 → dst < 2 ^ 57 → ∀ bs, s0.copySource k src len host = .ok bs →
        (isHostTva dst = false → ∀ s', s0.stageWrite k.ref k.tenant dst bs = .ok s' → run = .next (s'.vote c 0 0 []))
        ∧ (isHostTva dst = true → s0.translates k.ref.fn (dst % 2 ^ 56) len = true →
          run = .next (s0.setHost { s0.host with copies := s0.host.copies ++ [(k.ref, dst % 2 ^ 56, bs)] }))
        ∧ (isHostTva dst = true → s0.translates k.ref.fn (dst % 2 ^ 56) len = false → run = .next (s0.finish c 0x05 dst 0))))

/-- TENANT_RESET of a tenant that exists begins its reset here and tells every other member; a part of one begins it here.
PATINA_REPLAN joins the plan that is pending, or plans. -/
def Sys2Proof.Claims.TenantResetAndReplan : Prop :=
  ∀ (c : CmdRef) (k : Cmd) (s s0 : State),
    (Acts 0x80 c k s s0 → (s0.flt.tenantResets.any (·.cmd == some k.ref)) = false →
      (k.u 2 2 ≤ 1 → k.u 0 2 ≤ 511 → s0.fnExists (k.u 0 2) = true →
        let s1 := s0.beginTenantReset (k.u 0 2) (some k.ref) (bit (k.u 2 2) 0) false
        exec (.tenantReset c none) s = .next (s1.sendAll s1.peers .startPart [0, 0, 0, 0x80, k.u 0 2, if bit (k.u 2 2) 0 then 1 else 0]))
      ∧ (1 < k.u 2 2 → exec (.tenantReset c none) s = .next (s0.finish c 0x02 0 0))
      ∧ (k.u 2 2 ≤ 1 → s0.fnExists (k.u 0 2) = false → exec (.tenantReset c none) s = .next (s0.finish c 0x19 0 0)))
    ∧ (∀ (t : Fin 512) (capture : Bool), exec (.tenantReset c (some (t, capture))) s = .next (s.beginTenantReset t none capture false))
    ∧ (Acts 0x82 c k s s0 → ∀ r : Option PlanReading,
      (∀ p, s0.pat.pending = some p → k.ref ∉ p.cmds →
        exec (.patinaReplan c r) s = .next (s0.setPat { s0.pat with pending := some { p with cmds := p.cmds ++ [k.ref] } }).replanBoundary)
      ∧ (∀ v, s0.pat.pending = none → r = some v → s0.flt.mode ≠ .recovery →
        exec (.patinaReplan c r) s = .next (s0.replan [k.ref] v).replanBoundary))

/-- TILE_RUN scheduled with a valid image, a pool of its tenant, free tiles and joined groups starts those tiles on the image
and is charged as served; a count above the tiles in service, and an image that its rules refuse, refuse it. A part of another
module's TILE_RUN starts its tiles here. -/
def Obligations.TileRunStarts : Prop :=
  ∀ (c : CmdRef) (others : List Nat) (s : State),
    (∀ k s0, Starts 0x500 c k s s0 → ∀ ranks, s0.tilePool k.tenant (k.u 8 1) = some ranks →
      let run := exec (.tileRun c others none) s
      let fits := ranks ≠ [] ∧ k.u 9 1 ≤ 8 ∧ 1 ≤ k.u 0xA 2 ∧ k.u 0xA 2 ≤ 160
        ∧ ∀ g ∈ k.tileGroups, (s0.coll.groups.any fun x => x.tenant == k.tenant && x.id == g) = true
      let least := ((if ranks.contains s0.dom.rank then [tilesInService s0.flt.tileMap] else []) ++ others).min?.getD 160
      (¬fits → run = .next (served s0 c k ((s0.start k).finish c 0x02 0 0)))
      ∧ (fits → least < k.u 0xA 2 → run = .next (served s0 c k ((s0.start k).finish c 0x02 least 0)))
      ∧ (fits → k.u 0xA 2 ≤ least → (∀ g ∈ k.tileGroups, s0.groupCovered k.tenant g ranks = true) →
        (∀ o, s0.imageAt (some k.ref) k.tenant (k.u 0 8) = .ok (.error o) → run = .next (served s0 c k ((s0.start k).finish c 0x13 o 0)))
        ∧ (∀ img, s0.imageAt (some k.ref) k.tenant (k.u 0 8) = .ok (.ok img) →
          (s0.assignTiles k.ref ranks (k.u 0xA 2) = none → run = .next (served s0 c k s0))
          ∧ (∀ tiles, s0.assignTiles k.ref ranks (k.u 0xA 2) = some tiles → run = .next (served s0 c k
            (s0.launch k img k.params (k.params.drop 4096) tiles k.tileGroups (s0.imageBytes k.tenant (k.u 0 8) img)))))))
    ∧ (∀ p : TilePart, exec (.tileRun c others (some p)) s = .next (s.startPart c p p.params (p.params.drop 4096)
        ((List.range (field 9 1 p.params)).map fun i => field (0x10 + i) 1 p.params)))

/-- The self-tests: out of range refused; an output address that does not translate faulted; while the resource is in use the
module is in TEST and the resource drains, for 10 s at most; the result record goes to OUT, the module back to SERVICE, and a
resource that failed is treated as its rule says. -/
def Sys2Proof.Claims.SelfTests : Prop :=
  ∀ (c : CmdRef) (k : Cmd) (s s0 : State) (result : Option (Bool × Nat × Nat)),
    let target := k.u 0 4
    let out := k.u 4 8
    let test := s0.setFlt { s0.flt with mode := .test }
    let report := fun (pass : Bool) (at' dur : Nat) => s0.hostWrite 0 out (leBytes 64 (Config.testRecord k.opcode pass at' dur).toNat)
    let service := fun (s : State) => s.setFlt { s.flt with mode := .service }
    let rules := fun (i : Instr) (valid idle : Bool) (drain : State → State) (passed : State → State) (failed : Nat → State → State) =>
      (valid = false → exec i s = .next (s0.finish c 0x02 0 0))
      ∧ (valid = true → s0.translates 0 out 64 = false → exec i s = .next (s0.finish c 0x05 out 0))
      ∧ (valid = true → s0.translates 0 out 64 = true → idle = false →
        (s0.dom.time < k.startedAt + 10000 * 1000000 → exec i s = .next (drain test))
        ∧ (k.startedAt + 10000 * 1000000 ≤ s0.dom.time → exec i s = .next ((service (passed s0)).finish c 0x601 0 0)))
      ∧ (valid = true → s0.translates 0 out 64 = true → idle = true →
        (result = none → exec i s = .next (drain test))
        ∧ (∀ a d, result = some (true, a, d) → exec i s = .next ((service (passed (report true a d))).vote c 0 0 []))
        ∧ (∀ a d, result = some (false, a, d) → exec i s = .next ((service (failed a (report false a d))).vote c 0 0 [])))
    (Acts 0xF10 c k s s0 → rules (.tileSelfTest c result) (decide (target < 160)) (s0.tiles[Fin.ofNat 160 target].ctl.status == .idle)
      id id fun _ s => s.tileOut target)
    ∧ (Acts 0xF11 c k s s0 → rules (.engineSelfTest c result) (engineId target) (s0.engineIdle target) id id
      fun _ s => s.beginReset .engine target 6 false)
    ∧ (Acts 0xF20 c k s s0 → rules (.hbmPcSelfTest c result) (decide (target < 1024)) (s0.regionEmpty (dieOfPc target))
      (·.drainForTest target) (·.endTestDrain target) fun _ s => (s.endTestDrain target).beginDrain (dieOfPc target) (pclOf target) 3)
    ∧ (Acts 0xF21 c k s s0 → rules (.bsramSelfTest c result) (decide (target < 4)) ((s0.leasesOnDie target).isEmpty)
      (fun s => (s.leasesOnDie target).foldl (fun s t => s.revokeLease t 2) s) id
      fun a s => s.withdrawLease (bsramBase + target * bsramSpan + a % bsramSpan))
    ∧ (Acts 0xF30 c k s s0 → rules (.linkLoopbackTest c result) (decide (target < 96))
      ((s0.linkAt target).phase == .disabled && (s0.linkAt target).queue.isEmpty)
      (fun s => if (s.linkAt target).phase == .disabled then s else s.disableLink target) (·.releaseLink target) fun _ s => s.linkFailed target 1)

/-! ## Host port, formation, membership and time (13) -/

/-- HOST_LINK_CHANGE to another legal rate or width of a visible module records it and tells PF0; ATS_INVALIDATION takes the
range's pages into or out of the refused ones and completes at once or with the copy that covers it; VF_ENABLE_CHANGE on the
anchor resets the tenants that cease to exist. -/
def Sys2Proof.Claims.HostPortEvents : Prop :=
  (∀ (s : State) (g : Fin 8) (w : Fin 32), s.sig.visible = true → 4 ≤ g.val → (w.val = 4 ∨ w.val = 8 ∨ w.val = 16) →
    (g.val ≠ s.host.gen ∨ w.val ≠ s.host.width →
      let s1 := s.setHost { s.host with gen := g, width := w }
      exec (.hostLinkChange g w) s = .next (s1.emitHost 0 0x0909 s.dom.rank s1.linkStat 0))
    ∧ (g.val = s.host.gen ∧ w.val = s.host.width → exec (.hostLinkChange g w) s = .next s))
  ∧ (∀ (s : State) (f : Fin 513) (a n : Nat) (refused : Bool), s.barOpen f = true →
    let ps := iovaPages a n
    let others := s.host.refused.filter fun (g, p) => !(g == f.val && ps.contains p)
    let s1 := s.setHost { s.host with refused := if refused then ps.map (fun p => (f.val, p)) ++ others else others }
    let hits := s.host.copies.filter fun (c, b, bs) => c.fn == f && b < a + n && a < b + bs.length
    let ends := fun (x : State) => if refused then x else x.resumeRings f
    (hits = [] → exec (.atsInvalidation f a n refused) s
      = .next (ends (s1.setHost { s1.host with invalidated := (f.val, a, n) :: s1.host.invalidated })))
    ∧ (∀ c b bs, hits.getLast? = some (c, b, bs) → exec (.atsInvalidation f a n refused) s
      = .next (ends (s1.setHost { s1.host with invalidations := s1.host.invalidations ++ [(f.val, a, n, c)] }))))
  ∧ (∀ (s : State) (n : Fin 513) (e : Bool), s.sig.visible = true → s.dom.rank = s.dom.anchor →
    let gone := (List.range 512).filter fun t => s.fnExists t && !(e && t < n.val)
    let s1 := gone.foldl (fun s t => (if s.tdiLocked t then s.tdiFail t else s).resetTenant t true) s
    exec (.vfEnableChange n e) s = .next (s1.setHost { s1.host with numVfs := n, vfEnable := e }))

/-- FUNCTION_LEVEL_RESET of PF0 resets its queues alone, of a virtual function its tenant; ANCHOR_HOST_RESET resets every tenant,
and a link-down forgets the link's rate. Functions that are not open, and other modules, are left alone. -/
def Sys2Proof.Claims.FunctionAndHostResets : Prop :=
  ∀ (s : State),
    (∀ f : Fin 513, (s.barOpen f = true → f ≠ 0 → exec (.functionLevelReset f) s = .next (s.resetTenant (f.val - 1) false))
      ∧ (s.barOpen f = false → exec (.functionLevelReset f) s = .next s))
    ∧ (s.barOpen 0 = true → exec (.functionLevelReset 0) s = .next s.resetPf0Queues)
    ∧ (∀ k : Fin 3, s.sig.visible = true → s.dom.rank = s.dom.anchor →
      (k ≠ 2 → exec (.anchorHostReset k) s = .next s.resetAllTenants)
      ∧ (k = 2 → exec (.anchorHostReset k) s = .next (s.resetAllTenants.setHost { s.resetAllTenants.host with gen := 0, width := 0 })))
    ∧ (∀ k : Fin 3, s.dom.rank ≠ s.dom.anchor → exec (.anchorHostReset k) s = .next s)

/-- A round begins: with a number one higher, this module's own FORM record in it, and a FORM message of 64 bytes to every other
rank that it reaches; FORMATION_START by its four causes, ROUND_TIMEOUT after 5 ms without ELECTED, COORDINATOR_REACH_LOSS below M. -/
def Sys2Proof.Claims.RoundsBegin : Prop :=
  (∀ (s : State) (n : Nat), (s.beginRound n).dom.round = n ∧ (s.beginRound n).dom.roundAt = s.dom.time
    ∧ (s.beginRound n).dom.accepted = none ∧ (s.beginRound n).dom.accepts = [] ∧ (s.beginRound n).dom.members = s.dom.members
    ∧ (∃ f : Form, (s.beginRound n).dom.forms = [f] ∧ f.rank = s.dom.rank ∧ f.round = n ∧ f.reach = s.reachNow ∧ f.epoch = s.dom.epoch
      ∧ (s.beginRound n).outbox = (((ranksOf s.reachNow).filter (· != s.dom.rank)).map fun r => ⟨r, .form, [n], f.bytes⟩).reverse ++ s.outbox))
  ∧ (∀ s : State, s.sig.groupsReleased ≠ 0 → s.dom.phase = .forming → s.dom.forms = [] →
    (s.majority ≤ s.intraUp → exec (.formationStart 0) s = .next (s.beginRound (s.dom.round + 1)))
    ∧ (s.intraUp < s.majority → exec (.formationStart 0) s = .next s)
    ∧ (s.sig.releasedAt + 2000 * 1000000 ≤ s.dom.time → exec (.formationStart 1) s = .next (s.beginRound (s.dom.round + 1)))
    ∧ (s.dom.time < s.sig.releasedAt + 2000 * 1000000 → exec (.formationStart 1) s = .next s))
  ∧ (∀ s : State, s.dom.phase = .member → s.dom.rank ≠ s.dom.coord → (s.dom.members &&& s.reachRecent).getLsbD s.dom.coord = false →
    exec (.formationStart 2) s = .next (s.beginRound (s.dom.round + 1)))
  ∧ (∀ s : State, s.inReset = false → s.dom.phase ≠ .minority → exec (.formationStart 3) s = .next (s.beginRound (s.dom.round + 1)))
  ∧ (∀ s : State, s.dom.forms ≠ [] → s.dom.electedIn ≠ some s.dom.round →
    (s.dom.roundAt + 5 * 1000000 ≤ s.dom.time → exec .roundTimeout s = .next (s.beginRound (s.dom.round + 1)))
    ∧ (s.dom.time < s.dom.roundAt + 5 * 1000000 → exec .roundTimeout s = .next s))
  ∧ (∀ s : State, s.dom.rank = s.dom.coord → s.dom.phase = .member →
    (countBits s.reachRecent < s.majority → exec .coordinatorReachLoss s
      = .next ((s.setDom { s.dom with coord := 64 }).beginRound (s.dom.round + 1)))
    ∧ (s.majority ≤ countBits s.reachRecent → exec .coordinatorReachLoss s = .next s))

/-- FORM of this round from another rank of the domain takes the place of that rank's record, a later round's begins that round
first, an earlier one's has no effect; ACCEPT of this round counts a rank once. -/
def Sys2Proof.Claims.FormAndAccept : Prop :=
  (∀ (s : State) (b : List Byte), s.inReset = false → (formOf b).rank < s.dom.size → (formOf b).rank ≠ s.dom.rank →
    let f := formOf b
    ((formOf b).round = s.dom.round →
      exec (.form b) s = .next (s.setDom { s.dom with forms := s.dom.forms.filter (·.rank != f.rank) ++ [f] }).pumpRound)
    ∧ (s.dom.round < (formOf b).round →
      let s1 := s.beginRound f.round
      exec (.form b) s = .next (s1.setDom { s1.dom with forms := s1.dom.forms.filter (·.rank != f.rank) ++ [f] }).pumpRound)
    ∧ ((formOf b).round < s.dom.round → exec (.form b) s = .next s))
  ∧ (∀ (s : State) (r : Fin 64) (n : Nat), s.inReset = false →
    (n = s.dom.round → r.val ∉ s.dom.accepts → exec (.accept r n) s = .next (s.setDom { s.dom with accepts := s.dom.accepts ++ [r.val] }).pumpRound)
    ∧ (n ≠ s.dom.round ∨ r.val ∈ s.dom.accepts → exec (.accept r n) s = .next s))

/-- ELECTED takes the coordinator's decision: an admission of a module that was no member brings its record, time, values, keys and
allocations before it is a member, one with a quarantine cause makes it quarantined, one of a member leaves the rest as it is. -/
def Sys2Proof.Claims.ElectedDecides : Prop :=
  ∀ (s : State) (coord : Fin 64) (n : Nat) (a : Admission), s.inReset = false → s.dom.round ≤ n → coord.val ≠ s.dom.rank →
    let s1 := s.setDom { s.dom with
      coord := coord, round := n, electedIn := some n, members := a.members, quarantined := a.quarantined, lost := a.lost
      anchor := a.anchor, noHost := a.noHost, level := a.level
      resetting := s.dom.resetting.filter fun (r, _) => !a.members.getLsbD r }
    (a.cause ≠ 0 → exec (.elected coord n a) s = .next (s1.becomeQuarantined a.cause).resettle)
    ∧ (a.cause = 0 → s.dom.phase = .member → exec (.elected coord n a) s = .next s1.becomeMember.resettle)
    ∧ (a.cause = 0 → s.dom.phase ≠ .member →
      exec (.elected coord n a) s = .next ((s1.applyAdmission a (s.dom.heldState || a.lost.getLsbD s.dom.rank)).becomeMember).resettle)
    ∧ ∀ c, (s1.becomeQuarantined c).dom.phase = .quarantined ∧ (s1.becomeQuarantined c).dom.qcause = c
      ∧ (s1.becomeQuarantined c).sig.ready = false

/-- MINORITY kills every tenant context and says so to the coordinator, MAJORITY_REGAINED marks held state and begins a round,
MEMBER_LOST takes the rank out of the domain unless it is waited for. -/
def Sys2Proof.Claims.MembershipChanges : Prop :=
  (∀ s : State, s.dom.phase = .member → countBits s.reachRecent < s.majority →
    let s1 := s.knownTenants.foldl State.killCommands s
    let s2 := if s1.isCoord then s1 else s1.sendTo s1.dom.coord .domainReport [2, s1.dom.rank]
    exec .minority s = .next ((s2.setDom { s2.dom with phase := .minority }).notReady))
  ∧ (∀ s : State, s.dom.phase = .member → s.majority ≤ countBits s.reachRecent → exec .minority s = .next s)
  ∧ (∀ s : State, s.dom.phase = .minority →
    (s.majority ≤ countBits s.reachNow → exec .majorityRegained s
      = .next ((s.setDom { s.dom with phase := .forming, heldState := true }).beginRound (s.dom.round + 1)))
    ∧ (countBits s.reachNow < s.majority → exec .majorityRegained s = .next s))
  ∧ (∀ (s : State) (r : Fin 64) (k : Fin 3), s.dom.phase = .member →
    (s.isCoord = true → k = 0 → (s.dom.resetting.any (·.1 == r.val)) = true → exec (.memberLost r k) s = .next s)
    ∧ (s.isCoord = false ∨ k ≠ 0 ∨ (s.dom.resetting.any (·.1 == r.val)) = false → exec (.memberLost r k) s = .next (s.memberLost r k))
    ∧ (r.val = s.dom.rank ∨ (s.dom.members ||| s.dom.quarantined).getLsbD r = false → s.memberLost r k = s))

/-- TIME_SYNC on a member that follows a master: more than 1 µs behind steps the time forward and says so, more than 1 µs ahead
slows the clock by 200 ppm (and until within 25 ns), an offset of 0 needs no correction; a smaller one takes a rate of at most
200 ppm against it, whose size is a free value (log entry 7). Device time never goes backwards. -/
def Sys2Proof.Claims.TimeSynchronisation : Prop :=
  ∀ (s : State) (o : Int), s.dom.phase = .member → s.gridMaster = false →
    let s1 := s.setDom { s.dom with timeOffset := o }
    let slow := s.dom.ratePpb = -200000 ∧ 25 < s.dom.timeOffset
    (o < -1000 → s.isCoord = true →
      let s2 := s1.setDom { s1.dom with time := s.dom.time + o.natAbs, ratePpb := 0 }
      exec (.timeSync o) s = .next (s2.emitDomain 0x0905 s.dom.rank (signed64 (-o)) 0))
    ∧ (o < -1000 → s.isCoord = false →
      exec (.timeSync o) s = .next ((s1.setDom { s1.dom with time := s.dom.time + o.natAbs, ratePpb := 0 }).sendTo s.dom.coord
        .domainReport [3, s.dom.rank, o.natAbs]))
    ∧ (1000 < o → exec (.timeSync o) s = .next (s1.setDom { s1.dom with ratePpb := -200000 }))
    ∧ (25 < o → slow → exec (.timeSync o) s = .next (s1.setDom { s1.dom with ratePpb := -200000 }))
    ∧ (o = 0 → exec (.timeSync o) s = .next (s1.setDom { s1.dom with ratePpb := 0 }))
    ∧ (-1000 ≤ o → o ≤ 1000 → o ≠ 0 → ¬(25 < o ∧ slow) → ∃ v : Nat, v ≤ 200000 ∧
      exec (.timeSync o) s = .next { s1.setDom { s1.dom with ratePpb := if 0 < o then -(v : Int) else v } with fresh := s.fresh + 1 })

/-- EVENT_COALESCE_TIMEOUT signals 100 µs after the first record that no interrupt told of, and not before. -/
def Sys2Proof.Claims.EventCoalescing : Prop :=
  ∀ (s : State) (f : Fin 513) (r : EvRing), (s.fnOf f).ring = some r → r.unsignalled ≠ 0 →
    (r.firstAt + 100 * 1000 ≤ s.dom.time → exec (.eventCoalesceTimeout f) s
      = .next ((s.modFn f fun x => { x with ring := some { r with unsignalled := 0 } }).interrupt f r.vector))
    ∧ (s.dom.time < r.firstAt + 100 * 1000 → exec (.eventCoalesceTimeout f) s = .next s)

/-! ## Registers (18) -/

/-- The function's BAR0 takes writes at once: it is open, its interface is not in ERROR, and no die is under reset (18 R510). -/
def Writable (s : State) (f : Fin 513) : Prop := s.barOpen f = true ∧ s.barFailed f = false ∧ s.regs.copies = []

/-- A write of a whole aligned word over BAR0: to a register that the function reaches and no lock covers it has the register's
effect, logged where that is refused or kept (REASON 3 or 6); a locked one is logged with 7, one not permitted with 4, an offset of
no register with 5, a word that is not aligned with 2, a partial word with 1; a write to a function whose BAR is closed changes
nothing; one to a die under reset is held. -/
def Sys2Proof.Claims.RegisterWritesChecked : Prop :=
  ∀ (s : State) (f : Fin 513) (o : Nat) (v : Word),
    let word := (leBytes 4 v.toNat).map some
    let run := exec (.registerWrite f false o word) s
    (s.barOpen f = false → run = .next s)
    ∧ (Writable s f →
      (o % 4 = 0 →
        ((mapOffset f o).bind regAt = none → run = .next (s.logAccess f false o 5 15))
        ∧ (∀ r n, (mapOffset f o).bind regAt = some (r, n) →
          (permitted f r = false → run = .next (s.logAccess f false o 4 15))
          ∧ (permitted f r = true → byteWritable r = false →
            (s.lockRefuses r v.toNat = true → run = .next (s.logAccess f false o 7 15))
            ∧ (s.lockRefuses r v.toNat = false → n = 4 →
              ((s.regWrite f r v.toNat).2 = 0 → run = .next (s.regWrite f r v.toNat).1)
              ∧ ((s.regWrite f r v.toNat).2 ≠ 0 → run = .next ((s.regWrite f r v.toNat).1.logAccess f false o (s.regWrite f r v.toNat).2 15))))
          ∧ (permitted f r = true → byteWritable r = false → exec (.registerWrite f false o [some 1, some 2]) s
              = .next (s.logAccess f false o 1 3))))
      ∧ (o % 4 ≠ 0 → ∃ be, run = .next (s.logAccess f false o 2 be)))
    ∧ (s.barOpen f = true → s.barFailed f = false → s.holdsWrite f o = true →
      run = .next { s with regs := { s.regs with heldWrites := s.regs.heldWrites ++ [⟨f, o, word⟩] } })

/-- A 64-bit register written as two words: the low word is staged and nothing else changes; the high word then writes both. Eight
bytes at once write it too. Doorbell words of BAR2 go to the queue that the offset names. -/
def Sys2Proof.Claims.WideWritesAndDoorbellWords : Prop :=
  ∀ (s : State) (f : Fin 513) (v : Word) (o r : Nat), o % 8 = 0 → r % 8 = 0 → Writable s f → (mapOffset f o).bind regAt = some (r, 8) →
    mapOffset f o = some r → mapOffset f (o + 4) = some (r + 4) → regAt (r + 4) = some (r, 8) → permitted f r = true → byteWritable r = false →
    s.lockRefuses r v.toNat = false →
    exec (.registerWrite f false o ((leBytes 4 v.toNat).map some)) s = .next (s.modFn f fun x => { x with slot := some (r, v) })
    ∧ (∀ w, (s.fnOf f).slot = some (r, w) →
      let s1 := s.modFn f fun x => { x with slot := none }
      let q := s1.regWrite f r (w.toNat + 2 ^ 32 * v.toNat)
      q.2 = 0 → exec (.registerWrite f false (o + 4) ((leBytes 4 v.toNat).map some)) s = .next q.1)
    ∧ (∀ x : DWord, s.lockRefuses r x.toNat = false → (s.regWrite f r x.toNat).2 = 0 →
      exec (.registerWrite f false o ((leBytes 8 x.toNat).map some)) s = .next (s.regWrite f r x.toNat).1)
    ∧ (s.doorbellOpen f = true → ∀ i < 512, exec (.registerWrite f true (4 * i) ((leBytes 4 v.toNat).map some)) s = .next (s.sqDoorbell f i v)
      ∧ exec (.registerWrite f true (0x800 + 4 * i) ((leBytes 4 v.toNat).map some)) s = .next (s.cqDoorbell f i v))

/-- Reads: an aligned word of a 4-byte register answers its value and changes no state but the reply; the low word of an 8-byte
register latches the high word, which the next read of it answers, once; a read with an unaligned part is Unsupported Request,
logged with REASON 8. -/
def Sys2Proof.Claims.RegisterReads : Prop :=
  ∀ (s : State) (f : Fin 513) (o : Nat), s.barOpen f = true → s.barFailed f = false →
    let read := exec (.readLatch f false o [true, true, true, true]) s
    (∀ r p, o % 4 = 0 → mapOffset f o = some p → regAt p = some (r, 4) → read = .next (s.reply (.data (leBytes 4 (s.regRead f r)))))
    ∧ (o % 4 = 0 → (mapOffset f o).bind regAt = none → read = .next (s.reply (.data (leBytes 4 0))))
    ∧ (∀ r, o % 4 = 0 → mapOffset f o = some r → regAt r = some (r, 8) →
      read = .next ((s.modFn f fun x => { x with latch := some (r, BitVec.ofNat 32 (s.regRead f r / 2 ^ 32)) }).reply
        (.data (leBytes 4 (s.regRead f r % 2 ^ 32)))))
    ∧ (∀ r w, o % 4 = 0 → mapOffset f o = some (r + 4) → regAt (r + 4) = some (r, 8) → (s.fnOf f).latch = some (r, w) →
      read = .next ((s.modFn f fun x => { x with latch := none }).reply (.data (leBytes 4 w.toNat))))
    ∧ (o % 4 ≠ 0 → ∃ be, exec (.unalignedRead f false o [true, true, true, true]) s = .next ((s.logAccess f false o 8 be).reply .unsupported))

/-- The register writes that have a row of their own, at a module whose BARs take writes and whose lock is open. -/
def Sys2Proof.Claims.NamedRegisterWrites : Prop :=
  ∀ (s : State) (v : Word), Writable s 0 → s.regs.cfgLock = false →
    exec (.cfgLock v) s = .next (if v.getLsbD 0 then { s with regs := { s.regs with cfgLock := true } } else s)
    ∧ exec (.idAccClr 0 v) s = .next (if v.getLsbD 0 then s.modFn 0 fun x => { x with accCount := 0, accLog := [] } else s)
    ∧ exec (.pwrCapWrite v) s = .next (s.setPwr { s.pwr with capW := max 1200 (min 2800 (v.toNat % 4096)) })
    ∧ (∀ g : Fin 12, exec (.lnkGrpRecal g) s = .next ((s.modGroup g fun x => { x with recalDue := true }).startRecal g)
      ∧ exec (.lnkGrpReset g) s = .next (s.writeGroupCmd g 2)
      ∧ exec (.lnkGrpDisable g) s = .next ((groupLinks g).foldl State.disableLink
        (s.modGroup g fun x => { x with held := true, recalling := false, recalDue := false })))
    ∧ (∀ u : Fin 65536,
      (u.val < 160 → exec (.fltResetTile u) s = .next (s.beginReset .tile u 6 false))
      ∧ (160 ≤ u.val → exec (.fltResetTile u) s = .next (s.logAccess 0 false 0x50008 6 15))
      ∧ (engineId u = true → exec (.fltResetEngine u) s = .next (s.beginReset .engine u 6 false))
      ∧ (engineId u = false → exec (.fltResetEngine u) s = .next (s.logAccess 0 false 0x50008 6 15))
      ∧ (u.val < 12 → exec (.fltResetLinkGroup u) s = .next (s.beginReset .linkGroup u 6 false))
      ∧ (12 ≤ u.val → exec (.fltResetLinkGroup u) s = .next (s.logAccess 0 false 0x50008 6 15))
      ∧ (u.val < 4 → exec (.fltResetDie u) s = .next (s.beginReset .die u 6 false))
      ∧ (4 ≤ u.val → exec (.fltResetDie u) s = .next (s.logAccess 0 false 0x50008 6 15)))
    ∧ exec .fltResetModule s = .next (s.restartModule 6)
    ∧ (let pc := v.toNat % 1024
      let r := s.mem.die (dieOfPc pc)
      (v.getLsbD 10 = true → (r.mapped.any (·.1 == pclOf pc)) = false → r.draining = false → r.retired = false →
        exec (.memMapoutReq v) s = .next (s.beginDrain (dieOfPc pc) (pclOf pc) 3))
      ∧ (v.getLsbD 10 = true → (r.mapped.any (·.1 == pclOf pc)) = false → (r.draining = true ∨ r.retired = true) →
        exec (.memMapoutReq v) s = .next (s.logAccess 0 false 0x30080 6 15))
      ∧ (v.getLsbD 10 = false ∨ (r.mapped.any (·.1 == pclOf pc)) = true → exec (.memMapoutReq v) s = .next s))
    ∧ (∀ b : Bool, s.sig.smbIso = true → s.sig.sclLow = false → s.sig.sdaLow = false →
      exec (.smbRejoin b) s = .next { s with sig := { s.sig with tickOutEn := b, smbIso := false, smbLock := false } })

/-- CFG_LOCK refuses a write of PWR_CAP, with REASON 7, and changes no register; the lock itself cannot be cleared by a write. -/
def Sys2Proof.Claims.ConfigurationLockHolds : Prop :=
  ∀ (s : State) (v : Word), Writable s 0 → s.regs.cfgLock = true →
    exec (.pwrCapWrite v) s = .next (s.logAccess 0 false 0x52000 7 15) ∧ exec (.cfgLock v) s = .next s

/-- CMD_ADMQ_EN of a function: its first write of 1 takes the vector and brings the pair into service, at once while READY and held
until then before; with ENABLE set every write but the same value is logged and changes nothing; a virtual function of a tenant
that is not enabled is refused. HST_EVT_HEAD returns ring entries that were written, and no others. -/
def Sys2Proof.Claims.AdministrationPairAndEventHead : Prop :=
  ∀ (s : State) (f : Fin 513) (v : Word), Writable s f →
    let o := (if f.val = 0 then 0x10000 else 0x4000) + 0x14
    let h := (if f.val = 0 then 0x11000 else 0x5000) + 0x18
    let x := s.fnOf f
    let vec := v.toNat / 65536
    ((s.fnOf f).enable = false → v.getLsbD 0 = true → (f.val ≠ 0 → (s.tntOf (f.val - 1)).enable = true) →
      exec (.cmdAdmqEn f v) s = .next ((s.modFn f fun x => { x with vector := vec }).enableAdmin f))
    ∧ (x.enable = false → v.getLsbD 0 = true → f.val ≠ 0 → (s.tntOf (f.val - 1)).enable = false →
      exec (.cmdAdmqEn f v) s = .next (s.logAccess f false o 6 15))
    ∧ (x.enable = false → v.getLsbD 0 = false → exec (.cmdAdmqEn f v) s = .next (s.modFn f fun x => { x with vector := vec }))
    ∧ (x.enable = true → v.getLsbD 0 = false → exec (.cmdAdmqEn f v) s = .next (s.logAccess f false o 3 15))
    ∧ (∀ r, x.ring = some r →
      let n := (v.toNat % 65536 + r.depth - r.head) % r.depth
      (v.toNat % 65536 < r.depth → n ≤ r.written - r.returned → exec (.hstEvtHead f v) s = .next ((s.modFn f fun x => { x with
        ring := some { r with head := v.toNat % 65536, returned := r.returned + n, faulted := false } }).flushEvents f))
      ∧ (r.depth ≤ v.toNat % 65536 ∨ r.written - r.returned < n → exec (.hstEvtHead f v) s = .next (s.logAccess f false h 6 15)))
    ∧ (x.ring = none → exec (.hstEvtHead f v) s = .next (s.logAccess f false h 6 15))

/-! ## Links (11 R324 to R335) -/

/-- What each event of a link's states does, and when it does nothing: training goes to ALIGN, ALIGN to IDENTIFY with an IDENT sent,
a training attempt past 200 ms begins anew or, the third, fails the link, ALIGN past 10 ms goes back to training. -/
def Sys2Proof.Claims.LinkTraining : Prop :=
  ∀ (s : State) (l : Fin 96),
    let x := s.linkAt l
    (x.phase = .training →
      exec (.linkTrainingDone l) s = .next (s.modLink l fun x => { x with phase := .align, since := s.dom.time })
      ∧ (x.since + 200 * 1000000 ≤ s.dom.time → x.attempts < 2 → exec (.linkTrainingTimeout l) s
        = .next (s.modLink l fun x => { x with attempts := x.attempts + 1, since := s.dom.time }))
      ∧ (x.since + 200 * 1000000 ≤ s.dom.time → 2 ≤ x.attempts → exec (.linkTrainingTimeout l) s = .next (s.linkFailed l (x.attempts + 1)))
      ∧ (s.dom.time < x.since + 200 * 1000000 → exec (.linkTrainingTimeout l) s = .next s))
    ∧ (x.phase ≠ .training → exec (.linkTrainingDone l) s = .next s ∧ exec (.linkTrainingTimeout l) s = .next s)
    ∧ (x.phase = .align →
      exec (.fecAlignLock l) s = .next (s.modLink l fun x => { x with
        phase := .identify, since := s.dom.time, sent := s.identFrame l :: x.sent, lseqNext := (x.lseqNext + 1) % 65536 })
      ∧ (x.since + 10 * 1000000 ≤ s.dom.time → exec (.alignTimeout l) s
        = .next (s.modLink l fun x => { x with phase := .training, since := s.dom.time }))
      ∧ (s.dom.time < x.since + 10 * 1000000 → exec (.alignTimeout l) s = .next s))
    ∧ (x.phase ≠ .align → exec (.fecAlignLock l) s = .next s ∧ exec (.alignTimeout l) s = .next s)

/-- IDENT in IDENTIFY brings a link UP, with LINK_UP, when it names the port's peer, and MISWIRED with LINK_MISWIRED when not; in any
other state it changes nothing. -/
def Sys2Proof.Claims.IdentBringsUpOrMiswired : Prop :=
  ∀ (s : State) (l : Fin 96) (r : IdentRec),
    let s1 := s.modLink l fun x => { x with lseqExpected := (x.lseqExpected + 1) % 65536, peer := some r.serial }
    ((s.linkAt l).phase = .identify →
      (s1.identOk l r = true → exec (.ident l r) s = .next ((s1.linkUp l true).linkEvent 0x0601 l 5 0))
      ∧ (s1.identOk l r = false → exec (.ident l r) s = .next
        ((s1.modLink l fun x => { x with phase := .miswired, since := s.dom.time }).linkEvent 0x0606 l 9 (r.role + 256 * r.index))))
    ∧ ((s.linkAt l).phase ≠ .identify → exec (.ident l r) s = .next s)

/-- Recalibration and retraining: a temperature more than LNK_RECAL_DRIFT from the last calibration makes a group due; a done
recalibration brings its links UP; one past 200 µs retrains; retraining needs an UP link and a cause; a retrained link comes UP only
to the same peer; an attempt past 5 ms begins anew or, the third, fails the link. -/
def Sys2Proof.Claims.RecalibrationAndRetraining : Prop :=
  (∀ (s : State) (g : Fin 12) (k : Int), exec (.recal g k) s = .next ((s.modGroup g fun x => { x with
      temp := k, recalDue := x.recalDue || decide (s.lnk.recalDrift < (k - x.calTemp).natAbs) }).startRecal g))
  ∧ (∀ (s : State) (g : Fin 12), ((s.groupAt g).recalling = true →
      let s1 := (groupLinks g).foldl (fun s l => if (s.linkAt l).phase == .recal then s.linkUp l false else s) s
      exec (.recalDone g) s = .next (s1.modGroup g fun x => { x with recalling := false, calTemp := x.temp }))
    ∧ ((s.groupAt g).recalling = false → exec (.recalDone g) s = .next s))
  ∧ (∀ (s : State) (l : Fin 96),
    let x := s.linkAt l
    (x.phase = .recal → x.since + 200 * 1000 < s.dom.time → exec (.recalTimeout l) s = .next ((s.linkSettle l .retrain).recalEnd (l.val / 8)))
    ∧ (x.phase ≠ .recal ∨ s.dom.time ≤ x.since + 200 * 1000 → exec (.recalTimeout l) s = .next s)
    ∧ (∀ (cause : Fin 4) (n : Nat),
      let s1 := s.modLink l fun x => { x with fecUncorr := (x.fecUncorr + n) % 2 ^ 64 }
      let due := (cause = 1 → 16 < n) ∧ (cause = 2 → 8 ≤ x.resends)
      (x.phase = .up ∧ due → exec (.retrain l cause n) s = .next (s1.linkSettle l .retrain))
      ∧ (¬(x.phase = .up ∧ due) → exec (.retrain l cause n) s = .next s1))
    ∧ (∀ v, (x.phase = .retrain → x.peer = some v → exec (.retrainDone l v) s = .next (s.linkUp l true))
      ∧ (x.phase ≠ .retrain ∨ x.peer ≠ some v → exec (.retrainDone l v) s = .next s))
    ∧ (x.phase = .retrain → x.since + 5 * 1000000 ≤ s.dom.time →
      (x.attempts < 2 → exec (.retrainAttemptFail l) s
        = .next (s.modLink l fun x => { x with attempts := x.attempts + 1, since := s.dom.time }))
      ∧ (2 ≤ x.attempts → exec (.retrainAttemptFail l) s = .next (s.linkFailed l (x.attempts + 1)))))

/-- FEC_DEGRADE, LINK_NOT_READY, DETOUR_SWITCH and PEER_UNREACHABLE: each counts or moves what its rule says once its condition and
time have passed, and nothing before. -/
def Sys2Proof.Claims.LinkLossEvents : Prop :=
  (∀ (s : State) (l : Fin 96) (n total : Nat),
    let s1 := s.modLink l fun x => { x with fecCorr := (x.fecCorr + n) % 2 ^ 64 }
    (n * 1000 ≤ total → exec (.fecDegrade l n total) s = .next s1)
    ∧ (total < n * 1000 → (s1.linkAt l).degradedAt = none → ∃ ratio, exec (.fecDegrade l n total) s
      = .next ((s1.modLink l fun x => { x with degradedAt := some s.dom.time }).linkEvent 0x0608 l (s1.linkAt l).phase.code ratio)))
  ∧ (∀ (s : State) (peer t : Nat), tget s.lnk.waiting peer = some t →
    (s.dom.time < t + 10 * 1000000 → ∀ cs, exec (.linkNotReady peer cs) s = .next s)
    ∧ (t + 10 * 1000000 ≤ s.dom.time → ((s.pair peer).all fun l => (s.linkAt l).initial) = true →
      (∀ c k, (s.dropWaiting peer).cmdAt c = some k → k.running = true →
        exec (.linkNotReady peer [c]) s = .next ((s.dropWaiting peer).failCmd k 0x16 0 0))
      ∧ (let s1 := s.dropWaiting peer
        exec (.linkNotReady peer []) s = .next (s1.linkEvent 0x0607 ((s1.pair peer).headD 0) ((s1.linkAt ((s1.pair peer).headD 0)).phase.code) 0))))
  ∧ (∀ (s : State) (peer : Nat) (reported : List Nat),
    let s1 := s.setLnk { s.lnk with reported := (s.lnk.reported.filter (·.2 != peer)) ++ reported.map fun m => (m, peer) }
    (s1.upLinks peer ≠ [] → exec (.detourSwitch peer reported) s = .next s1)
    ∧ (∀ t v, s1.upLinks peer = [] → ((s1.pair peer).any fun l => (s1.linkAt l).settles) = true → tget s.lnk.settling peer = some t →
      (∀ d ∈ s.lnk.detours, d.peer ≠ peer) → s1.via peer = some v →
      (t + 20 * 1000 ≤ s.dom.time → exec (.detourSwitch peer reported) s = .next (s1.switchDetour peer v))
      ∧ (s.dom.time < t + 20 * 1000 → exec (.detourSwitch peer reported) s = .next s1)))
  ∧ (∀ (s : State) (peer t : Nat), s.upLinks peer = [] → (∀ d ∈ s.lnk.detours, d.peer ≠ peer) → peer ∉ s.lnk.unreachable →
    tget s.lnk.settling peer = some t →
    (s.dom.time < t + 50 * 1000000 → exec (.peerUnreachable peer) s = .next s)
    ∧ (t + 50 * 1000000 ≤ s.dom.time →
      let s1 := s.setLnk { s.lnk with unreachable := peer :: s.lnk.unreachable }
      (s.dom.rank = s.dom.coord → exec (.peerUnreachable peer) s = .next s1)
      ∧ (s.dom.rank ≠ s.dom.coord → exec (.peerUnreachable peer) s = .next (s1.sendTo s.dom.coord .peerUnreachable [peer]))))

/-- Frames: on a link that is UP a good frame is received, a bad one counts as lost, a LINK frame brings its riders, a NAK resends from
the frame it names and a replay timeout resends all that is not acknowledged; FRAME_TRANSMIT hands over what is new and lets one frame
go; a link that is not UP takes and sends nothing. -/
def Sys2Proof.Claims.FrameEvents : Prop :=
  ∀ (s : State) (l : Fin 96) (f : Frame),
    ((s.linkAt l).phase = .up →
      exec (.dataFrame l f 0) s = .next (s.receiveFrame l f)
      ∧ (∀ e : Fin 3, e ≠ 0 → exec (.dataFrame l f e) s = .next (s.loseFrame l (e == 2)) ∧ exec (.linkFrame l f e) s = .next (s.loseFrame l (e == 2)))
      ∧ exec (.linkFrame l f 0) s = .next (s.modLink l fun x => (x.ack f.lack).addCredits f.creditVc f.credits)
      ∧ exec (.nak l f) s = .next (s.modLink l fun x => ((x.ack ((f.lack + 65535) % 65536)).addCredits f.creditVc f.credits).resend)
      ∧ exec (.replayTimeout l) s = .next (s.modLink l (·.resend))
      ∧ exec (.frameTransmit l []) s = .next (s.chooseFrame l))
    ∧ ((s.linkAt l).phase ≠ .up → (∀ e, exec (.dataFrame l f e) s = .next s ∧ exec (.linkFrame l f e) s = .next s) ∧ exec (.nak l f) s = .next s
      ∧ exec (.replayTimeout l) s = .next s ∧ ∀ fs, fs = [] → exec (.frameTransmit l fs) s = .next s)

/-- An end-to-end acknowledgement drops the one frame that it names from every detour's list, and ends a draining detour that has
none left. -/
def Sys2Proof.Claims.EndToEndAcknowledgement : Prop :=
  ∀ (s : State) (dst : Nat) (vc : Fin 5) (n : Nat),
    let s1 := s.setLnk { s.lnk with detours := s.lnk.detours.map fun d => { d with
      unacked := d.unacked.filter fun f => !(f.dst == dst && f.vc == vc.val && f.sseq == n) } }
    exec (.e2eAck dst vc n) s = .next ((s1.lnk.detours.filter fun d => d.draining && d.unacked.isEmpty).foldl State.endDetour s1)
    ∧ ((∀ d ∈ s1.lnk.detours, d.draining = false ∨ d.unacked ≠ []) → exec (.e2eAck dst vc n) s = .next s1)

/-! ## Messages between modules (11 R323) -/

/-- Pad and counter messages act on a located tile that runs the command, and on nothing else; PADGET_REQUEST answers its origin with the
codes, or with ADDRESS_FAULT where no tile is located. -/
def Sys2Proof.Claims.PadAndCounterMessages : Prop :=
  ∀ (s : State) (c : CmdRef) (l : DWord),
    (∀ t, s.located c l = some t →
      (∀ width codes ct, (∀ e ∈ codes, 0 ≤ (elemSpan (locPad l) e.1 width).1
          ∧ (elemSpan (locPad l) e.1 width).1 + (elemSpan (locPad l) e.1 width).2.2 ≤ 0x3FF000) →
        let m := codes.foldl (fun m (e, code) => writeCode m (locPad l) e width code) s.tiles[t].pad
        let s1 := s.setTile t (s.tiles[t].setPad m)
        (ct = none → exec (.padputMsg c l width codes ct) s = .next s1)
        ∧ (∀ k, ct = some k → exec (.padputMsg c l width codes ct) s = .next (s1.addCounter t k 1)))
      ∧ (∀ ct v, exec (.csignalMsg c l ct v) s = .next (s.modTile t fun x => x.setCounter ct (x.sync.counters[ct] + v)))
      ∧ (∀ dm f origin tile fence cs, formatOf (Desc.ofBits 0 dm).fmtCode = some f →
        sourceCodes ⟨Desc.ofBits 0 dm, f⟩ (fun e => padReadCode s.tiles[t].pad ⟨Desc.ofBits 0 dm, f⟩ (locPad l) e) = .ok cs →
        exec (.padgetRequest c l dm origin tile fence) s = .next (s.send ⟨origin, .padgetData, refArgs c ++ [tile.val, fence.val, 0, 0],
          cs.flatMap fun (i, code) => leBytes 4 i ++ leBytes ((f.bits + 7) / 8) code⟩)))
    ∧ (s.located c l = none →
      (∀ width codes ct, exec (.padputMsg c l width codes ct) s = .next s) ∧ (∀ ct v, exec (.csignalMsg c l ct v) s = .next s)
      ∧ ∀ dm origin tile fence, exec (.padgetRequest c l dm origin tile fence) s
        = .next (s.send ⟨origin, .padgetData, refArgs c ++ [tile.val, fence.val, 0x05, l.toNat], []⟩))

/-- PADGET_DATA puts the codes into the pad by the walk of DP and marks the transfer as answered, once; MEMORY_WRITE writes committed
memory or a DPA in service and nothing else; MEMORY_READ_REQUEST answers bytes and poison; MEMORY_READ_DATA lands in the peer range. -/
def Sys2Proof.Claims.MemoryMessages : Prop :=
  (∀ (s : State) (c : CmdRef) (t : Fin 160) (f : Fin 64) (a : AsyncOp) (codes : List (Nat × Nat)), s.tiles[t].opOn f false = some a →
    s.tiles[t].ctl.cmd = some c → a.kind = .padget → a.landed = none →
    let settled := fun (y : Tile) (r : Option Exc) =>
      s.setTile t (y.setOutstanding (y.sync.outstanding.map fun b => if b = a then { b with landed := some r } else b))
    (∀ code d, exec (.padgetData c t f codes (some (code, d))) s = .next (settled s.tiles[t] (some ⟨code, d⟩)))
    ∧ (∀ dp dm m, a.walks = some (dp, dm) → padWriteCodes s.tiles[t].pad dp dp.d.base (destCodes dp codes) = .ok m →
      exec (.padgetData c t f codes none) s = .next (settled (s.tiles[t].setPad m) none)))
  ∧ (∀ (s : State) (t a : Nat) (bs : List Byte),
    (s.mem.unmapped t a bs.length = none → exec (.memoryWrite (.tva t a) bs) s = .next (s.writeCommittedAll t a bs))
    ∧ (s.mem.unmapped t a bs.length ≠ none → exec (.memoryWrite (.tva t a) bs) s = .next s)
    ∧ ((s.dpaTier a).isSome → (s.dpaTier (a + bs.length - 1)).isSome → exec (.memoryWrite (.dpa a) bs) s = .next (s.setMem (s.mem.put a bs)))
    ∧ (s.dpaTier a = none → exec (.memoryWrite (.dpa a) bs) s = .next s))
  ∧ (∀ (s : State) (x : RemoteAddr) (n : Nat) (o : Fin 64) (tag : Nat),
    exec (.memoryReadRequest x n o tag) s = .next (s.send ⟨o, .memoryReadData, tag :: (s.remoteRead x n).2, (s.remoteRead x n).1⟩))
  ∧ (∀ (s : State) (a : Nat) (bs : List Byte) (bad : List Nat),
    (s.dpaTier a = some .peer → exec (.memoryReadData a bs bad) s = .next (s.setMem (bad.foldl (fun m o => m.mark (a + o)) (s.mem.put a bs))))
    ∧ (s.dpaTier a ≠ some .peer → exec (.memoryReadData a bs bad) s = .next s))

/-! ## Collectives (11 R336 to R348; 14 R417) -/

/-- Groups: a new one has the lowest free ID of the tenant and its partitions, is told to every member, and its ID and partition count
are the reply's DETAIL; one in use is not destroyed; a change of pools forms the partitions anew and tells the tenant. -/
def Sys2Proof.Claims.CollectiveGroups : Prop :=
  ∀ (s : State) (c : CmdRef) (stage : List Nat) (grid : List (Nat × Nat × List Nat)),
    (∀ k s0, Acts 0x600 c k s s0 →
      (∀ st, s0.newGroup k.tenant k.params stage grid = .error st → exec (.collGroupCreate c stage grid none) s = .next (s0.finish c st 0 0))
      ∧ (∀ g, s0.newGroup k.tenant k.params stage grid = .ok g → exec (.collGroupCreate c stage grid none) s
        = .next (((s0.addGroup g).tellMembers k).vote c (g.id + g.partitions.length % 256 * 256) 0 [])))
    ∧ (∀ (t : Fin 512) p g, s.newGroup t.val p stage grid = .ok g → exec (.collGroupCreate c stage grid (some (t, p))) s = .next (s.addGroup g))
    ∧ (∀ k s0, Acts 0x601 c k s s0 → ((k.params.drop 1).take 7).all (· == 0) →
      let g := k.u 0 1
      ((s0.coll.groups.any fun x => x.tenant == k.tenant && x.id == g) = false → exec (.collGroupDestroy c none) s = .next (s0.finish c 0x02 0 0))
      ∧ ((s0.coll.groups.any fun x => x.tenant == k.tenant && x.id == g) = true →
        ((s0.cmd.cmds.any fun x => x.ref.fn == k.ref.fn && x.joins g) = true → exec (.collGroupDestroy c none) s = .next (s0.finish c 0x601 0 0))
        ∧ ((s0.cmd.cmds.any fun x => x.ref.fn == k.ref.fn && x.joins g) = false →
          exec (.collGroupDestroy c none) s = .next (((s0.dropGroup k.tenant g).tellMembers k).vote c 0 0 []))))
    ∧ (∀ (t : Fin 512) g, exec (.collGroupDestroy c (some (t, g))) s = .next (s.dropGroup t g))
    ∧ (∀ (t : Fin 512) (g : Fin 256) x, (s.coll.groups.find? fun x => x.tenant == t.val && x.id == g.val) = some x →
      let ps := s.partitionsOf t x.pool x.size x.strided x.grid stage grid
      exec (.collGroupReformed t g stage grid) s = .next ((s.setColl { s.coll with
        groups := updFirst (fun y => y.tenant == t.val && y.id == g.val) (fun y => { y with partitions := ps }) s.coll.groups }).collGroupEvent t g ps.length))

/-- A contribution goes to its instance, or waits for it while its command is in flight; a failure or an abort fails the instance's
fence, with the abort's cause a free value (log entry 42); a timer past its limit fails with COLL_TIMEOUT and tells the others. -/
def Sys2Proof.Claims.CollectiveMessages : Prop :=
  ∀ (s : State) (c : CmdRef) (g l q : Nat),
    let k : CollKey := ⟨c, g, l, q⟩
    (∀ i, s.instAt k = some i → (∀ p, exec (.collContribution c g l q p) s = .next (s.acceptPart i p))
      ∧ (∀ code, code ≠ 0x0A → exec (.collFail c g l q code) s = .next (s.failFence i (excColl code g q 0)))
      ∧ ∀ (cause : Fin 3) (r : Fin 64), exec (.collAbort (some (c, g, l, q)) cause r) s
        = .next (s.failFence i (excColl 0x0A g q (Config.abortCause cause).toNat)))
    ∧ (s.instAt k = none → (s.cmdAt c).isSome → tgetD s.coll.done (c, g, l) 0 ≤ q →
      (∀ p, exec (.collContribution c g l q p) s = .next (s.setColl { s.coll with early := s.coll.early ++ [(k, p)] }))
      ∧ ((s.coll.earlyFail.any (·.1 == k)) = false → ∀ code, exec (.collFail c g l q code) s
        = .next (s.setColl { s.coll with earlyFail := s.coll.earlyFail ++ [(k, code, 0)] })))
    ∧ (s.instAt k = none → s.cmdAt c = none → (∀ p, exec (.collContribution c g l q p) s = .next s) ∧ ∀ code, exec (.collFail c g l q code) s = .next s)
    ∧ (∀ (cause : Fin 3) (r : Fin 64), exec (.collAbort none cause r) s = .next (s.abortLost r))
    ∧ (∀ (t : Fin 160) (f : Fin 64) i, s.instOn t f = some i →
      (s.dom.time < i.heldUntil ∨ s.instElapsed i ≤ i.timeoutUs * 1000 → exec (.collTimeout t f) s = .next s)
      ∧ (i.heldUntil ≤ s.dom.time → i.timeoutUs * 1000 < s.instElapsed i →
        exec (.collTimeout t f) s = .next (s.detectFail i (excColl 0x09 i.key.group i.key.seq 0))))

/-- A heat notice holds the timer of its instance until 500 µs from now, never twice over the same time; its end lets the timer run; a
renewal sends one for every instance. A module that announces its reset is waited for: what involves it ends or goes back to its start;
2 s later the coordinator declares it lost. -/
def Sys2Proof.Claims.HeatNoticesAndResettingModules : Prop :=
  (∀ (s : State) (c : CmdRef) (g l q lev u : Nat) (i : CollInst), s.instAt ⟨c, g, l, q⟩ = some i →
    let til := s.dom.time + 500 * 1000
    exec (.heatNotice c g l q lev u) s = .next (s.setInst { i with held := i.held + (til - max i.heldUntil s.dom.time), heldUntil := til }))
  ∧ (∀ s : State, exec .heatNoticeRenewal s = .next (s.coll.insts.foldl State.sendHeat s))
  ∧ (∀ (s : State) (t : Fin 160) (f : Fin 64) (i : CollInst), s.instOn t f = some i →
    (i.heldUntil ≠ 0 → i.heldUntil ≤ s.dom.time → exec (.heatNoticeHoldEnd t f) s = .next (s.setInst { i with heldUntil := 0 }))
    ∧ (s.dom.time < i.heldUntil → exec (.heatNoticeHoldEnd t f) s = .next s))
  ∧ (∀ (s : State) (r : Fin 64),
    (r.val = s.dom.rank ∨ s.dom.members.getLsbD r = false ∨ (s.dom.resetting.any (·.1 == r.val)) = true → exec (.moduleResetting r) s = .next s)
    ∧ (r.val ≠ s.dom.rank → s.dom.members.getLsbD r = true → (s.dom.resetting.any (·.1 == r.val)) = false →
      (∀ i ∈ s.coll.insts, s.addrOf r ∉ i.members) → s.cmd.cmds = [] →
      let s1 := s.setDom { s.dom with resetting := s.dom.resetting ++ [(r.val, s.dom.time)] }
      exec (.moduleResetting r) s = .next (if s1.isCoord then s1.sendAll (s1.peers.filter (· != r.val)) .moduleResetting [r.val] else s1))
    ∧ (∀ since, (s.dom.resetting.find? (·.1 == r.val)) = some (r.val, since) →
      (s.dom.time < since + 2000 * 1000000 ∨ s.isCoord = false → exec (.moduleResetHoldExpiry r) s = .next s)
      ∧ (since + 2000 * 1000000 ≤ s.dom.time → s.isCoord = true → exec (.moduleResetHoldExpiry r) s = .next (s.memberLost r 1))))

/-- IMAGE_RELAY of a load in flight: a header that names the load, under a key held, with a good tag and digest, is kept, sent on all ten
chains and checked; another ends the load with the check that failed (1 header, 3 key, 5 digest). A segment seen before changes nothing,
one out of its chain's order ends the load with 4. A load that commits drops the reference of an earlier one. -/
def Sys2Proof.Claims.ImageRelayChecksInOrder : Prop :=
  ∀ (s : State) (c : CmdRef) (k : Cmd) (r : RelayLoad) (params : List Byte), s.loadOf c = some r → s.cmdAt c = some k →
    let ends := fun (x : State) => Host.Outcome.next (φ := Fault) (ρ := Refusal) (if (x.loadOf c).isNone then x.refDropped (c.fn.val - 1) else x)
    (∀ (h : List Byte) (tagOk digestOk : Bool), r.head = none →
      let run := exec (.imageRelay c params (.head h tagOk digestOk)) s
      let named := field 0 4 h = 0x3149574A ∧ field 4 2 h = 1 ∧ field 7 1 h = r.target ∧ field 8 4 h = r.model ∧ field 0xC 4 h = r.version
      let held := (tget s.boot.imageKeys (c.fn.val - 1, field 6 1 h)).isSome
      (¬named → run = ends (s.failLoad c 1 0xFFFFFFFF))
      ∧ (named → held = false → run = ends (s.failLoad c 3 0xFFFFFFFF))
      ∧ (named → held = true → tagOk = false → run = ends (s.failLoad c 1 0xFFFFFFFF))
      ∧ (named → held = true → tagOk = true → digestOk = false → run = ends (s.failLoad c 5 0xFFFFFFFF))
      ∧ (named → held = true → tagOk = true → digestOk = true →
        run = ends (((List.range 10).foldl (fun s j => s.passOn c j k.params (padTo 128 h))
          (s.modLoad c fun r => { r with head := some (padTo 128 h) })).checkLoad c)))
    ∧ (∀ (hd h cipher : List Byte) (plain : Option (List Byte)) (m : Model), r.head = some hd → s.modelAt (c.fn.val - 1) r.model = some m →
      let i := field 0 8 h
      let next := tgetD r.next (i % 10) (i % 10)
      (r.complete = true ∨ i < next → exec (.imageRelay c params (.seg h cipher plain)) s = .next s)
      ∧ (r.complete = false → next < i → exec (.imageRelay c params (.seg h cipher plain)) s = ends (s.failLoad c 4 i)))
    ∧ (s.dom.rank ≠ s.dom.anchor → exec (.imageRelay c params .last) s = .next s)

/-! ## Faults and recovery (14 R415 to R434) -/

/-- HANG of a busy unit of a module in service: the unit's running commands become the suspects of a replay, a record is begun and the
unit is reset; the same unit within a second of a reset escalates; in START_UP and RECOVERY the unit is reset, and a second time
escalates. A unit that is idle, under reset, or held by a trip has no hang. -/
def Sys2Proof.Claims.HangsResetAndReplay : Prop :=
  ∀ (s : State) (u : Fin 65536) (l : ResetLevel) (n : Fin 5),
    (n = 1 ∧ l = .tile ∨ n = 2 ∧ l = .engine ∨ n = 3 ∧ l = .linkGroup) →
    (s.inReset = true ∨ s.flt.withdrawn = true ∨ s.underReset l u = true ∨ s.unitHeld l u = true ∨ s.unitBusy l u = false →
      exec (.hang n u) s = .next s)
    ∧ (s.inReset = false → s.flt.withdrawn = false → s.underReset l u = false → s.unitHeld l u = false → s.unitBusy l u = true →
      let s1 := s.setFlt { s.flt with hangCount := (s.flt.hangCount + 1) % 2 ^ 64 }
      (s.flt.mode = .service → s1.recurs l u = true → exec (.hang n u) s = .next (s1.escalate l u 0))
      ∧ (s.flt.mode = .service → s1.recurs l u = false →
        let suspects := ((s1.cmdsUnder l u).filter (·.running)).foldl (fun acc c => s1.insertSuspect c acc) []
        let q := s1.beginCapture (unitSource l u) 1 l 0xFFFF
        let s2 := q.2.beginReset l u 1 false
        exec (.hang n u) s = .next (s2.setFlt { s2.flt with replays := s2.flt.replays ++ [⟨l, u, q.1, suspects.map (·.ref), false⟩] }))
      ∧ (s.flt.mode = .startUp ∨ s.flt.mode = .recovery →
        let again := tget s.flt.modeHangs (l.code, u.val) == some s.flt.mode
        let s2 := s1.setFlt { s1.flt with modeHangs := tset s1.flt.modeHangs (l.code, u.val) s.flt.mode }
        exec (.hang n u) s = .next (if again then s2.escalate l u 0 else s2.beginReset l u 1 false)))

/-- SUSPECT_REPLAY of the first suspect: a hang while it runs makes it guilty and resets the unit again; one that has ended or is done
leaves the list; one still running, without a hang, waits. -/
def Sys2Proof.Claims.SuspectsReplayInOrder : Prop :=
  ∀ (s : State) (n : Fin 5) (u : Fin 65536) (x : HangReplay) (c : CmdRef) (rest : List CmdRef),
    (s.flt.replays.find? fun x => x.level.code == n.val && x.unit == u.val) = some x → x.suspects = c :: rest →
    let next := fun (s : State) (g : Bool) => s.setFlt { s.flt with replays := s.flt.replays.map fun y =>
      if y = x then { y with suspects := rest, guilty := y.guilty || g } else y }
    (∀ k, s.cmdAt c = some k →
      (k.running = true → exec (.suspectReplay n u true) s
        = .next (((((next s true).guiltyOf x k).countHang).beginReset x.level x.unit 1 false).settleReplays))
      ∧ (k.running = false → exec (.suspectReplay n u true) s = .next s)
      ∧ (k.phase = .done → exec (.suspectReplay n u false) s = .next ((next s false).settleReplays))
      ∧ (k.phase ≠ .done → exec (.suspectReplay n u false) s = .next s))
    ∧ (s.cmdAt c = none → ∀ b, exec (.suspectReplay n u b) s = .next ((next s false).settleReplays))

/-- CAPTURE_TAKEN collects a record's 1 to 16 sections within 16 MiB, keeps the newest records that fit in 64 MiB, counts what it drops,
and tells of the record; a record already collected, or unknown, is left alone. -/
def Sys2Proof.Claims.CaptureCollected : Prop :=
  ∀ (s : State) (id : Nat) (xs : List (Nat × List Byte)),
    let found := s.flt.captures.find? fun c => c.id == id && !c.collected
    (found = none → exec (.captureTaken id xs) s = .next s)
    ∧ (∀ c, found = some c → 1 ≤ xs.length → xs.length ≤ 16 →
      let c' := { c with collected := true, sections := fitSections (16 * 2 ^ 20 - 0x40 - 16 * xs.length) xs }
      let q := fitStore (64 * 2 ^ 20) (s.flt.captures.map fun x => if x = c then c' else x)
      exec (.captureTaken id xs) s = .next ((s.setFlt { s.flt with captures := q.1, capDropped := (s.flt.capDropped + q.2) % 2 ^ 64 }).recoveryEvent
        ⟨0x0A07, if c.cause = 5 then 4 else 3, c.level.code, c.unit, c.tenant, c.id, 0, 0, 0⟩))

/-- RESET_DONE: a domain whose check passed leaves the resets, the time of its end is kept, RESET_DONE is told, and what the reset held
goes on; one whose check failed escalates. TENANT_RESET_DONE ends the tenant's reset. -/
def Sys2Proof.Claims.ResetsEnd : Prop :=
  (∀ (s : State) (n : Fin 7) (u : Fin 65536) (r : ResetJob),
    (s.flt.resets.find? fun r => r.level.code == n.val && (r.level == .module || r.unit == u.val)) = some r →
    let s1 := s.setFlt { s.flt with resets := s.flt.resets.filter (· != r) }
    (r.level = .module →
      exec (.resetDone n u true) s = .next s ∧ exec (.resetDone n u false) s = .next (s1.escalate .module 0 r.record))
    ∧ (r.level ≠ .module → exec (.resetDone n u false) s = .next (s1.escalate r.level r.unit r.record).settleReplays)
    ∧ (r.level ≠ .module → r.level ≠ .die →
      let s2 := s1.setFlt { s1.flt with lastReset := tset s.flt.lastReset (r.level.code, r.unit) s.dom.time }
      exec (.resetDone n u true) s = .next (s2.recoveryEvent ⟨0x0A03, 3, r.level.code, unitSource r.level r.unit, 0xFFFF, r.record, 0, 0,
        (s.dom.time - r.since) / 1000⟩).settleReplays))
  ∧ (∀ (s : State) (n : Fin 7) (u : Fin 65536) (ok : Bool),
    (s.flt.resets.find? fun r => r.level.code == n.val && (r.level == .module || r.unit == u.val)) = none → exec (.resetDone n u ok) s = .next s)
  ∧ (∀ (s : State) (t : Fin 512) (x : TenantReset), (s.flt.tenantResets.find? (·.tenant == t.val)) = some x →
    exec (.tenantResetDone t) s = .next (s.finishTenantReset x).settleReplays)

/-! ## Patina, power and temperature (14 R435 to R440; 15) -/

/-- Measurements and hours: six path margins join the averages; an eye height is kept, and below its floor an UP link retrains; each
power-on hour counts one, and one outside the rated conditions besides, with its event. -/
def Sys2Proof.Claims.MeasurementsAndHours : Prop :=
  ∀ (s : State), s.inReset = false →
    (∀ ms : List Int, ms.length = 6 → ∃ t, exec (.patinaMeasure ms) s = .next t ∧ t = s.setPat { s.pat with measured := t.pat.measured }
      ∧ ∀ d < 6, tgetD t.pat.measured d (0, 0) = ((tgetD s.pat.measured d (0, 0)).1 + ms.getD d 0, (tgetD s.pat.measured d (0, 0)).2 + 1))
    ∧ (∀ (l : Fin 96) mv, (s.peerAddr l).isSome →
      let s1 := s.setPat { s.pat with eyes := tset s.pat.eyes l.val mv }
      (mv < 12 → (s.linkAt l).phase = .up → exec (.eyeMeasure l mv) s = .next (s1.linkSettle l .retrain))
      ∧ (12 ≤ mv ∨ (s.linkAt l).phase ≠ .up → exec (.eyeMeasure l mv) s = .next s1))
    ∧ (∀ b : BitVec 5,
      let d := b.toNat + if s.pwr.tripInHour then 32 else 0
      let s1 := (s.setPat { s.pat with hours := (s.pat.hours + 1) % 2 ^ 32, outHours := if d = 0 then s.pat.outHours else (s.pat.outHours + 1) % 2 ^ 32 })
      let s2 := s1.setPwr { s1.pwr with tripInHour := false }
      exec (.powerOnHour b) s = .next (if d = 0 then s2 else s2.powerEvent 0 0x0B06 0xFF 0 (10 * s2.pwr.tcC) 0 d))

/-- Re-plans: a daily one 24 hours after the last plans and, at a step boundary, applies; REPLAN_APPLY applies the pending plan's clock, its
counters and registers once no learning step runs and no configuration waits; a deferred one changes nothing. -/
def Sys2Proof.Claims.ReplansApply : Prop :=
  (∀ (s : State) (r : PlanReading),
    (s.inReset = false → s.flt.withdrawn = false → s.flt.mode ≠ .recovery → s.pat.pending = none → s.pat.last + 24 ≤ s.pat.hours →
      exec (.patinaDailyReplan r) s = .next (s.replan [] r).replanBoundary)
    ∧ (s.flt.mode = .recovery ∨ s.pat.pending.isSome ∨ s.pat.hours < s.pat.last + 24 → exec (.patinaDailyReplan r) s = .next s))
  ∧ (∀ (s : State) (p : Replan), s.pat.pending = some p → s.inReset = false →
    (s.inStep = false → s.cmd.staged = [] → exec .replanApply s = .next (s.applyReplan p))
    ∧ (s.inStep = true ∨ s.cmd.staged ≠ [] → exec .replanApply s = .next s))

/-- A re-plan lowers the clock limit only by whole steps of 25 MHz, never below 1,500 MHz. -/
def Obligations.ReplanLowersClockBySteps : Prop :=
  ∀ (p : PatinaState) (h f : Nat), 1500 ≤ f → f % 25 = 0 →
    let (g, exhausted) := p.planClock h ((f - 1500) / 25) f
    1500 ≤ g ∧ g ≤ f ∧ g % 25 = 0
      ∧ (exhausted = false → p.short h g = false) ∧ (∀ x, g < x → x ≤ f → x % 25 = 0 → p.short h x = true) ∧ (exhausted = true → g = 1500)

/-- The governor: a prediction above a limit lowers the clock by the steps that it needs, to 975 MHz at the least and by the duty cycle
beyond; 100 µs at 50 W below every limit end the duty cycle, and then raise the clock by 25 MHz, never above f or a die's ceiling. -/
def Sys2Proof.Claims.GovernorMovesClock : Prop :=
  (∀ (s : State) (w i : Fin 4096) (mj : Nat) (tc : Fin 256) (ps : List Nat) (n : Nat), s.inReset = false → ps.length = 4 →
    let s1 := s.setPwr { s.pwr with
      pkgW := w, inputW := i, energyMj := (s.pwr.energyMj + mj) % 2 ^ 64, tcC := tc, tcMaxC := max s.pwr.tcMaxC tc }
    let pairs := ps.zip s1.powerLimits
    let run := exec (.governorSample w i mj tc ps n) s
    let f := min s.pwr.powerMhz s.pat.maxMhz
    ((∃ p ∈ pairs, p.2 < p.1) →
      let duty := s.pwr.duty || decide (f < 975 + 25 * max n 1)
      run = .next ((s1.setPwr { s1.pwr with
        powerMhz := max (min f 975) (f - 25 * max n 1), limiting := true, duty := duty
        dutyAt := if s.pwr.duty then s.pwr.dutyAt else s.dom.time, calmSince := none }).limitEvent (if duty then 2 else 1)))
    ∧ ((∀ p ∈ pairs, p.1 + 50 ≤ p.2) → run = .next (if s.pwr.calmSince.isSome then s1 else s1.setPwr { s1.pwr with calmSince := some s.dom.time }))
    ∧ ((∀ p ∈ pairs, p.1 ≤ p.2) → (∃ p ∈ pairs, p.2 < p.1 + 50) → run = .next (s1.setPwr { s1.pwr with calmSince := none })))
  ∧ (∀ (s : State), s.inReset = false →
    (∀ t, s.pwr.calmSince = some t → t + 100 * 1000 ≤ s.dom.time →
      let s1 := s.setPwr { s.pwr with calmSince := some s.dom.time }
      (s.pwr.duty = true → exec .governorRelease s = .next (s1.setPwr { s1.pwr with duty := false, stopped := s.stoppedNs }))
      ∧ (s.pwr.duty = false → s.governorTop ≤ s.governorMhz → exec .governorRelease s = .next s1)
      ∧ (s.pwr.duty = false → s.governorMhz + 25 < s.governorTop → exec .governorRelease s
        = .next (s1.setPwr { s1.pwr with powerMhz := s.governorMhz + 25, limiting := true }))
      ∧ (s.pwr.duty = false → s.governorMhz < s.governorTop → s.governorTop ≤ s.governorMhz + 25 → exec .governorRelease s
        = .next ((s1.setPwr { s1.pwr with powerMhz := s.governorTop, limiting := false }).limitEvent 0)))
    ∧ ((∀ t, s.pwr.calmSince = some t → s.dom.time < t + 100 * 1000) → exec .governorRelease s = .next s))

/-- INPUT_VOLTAGE: a band change is told; above 62 V, or below 46 V for more than 1 ms, the module loses its power; a short dip is only
recorded. -/
def Sys2Proof.Claims.InputVoltageBands : Prop :=
  ∀ (s : State) (v : Fin 65536) (long : Bool),
    let s1 := s.setPwr { s.pwr with v10mv := v }
    let band := if v.val < 4800 then 1 else if 6000 < v.val then 2 else 0
    (s.sig.phase = .off → exec (.inputVoltage v long) s = .next s1)
    ∧ (s.sig.phase ≠ .off →
      (6200 < v.val ∨ (v.val < 4600 ∧ long = true) → ∃ t, exec (.inputVoltage v long) s = .next t ∧ t.sig.phase = .off ∧ t.pwr.v10mv = v
        ∧ t.sig.faultDrive = false)
      ∧ (v.val < 4600 → long = false → exec (.inputVoltage v long) s = .next s1)
      ∧ (4600 ≤ v.val → v.val ≤ 6200 →
        (band = s.pwr.band → exec (.inputVoltage v long) s = .next s1)
        ∧ (band ≠ s.pwr.band → exec (.inputVoltage v long) s = .next ((s1.setPwr { s1.pwr with band := band }).powerEvent 0 0x0B05 0xFF 0 0
          s.governorMhz 0))))

/-- STACK_TEMP_SAMPLE: a level rises at once at its entry threshold, a second sample in a row of 105 °C trips, a level falls by one
only after 100 ms below its exit threshold, and otherwise the sample is recorded alone. -/
def Sys2Proof.Claims.StackLevels : Prop :=
  ∀ (s : State) (k : Fin 16) (tj : Int), s.inReset = false →
    let x := s.stackAt k
    let n := if 1050 ≤ tj then x.tripSamples + 1 else 0
    let since := if (exitBound x.level).any (fun b => tj < b.1) then some (x.belowSince.getD s.dom.time) else none
    let y := { x with tj := tj, tripSamples := n, belowSince := since }
    let s1 := s.setStack k y
    let run := exec (.stackTempSample k tj) s
    let rises := (entryLevel tj).code > x.level.code
    (x.level ≠ .trip → 2 ≤ n → run = .next (s1.moveStack k y .trip))
    ∧ (x.level ≠ .trip → n < 2 → rises → run = .next (s1.moveStack k y (entryLevel tj)))
    ∧ (∀ b t, (x.level = .trip ∨ (n < 2 ∧ ¬rises)) → exitBound x.level = some b → since = some t → t + 100 * 1000000 ≤ s.dom.time →
      run = .next (s1.moveStack k y b.2))
    ∧ ((x.level = .trip ∨ (n < 2 ∧ ¬rises)) → (∀ t, since = some t → s.dom.time < t + 100 * 1000000) → run = .next s1)
    ∧ (850 ≤ tj → tj < 950 → entryLevel tj = .breeze) ∧ (950 ≤ tj → tj < 1000 → entryLevel tj = .gale) ∧ (1000 ≤ tj → entryLevel tj = .squall)

/-- DIE_TEMP_SAMPLE of a compute die: at 100 °C its ceiling falls by a step, to 975 MHz at the least; two samples in a row of 110 °C trip
it. TRIP_TIMEOUT withdraws the module when a trip has lasted 60 s; THERMAL_SHUTDOWN takes the power and drives FAULT_N. -/
def Sys2Proof.Claims.DieTemperaturesAndTrips : Prop :=
  (∀ (s : State) (d : Fin 6) (tj : Int), s.inReset = false → d.val < 4 → (s.dieAt d).trip = false →
    let n := if 1100 ≤ tj then (s.dieAt d).tripSamples + 1 else 0
    let y := { s.dieAt d with tj := tj, tripSamples := n }
    let s1 := s.setDieTherm d y
    (2 ≤ n → exec (.dieTempSample d tj) s = .next (((s1.setDieTherm d { y with trip := true, tripAt := s.dom.time, belowSince := none }).countTrip.tripDie
      d).powerEvent d 0x0B02 (16 + d) 4 tj 0 0))
    ∧ (n < 2 → 1000 ≤ tj → exec (.dieTempSample d tj) s = .next ((s1.setDieTherm d { y with
      throttle := true, ceil := some (max (min 975 (s1.dieCeil d)) (s1.dieCeil d - 25)) }).noticeFrom s1.heatLevel))
    ∧ (n < 2 → tj < 980 → y.ceil = none → exec (.dieTempSample d tj) s
      = .next ((s1.setDieTherm d { y with throttle := false }).noticeFrom s1.heatLevel)))
  ∧ (∀ (s : State) (k : Fin 20), s.inReset = false → k.val < 16 → (s.stackAt k).level = .trip → (s.stackAt k).belowSince = none →
    ((s.stackAt k).tripAt + 60 * 1000000000 ≤ s.dom.time → exec (.tripTimeout k) s = .next (s.withdraw (srcCore (k.val / 4) 7) 5))
    ∧ (s.dom.time < (s.stackAt k).tripAt + 60 * 1000000000 → exec (.tripTimeout k) s = .next s))
  ∧ (∀ (s : State), (s.sig.phase = .off ∨ s.sig.phase = .standby → exec .thermalShutdown s = .next s)
    ∧ (s.sig.phase ≠ .off → s.sig.phase ≠ .standby → ∃ t, exec .thermalShutdown s = .next t ∧ t.sig.faultDrive = true
      ∧ t.sig.smbIso = false ∧ t.sig.smbLock = false))

/-! ## Sideband signals and start-up (16; 04 R21; 05 R137, R143; 13 R388) -/

/-- POWER_ON starts the timebase and the standby supply; t1 is the later of t0 + 200 ms and the rise of PWR_EN, t2 at the earliest
t1 + 30 ms, at PERST_N's release. PWR_EN's fall ends a drive of FAULT_N, as a loss of power; PERST_N's fall is a module reset of cause 4. -/
def Sys2Proof.Claims.PowerAndReset : Prop :=
  ∀ s : State,
    (s.sig.phase ≠ .off → exec .powerOn s = .next s)
    ∧ (s.sig.phase = .off → ∃ t, exec .powerOn s = .next t ∧ t.dom.time = 0 ∧ t.sig.t2 = 200 * 1000000
      ∧ t.sig.phase = (if s.sig.pwrEn then .held else .standby) ∧ t.sig.smbIso = false ∧ t.sig.smbLock = false ∧ t.sig.tickFree = true
      ∧ t.sig.smbAddr = s.sig.addrPin)
    ∧ (let s1 := s.setSig { s.sig with pwrEn := true }
      (s.sig.phase = .standby → exec .pwrEnRise s = .next (s1.setSig { s1.sig with phase := .held, t2 := max s.dom.time s.sig.t2 }))
      ∧ (s.sig.phase ≠ .standby → exec .pwrEnRise s = .next s1))
    ∧ (let s1 := s.setSig { s.sig with pwrEn := false }
      let ended := fun (x : State) => x.setSig { x.sig with faultDrive := false, faultLow := x.sig.faultLow && !x.sig.faultDrive }
      (s.sig.phase = .off ∨ s.sig.phase = .standby → exec .pwrEnFall s = .next (ended s1))
      ∧ (s.sig.phase ≠ .off → s.sig.phase ≠ .standby → exec .pwrEnFall s = .next (ended s1.powerLoss)))
    ∧ exec .perstNFall s = .next (({ s with sig := { s.sig with perstN := false } } : State).moduleReset 4)
    ∧ (∀ b : Bool, let s1 := s.setSig { s.sig with perstN := true, hostRefclk := b }
      (s.sig.phase = .held → exec (.perstNRelease b) s
        = .next (s1.startPackage (if s.sig.coldStart then max s.dom.time (s.sig.t2 + 30 * 1000000) else s.dom.time)))
      ∧ (s.sig.phase ≠ .held → exec (.perstNRelease b) s = .next s1))

/-- READY: only once the module is a member with every stack trained or its die retired, every port trained, and, on the anchor, its host
port up; the waiting enables then start and the held events go out. -/
def Sys2Proof.Claims.StartupReady : Prop :=
  ∀ s : State,
    let ready := s.dom.phase = .member ∧ s.flt.mode = .service ∧ s.sig.portsTrained = BitVec.allOnes 8
      ∧ (∀ k : Fin 16, s.sig.stacksTrained.getLsbD k = true ∨ (s.mem.die (k.val / 4)).retired = true) ∧ (s.dom.rank = s.dom.anchor → s.sig.visible = true)
    (s.inReset = true ∨ s.sig.ready = true ∨ ¬ready → exec .startupReady s = .next s)
    ∧ (s.sig.phase = .running → s.sig.ready = false → ready →
      let s1 := (s.setSig { s.sig with phase := .running, ready := true, coldStart := false }).endModuleReset.releaseHeld
      let s2 := if s1.sig.pins = s1.sig.latched then s1 else s1.sigEvent 0x0918 s1.sig.pins
      exec .startupReady s = .next (s2.sig.heldEnables.foldl (fun s f => s.startAdmin (Fin.ofNat 513 f)) (s2.setSig { s2.sig with heldEnables := [] })))
    ∧ (s.sig.phase = .starting → s.sig.ready = false → ready →
      let s1 := (s.setSig { s.sig with phase := .running, ready := true, coldStart := false, readyMs := min ((s.dom.time - s.sig.t2) / 1000000) 0xFFFE }).raiseSvn
      let s2 := s1.endModuleReset.releaseHeld
      let s3 := if s2.sig.pins = s2.sig.latched then s2 else s2.sigEvent 0x0918 s2.sig.pins
      exec .startupReady s = .next (s3.sig.heldEnables.foldl (fun s f => s.startAdmin (Fin.ofNat 513 f)) (s3.setSig { s3.sig with heldEnables := [] })))

/-- Training at a start-up: the host port makes the device visible; a link group's ports leave reset; a stack's failed channels map out
both their pseudo-channels; a bulk port takes what it found; a bridge that lost its training is a fault of its die. -/
def Sys2Proof.Claims.StartupTraining : Prop :=
  ∀ s : State, s.inReset = false →
    (∀ (g : Fin 8) (w : Fin 32), s.sig.hostRefclk = true → 4 ≤ g → w.val = 4 ∨ w.val = 8 ∨ w.val = 16 →
      let s1 := s.setHost { s.host with gen := g, width := w }
      (s.sig.visible = false →
        exec (.hostLinkUp g w) s = .next (s1.setSig { s.sig with visible := true, visibleMs := min ((s.dom.time - s.sig.t2) / 1000000) 0xFFFE }))
      ∧ (s.sig.visible = true → s.host.gen = 0 → exec (.hostLinkUp g w) s = .next s1))
    ∧ (∀ (g : Fin 8) (w : Fin 32), s.sig.hostRefclk = false → exec (.hostLinkUp g w) s = .next s)
    ∧ (∀ g : Fin 12, s.sig.groupsReleased.getLsbD g = false →
      let s1 := s.setSig { s.sig with
        releasedAt := if s.sig.groupsReleased = 0 then s.dom.time else s.sig.releasedAt, groupsReleased := s.sig.groupsReleased ||| (1#12 <<< g.val) }
      exec (.linkGroupResetReleased g) s = .next (if (s1.groupAt g).held then s1 else (groupLinks g).foldl State.releaseLink s1))
    ∧ (∀ (k : Fin 16) (cs : List (Fin 32)), s.sig.stacksTrained.getLsbD k = false →
      let s1 := cs.foldl (fun s c => (s.mapOutAtStart (64 * k.val + 2 * c.val)).mapOutAtStart (64 * k.val + 2 * c.val + 1)) s
      exec (.hbmStackTrained k cs) s = .next (s1.setSig { s1.sig with stacksTrained := s1.sig.stacksTrained ||| (1#16 <<< k.val) }))
    ∧ (∀ p : Fin 8, s.sig.portsTrained.getLsbD p = false →
      let s1 := s.setSig { s.sig with portsTrained := s.sig.portsTrained ||| (1#8 <<< p.val) }
      exec (.cxlPortTrained p none) s = .next (s1.setPort p ⟨false, false, 0, 0, 0, false, false⟩)
      ∧ (∀ gib, exec (.cxlPortTrained p (some (4, 16, gib, true))) s = .next (s1.setPort p ⟨true, true, 1, 0, min gib 1024, false, false⟩)
        ∧ exec (.cxlPortTrained p (some (4, 32, gib, true))) s = .next (s1.setPort p ⟨true, true, 1, 1, min gib 1024, false, false⟩)
        ∧ exec (.cxlPortTrained p (some (8, 64, gib, true))) s = .next (s1.setPort p ⟨true, true, 2, 2, min gib 1024, false, false⟩))
      ∧ (∀ n r gib ok, ok = false ∨ (n ≠ 4 ∧ n ≠ 8) ∨ (r ≠ 16 ∧ r ≠ 32 ∧ r ≠ 64) → exec (.cxlPortTrained p (some (n, r, gib, ok))) s
        = .next ((s1.setPort p ⟨true, false, 0, 0, 0, true, false⟩).memEvent 0 ⟨6, 2, 0, none, p, 0, bulkBase + p * portSpan, 0, 0⟩)))
    ∧ (∀ (d : Fin 4) (i : Fin 2), s.flt.withdrawn = false → 2 * d.val + i.val ∉ s.sig.bridgesDown →
      let s1 := s.setSig { s.sig with bridgesDown := s.sig.bridgesDown ++ [2 * d.val + i.val] }
      exec (.bridgeTrainingLost d i) s = .next (if s1.underReset .die d then s1 else s1.resetUnit .die d 2))

/-- FAULT_N: low without the module's own drive, it is seen at once; low for 1 s, it is masked; high for 1 s, unmasked again. -/
def Sys2Proof.Claims.FaultInput : Prop :=
  ∀ s : State,
    (s.sig.phase = .off ∨ s.sig.faultDrive = true → exec .faultSeen s = .next s ∧ exec .faultMasked s = .next s ∧ exec .faultUnmasked s = .next s)
    ∧ (s.sig.phase ≠ .off → s.sig.faultDrive = false →
      (s.sig.faultLow = false →
        let s1 := s.setSig { s.sig with faultLow := true, faultSince := s.dom.time }
        (s.sig.faultMask = false → exec .faultSeen s = .next (s1.sigEvent 0x0913 0)) ∧ (s.sig.faultMask = true → exec .faultSeen s = .next s1))
      ∧ (s.sig.faultLow = true → s.sig.faultMask = false →
        (s.sig.faultSince + 1000000000 ≤ s.dom.time → exec .faultMasked s = .next ((s.setSig { s.sig with faultMask := true }).sigEvent 0x0914 0))
        ∧ (s.dom.time < s.sig.faultSince + 1000000000 → exec .faultMasked s = .next s))
      ∧ (let s1 := s.setSig { s.sig with faultLow := false, faultMask := false }
        (s.sig.faultMask = true → exec .faultUnmasked s = .next (s1.sigEvent 0x0915 0))
        ∧ (s.sig.faultMask = false → exec .faultUnmasked s = .next s1)))

/-- TICK_IN: an interval of 1 s ± 100 µs is valid; while the timebase runs free the third in a row ends it and tells the grid master's
rate. No valid edge for 2 s frees it. TICK_OUT pulses, where enabled, at each whole second crossed. -/
def Sys2Proof.Claims.TickInAndOut : Prop :=
  ∀ s : State, s.sig.phase ≠ .off →
    let t := s.dom.time / 4 * 4
    let valid := fun (a : Nat) => 1000000000 ≤ t - a + 100000 ∧ t - a ≤ 1000100000
    let rate := fun (a : Nat) => (1000000000 : Int) - (t - a : Nat)
    (s.sig.tickFree = true → (∀ a, s.sig.lastEdge = some a → ¬valid a) →
      exec .tickInEdge s = .next (s.setSig { s.sig with lastEdge := some t, tickRun := 0 }))
    ∧ (s.sig.tickFree = false → ¬valid s.sig.tickNs → exec .tickInEdge s = .next (s.setSig { s.sig with lastEdge := some t }))
    ∧ (∀ a, s.sig.tickFree = true → s.sig.lastEdge = some a → valid a →
      (s.sig.tickRun < 2 → exec .tickInEdge s = .next (s.setSig { s.sig with lastEdge := some t, tickNs := t, tickRun := s.sig.tickRun + 1 }))
      ∧ (2 ≤ s.sig.tickRun →
        let s1 := s.setSig { s.sig with lastEdge := some t, tickNs := t, tickRun := 0, tickFree := false }
        (s1.gridMaster = false → exec .tickInEdge s = .next s1)
        ∧ (s1.gridMaster = true → exec .tickInEdge s
          = .next ((s1.setDom { s1.dom with ratePpb := s1.dom.ratePpb + rate a }).sigEvent 0x0917 (signed64 (rate a))))))
    ∧ (s.sig.tickFree = false → valid s.sig.tickNs →
      let s1 := s.setSig { s.sig with lastEdge := some t, tickNs := t, tickRun := 0 }
      (s1.gridMaster = false → exec .tickInEdge s = .next s1)
      ∧ (s1.gridMaster = true → exec .tickInEdge s = .next (s1.setDom { s1.dom with ratePpb := s1.dom.ratePpb + rate s.sig.tickNs })))
    ∧ (s.sig.tickFree = false → s.sig.tickNs + 2000000000 ≤ s.dom.time →
      let s1 := s.setSig { s.sig with tickFree := true, tickRun := 0 }
      (s1.gridMaster = true → exec .tickLost s = .next (s1.sigEvent 0x0916 s.sig.tickNs)) ∧ (s1.gridMaster = false → exec .tickLost s = .next s1))
    ∧ (s.sig.tickFree = true ∨ s.dom.time < s.sig.tickNs + 2000000000 → exec .tickLost s = .next s)
    ∧ (s.sig.tickSec < s.dom.time / 1000000000 → exec .tickOut s = .next (s.setSig { s.sig with
        tickSec := s.dom.time / 1000000000, tickPulses := s.sig.tickPulses + if s.sig.tickOutEn then 1 else 0 }))
    ∧ (s.dom.time / 1000000000 ≤ s.sig.tickSec → exec .tickOut s = .next s)

/-- The SMBus port: stuck lines begin nine recovery clocks; after them lines still low isolate the port, and within an hour of the last
isolation lock it; 1 s high rejoins a port that is not locked. The console input, the straps and the test access port. -/
def Sys2Proof.Claims.SidebandPorts : Prop :=
  ∀ s : State,
    (s.sig.phase = .off → ∀ b, exec (.uartRxStuck b) s = .next s)
    ∧ (s.sig.phase ≠ .off →
      (∀ a b, a = true ∨ b = true → s.sig.smbIso = false → s.sig.recovering = false →
        exec (.smbStuck a b) s = .next (s.setSig { s.sig with sclLow := a, sdaLow := b, recovering := true, stuckAt := s.dom.time }))
      ∧ (s.sig.recovering = true → s.sig.stuckAt + 1090000 ≤ s.dom.time →
        exec (.smbRecoveryCheck false false) s = .next ((s.setSig { s.sig with recovering := false, sclLow := false, sdaLow := false }).sigEvent 0x0912 0)
        ∧ (∀ a b, a = true ∨ b = true → exec (.smbRecoveryCheck a b) s = .next ((s.setSig { s.sig with
          recovering := false, sclLow := a, sdaLow := b, smbIso := true
          smbLock := s.sig.smbLock || (s.sig.lastIso.any fun t => decide (s.dom.time ≤ t + 3600 * 1000000000))
          lastIso := some s.dom.time, isoCount := (s.sig.isoCount + 1) % 2 ^ 64 }).sigEvent 0x0910 ((if a then 1 else 0) + if b then 2 else 0))))
      ∧ (s.sig.recovering = false ∨ s.dom.time < s.sig.stuckAt + 1090000 → ∀ a b, exec (.smbRecoveryCheck a b) s = .next s)
      ∧ (s.sig.smbIso = true →
        let g := { s.sig with sclLow := false, sdaLow := false }
        (s.sig.smbLock = false → exec .smbRejoined s = .next ((s.setSig { g with smbIso := false }).sigEvent 0x0911 0))
        ∧ (s.sig.smbLock = true → exec .smbRejoined s = .next (s.setSig g)))
      ∧ (∀ b, exec (.uartRxStuck b) s = .next (s.setSig { s.sig with uartMask := !b })))
    ∧ (∀ (a b : Bool) (n : BitVec 2),
      let s1 := s.setSig { s.sig with anchorPin := a, compatPin := b, addrPin := n }
      (s.sig.ready = false ∨ s1.sig.pins = s.sig.pins → exec (.strapChanged a b n) s = .next s1)
      ∧ (s.sig.ready = true → s1.sig.pins ≠ s.sig.pins → exec (.strapChanged a b n) s = .next (s1.sigEvent 0x0918 s1.sig.pins)))
    ∧ (∀ ir : Fin 7, exec (.tapInstruction true ir) s = .next (s.setSig { s.sig with tapReset := false, tap := ir })
      ∧ exec (.tapInstruction false ir) s = .next (s.setSig { s.sig with tapReset := true, tap := 0 }))

/-! ## Firmware, sessions and keys (17) -/

/-- A component that verifies is stored, an image in the inactive bank; its activation switches the controller's bank at once and marks the
others for the next start; a component that does not verify leaves every bank as it was. -/
def Sys2Proof.Claims.FirmwareComponents : Prop :=
  ∀ s : State,
    (∀ p : FwPayload, s.sig.phase = .off ∨ s.verifies p = false ∨ (componentOf p ≠ 0 ∧ s.controllerRuns = false) → exec (.firmwareUpdate p) s = .next s)
    ∧ (∀ p : FwPayload, s.sig.phase ≠ .off → s.verifies p = true → componentOf p = 0 ∨ s.controllerRuns = true →
      let b := match p with
        | .controller i => if s.boot.mcBank then { s.boot with mcA := some i } else { s.boot with mcB := some i }
        | .package i => if s.boot.pkgBank then { s.boot with pkgA := some i } else { s.boot with pkgB := some i }
        | _ => s.boot
      exec (.firmwareUpdate p) s
        = .next (s.setBoot { b with transferred := p :: s.boot.transferred.filter fun x => componentOf x != componentOf p }))
    ∧ (∀ k : Fin 4, s.sig.phase ≠ .off → (s.boot.transferred.find? fun x => componentOf x == k.val) = none → exec (.firmwareActivation k) s = .next s)
    ∧ (∀ (k : Fin 4) p, s.sig.phase ≠ .off → (s.boot.transferred.find? fun x => componentOf x == k.val) = some p →
      let b := { s.boot with transferred := s.boot.transferred.filter fun x => componentOf x != k.val }
      match p with
      | .controller _ => exec (.firmwareActivation k) s = .next (s.setBoot { b with mcBank := !s.boot.mcBank }).bootController
      | .package _ => exec (.firmwareActivation k) s = .next (s.setBoot { b with pkgPending := true })
      | .record r => exec (.firmwareActivation k) s = .next (s.setBoot { b with nextRecord := some r })
      | .board pmd d => exec (.firmwareActivation k) s = .next (s.setBoot { b with nextBoard := some (pmd, d) }))

/-- SPDM and TDISP: measurements go to the requester; PF0 holds 4 sessions, a VF one, and none is made without entropy; an interface goes
from CONFIG_UNLOCKED to CONFIG_LOCKED to RUN, and STOP resets the tenant. -/
def Sys2Proof.Claims.SessionsAndInterfaces : Prop :=
  ∀ s : State,
    (∀ (f : Fin 513) (m : Bool),
      (s.spdmOpen f m = false → (∀ i, exec (.getMeasurements f m i) s = .next s) ∧ exec (.keyExchange f m) s = .next s)
      ∧ (s.spdmOpen f m = true →
        exec (.getMeasurements f m 0) s = .next (s.setBoot { s.boot with measured := (f.val, s.measurements) :: s.boot.measured })
        ∧ (∀ i : Fin 8, i ≠ 0 → ∀ d, s.measurements[i.val - 1]? = some d →
          exec (.getMeasurements f m i) s = .next (s.setBoot { s.boot with measured := (f.val, [d]) :: s.boot.measured }))
        ∧ (let held := (s.boot.sessions.filter (·.fn == f.val)).length
          let limit := if f.val = 0 then 4 else 1
          (s.boot.entropyFail = true ∨ limit ≤ held → exec (.keyExchange f m) s = .next s)
          ∧ (s.boot.entropyFail = false → held < limit →
            exec (.keyExchange f m) s = .next (s.setBoot { s.boot with sessions := s.boot.sessions ++ [⟨f, m⟩] }))))
      ∧ exec (.endSession f m) s = .next (s.setBoot { s.boot with sessions := s.boot.sessions.eraseP fun x => x.fn == f.val && x.mctp == m }))
    ∧ (∀ t : Fin 512,
      (s.fnExists t = true →
        (s.tdiOf t = .unlocked → exec (.lockInterface t) s = .next (s.setBoot { s.boot with tdi := tset s.boot.tdi t .locked }))
        ∧ (s.tdiOf t ≠ .unlocked → exec (.lockInterface t) s = .next s)
        ∧ (s.tdiOf t = .locked → exec (.startInterface t) s = .next (s.setBoot { s.boot with tdi := tset s.boot.tdi t .run }))
        ∧ (s.tdiOf t ≠ .locked → exec (.startInterface t) s = .next s))
      ∧ (s.fnExists t = false → exec (.lockInterface t) s = .next s ∧ exec (.startInterface t) s = .next s)
      ∧ (s.tdiOf t = .unlocked → exec (.stopInterface t) s = .next s)
      ∧ (s.tdiOf t ≠ .unlocked →
        let s1 := s.resetTenant t false
        exec (.stopInterface t) s = .next (s1.setBoot { s1.boot with tdi := tdel s1.boot.tdi t })))

/-- Image keys: over its session the tenant sets or destroys a key here and on every other member; a key that a load names waits for the
load; no key is set during the tenant's reset or, on the anchor, without entropy. Debug unlock waits for the next module reset; a failed
entropy source stops key generation and is told once. -/
def Sys2Proof.Claims.KeysUnlockAndEntropy : Prop :=
  ∀ s : State,
    (∀ (t : Fin 512) (k : Fin 16) (key : Vector Byte 32),
      let put := fun (b : Option (List Byte)) =>
        if s.keyInUse t k = true ∨ (s.boot.keyWaits.any fun w => w.tenant == t.val && w.keyId == k.val) = true then
          s.setBoot { s.boot with keyWaits := s.boot.keyWaits ++ [⟨t, k, b⟩] } else s.putKey t k b
      let toPeers := fun (b : Option (List Byte)) =>
        (put b).peers.foldl (fun s r => s.send ⟨r, .imageKey, [t.val, k.val, if b.isNone then 1 else 0], b.getD []⟩) (put b)
      ((s.flt.tenantResets.any (·.tenant == t.val)) = true → ∀ r, exec (.imageKeySet t k key r) s = .next s)
      ∧ ((s.flt.tenantResets.any (·.tenant == t.val)) = false →
        exec (.imageKeySet t k key true) s = .next (put (some key.toList))
        ∧ (s.hasSession t = true → s.boot.entropyFail = false → exec (.imageKeySet t k key false) s = .next (toPeers (some key.toList)))
        ∧ (s.hasSession t = false ∨ s.boot.entropyFail = true → exec (.imageKeySet t k key false) s = .next s))
      ∧ exec (.imageKeyDestroy t k true) s = .next (put none)
      ∧ (s.hasSession t = true → exec (.imageKeyDestroy t k false) s = .next (toPeers none))
      ∧ (s.hasSession t = false → exec (.imageKeyDestroy t k false) s = .next s))
    ∧ (∀ ok : Bool,
      let may := ok = true ∧ ∃ x ∈ s.boot.sessions, x.fn = 0
      (may → exec (.debugUnlock ok) s = .next (s.setBoot { s.boot with unlockPending := true })) ∧ (¬may → exec (.debugUnlock ok) s = .next s))
    ∧ (s.sig.phase ≠ .off → s.boot.entropyFail = false →
      exec .entropyFail s = .next ((s.setBoot { s.boot with entropyFail := true }).sigEvent (Config.eventKind 1).toNat 0))
    ∧ (s.sig.phase = .off ∨ s.boot.entropyFail = true → exec .entropyFail s = .next s)

/-! ## Memory tiers (05; 13 R392) -/

/-- A migration's copy switches its mapping unless a source granule is under restoration; patrol scrubbing counts a correctable error and
begins the restoration of an uncorrectable one; an overdue pass sets its bit; a restoration puts an intact copy in place, this module's
first, or leaves the granule poisoned. -/
def Sys2Proof.Claims.MigrationScrubAndRestoration : Prop :=
  ∀ s : State,
    (∀ (t : Fin 512) (u : Nat) (g : Migration) (e : UnitEntry), (s.mem.migrations.find? (·.key == (t.val, u))) = some g → s.mem.unit (t.val, u) = some e →
      let held := e.backing.extents.any fun (a, n) => s.mem.restorations.any fun r => r.meets a n
      (held = false → exec (.migrationCopyDone t u) s = .next (s.switchMigration g)) ∧ (held = true → exec (.migrationCopyDone t u) s = .next s))
    ∧ (∀ (t : Fin 512) (u : Nat), (s.mem.migrations.find? (·.key == (t.val, u))) = none → exec (.migrationCopyDone t u) s = .next s)
    ∧ (∀ g : Nat,
      (s.dpaTier (g * 256) = none ∨ s.dpaTier (g * 256) = some .peer → ∀ f, exec (.patrolScrub g f) s = .next s)
      ∧ (∀ x, s.dpaTier (g * 256) = some x → x ≠ .peer →
        exec (.patrolScrub g .clean) s = .next s
        ∧ (∀ y, exec (.patrolScrub g (.correctable y)) s = .next (s.correctable g y) ∧ (s.correctable g y).mem.regs.ce = (s.mem.regs.ce + 1) % 2 ^ 64)
        ∧ (∀ y, exec (.patrolScrub g (.uncorrectable y)) s = .next (s.scrubUncorrectable g y))))
    ∧ (∀ k : Fin 3, exec (.scrubPassOverdue k) s
      = .next (s.setMem { s.mem with regs := { s.mem.regs with scrubStat := s.mem.regs.scrubStat ||| (1#3 <<< k.val) } }))
    ∧ (∀ (g : Nat) (x : Option (Bool × List Byte)), (s.mem.restorations.find? (·.granule == g)) = none → exec (.restorationDone g x) s = .next s)
    ∧ (∀ (g : Nat) (r : Restoration), (s.mem.restorations.find? (·.granule == g)) = some r →
      let o := s.mem.ownerOf (g * 256)
      let done := fun (s : State) => s.setMem ({ s.mem with restorations := s.mem.restorations.filter (·.granule != g) }.release r)
      (∀ x src d s1, s.intactCopy (g * 256) = some (src, d) → s.restore r (s.mem.cells.readBytes d (256 * r.count)) = some s1 →
        exec (.restorationDone g x) s = .next ((done (s1.setMem (s1.mem.counted r.count 0))).restorationEvent o (addressTier (g * 256)) r 2 src 0))
      ∧ (∀ b bs s1, s.intactCopy (g * 256) = none → bs.length = 256 * r.count → s.restore r bs = some s1 →
        exec (.restorationDone g (some (b, bs))) s
          = .next ((done (s1.setMem (s1.mem.counted r.count 0))).restorationEvent o (addressTier (g * 256)) r 2 (if b then 3 else 4) 0))
      ∧ (s.intactCopy (g * 256) = none → exec (.restorationDone g none) s = .next (done
        ((((s.setMem (s.mem.counted 0 r.count)).withdrawLease (g * 256)).restorationEvent o (addressTier (g * 256)) r 1 0 r.syndrome).dropPoisonedNodes))))

/-- Repair and retirement: a row due takes one of its bank's repair rows, and without one its pseudo-channel drains; a drained
pseudo-channel is mapped out, a drained region retired, and while units remain their evacuation goes on; a failed port loses its units. -/
def Sys2Proof.Claims.RepairAndRetirement : Prop :=
  ∀ s : State,
    (∀ (pc : Fin 1024) (row : Nat),
      let bank := (pc.val, Config.internalDatum row)
      let used := tgetD s.mem.err.repaired bank 0
      let e := { s.mem.err with repairDue := s.mem.err.repairDue.filter (· != (pc.val, row)) }
      ((pc.val, row) ∉ s.mem.err.repairDue → exec (.rowRepair pc row) s = .next s)
      ∧ ((pc.val, row) ∈ s.mem.err.repairDue → used < Config.repairRows pc → exec (.rowRepair pc row) s
        = .next (s.setMem { s.mem with err := { e with rowCe := tdel e.rowCe (pc.val, row), repaired := tset e.repaired bank (used + 1) } }))
      ∧ ((pc.val, row) ∈ s.mem.err.repairDue → Config.repairRows pc ≤ used → exec (.rowRepair pc row) s
        = .next ((s.setMem { s.mem with err := e }).beginDrain (dieOfPc pc) (pclOf pc) 2)))
    ∧ (∀ d : Fin 4,
      let r := s.mem.die d
      (r.request = none → exec (.mapoutTakesEffect d) s = .next s)
      ∧ (∀ m, r.request = some m → r.draining = true → r.retiring = false →
        (s.regionEmpty d = true → exec (.mapoutTakesEffect d) s
          = .next (s.finishDrain d { r with mapped := r.mapped ++ [m], draining := false, request := none, lowered := false }))
        ∧ (s.regionEmpty d = false → exec (.mapoutTakesEffect d) s = .next ((s.evacuate d).lowerForDrain d)))
      ∧ (r.retired = true → exec (.dieRegionRetire d) s = .next s)
      ∧ (r.retired = false → r.draining = false → exec (.dieRegionRetire d) s
        = .next (((s.setDie d { r with draining := true, request := none, retiring := true }).evacuate d).lowerForDrain d))
      ∧ (r.retired = false → r.draining = true → r.retiring = false → exec (.dieRegionRetire d) s = .next (s.setDie d { r with retiring := true }))
      ∧ (r.retired = false → r.draining = true → r.retiring = true →
        (s.regionEmpty d = true → exec (.dieRegionRetire d) s
          = .next (s.finishDrain d { r with retired := true, draining := false, request := none, retiring := false, lowered := false }))
        ∧ (s.regionEmpty d = false → exec (.dieRegionRetire d) s = .next ((s.evacuate d).lowerForDrain d))))
    ∧ (∀ p : Fin 8,
      let x := s.mem.ports[p]
      (x.inService = false → exec (.cxlPortFailed p) s = .next s)
      ∧ (x.inService = true → exec (.cxlPortFailed p) s = .next (((s.losePort p).setPort p { x with up := false, failed := true }).memEvent 0
        ⟨7, 2, 0, none, p, 0, bulkBase + p * portSpan, x.capGib * 4194304, 0⟩)))

/-- The host's window: a read of mapped memory answers its bytes, poisoned ones as poisoned, and waits while they are restored; an unmapped
one, and one of an interface in ERROR, is unsupported. A write of mapped memory is committed at once; an unmapped one writes nothing. -/
def Sys2Proof.Claims.HostWindow : Prop :=
  ∀ (s : State) (t : Fin 512) (o : Nat),
    let a := s.bar4Tva t o
    let out := fun (n : Nat) => s.fnExists t = false ∨ 2 ^ s.host.bar4Log < o + n
    (∀ n, (out n → exec (.bar4Read t o n) s = .next s)
      ∧ (¬out n →
        (s.tdiError t = true → exec (.bar4Read t o n) s = .next (s.reply .unsupported))
        ∧ (s.tdiError t = false → ∀ x, s.mem.unmapped t a n = some x →
          exec (.bar4Read t o n) s = .next ((s.reply .unsupported).emitHost (tenantFn t) 0x0908 s.dom.rank a 0))
        ∧ (s.tdiError t = false → s.mem.unmapped t a n = none →
          (s.restoring t a n = true → exec (.bar4Read t o n) s = .next s)
          ∧ (s.restoring t a n = false → s.poisonedRange t a n = true → exec (.bar4Read t o n) s = .next (s.reply (.poisoned (s.peek t a n))))
          ∧ (s.restoring t a n = false → s.poisonedRange t a n = false → exec (.bar4Read t o n) s = .next (s.reply (.data (s.peek t a n)))))))
    ∧ (∀ bs : List Byte, (out bs.length ∨ s.tdiError t = true → exec (.bar4Write t o bs) s = .next s)
      ∧ (¬out bs.length → s.tdiError t = false →
        (∀ x, s.mem.unmapped t a bs.length = some x → exec (.bar4Write t o bs) s = .next (s.emitHost (tenantFn t) 0x0908 s.dom.rank x 0))
        ∧ (s.mem.unmapped t a bs.length = none → exec (.bar4Write t o bs) s = .next (s.writeCommittedAll t a bs))))

/-! ## Placement (06) -/

/-- HEAT_SAMPLE: register writes take effect, every unit's heat is read and cleared, and promotions follow. -/
def Sys2Proof.Claims.HeatSampled : Prop :=
  ∀ s : State,
    let s1 := s.place.written.foldl (fun s (o, v) => s.applyPlc o v) s
    let s2 := s1.setPlace { s1.place with written := [], prevSample := s1.place.lastSample, lastSample := s1.dom.time, lent := s1.lent }
    let s3 := s2.setMem { s2.mem with units := s2.mem.units.map fun (k, u) =>
      (k, { u with sampled := if u.hint = .preferHbm then s2.place.promoteHeat else u.heat, heat := 0 }) }
    exec .heatSample s = .next s3.promotions ∧ ∀ k u, s3.mem.unit k = some u → u.heat = 0

/-- MEM_ALLOC, MEM_FREE, MEM_HINT and PLACE_REPORT: their refusals; the units placed at the lowest free addresses, unmapped, or hinted
(a PIN brings its bulk units in first and waits); the report written at OUT. -/
def Sys2Proof.Claims.PlacementCommands : Prop :=
  ∀ (c : CmdRef) (k : Cmd) (s s0 : State),
    let u64 := fun (o : Nat) => field o 8 k.params
    let refuse := fun (i : Instr) (st d : Nat) => exec i s = .next (s0.finish c st d 0)
    let ends := fun (i : Instr) (s' : State) (d : Nat) => exec i s = .next (s'.vote c d 0 [])
    (Acts 0x100 c k s s0 →
      let n := unitsFor (u64 0)
      let u := s0.freeTva k.tenant tenantUnits n
      let placed := State.placeUnits s0 (unitRange k.tenant u n) (if bit (field 8 4 k.params) 0 then .bulk else .any) s0
      (u64 0 = 0 → refuse (.memAlloc c) 0x02 0)
      ∧ (2 ^ 54 < u64 0 → refuse (.memAlloc c) stBulkFull 0)
      ∧ (u64 0 ≠ 0 → u64 0 ≤ 2 ^ 54 →
        (∀ s', placed = .ok s' → ends (.memAlloc c) s' (u * 2 ^ 21)) ∧ (∀ s', placed = .wait s' → exec (.memAlloc c) s = .next s')
        ∧ (placed = .full → refuse (.memAlloc c) stBulkFull 0)))
    ∧ (Acts 0x101 c k s s0 →
      (∀ ks, s0.unitsAt k.tenant (u64 0) (u64 8) = .ok ks → ends (.memFree c) (ks.foldl State.unmapUnit s0) 0)
      ∧ (s0.unitsAt k.tenant (u64 0) (u64 8) = .error 0x05 → refuse (.memFree c) 0x05 (u64 0))
      ∧ (s0.unitsAt k.tenant (u64 0) (u64 8) = .error 0x02 → refuse (.memFree c) 0x02 0))
    ∧ (Acts 0x102 c k s s0 →
      let kind := field 0x10 1 k.params
      (4 < kind ∨ 2 ^ 57 ≤ u64 0 ∨ u64 8 = 0 → refuse (.memHint c) 0x02 0)
      ∧ (kind ≤ 4 → u64 0 < 2 ^ 57 → u64 8 ≠ 0 → ∀ ks, s0.unitsAt k.tenant (u64 0) (u64 8) = .ok ks →
        let ignored := (ks.filter fun x => (s0.mem.unit x).any UnitEntry.ignoresHints).length
        let hinted := ks.foldl (fun s x => s.modUnit x fun u => if u.ignoresHints then u else { u with hint := hintOf kind }) s0
        let want := (ks.length - ignored + ((s0.pinnedUnits k.tenant).filter fun x => !ks.contains x).length) * unitBytes
        (kind ≠ 1 → ends (.memHint c) hinted ignored)
        ∧ (kind = 1 → s0.resvBytes k.tenant < want → refuse (.memHint c) stPinLimit (s0.resvBytes k.tenant - s0.pinnedBytes k.tenant))
        ∧ (kind = 1 → want ≤ s0.resvBytes k.tenant →
          (s0.broughtIn ks = true → ends (.memHint c) hinted ignored)
          ∧ (s0.broughtIn ks = false → s0.bringIn ks = none → refuse (.memHint c) stBulkFull 0)
          ∧ (∀ s', s0.broughtIn ks = false → s0.bringIn ks = some s' →
            exec (.memHint c) s = .next (s'.chargeDma k (35 * (s'.mem.migrations.length - s0.mem.migrations.length)))))))
    ∧ (Acts 0x103 c k s s0 →
      let q := u64 8
      let n := field 0x10 4 k.params
      (u64 0 % 8 ≠ 0 ∨ q % 2 ^ 21 ≠ 0 ∨ 2 ^ 57 ≤ q ∨ 65536 < n → refuse (.placeReport c) 0x02 0)
      ∧ (u64 0 % 8 = 0 → q % 2 ^ 21 = 0 → q < 2 ^ 57 → n ≤ 65536 → ∀ s', s0.output k (u64 0) (s0.placeReport k.tenant q n) = .ok s' →
        ends (.placeReport c) s' 0))

/-- FOIL_LEASE: a grant begins to load and waits, a switch of an ACTIVE lease waits for its boundary, a grant of what is ACTIVE ends at once;
a release of no lease ends at once, of a loading one ends it, of an ACTIVE one waits as RELEASING. Its events: the layout streamed, swapped
in at the step boundary, released. -/
def Obligations.FoilLeases : Prop :=
  (∀ (c : CmdRef) (k : Cmd) (s s0 : State), Acts 0x104 c k s s0 →
    let t := k.tenant
    let m := field 0 4 k.params
    let op := field 4 1 k.params
    let l := s0.leaseOf t
    let run := exec (.foilLease c) s
    let clean := field 5 3 k.params = 0 ∧ field 0xC 4 k.params = 0
    (1 < op ∨ ¬clean → run = .next (s0.finish c 0x02 0 0))
    ∧ (op = 1 → clean →
      (l.state = .none → run = .next (s0.vote c 0 0 []))
      ∧ (l.state = .loading ∨ l.state = .switching → run = .next ((s0.endLease t l 0).vote c 0 0 []))
      ∧ (l.state = .active → run = .next ((s0.setLease t { l with state := .releasing, waitNone := k.ref :: l.waitNone }).leaseEvent t .releasing l.version 0)))
    ∧ (op = 0 → clean →
      (∀ e, s0.leaseRefusal t m (field 8 4 k.params) = .error e → run = .next (s0.finish c e 0 0))
      ∧ (∀ v, s0.leaseRefusal t m (field 8 4 k.params) = .ok v →
        (l.state = .none → run = .next (s0.beginLease t m v .loading [k.ref]))
        ∧ (l.state = .releasing → run = .next s0)
        ∧ (l.state = .active → l.switchTo = none →
          (l.model = m → l.version = v → run = .next (s0.vote c v 0 []))
          ∧ (l.model ≠ m ∨ l.version ≠ v → run = .next (s0.setLease t { l with switchTo := some (m, v), waitActive := [k.ref] }))))))
  ∧ (∀ (s : State) (t : Fin 512),
    let l := s.leaseOf t
    ((l.state = .loading ∨ l.state = .switching) → l.streamed = false → exec (.leaseStreamDone t) s = .next (s.streamLease t l))
    ∧ ((l.state ≠ .loading ∧ l.state ≠ .switching) ∨ l.streamed = true → exec (.leaseStreamDone t) s = .next s)
    ∧ (l.state = .loading ∨ l.state = .switching → l.switchTo = none →
      (l.streamed = true → exec (.leaseSwap t) s = .next (s.activateLease t l)) ∧ (l.streamed = false → exec (.leaseSwap t) s = .next s))
    ∧ (∀ m v, l.state = .active → l.switchTo = some (m, v) → exec (.leaseSwap t) s
      = .next ((((s.unmapLease t l).setLease t { l with units := [] }).beginLease t m v .switching l.waitActive).refDropped t))
    ∧ (l.state = .releasing → exec (.leaseRelease t) s = .next (s.endLease t l 0))
    ∧ (l.state = .active → (l.units.any s.mem.leaseBad.contains = true → exec (.leaseRelease t) s = .next (s.endLease t l 2))
      ∧ (l.units.any s.mem.leaseBad.contains = false → exec (.leaseRelease t) s = .next s)))

/-- Pools: a module that left one joins the other; three imbalances in a row move a layer to the neighbour with the lower time; a change of
allocation waits for learning steps and leases, and is then applied; the rebalance and cache pool rows keep a pool whose times are even. -/
def Sys2Proof.Claims.PoolsAndAllocation : Prop :=
  ∀ (s : State) (t : Fin 512),
    (∀ r : Fin 64, ((s.tp t).joining.find? (·.1 == r.val)) = none → exec (.poolJoin t r) s = .next s)
    ∧ (∀ (r : Fin 64) p, ((s.tp t).joining.find? (·.1 == r.val)) = some p →
      let s1 := s.modTp t fun x => { x with joining := x.joining.filter (·.1 != r.val) }
      let l := rankInsert r ((s1.tp t).pools.get p.2)
      (p.2 = .dec → exec (.poolJoin t r) s = .next (s1.setDecode t l)) ∧ (p.2 = .pre → exec (.poolJoin t r) s = .next (s1.setPrefill t l))
      ∧ (p.2 ≠ .dec → p.2 ≠ .pre → exec (.poolJoin t r) s = .next (s1.modTp t fun x => { x with pools := x.pools.put p.2 l })))
    ∧ (∀ ts : List Nat, ts.length = (s.tp t).stages.length → 2 ≤ ts.length →
      (4 * ts.foldl max 0 ≤ 5 * ts.foldl min (ts.foldl max 0) → exec (.stageRebalance t ts) s = .next (s.modTp t fun x => { x with stageCount := 0 }))
      ∧ (5 * ts.foldl min (ts.foldl max 0) < 4 * ts.foldl max 0 → (s.tp t).stageCount + 1 < 3 →
        exec (.stageRebalance t ts) s = .next (s.modTp t fun x => { x with stageCount := (s.tp t).stageCount + 1 }))
      ∧ (5 * ts.foldl min (ts.foldl max 0) < 4 * ts.foldl max 0 → 3 ≤ (s.tp t).stageCount + 1 →
        let i := ts.findIdx (· == ts.foldl max 0)
        let st := (s.tp t).stages
        let n := st.getD i 0
        (n ≤ 1 → exec (.stageRebalance t ts) s = .next (s.modTp t fun x => { x with stageCount := 0 }))
        ∧ (1 < n → ∃ j layer, j < ts.length ∧ (j + 1 = i ∨ j = i + 1)
          ∧ (∀ k, k < ts.length → k + 1 = i ∨ k = i + 1 → ts.getD j 0 < ts.getD k 0 ∨ (ts.getD j 0 = ts.getD k 0 ∧ k ≤ j))
          ∧ exec (.stageRebalance t ts) s = .next ((s.modTp t fun x => { x with
              stages := (st.set i (n - 1)).set j (st.getD j 0 + 1), stageCount := 0, lastRebalance := s.dom.time }).placeEvent t 0x0101 4 0 layer n (n - 1)
              (ratio32 (ts.foldl max 0) (ts.foldl min (ts.foldl max 0))) 0 0))))
    ∧ (∀ a b : Nat, s.phaseOf t = .generate → (s.tp t).moveDue = none → a ≠ 0 → b ≠ 0 →
      (4 * max a b ≤ 5 * min a b → exec (.rebalance t a b) s = .next (s.modTp t fun x => { x with imbalance := 0 }))
      ∧ (5 * min a b < 4 * max a b → (s.tp t).imbalance + 1 < 3 →
        exec (.rebalance t a b) s = .next (s.modTp t fun x => { x with imbalance := (s.tp t).imbalance + 1 }))
      ∧ (5 * min a b < 4 * max a b → 3 ≤ (s.tp t).imbalance + 1 → (s.leaseOf t).state = .none →
        let s1 := s.modTp t fun x => { x with imbalance := (s.tp t).imbalance + 1 }
        ∀ rs x y, s1.rebalanceTarget t a b = some (rs, x, y) → rs ≠ [] → (s1.leaseOf t).state = .none →
          exec (.rebalance t a b) s = .next (s1.modTp t fun p => { p with moveDue := some (rs, x, y), imbalance := 0 })))
    ∧ (∀ (a b : Nat) rs x y, (s.tp t).moveDue = some (rs, x, y) → (s.leaseOf t).state = .none → s.overGroups t rs x y = false →
      let s1 := (s.modTp t fun p => { p with moveDue := none, imbalance := 0 }).leavePool t rs x y
      let r := ratio32 (max a b) (min a b)
      let n := fun (s : State) (i : PoolId) => ((s.tp t).pools.get i).length
      let s2 := s1.rebalanced t x rs.length (n s x) (n s1 x) r
      let s3 := s2.rebalanced t y rs.length (n s y) (n s1 y) r
      s3.phaseOf t = .generate → 4 * max a b ≤ 5 * min a b → exec (.rebalance t a b) s = .next (s3.modTp t fun p => { p with imbalance := 0 }))
    ∧ (∀ u n a b : Nat, s.phaseOf t = .generate → (s.tp t).moveDue = none →
      (u * 10 ≤ n * 9 → n ≤ u * 2 → exec (.cachePoolResize t u n a b) s = .next (s.modTp t fun x => { x with cacheHigh := 0, cacheLow := 0 }))
      ∧ (n * 9 < u * 10 → n ≤ u * 2 → (s.tp t).cacheHigh + 1 < 3 → exec (.cachePoolResize t u n a b) s
        = .next (s.modTp t fun x => { x with cacheHigh := (s.tp t).cacheHigh + 1, cacheLow := 0 }))
      ∧ (n * 9 < u * 10 → n ≤ u * 2 → 3 ≤ (s.tp t).cacheHigh + 1 → a ≤ b →
        let x := s.tp t
        let s1 := s.modTp t fun x => { x with cacheHigh := (s.tp t).cacheHigh + 1, cacheLow := 0 }
        let rs := (s1.leavingOrder t x.width x.pools.prefillPool (poolGroups x.width x.pools.prefillPool)).take 1
        s1.poolMin t .pre < x.pools.prefillPool.length → rs ≠ [] → s1.overGroups t rs .pre .cache = false →
          let s2 := (s1.modTp t fun x => { x with cacheHigh := 0, cacheLow := 0 }).leavePool t rs .pre .cache
          let len := fun (s : State) (i : PoolId) => ((s.tp t).pools.get i).length
          let s3 := s2.rebalanced t .pre 1 (len s1 .pre) (len s2 .pre) (ratio32 u n)
          exec (.cachePoolResize t u n a b) s = .next (s3.rebalanced t .cache 1 (len s1 .cache) (len s2 .cache) (ratio32 u n))))
    ∧ (∀ d, (s.tp t).pendingAlloc = none → exec (.allocChange t d) s = .next s)
    ∧ (∀ d new, (s.tp t).pendingAlloc = some new → s.phaseOf t ≠ .learn →
      let leased := (tgetD s.place.leases t ⟨.none, 0, 0, [], [], false, none, [], []⟩).state ≠ .none ∧ ∃ r ∈ s.allocRanks t, new.getLsbD r = false
      (leased → exec (.allocChange t d) s = .next s)
      ∧ (¬leased → (s.applyAlloc t new).phaseOf t ≠ .learn → exec (.allocChange t d) s = .next (s.applyAlloc t new)))

/-- The activation policy: within the tenant's HBM every AUTO tensor is kept, at once; beyond it a tensor goes to RECOMPUTE or OFFLOAD in
ascending recompute time a byte, and comes back to KEEP only at the third boundary in a row. -/
def Sys2Proof.Claims.ActivationPolicy : Prop :=
  (∀ (s : State) (t : Fin 512) (ms : List (Nat × Nat)), (s.tp t).saved = [] → exec (.actPolicy t ms) s = .next (s.modTp t fun p => { p with saved := [] }))
  ∧ (∀ (s : State) (t : Fin 512) (b r : Nat) (x : SavedTensor), (s.tp t).saved = [x] → x.auto = true → x.choice = .keep →
    let y := { x with bytes := b, recomputeNs := r }
    let budget := (s.resvBytes t - (s.hbmUse t - b)) + min s.hbmFree s.headroom.toNat
    let gone := if r * s.bulkRate t ≤ 2 * b * 1000 then ActChoice.recompute else .offload
    (b ≤ budget → exec (.actPolicy t [(b, r)]) s = .next (s.modTp t fun p => { p with saved := [{ y with candidate := none }] }))
    ∧ (budget < b → exec (.actPolicy t [(b, r)]) s
      = .next ((s.modTp t fun p => { p with saved := [{ y with choice := gone, candidate := none }] }).placeEvent t 0x0104 4 gone.code 1 0 0 0 0 0)))
  ∧ (∀ (x : SavedTensor) (c : ActChoice),
    (c = x.choice → x.take c = { x with candidate := none })
    ∧ (c ≠ x.choice → c ≠ .keep → x.take c = { x with choice := c, candidate := none })
    ∧ (x.choice ≠ .keep → ((x.take .keep).choice = .keep ↔ ∃ n, 2 ≤ n ∧ x.candidate = some (.keep, n))))

/-! ## Generation (07) -/

/-- GEN_SUBMIT: the checks in the order of R197 up to the request table; an accepted request of the generate phase joins the table with its
home, queue and prefix hit, its header written. GEN_CANCEL, GEN_PHASE, GEN_SCORE and GEN_STATS. -/
def Obligations.GenerationCommands : Prop :=
  ∀ (c : CmdRef) (k : Cmd) (s s0 : State),
    let t := k.tenant
    let refuse := fun (i : Instr) (st : Nat) => exec i s = .next (s0.finish c st 0 0)
    (Acts 0x300 c k s s0 →
      let model := s0.genModel t (k.u 8 4) [0, 1]
      let prompt := s0.readTva (some k.ref) t (k.u 0x10 8) (4 * k.u 0x18 4)
      (s0.phaseOf t ≠ .generate → refuse (.genSubmit c) stPhaseMismatch)
      ∧ (s0.phaseOf t = .generate → s0.phaseWaits t = false →
        (model = none → refuse (.genSubmit c) stModelUnknown)
        ∧ (∀ x v, model = some x → bits (k.u 0xC 4) 2 2 ≠ 1 → x.resolve k.verSel = .ok v →
          ((s0.reqAt t (k.u 0 8)).isSome = true → refuse (.genSubmit c) stRequestTagBusy)
          ∧ ((s0.reqAt t (k.u 0 8)) = none →
            (submitOperandsOk k x = false → refuse (.genSubmit c) 0x02)
            ∧ (submitOperandsOk k x = true → x.maxContext < k.u 0x18 4 + k.u 0x1C 4 → refuse (.genSubmit c) stContextTooLong)
            ∧ (submitOperandsOk k x = true → k.u 0x18 4 + k.u 0x1C 4 ≤ x.maxContext →
              s0.mem.unmapped t (k.u 0x10 8) (4 * k.u 0x18 4) = none → s0.mem.unmapped t (k.u 0x20 8) (64 + 16 * k.u 0x1C 4) = none →
              ∀ bs, prompt = .ok bs →
              (s0.chooseHome t (s0.tp t).groups = none → refuse (.genSubmit c) stRequestTableFull)
              ∧ (∀ home, s0.chooseHome t (s0.tp t).groups = some home →
                (s0.chooseQueue t home = none → exec (.genSubmit c) s = .next (s0.submitWaits k.ref))
                ∧ (∀ q, s0.chooseQueue t home = some q → bit (k.u 0xC 4) 0 = false → ∃ r : GenReq,
                  (r.tenant, r.tag, r.model, r.version, r.home, r.queueAt, r.state) = (t, k.u 0 8, k.u 8 4, v, home, q, ReqState.queued)
                  ∧ (r.prompt, r.outTva, r.maxNew, r.score, r.flags, r.stream, r.topK) = (tokensOf bs, k.u 0x20 8, k.u 0x1C 4, false, k.u 0xC 4, k.u 0x30 4, k.u 0x38 2)
                  ∧ (r.len, r.records, r.prefixHit, r.order) = (0, [], 0, s0.gen.nextOrder)
                  ∧ ∀ s', (s0.submitDone k.ref).output k r.outTva r.header = .ok s' →
                    exec (.genSubmit c) s = .next ((s'.addReq r).vote c (home.headD 0 % 256) 0 []))))))))
    ∧ (Acts 0x301 c k s s0 →
      (s0.reqAt t (k.u 0 8) = none → refuse (.genCancel c) stRequestUnknown)
      ∧ (∀ r, s0.reqAt t (k.u 0 8) = some r →
        let s1 := s0.modReq r.tenant r.tag fun x => { x with cancels := x.cancels ++ [k.ref], cancelDue := true }
        (k.ref ∈ r.cancels → exec (.genCancel c) s = .next s0)
        ∧ (k.ref ∉ r.cancels → r.state ≠ .parked → s0.cfg r.tenant 0x0300 ≠ 1 → s1.cfg r.tenant 0x0300 ≠ 1 → exec (.genCancel c) s = .next s1)
        ∧ (k.ref ∉ r.cancels → r.state = .parked → exec (.genCancel c) s = .next (s1.cancelNow { r with cancelDue := true }))))
    ∧ (Acts 0x302 c k s s0 → (s0.gen.phaseJobs.any (·.cmd == k.ref)) = false →
      let p := k.u 0 4
      let job := s0.setGen { s0.gen with phaseJobs := s0.gen.phaseJobs ++ [⟨k.ref, t, p == 1, k.u 4 4⟩] }
      (1 < p → refuse (.genPhase c) 0x02)
      ∧ (p ≤ 1 → s0.phaseOf t ≠ .generate → s0.phaseOf t ≠ .score → refuse (.genPhase c) stPhaseMismatch)
      ∧ (p = 0 ∧ s0.phaseOf t = .generate ∨ p = 1 ∧ s0.phaseOf t = .score → exec (.genPhase c) s = .next (s0.vote c 0 0 []))
      ∧ (p = 1 → s0.phaseOf t = .generate →
        ((s0.modelAt t (k.u 4 4)).any rewardOk = true → exec (.genPhase c) s = .next job)
        ∧ ((s0.modelAt t (k.u 4 4)).any rewardOk = false → refuse (.genPhase c) stModelUnknown))
      ∧ (p = 0 → s0.phaseOf t = .score → exec (.genPhase c) s = .next job))
    ∧ (Acts 0x303 c k s s0 →
      (s0.phaseOf t ≠ .score → refuse (.genScore c) stPhaseMismatch)
      ∧ (∀ m v x bs home, s0.phaseOf t = .score → s0.phaseWaits t = false → tget s0.turn.scoring t = some (m, v) → s0.modelAt t m = some x →
        s0.reqAt t (k.u 0 8) = none → 1 ≤ k.u 0x10 4 → k.u 0x10 4 ≤ x.maxContext → k.u 0x18 8 % 64 = 0 → k.u 8 8 % 4 = 0 →
        k.u 0x18 8 < 2 ^ 56 → k.u 8 8 < 2 ^ 56 → s0.mem.unmapped t (k.u 8 8) (4 * k.u 0x10 4) = none → s0.mem.unmapped t (k.u 0x18 8) 128 = none →
        s0.readTva (some k.ref) t (k.u 8 8) (4 * k.u 0x10 4) = .ok bs → s0.chooseHome t (s0.tp t).groups = some home →
        (8192 ≤ s0.queueLength (home.headD 0) → exec (.genScore c) s = .next (s0.submitWaits k.ref))
        ∧ (s0.queueLength (home.headD 0) < 8192 → exec (.genScore c) s = .next (((s0.submitDone k.ref).addReq (GenReq.new t (k.u 0 8) true m v
          (tokensOf bs) (k.u 0x18 8) home ((s0.freeDie (home.headD 0)).getD 0) (home.headD 0) s0.gen.nextOrder s0.dom.time)).vote c
          (home.headD 0 % 256) 0 []))))
    ∧ (Acts 0x304 c k s s0 → ∀ s', s0.output k (k.u 0 8) (s0.genStats t) = .ok s' → exec (.genStats c) s = .next (s'.vote c 0 0 []))

/-- Steps of the pools, and what a boundary does: a cancel that is due is processed and the request finalised; a phase switches once every
request is finalised; a step of a group runs its chunks or its batch, counts it, installs what has landed and ends at its boundary. -/
def Obligations.GenerationSteps : Prop :=
  ∀ (s : State) (t : Fin 512),
    (∀ tag, s.reqAt t tag = none → exec (.boundaryCancel t tag) s = .next s)
    ∧ (∀ tag r, s.reqAt t tag = some r →
      let final := fun (s : State) => s.finaliseAll fun x => x.tenant == t && x.tag == tag
      (r.cancelDue = true → exec (.boundaryCancel t tag) s = .next (final (s.cancelNow r)))
      ∧ (r.cancelDue = false → r.state.terminal = true → exec (.boundaryCancel t tag) s = .next (final s))
      ∧ (r.cancelDue = false → r.state.terminal = false → exec (.boundaryCancel t tag) s = .next s))
    ∧ ((s.gen.phaseJobs.find? (·.tenant == t.val)) = none → exec (.phaseSwitch t) s = .next s)
    ∧ (∀ j, (s.gen.phaseJobs.find? (·.tenant == t.val)) = some j →
      ((s.gen.reqs.any (·.tenant == t.val)) = true → exec (.phaseSwitch t) s = .next s)
      ∧ ((s.gen.reqs.any (·.tenant == t.val)) = false →
        let s1 := s.setGen { s.gen with phaseJobs := s.gen.phaseJobs.filter (·.cmd != j.cmd) }
        (∀ x, j.toScore = true → s1.modelAt t j.model = some x → rewardOk x = true →
          let s2 := s1.modTp t fun y => { y with
            width := x.w, groups := poolGroups x.w y.pools.decodePool, pools := { y.pools with scorePool := y.pools.decodePool, decodePool := [] } }
          exec (.phaseSwitch t) s = .next ((({ s2 with turn := { s2.turn with scoring := tset s2.turn.scoring t.val (j.model, x.published.getD 0) } }
            : State).setPhase t .score).vote j.cmd 0 0 []))
        ∧ (j.toScore = true → s1.modelAt t j.model = none → exec (.phaseSwitch t) s = .next (s1.finish j.cmd stModelUnknown 0 0))
        ∧ (j.toScore = false →
          let w := s1.genWidth t
          let s2 := s1.modTp t fun y => { y with
            width := w, groups := poolGroups w y.pools.scorePool, pools := { y.pools with decodePool := y.pools.scorePool, scorePool := [] } }
          exec (.phaseSwitch t) s = .next (((({ s2 with turn := { s2.turn with scoring := tdel s2.turn.scoring t.val } } : State).setPhase t
            .generate).releaseZero t).vote j.cmd 0 0 []))))
    ∧ (∀ (rank cache : Fin 64) (rs : List StepResult),
      let stalled := fun (s : State) (g : List Nat) => s.here g && s.gen.stalled.contains t.val
      (∀ g, ((poolGroups (s.tp t).width (s.tp t).pools.prefillPool).find? fun g => g.head? == some rank.val) = some g →
        (stalled (s.stallCheck t) g = true → exec (.prefillStep t rank rs cache) s = .next (s.stallCheck t))
        ∧ (stalled (s.stallCheck t) g = false → exec (.prefillStep t rank rs cache) s
          = .next ((((s.stallCheck t).runChunks t rank g false cache rs).poolRan t rank).boundary fun r =>
            r.tenant == t && r.queueAt == rank.val && (r.state == .queued || r.state == .prefilling || r.state.terminal))))
      ∧ (∀ g, ((s.tp t).groups.find? fun g => g.head? == some rank.val) = some g → s.phaseOf t ≠ .score →
        let s1 := (if s.here g then (s.decodeBatch t g).filter fun r => s.reqPoison r else []).foldl (fun s r => s.failReq r stMemoryPoison) s
        let batch := s1.decodeBatch t g
        let s2 := s1.setGen { s1.gen with reqs := s1.gen.reqs.map fun r =>
          if r.tenant = t.val ∧ r.home = g ∧ r.state = .decode then { r with idleSteps := r.idleSteps + 1 } else r }
        let s3 := s2.countBatch t g (batch.map fun r => r.len + 1 + (r.drafts (resultOf rs r.tag)).length)
        let s4 := batch.foldl (fun s r => s.commitDecode g cache rs r) s3
        let s5 := if (s4.tp t).pools.prefillPool.isEmpty then s4.runChunks t rank g true cache rs else s4
        let s6 := (s5.installLanded t g).poolRan t rank
        exec (.decodeStep t rank rs cache) s = .next (s6.boundary fun r =>
          r.tenant == t && r.home == g && (r.state != .queued || (s6.tp t).pools.prefillPool.isEmpty)))
      ∧ (∀ g, ((s.tp t).groups.find? fun g => g.head? == some rank.val) = some g → s.phaseOf t = .score →
        let chunks := takeChunks (s.cfg t 0x0302) (sortBy (fun (r : GenReq) => r.order)
          (s.gen.reqs.filter fun r => r.tenant == t && r.home == g && r.score && !r.state.terminal))
        let s1 := s.countBatch t g (chunks.map fun (r, n) => r.len + n)
        let s2 := chunks.foldl (fun s (r, n) => s.modReq t r.tag fun x =>
          if r.len + n ≥ r.promptLen then { x with len := r.len + n, state := .complete, status := stComplete, values := (resultOf rs r.tag).values.take 16 }
          else { x with len := r.len + n, state := .scoring, since := s.dom.time }) s1
        exec (.decodeStep t rank rs cache) s = .next s
        ∧ exec (.scoreStep t rank rs) s = .next ((s2.poolRan t rank).boundary fun r => r.tenant == t && r.home == g)))

/-- Drafts are accepted while they agree with the draws, and the first draw that disagrees, or the one after the last draft, ends the run;
records are cut after a stop token and at the limit. -/
def Obligations.AcceptedRun : Prop :=
  (∀ (v : Nat) (ds : List Nat) (ps : List (Nat × Word)), ps.length = ds.length + 1 → ∃ n ≤ ds.length,
    (acceptRun v ds ps).map (·.token) = (ps.take (n + 1)).map (·.1) ∧ ds.take n = (ps.take n).map (·.1)
    ∧ (n < ds.length → ds.getD n 0 ≠ (ps.getD n (0, 0)).1))
  ∧ (∀ (r : GenReq) (limit : Nat) (xs : List TokRec),
    let ys := cutRun r limit xs
    ys = xs.take ys.length ∧ ys.length ≤ limit ∧ (∀ i y, i + 1 < ys.length → ys[i]? = some y → y.token ∉ r.stops)
    ∧ (ys.length < limit → ys.length < xs.length → ∃ y, ys.getLast? = some y ∧ y.token ∈ r.stops))

/-- Output, shipping and starvation: on the anchor an update writes its records at OUT + 64 + 16 × first and its header, the oldest of its
own first; a landed item of a request waits for the next commit, any other is stored at once, and credit returns; a wait beyond the limit is
told once. -/
def Obligations.OutputShippingStarvation : Prop :=
  ∀ s : State,
    (s.dom.rank ≠ s.dom.anchor → ∀ u, exec (.outputAreaCommit u) s = .next s)
    ∧ (s.dom.rank = s.dom.anchor →
      let put := fun (s : State) (u : OutputUpdate) => (if u.records = [] then s else s.writeCommittedAll u.tenant (u.outTva + 64 + 16 * u.first)
        (u.records.flatMap recBytes)).writeCommittedAll u.tenant u.outTva u.header
      (∀ u, exec (.outputAreaCommit (some u)) s = .next (put s u))
      ∧ (∀ u us, s.gen.outQueue = u :: us → exec (.outputAreaCommit none) s = .next (put (s.setGen { s.gen with outQueue := us }) u))
      ∧ (s.gen.outQueue = [] → exec (.outputAreaCommit none) s = .next s))
    ∧ (∀ (h : PageHeader) (bs : List Byte) (ps : List Nat) (place : Nat),
      let s1 := if h.src = s.dom.rank ∧ h ∈ s.gen.ships then s.setGen { s.gen with ships := s.gen.ships.filter (· != h) } else s
      (h.kind = 0 ∨ h.kind = 3 → ((s1.reqAt h.tenant h.tag).any (!·.state.terminal)) = true →
        exec (.pageShip h bs ps place) s = .next (s1.setGen { s1.gen with landed := s1.gen.landed ++ [(h, bs, ps)] }).pumpShips)
      ∧ (h.kind ≠ 0 → h.kind ≠ 3 → h.dst = s.dom.rank → h.src ≠ s.dom.rank → ∀ n s2 p, s.takePage h.tenant h.model = some (n, s2) →
        s2.mem.page h.tenant (s2.arenaBase h.tenant h.model + entryBytes * n) = some p →
        exec (.pageShip h bs ps place) s = .next (s2.setMem (ps.foldl (fun m g => m.mark (p.dpa + 256 * g)) (s2.mem.put p.dpa (padTo entryBytes bs)))).pumpShips)
      ∧ (h.src = s.dom.rank → h ∈ s.gen.ships → h.kind = 1 → ∀ n, ((s1.reqAt h.tenant h.tag).bind fun r => (r.pages.getD h.layer [])[h.block]?) = some n →
        exec (.pageShip h bs ps place) s = .next (s1.mapPeer h n place).pumpShips))
    ∧ (∀ (t : Fin 512) tag,
      (s.reqAt t tag = none → exec (.reqStarved t (some tag)) s = .next s)
      ∧ (∀ r, s.reqAt t tag = some r → r.state = .queued →
        let late := r.since + s.cfg t 0x0304 * 1000000 < s.dom.time ∧ r.starved = false
        (late → exec (.reqStarved t (some tag)) s
          = .next ((s.modReq t tag fun x => { x with starved := true }).reqEvent r 0x0302 1 ((s.dom.time - r.since) / 1000000)))
        ∧ (¬late → exec (.reqStarved t (some tag)) s = .next s))
      ∧ (∀ r, s.reqAt t tag = some r → r.state ≠ .queued → r.state ≠ .shipping → exec (.reqStarved t (some tag)) s = .next s))
    ∧ (∀ (t : Fin 512) (pool : Fin 2),
      let ranks := if pool = 0 then (s.tp t).pools.prefillPool else (s.tp t).pools.decodePool
      let mine := s.gen.runs.filter fun p => p.tenant == t.val && ranks.contains p.rank
      let waits := s.gen.reqs.filter fun r => r.tenant == t.val && (r.state == .queued || r.state == .shipping)
      let last := max (mine.foldl (fun a p => max a p.lastAt) 0) ((waits.map (·.since)).min?.getD 0)
      (ranks = [] ∨ waits = [] ∨ s.dom.time ≤ last + s.cfg t 0x0304 * 1000000 → exec (.poolStarved t pool) s = .next s)
      ∧ (ranks ≠ [] → waits ≠ [] → last + s.cfg t 0x0304 * 1000000 < s.dom.time → mine ≠ [] → (mine.any (·.starved)) = false →
        exec (.poolStarved t pool) s = .next ((s.setGen { s.gen with runs := s.gen.runs.map fun p =>
          if (p.tenant == t.val && ranks.contains p.rank) = true then { p with starved := true } else p }).reqEvent
          (GenReq.new t 0 false 0 0 [] 0 [ranks.headD 0] 0 0 0 0) 0x0304 4 ((s.dom.time - last) / 1000000))))

/-! ## Learning (09) -/

/-- LEARN_SETUP takes a valid record in the IDLE, OPEN or CLOSED phase; LEARN_STEP starts its program on every tile in service of every
member, or is refused in the order of R255; LEARN_UPDATE of a closed step sends PREPARE. A model that is lost, or has no spare, refuses all. -/
def Sys2Proof.Claims.LearningCommands : Prop :=
  (∀ (c : CmdRef) (k : Cmd) (s s0 : State),
    let t := k.tenant
    let mid := k.learnModel
    let refuse := fun (i : Instr) (st : Nat) => exec i s = .next (s0.finish c st 0 0)
    (Acts 0x400 c k s s0 →
      (∀ st, s0.learnGate t mid = .error st → refuse (.learnSetup c none) st)
      ∧ (∀ m l, s0.learnGate t mid = .ok (m, l) →
        (l.phase = .preparing ∨ l.phase = .updating → exec (.learnSetup c none) s = .next s0)
        ∧ (l.phase ≠ .preparing → l.phase ≠ .updating →
          (setupHeaderOk k = false → refuse (.learnSetup c none) 0x02)
          ∧ (∀ gm, setupHeaderOk k = true → s0.readTva (some k.ref) t (k.u 0x28 8) m.tensors.length = .ok gm →
            (∀ o, s0.programsAt (some k.ref) t (k.u 0x18 8) = .ok (.error o) → exec (.learnSetup c none) s = .next (s0.finish c stProgramInvalid o 0))
            ∧ (∀ ps, s0.programsAt (some k.ref) t (k.u 0x18 8) = .ok (.ok ps) →
              let u : LearnSetup := {
                skipBlocks := k.u 5 1 == 1, buddy := k.u 6 1 == 1, gradGroups := (List.range (k.u 7 1)).map fun i => k.u (0x20 + i) 1
                seed := BitVec.ofNat 64 (k.u 8 8), clipNorm := BitVec.ofNat 32 (k.u 0x10 4), noiseEma := BitVec.ofNat 32 (k.u 0x14 4)
                programs := ps, groupMap := gm.map (·.toNat)
                groups := (List.range (k.u 4 1)).map fun i => groupRecord ((k.params.drop (0x40 + 80 * i)).take 80) }
              (s0.setupOk t m u = true → exec (.learnSetup c none) s = .next ((s0.setLearn t mid { l with setup := some u }).vote c 0 0 []))
              ∧ (s0.setupOk t m u = false → refuse (.learnSetup c none) 0x02))))))
    ∧ (Acts 0x402 c k s s0 → ∀ m l, s0.learnGate t mid = .ok (m, l) → (∀ j, l.update = some j → j.cmd ≠ k.ref) →
      let clean := atLeast0 (BitVec.ofNat 32 (k.u 4 4)) = true ∧ k.u 8 8 % 64 = 0 ∧ l.setup.isSome = true
      (¬clean → refuse (.learnUpdate c) 0x02)
      ∧ (clean → l.failedRerun = none →
        (l.phase = .idle → refuse (.learnUpdate c) stStepNotOpen)
        ∧ (l.phase = .opened → l.rerunAt = none → (∀ x ∈ l.takeovers, x.copied = true) → refuse (.learnUpdate c) stStepNotClosed)
        ∧ (l.phase = .closed →
          (l.version = 0xFFFFFFFE → refuse (.learnUpdate c) stVersionExhausted)
          ∧ (l.version ≠ 0xFFFFFFFE → s0.mem.unmapped t (k.u 8 8) 256 = none → exec (.learnUpdate c) s = .next (s0.sendPrepare t mid l
            ⟨k.ref, BitVec.ofNat 32 (k.u 4 4), k.u 8 8, k.u 0x10 8, bit (k.u 0x18 4) 0, [], [], 0, 0, 0, 0, 0, 0⟩))))))
  ∧ (∀ (c : CmdRef) (t : Fin 512) (mid : Nat) (u : LearnSetup) (s : State),
    exec (.learnSetup c (some (t, mid, u))) s = .next (s.modLearn t mid fun l => { l with setup := some u }))
  ∧ (∀ (c : CmdRef) (k : Cmd) (s s0 : State), Starts 0x401 c k s s0 →
    let t := k.tenant
    let run := exec (.learnStep c none) s
    let refuse := fun (st : Nat) => run = .next (served s0 c k ((s0.start k).finish c st 0 0))
    (∀ st, s0.learnGate t k.learnModel = .error st → refuse st)
    ∧ (∀ m l, s0.learnGate t k.learnModel = .ok (m, l) →
      let ranges := k.u 0x10 4 ≠ 0 ∧ k.u 0x20 2 ≤ 256 ∧ k.u 0x22 2 ≤ 3904
      (¬ranges → refuse 0x02)
      ∧ (ranges → s0.stepWaits k l = true → run = .next (served s0 c k s0))
      ∧ (ranges → s0.stepWaits k l = false → k.gradient = true →
        (l.phase = .idle → bit k.learnFlags 0 = false → refuse stStepNotOpen)
        ∧ (l.phase = .closed → bit k.learnFlags 0 = true → refuse stStepClosed)
        ∧ (s0.stepRefusal k l = none → ∀ s', s0.runStep k m l = .wait s' → run = .next (served s0 c k s')))
      ∧ (ranges → s0.stepWaits k l = false → k.gradient = false → bit k.learnFlags 3 = false →
        ∀ s', s0.runStep k m l = .wait s' → run = .next (served s0 c k s'))))

/-- A LEARN_STEP whose tiles are free starts the image on all tiles in service of all members with the learning block in the parameter area
and the shard table written, and an IDLE model opens its step; its part on another member starts there with that member's own block. -/
def Sys2Proof.Claims.LearningStepRuns : Prop :=
  (∀ (s : State) (k : Cmd) (m : Model) (l : Learn) (img : Image), k.gradient = true → k.u 0x20 2 = 0 →
    let t := k.tenant
    let tiles := (List.range 160).filter fun i => s.flt.tileMap.getLsbD i
    let all := l.members.flatMap fun r => tiles.map fun i => (r, i)
    (tiles = [] ∨ l.members = [] ∨ s.tilesOk k.ref all = false → s.runStep k m l = .wait s)
    ∧ (tiles ≠ [] → l.members ≠ [] → s.tilesOk k.ref all = true → s.imageAt (some k.ref) t (k.u 8 8) = .ok (.ok img) → l.planned ≠ 0 → l.phase ≠ .idle →
      s.readTva (some k.ref) t (k.u 0x28 8) 0 = .ok [] →
      let s1 := (s.setLearn t k.learnModel l).writeCommittedAll t l.tableTva (l.shardTable m none)
      let block := s1.stepBlock t k.learnModel l m k.params (omegaOf l.planned (k.u 0x10 4) 0) (l.micros + (s1.inFlight k).length) l.members
      s.runStep k m l = .wait (s1.launch k img block [] all ((s1.coll.groups.filter (·.tenant == t)).map (·.id)) (s1.imageBytes t (k.u 8 8) img))))
  ∧ (∀ (s : State) (c : CmdRef) (p : TilePart) (m : Model) (l : Learn), s.modelAt (c.fn.val - 1) (field 0 4 p.params) = some m → m.learn = some l → l.planned ≠ 0 →
    bit (field 4 4 p.params) 3 = false →
    let t := c.fn.val - 1
    let mid := field 0 4 p.params
    let s1 := s.writeCommittedAll t l.tableTva (l.shardTable m none)
    exec (.learnStep c (some p)) s = .next (s1.startPart c p (s1.stepBlock t mid l m p.params (omegaOf l.planned (field 0x10 4 p.params) 0) l.micros l.members) []
      ((s1.coll.groups.filter (·.tenant == t)).map (·.id))))

/-- The update protocol: a member takes PREPARE once; READY and DONE of a member count once, and the last one decides or commits; past the
time-out the step is closed again with its gradients; GO stores its record and starts the sweep; COMMIT swaps a swept member to n + 1 and ends a
skipped step at n. -/
def Sys2Proof.Claims.UpdateProtocol : Prop :=
  ∀ (s : State) (t : Fin 512) (mid : Nat) (m : Model) (l : Learn), s.modelAt t mid = some m → m.learn = some l →
    (∀ v,
      (v ≠ l.version ∨ l.phase = .updating ∨ l.phase = .lost → exec (.prepare t mid v) s = .next s)
      ∧ (v = l.version → l.phase ≠ .updating → l.phase ≠ .lost →
        (l.prepared.isSome = true → exec (.prepare t mid v) s = .next (s.checkReady t mid))
        ∧ (l.prepared = none → l.update = none → exec (.prepare t mid v) s = .next ((s.setLearn t mid { l with
          phase := .preparing, prepared := some (s.dom.time, l.ckptWaits, l.mirrorWaits) }).checkReady t mid))))
    ∧ (∀ (r : ReadyRec) j u, l.update = some j → l.setup = some u →
      (l.phase ≠ .preparing ∨ r.rank ∉ l.members ∨ (j.readys.any (·.rank == r.rank)) = true → exec (.ready t mid r) s = .next s)
      ∧ (l.phase = .preparing → r.rank ∈ l.members → (j.readys.any (·.rank == r.rank)) = false →
        let j1 := { j with readys := j.readys ++ [r] }
        let l1 := { l with update := some j1 }
        exec (.ready t mid r) s = .next (if l.members.all fun k => j1.readys.any (·.rank == k) then (s.setLearn t mid l1).decideUpdate t mid m l1 j1 u
          else s.setLearn t mid l1)))
    ∧ (∀ (r : DoneRec) j, l.update = some j →
      (l.phase ≠ .updating ∨ r.rank ∉ l.members ∨ (j.dones.any (·.rank == r.rank)) = true → exec (.done t mid r) s = .next s)
      ∧ (l.phase = .updating → r.rank ∈ l.members → (j.dones.any (·.rank == r.rank)) = false →
        let j1 := { j with dones := j.dones ++ [r] }
        let l1 := { l with update := some j1 }
        exec (.done t mid r) s = .next (if l.members.all fun k => j1.dones.any (·.rank == k) then (s.setLearn t mid l1).commitUpdate t mid m l1 j1
          else s.setLearn t mid l1)))
    ∧ (∀ j, l.update = some j →
      let due := l.phase = .preparing ∧ j.tPrepare + s.turn.prepareMs * 1000000 ≤ s.dom.time
        ∧ (∃ r ∈ l.members, s.dom.members.getLsbD r = true ∧ (j.readys.any (·.rank == r)) = false)
      let s1 := s.setLearn t mid { l with phase := .closed, update := none, prepared := none }
      let s2 := ({ s1 with turn := { s1.turn with abortCount := s1.turn.abortCount + 1 } } : State).learnEvent t 0x0402 mid l.version 0 0 stUpdateAborted 0
      (due → exec (.prepareTimeout t mid) s
        = .next ((s2.failUpdate t j (reportBytes l j (shortReport l j 2)) stUpdateAborted 0).abortOverlap t mid))
      ∧ (¬due → exec (.prepareTimeout t mid) s = .next s))
    ∧ (∀ g : GoRecord,
      (l.phase = .lost ∨ l.go.isSome = true ∨ g.version ≠ l.version ∨ s.dom.rank ∉ l.members → exec (.go t mid g) s = .next s)
      ∧ (l.phase ≠ .lost → l.go = none → g.version = l.version → s.dom.rank ∈ l.members →
        exec (.go t mid g) s = .next ((s.sendTo s.dom.coord .go [t.val, mid, g.version]).beginSweep t mid l g)))
    ∧ (l.update = none →
      (l.go.isSome = true → l.swept = true → exec (.learnCommit t mid (l.version + 1)) s = .next (s.swapLearn t mid m l))
      ∧ (l.go = none → l.phase ≠ .lost → exec (.learnCommit t mid l.version) s = .next (s.endStep t mid m l))
      ∧ (∀ v, v ≠ l.version → v ≠ l.version + 1 → exec (.learnCommit t mid v) s = .next s))
    ∧ (l.update.isSome = true → ∀ v, exec (.learnCommit t mid v) s = .next s)

/-- The sweep, its resumption, buddies and takeovers: the next block of an engine is updated as far as the row says, any other event of a block
changes nothing; a sweep that did not stop has nothing to resume; a checkpoint is held, or completed once a version; a takeover's copies restore
the spare; a kept command that was run again adds its work. -/
def Sys2Proof.Claims.SweepAndRecovery : Prop :=
  ∀ (s : State) (t : Fin 512) (mid : Nat) (m : Model) (l : Learn), s.modelAt t mid = some m → m.learn = some l →
    (∀ g p tensor block (upto : Fin 5), l.go = some g → l.shards[tensor]? = some p →
      let die := s.blockDie t m l g.setup tensor block
      let may := l.stopped = false ∧ l.swept = false ∧ (l.undo.filter (·.die == die)).length < 64 ∧ s.nextBlock t m l g.setup die = some (tensor, block)
        ∧ s.blockReadable t m l.n tensor p (m.blockOf l.n tensor (groupOf g.setup tensor) block).2.2 = true
      (¬may → exec (.updateBlock t mid tensor block upto) s = .next s)
      ∧ (may →
        let q := s.updateBlock t mid m l g tensor block upto p
        (q.2.stopped = true → exec (.updateBlock t mid tensor block upto) s = .next q.1)
        ∧ (q.2.stopped = false → exec (.updateBlock t mid tensor block upto) s = .next ((q.1.progressed 2 (srcEngine die)).checkSwept t mid))))
    ∧ (l.go = none → (∀ k b u, exec (.updateBlock t mid k b u) s = .next s) ∧ (∀ xs, exec (.sweepResume t mid xs) s = .next s))
    ∧ (∀ g xs, l.go = some g →
      let place := fun (k : Nat) => l.shards.getD k ⟨0, 0, 0⟩
      let readable := ∀ x ∈ l.sweepOrder m g.setup, s.blockReadable t m l.n x.1 (place x.1) (m.blockOf l.n x.1 (groupOf g.setup x.1) x.2).2.2 = true
      (l.stopped = false → readable → (∀ x ∈ l.undo, l.tag x.tensor x.block ≠ (l.version, l.version + 1)) → exec (.sweepResume t mid xs) s = .next s)
      ∧ (l.stopped = true → l.undo = [] → readable →
        let s1 := s.setLearn t mid { l with stopped := false }
        exec (.sweepResume t mid xs) s = .next (s1.checkSwept t mid)))
    ∧ (∀ bs : List Byte,
      (l.buddied = true → exec (.ckptDone t mid (some bs)) s = .next (s.setLearn t mid { l with held := some ⟨l.version, bs, none⟩ }))
      ∧ (l.buddied = false → exec (.ckptDone t mid (some bs)) s = .next s ∧ exec (.ckptDone t mid none) s = .next s))
    ∧ (l.buddied = true → l.ckptVersion ≠ some l.version → exec (.ckptDone t mid none) s
      = .next (((s.setLearn t mid { l with ckptVersion := some l.version }).learnEvent t 0x0405 mid l.version 0 0 0 0).checkReady t mid))
    ∧ (∀ a b, s.dom.rank ∈ l.members → l.phase ≠ .lost → exec (.takeoverCopyDone t mid (some (a, b))) s = .next (s.restoreMember t m l a b))
    ∧ (∀ x, (l.takeovers.find? fun x => !x.copied) = some x → l.phase ≠ .lost → exec (.takeoverCopyDone t mid none) s = .next (s.resumeTakeover t mid m l x))
    ∧ ((l.takeovers.find? fun x => !x.copied) = none → exec (.takeoverCopyDone t mid none) s = .next s)
    ∧ (l.rerunAt = none → ∀ st ws xs, exec (.exchangeRerun t mid st ws xs) s = .next s)
    ∧ (∀ i k xs, l.rerunAt = some i → l.kept[i]? = some k →
      let l1 := { l.addWork xs with
        sum := l.sum + k.examples, micros := l.micros + 1, phase := if bit (field 4 4 k.params) 1 then .closed else .opened }
      (i + 1 < l.kept.length → exec (.exchangeRerun t mid 0 [] xs) s = .next (s.setLearn t mid { l1 with rerunAt := some (i + 1) }))
      ∧ (l.kept.length ≤ i + 1 → exec (.exchangeRerun t mid 0 [] xs) s = .next (s.rerunOver t mid l1)))

/-! ## Turns (10) -/

/-- MODEL_CREATE of a new model with a valid record, table and images adds it here; a part adds it on a member, or votes the status that refuses
it. MODEL_LOAD begins a load. VERSION_HOLD, VERSION_QUERY and MODEL_DELETE. -/
def Sys2Proof.Claims.ModelCommands : Prop :=
  (∀ (c : CmdRef) (k : Cmd) (s s0 : State),
    let t := k.tenant
    let mid := k.u 0 4
    let refuse := fun (i : Instr) (st : Nat) => exec i s = .next (s0.finish c st 0 0)
    let ends := fun (i : Instr) (s' : State) => exec i s = .next (s'.vote c 0 0 [])
    (Acts 0x200 c k s s0 →
      ((s0.modelAt t mid).isSome = true → refuse (.modelCreate c none) stModelExists)
      ∧ ((s0.modelAt t mid) = none →
        (createOk k.params = false → refuse (.modelCreate c none) 0x02)
        ∧ (∀ tbl pgs, createOk k.params = true → s0.readTva (some k.ref) t (k.u 0x30 8) (32 * k.u 0x10 4) = .ok tbl →
          s0.readTva (some k.ref) t (k.u 0x38 8) 32 = .ok pgs →
          (∀ st, createRefusal k.params tbl = some st → refuse (.modelCreate c none) st)
          ∧ (createRefusal k.params tbl = none →
            let images := s0.stepImages (some k.ref) t ((List.range 4).map fun i => field (8 * i) 8 pgs)
            (∀ o, images = .ok (.error o) → exec (.modelCreate c none) s = .next (s0.finish c stProgramInvalid o 0))
            ∧ (∀ xs, images = .ok (.ok xs) →
              (∀ s', s0.addModel t mid (modelOf k.params tbl xs) = .ok s' → ends (.modelCreate c none) s')
              ∧ (∀ st, s0.addModel t mid (modelOf k.params tbl xs) = .error st → refuse (.modelCreate c none) st))))))
    ∧ (Acts 0x201 c k s s0 → (s0.host.relay.any (·.cmd == k.ref)) = false →
      let target := k.u 4 1
      let v := k.u 8 4
      (s0.modelAt t mid = none → refuse (.modelLoad c) stModelUnknown)
      ∧ (∀ m, s0.modelAt t mid = some m →
        let valid := target ≤ 2 ∧ (target ≤ 1 → m.learn.isSome = true) ∧ v ≠ 0 ∧ v ≠ 0xFFFFFFFF ∧ m.highest < v ∧ isHostTva (k.u 0x10 8) = true
        let open' := target ≤ 1 ∧ (∃ l, m.learn = some l ∧ l.phase ≠ .idle ∧ l.phase ≠ .lost)
        (¬valid → refuse (.modelLoad c) 0x02)
        ∧ (valid → open' → refuse (.modelLoad c) stStepNotIdle)
        ∧ (∀ d, valid → ¬open' → target = 2 → s0.versionLimit t mid m = some d → exec (.modelLoad c) s = .next (s0.finish c stVersionLimit d 0))
        ∧ (valid → ¬open' → target = 2 → s0.versionLimit t mid m = none → exec (.modelLoad c) s = .next ((s0.beginLoad k.ref mid target v).modCmd k.ref
          fun x => { x with tiles := (ranksOf (s0.beginLoad k.ref mid target v).dom.members).map fun r => (r, 0) }))
        ∧ (valid → ¬open' → target ≤ 1 → exec (.modelLoad c) s = .next ((s0.beginLoad k.ref mid target v).modCmd k.ref
          fun x => { x with tiles := (ranksOf (s0.beginLoad k.ref mid target v).dom.members).map fun r => (r, 0) }))))
    ∧ (Acts 0x204 c k s s0 →
      let v := k.u 4 4
      let bump := fun (f : Nat → Nat) => s0.modModel t mid fun y => { y with
        layouts := y.layouts.map fun l => if l.version == v then { l with holds := f l.holds } else l }
      (s0.modelAt t mid = none → refuse (.versionHold c) stModelUnknown)
      ∧ (∀ m, s0.modelAt t mid = some m →
        (k.u 8 4 = 0 →
          (m.hasLayout v = false → refuse (.versionHold c) stVersionReleased)
          ∧ (m.hasLayout v = true → 8 ≤ m.layouts.foldl (fun a l => a + l.holds) 0 → refuse (.versionHold c) stHoldLimit)
          ∧ (m.hasLayout v = true → m.layouts.foldl (fun a l => a + l.holds) 0 < 8 → ends (.versionHold c) (bump (· + 1))))
        ∧ (k.u 8 4 = 1 →
          ((m.layouts.any fun l => l.version == v && l.holds != 0) = true → ends (.versionHold c) ((bump (· - 1)).refDropped t))
          ∧ ((m.layouts.any fun l => l.version == v && l.holds != 0) = false → refuse (.versionHold c) 0x02))
        ∧ (2 ≤ k.u 8 4 → refuse (.versionHold c) 0x02)))
    ∧ (Acts 0x205 c k s s0 →
      (s0.modelAt t mid = none → refuse (.versionQuery c) stModelUnknown)
      ∧ (∀ m s', s0.modelAt t mid = some m → s0.output k (k.u 8 8) (s0.versionRecord t mid m) = .ok s' → ends (.versionQuery c) s'))
    ∧ (Acts 0x206 c k s s0 →
      (s0.modelAt t mid = none → refuse (.modelDelete c) stModelUnknown)
      ∧ (∀ m, s0.modelAt t mid = some m →
        (s0.modelBusy t mid = true → refuse (.modelDelete c) stModelBusy)
        ∧ (s0.modelBusy t mid = false → ends (.modelDelete c) (s0.deleteModel t mid m)))))
  ∧ (∀ (c : CmdRef) (t : Fin 512) (p tbl : List Byte) (xs : List (Option (List Byte))) (s : State),
    let mid := field 0 4 p
    ((s.modelAt t mid).isSome = true ∨ (createRefusal p tbl).isSome = true → exec (.modelCreate c (some (t, p, tbl, xs))) s = .next s)
    ∧ (s.modelAt t mid = none → createRefusal p tbl = none →
      (∀ s', s.addModel t mid (modelOf p tbl xs) = .ok s' → exec (.modelCreate c (some (t, p, tbl, xs))) s = .next s')
      ∧ (∀ st, s.addModel t mid (modelOf p tbl xs) = .error st → exec (.modelCreate c (some (t, p, tbl, xs))) s
        = .next (s.send ⟨s.dom.anchor, .vote, refArgs c ++ [s.dom.rank, st, 0, 0], []⟩))))

/-- FREEZE at its turn freezes the source version: refused for an unknown, lost or spareless model, for another version and at the version limit,
done at once when that version is published, waiting during an update; else it starts. A part begins here. THAW sets THAWING, and ends at once in
LEARN. -/
def Sys2Proof.Claims.TurnCommands : Prop :=
  (∀ (c : CmdRef) (k : Cmd) (s s0 : State),
    let t := k.tenant
    let mid := k.u 0 4
    (Acts 0x202 c k s s0 → (∀ k', s.cmdAt c = some k' → s.overlapped k' = false) → (∀ j ∈ s0.turn.freezes, j.cmd ≠ k.ref ∧ (j.plan.tenant ≠ t ∨ j.plan.model ≠ mid)) →
      let run := exec (.freeze c none) s
      (s0.phaseOf t = .freezing ∨ s0.phaseOf t = .thawing → run = .next s0)
      ∧ (s0.phaseOf t ≠ .freezing → s0.phaseOf t ≠ .thawing →
        (s0.modelAt t mid = none → run = .next (s0.finish c stModelUnknown 0 0))
        ∧ (∀ m, s0.modelAt t mid = some m → m.learn = none →
          let loaded := ((m.layouts.filter (!·.staging)).map (·.version)).max?
          (loaded = none → run = .next (s0.finish c stModelUnknown 0 0))
          ∧ (∀ v, loaded = some v → k.u 8 4 ≠ 0 → k.u 8 4 ≠ v → run = .next (s0.finish c stVersionMismatch 0 0))
          ∧ (∀ v, loaded = some v → k.u 8 4 = 0 ∨ k.u 8 4 = v → m.published = some v → run = .next (s0.vote c v 0 [])))
        ∧ (∀ m l, s0.modelAt t mid = some m → m.learn = some l →
          (l.phase = .lost → run = .next (s0.finish c stLearnStateLost 0 0))
          ∧ (l.phase ≠ .lost → l.noSpare = true → run = .next (s0.finish c stNoSpare 0 0))
          ∧ (l.noSpare = false → l.phase = .updating ∨ l.phase = .preparing → run = .next s0)
          ∧ (l.noSpare = false → l.phase ≠ .lost → l.phase ≠ .updating → l.phase ≠ .preparing →
            let named := k.u 8 4 = 0 ∨ k.u 8 4 = l.version
            (¬named → run = .next (s0.finish c stVersionMismatch 0 0))
            ∧ (named → m.published = some l.version → run = .next (s0.vote c l.version 0 []))
            ∧ (∀ d, named → m.published ≠ some l.version → m.layout l.version = none → s0.versionLimit t mid m = some d →
              run = .next (s0.finish c stVersionLimit d 0))
            ∧ (named → m.published ≠ some l.version → (m.layout l.version).isSome = true ∨ s0.versionLimit t mid m = none →
              let p := s0.planOf t mid m l.version (bit (k.u 4 4) 0) false
              (∀ st, s0.startFreeze k.ref p = .fail st 0 → run = .next (s0.finish c st 0 0)) ∧ (∀ s', s0.startFreeze k.ref p = .wait s' → run = .next s'))))))
    ∧ (Acts 0x203 c k s s0 → (∀ j ∈ s0.turn.thaws, j.cmd ≠ k.ref) →
      (s0.phaseOf t = .learn → exec (.thaw c) s = .next (s0.vote c 0 0 []))
      ∧ (s0.phaseOf t = .freezing ∨ s0.phaseOf t = .thawing → exec (.thaw c) s = .next s0)
      ∧ (s0.phaseOf t = .generate ∨ s0.phaseOf t = .score →
        let s1 := s0.setPhase t .thawing
        let j : ThawJob := ⟨k.ref, t, s0.dom.time, 0, 0, s0.cfg t 0x0200 != 0⟩
        let drain := s0.cfg t 0x0200 = 0 ∧ s0.cfg t 0x0201 ≠ 0
        exec (.thaw c) s = .next { s1 with turn := { s1.turn with
          thaws := s1.turn.thaws ++ [j], drains := if drain then s1.turn.drains ++ [⟨t, none, 0, s1.dom.time⟩] else s1.turn.drains } })))
  ∧ (∀ (c : CmdRef) (home : Nat) (p : FreezePlan) (s : State),
    ((∃ j ∈ s.turn.freezes, j.cmd = c) ∨ home = s.dom.rank → exec (.freeze c (some (home, p))) s = .next s)
    ∧ ((∀ j ∈ s.turn.freezes, j.cmd ≠ c) → home ≠ s.dom.rank →
      (∀ s', s.beginFreeze c home p = .ok s' → exec (.freeze c (some (home, p))) s = .next s')
      ∧ (∀ st, s.beginFreeze c home p = .error st →
        exec (.freeze c (some (home, p))) s = .next (s.send ⟨home, .vote, refArgs c ++ [s.dom.rank, st, 0, 0], []⟩))))

/-- Events of a turn: a unit of this member is converted, kept and sent on; one from another member is stored; LANDED counts a receiver at the
coordinator; PUBLISH swaps; a thaw ends once nothing is live; a drain limit applies the fallback; a layout whose count is 0 is released. -/
def Obligations.TurnEvents : Prop :=
  ∀ (s : State) (t : Fin 512) (mid : Nat),
    (s.freezeOf t mid = none → (∀ k src u w d, exec (.reshardPart t mid k src u w d) s = .next s) ∧ (∀ r, exec (.landed t mid r) s = .next s)
      ∧ (∀ v, exec (.publish t mid v) s = .next s))
    ∧ (∀ j, s.freezeOf t mid = some j →
      (∀ m l k u w, s.modelAt t mid = some m → m.learn = some l →
        (∀ src bs i, src ∈ l.members → j.part = some i → ((m.partUnits l.n i k (l.index src)).contains u && src != s.dom.rank) = true →
          exec (.reshardPart t mid k src u w (some bs)) s = .next (s.partHere j m l i k src u w bs))
        ∧ (∀ src bs, src ∈ l.members → j.part = none → exec (.reshardPart t mid k src u w (some bs)) s = .next s)
        ∧ (∀ src d, src ∉ l.members → exec (.reshardPart t mid k src u w d) s = .next s)
        ∧ (∀ x p, s.dom.rank ∈ l.members → sourceReady m l j k = true → m.tensors[k]? = some x → l.shards[k]? = some p → (s.dieAt (4 + u % 2)).throttle = false →
          let rows := (unitRows l.n x.rows (l.index s.dom.rank) u).map Prod.fst
          let bad := rows.any fun q => s.poisonedRange t (p.w + 2 * q * x.rowLen) (2 * x.rowLen)
          let held := rows.any fun q => s.restoring t (p.w + 2 * q * x.rowLen) (2 * x.rowLen)
          (held = true → exec (.reshardPart t mid k s.dom.rank u w none) s = .next s)
          ∧ (held = false → bad = true → exec (.reshardPart t mid k s.dom.rank u w none) s = .next (s.failFreeze j stMemoryPoison 0))
          ∧ (held = false → bad = false →
            let s1 := (s.sendParts j m l k u w).progressed 2 (srcReshard (u % 2))
            (j.part = none → exec (.reshardPart t mid k s.dom.rank u w none) s = .next s1)
            ∧ (∀ i, j.part = some i →
              ((m.partUnits l.n i k (l.index s.dom.rank)).contains u = true → exec (.reshardPart t mid k s.dom.rank u w none) s
                = .next (s1.partHere j m l i k s.dom.rank u w (s1.convertPart t m l k u j.plan.version i w)))
              ∧ ((m.partUnits l.n i k (l.index s.dom.rank)).contains u = false → exec (.reshardPart t mid k s.dom.rank u w none) s = .next s1)))))
      ∧ (∀ r : Fin 64, (j.home = s.dom.rank → (s.receivers j.plan).contains r.val = true → exec (.landed t mid r) s = .next (s.addLanded j r))
        ∧ (j.home ≠ s.dom.rank ∨ (s.receivers j.plan).contains r.val = false → exec (.landed t mid r) s = .next s))
      ∧ (∀ v, v ≠ j.plan.version → exec (.publish t mid v) s = .next s)
      ∧ (j.home ≠ s.dom.rank → exec (.publish t mid j.plan.version) s = .next (s.publishHere j))
      ∧ (j.home = s.dom.rank →
        (s.publishable j = false → exec (.publish t mid j.plan.version) s = .next s)
        ∧ (s.publishable j = true → exec (.publish t mid j.plan.version) s = .next ((s.sendAll ((s.allocRanks t).filter (· != s.dom.rank)) .publish
          [t.val, mid, j.plan.version]).publishHere j))))
    ∧ ((s.turn.thaws.find? (·.tenant == t.val)) = none → exec (.thawDone t) s = .next s)
    ∧ (∀ j, (s.turn.thaws.find? (·.tenant == t.val)) = some j → j.due = false →
      let s1 : State := { s with turn := { s.turn with thaws := updFirst (·.cmd == j.cmd) (fun _ => j) s.turn.thaws } }
      let ended := ∀ r ∈ s.gen.reqs, r.tenant = t.val → r.score = false ∧ (r.state = .parked ∨ r.state = .queued)
      (ended → exec (.thawDone t) s = .next (s1.endThaw j)) ∧ (¬ended → exec (.thawDone t) s = .next s1))
    ∧ (∀ o, (s.turn.drains.find? fun d => d.tenant == t.val && d.model == o) = none → exec (.drainLimit t o) s = .next s)
    ∧ (∀ o d, (s.turn.drains.find? fun d => d.tenant == t.val && d.model == o) = some d →
      (s.dom.time < d.since + s.cfg t 0x0201 * 1000000 → exec (.drainLimit t o) s = .next s)
      ∧ (o = none → d.since + s.cfg t 0x0201 * 1000000 ≤ s.dom.time →
        let s1 : State := { s with turn := { s.turn with drains := s.turn.drains.filter (· != d) } }
        let q := s1.thawPolicy t (s1.cfg t 0x0202)
        let s2 : State := { q.1 with turn := { q.1.turn with thaws := q.1.turn.thaws.map fun j =>
          if j.tenant = t.val then { j with parked := j.parked + q.2.carried, requeued := j.requeued + q.2.requeued } else j } }
        exec (.drainLimit t o) s = .next (s2.turnEvent t 0x0204 0 0 0 q.2.drained q.2.requeued q.2.carried ((s2.dom.time - d.since) / 1000))))
    ∧ (∀ v m l, s.modelAt t mid = some m → m.layout v = some l →
      (l.staging = true ∨ s.refs t mid v ≠ 0 → exec (.layoutRelease t mid v) s = .next s)
      ∧ (l.staging = false → s.refs t mid v = 0 → exec (.layoutRelease t mid v) s = .next (s.releaseLayout t mid m l)))
    ∧ (∀ v, s.modelAt t mid = none → exec (.layoutRelease t mid v) s = .next s)

/-! ## Rules stated whole, reset and the whole block -/

/-- A DEADLINE that is not 0 in a queue that is not paced: once device time has passed it, a command that has not started completes with
DEADLINE_MISSED at every row that could start it or tell of it, before any effect; a command that has started runs whatever its DEADLINE. -/
def Obligations.DeadlineBoundsTheStart : Prop :=
  ∀ (s : State) (c : CmdRef) (k : Cmd), s.cmdAt c = some k →
    (k.phase = .fetched → k.runs = 0 → k.deadline ≠ 0 → k.deadline < s.dom.time → (s.sqAt k.ref.fn k.ref.sq).any (·.paced) = false →
      exec (.deadlineMissed c) s = .next (s.finish c 0x15 0 0)
      ∧ (∀ body, runCommand k.opcode c body s = s.finish c 0x15 0 0)
      ∧ (∀ body, s.eligible k = true → startCommand k.opcode c body s = s.finish c 0x15 0 0))
    ∧ (k.phase = .started → s.myTurn c = true → ∀ body,
      (∀ s' d f, body s k = .ok s' d f → runCommand k.opcode c body s = s'.vote c d f [])
      ∧ (∀ st d, body s k = .fail st d → runCommand k.opcode c body s = s.finish c st d 0)
      ∧ (∀ s' st d, body s k = .failWith s' st d → runCommand k.opcode c body s = s'.finish c st d 0)
      ∧ (∀ s', body s k = .wait s' → runCommand k.opcode c body s = s'))

/-- An MXINT8 element is an 8-bit two's-complement integer n with value n × 2^-6: its codes 0 to 127 are 0 to 1.984375 (127 × 2^-6), its codes
0x80 to 0xFF are -2 (128 × 2^-6 below 0) to -2^-6. -/
def Obligations.MxInt8ElementValues : Prop :=
  ∀ n : Nat, n < 256 →
    (n = 0 → Elem.mxint8.decode n = .fin false 0 0)
    ∧ (1 ≤ n → n ≤ 127 → Elem.mxint8.decode n = .fin false n (-6))
    ∧ (128 ≤ n → Elem.mxint8.decode n = .fin true (256 - n) (-6))

/-- The sum of two zeros of opposite sign, and x + (−x) for finite x, is +0, except under rounding toward −∞, where it is −0: of exact values and
of FP32 words, where it raises no flag. An exact sum of products is −0 exactly when it has products and every one is −0; a zero sum is +0 otherwise. -/
def Obligations.ExactZeroSums : Prop :=
  (∀ (m : RMode) (x : FV), (∃ a n e, x = .fin a n e) → FV.add m x x.negate = .fin (m == .rdn) 0 0)
  ∧ (∀ (m : RMode) (sat : Bool) (a : Word), m ≠ .sr → a.extractLsb' 23 8 ≠ 255#8 →
    let zero : Word := if m = .rdn then 0x80000000 else 0
    faddF m sat a (a ^^^ 0x80000000) = ⟨zero, 0⟩ ∧ fsubF m sat a a = ⟨zero, 0⟩
    ∧ faddF m sat 0 0 = ⟨0, 0⟩ ∧ faddF m sat 0x80000000 0x80000000 = ⟨0x80000000, 0⟩)
  ∧ (∀ (xs : List FV) (e : Int), exactSum xs = .fin true 0 e ↔ xs ≠ [] ∧ (∀ x ∈ xs, ∃ g, x = .fin true 0 g) ∧ e = 0)

/-- z is the integer that v / d rounds to in a mode (02 R50): to the nearest, ties to even; toward zero; down; up. -/
def Sys2Proof.Claims.RoundsTo (m : RMode) (v d z : Int) : Prop :=
  match m with
  | .rne => 2 * (v - z * d).natAbs ≤ d ∧ (2 * (v - z * d).natAbs = d → z % 2 = 0)
  | .rtz => 0 ≤ z * v ∧ z.natAbs * d ≤ v.natAbs ∧ v.natAbs < (z.natAbs + 1) * d
  | .rdn => z * d ≤ v ∧ v < (z + 1) * d
  | .rup => (z - 1) * d < v ∧ v ≤ z * d
  | .sr => True

/-- CVTFI, whatever its SAT field: a finite lane is rounded to an integer in the mode of RM; one above 2^31 − 1, and +Inf, gives 0x7FFF_FFFF, one
below −2^31, and −Inf, 0x8000_0000, each with SATF; a NaN gives 0 with INV; any other sets no flag. CVTIF rounds each INT32 lane to the 24 bits of
an FP32 value in the mode of RM, without overflow and without a flag. -/
def Obligations.ConversionToAndFromInt32 : Prop :=
  (∀ (m : RMode) (a : Word), m ≠ .sr →
    (∀ neg n e, fv a = .fin neg n e → ∃ z : Int, RoundsTo m ((if neg then -1 else 1) * (n * 2 ^ e.toNat)) (2 ^ (-e).toNat) z
      ∧ cvtFI m a = if z > 2 ^ 31 - 1 then ⟨0x7FFFFFFF, flagSATF⟩ else if z < -2 ^ 31 then ⟨0x80000000, flagSATF⟩
        else ⟨BitVec.ofInt 32 z, 0⟩)
    ∧ (fv a = .inf false → cvtFI m a = ⟨0x7FFFFFFF, flagSATF⟩) ∧ (fv a = .inf true → cvtFI m a = ⟨0x80000000, flagSATF⟩)
    ∧ (fv a = .nan → cvtFI m a = ⟨0, flagINV⟩)
    ∧ (∃ neg n e, fv (cvtIF m a) = .fin neg n e ∧
        let p := Nat.log2 a.toInt.natAbs - 23
        ∃ k : Int, RoundsTo m a.toInt (2 ^ p) k ∧ (if neg then -1 else 1) * ((n : Int) * 2 ^ e.toNat) = k * 2 ^ p * 2 ^ (-e).toNat))
  ∧ (∀ (s : State) (t : Fin 160) (w : Operand) (m : RMode), RMode.ofCode (opBits w 27 3) = some m → m ≠ .sr →
    let x := s.tiles[t]
    let a := x.regs.v[opFin5 w 40]
    let old := x.regs.v[opFin5 w 45]
    let lm := x.getLM (opFin3 w 23)
    (Issues 5 0x1A rsvVec t w s → exec (.cvtfi t w) s = .next (wentOn s t ((x.setV (opFin5 w 45)
      (Vector.ofFn fun i => if lm.getLsbD i then (cvtFI m a[i]).val else old[i])).orFlags (laneFlags fun i => cvtFI m a[i])) 1))
    ∧ (Issues 5 0x19 rsvVec t w s → exec (.cvtif t w) s = .next (wentOn s t (x.setV (opFin5 w 45)
      (Vector.ofFn fun i => if lm.getLsbD i then cvtIF m a[i] else old[i])) 1)))

/-- What reset leaves in the registers whose Reset column states a number, read through PF0: identifiers of what the device supports, limits and
periods; every counter reads 0. -/
def Obligations.RegistersAfterReset : Prop :=
  let reads := fun (o : Nat) => State.reset.regRead 0 o
  (reads 0x1000 = 0x37FFF ∧ reads 0x1004 = 1)                                                    -- NUM_CAP, NUM_SFT_ID
    ∧ (reads 0x2000 = 0x44402040 ∧ reads 0x2004 = 0x14000 ∧ reads 0x2008 = 2000)                 -- SUE_CAP, SUE_CAP2, SUE_SEG_LIMIT
    ∧ (reads 0x30020 = 0x180A0C ∧ reads 0x30024 = 0 ∧ reads 0x30030 = 0 ∧ reads 0x30038 = 0 ∧ reads 0x30040 = 0)  -- MEM_SCRUB, MEM_*_COUNT
    ∧ (reads 0x36000 = 0 ∧ reads 0x36004 = 0 ∧ reads 0x36008 = 0 ∧ reads 0x3600C = 0)            -- TRN counts
    ∧ reads 0x52000 = 2800                                                                       -- PWR_CAP
    ∧ (State.reset.pat.maxMhz = 1950 ∧ State.reset.pat.eom = 0xFFFFFFFF ∧ State.reset.regs.cfgLock = false ∧ State.reset.pending = []
      ∧ (∀ t : Fin 160, State.reset.tiles[t] = Tile.idle) ∧ State.reset.sig.phase = .off)

/-- The clocks of a state: f, a re-plan that waits, the governor's clock and each die's thermal ceiling are whole steps of 25 MHz, f from 1,500 to
1,950 MHz, the others from 975 to 1,950 MHz. -/
def Sys2Proof.Claims.ClocksLegal (s : State) : Prop :=
  (1500 ≤ s.pat.maxMhz ∧ s.pat.maxMhz ≤ 1950 ∧ s.pat.maxMhz % 25 = 0)
  ∧ (∀ p, s.pat.pending = some p → 1500 ≤ p.maxMhz ∧ p.maxMhz ≤ 1950 ∧ p.maxMhz % 25 = 0)
  ∧ (975 ≤ s.pwr.powerMhz ∧ s.pwr.powerMhz ≤ 1950 ∧ s.pwr.powerMhz % 25 = 0)
  ∧ (∀ (d : Fin 6) (c : Nat), s.pwr.dies[d].ceil = some c → 975 ≤ c ∧ c ≤ 1950 ∧ c % 25 = 0)

/-- The clocks are legal after reset. -/
def Obligations.ClocksLegalAtReset : Prop := ClocksLegal State.reset

/-- Whatever command comes, in whatever state with legal clocks, the clocks stay legal; and what the dies then run at (the tensor clock of each)
is 0 under a trip and else a whole step of 25 MHz from 975 to 1,950 MHz. -/
def Obligations.ClocksStayLegal : Prop :=
  ∀ s t : State, ClocksLegal s → step s = .next t →
    ClocksLegal t ∧ ∀ d < 4, t.dieMhz d = 0 ∨ (975 ≤ t.dieMhz d ∧ t.dieMhz d ≤ t.pat.maxMhz ∧ t.dieMhz d % 25 = 0)

/-- A step takes one command from the queue and adds none: the rest of the queue waits on in its order. No command faults or is refused. -/
def Obligations.QueueIsFirstInFirstOut : Prop :=
  ∀ s : State, ∃ t, step s = .next t ∧ t.pending = s.pending.tail

/-! ## Statements of several parts -/

/-- Scalar arithmetic writes SD, compares write PD, and nothing else changes but the pc: ScalarArithmeticWritesDestination, ComparesWritePredicate, as each is stated above. -/
def Obligations.ScalarInstructions : Prop :=
  ScalarArithmeticWritesDestination ∧ ComparesWritePredicate

/-- Pad loads and stores, errors that the check of the pad finds, and descriptor words and cursors (alignment: the model's choice, log entry 21): PadErrorsCountOrKill, PadAccessesLoadAndStore, DescriptorWordsAndCursor, as each is stated above. -/
def Obligations.PadAndDescriptorAccess : Prop :=
  PadErrorsCountOrKill ∧ PadAccessesLoadAndStore ∧ DescriptorWordsAndCursor

/-- FP32 lane arithmetic, comparison and special functions write their lanes and OR the flags: FloatLanes, FloatCompareWritesLaneMask, SpecialFunctionLanes, as each is stated above. -/
def Obligations.FloatingLanes : Prop :=
  FloatLanes ∧ FloatCompareWritesLaneMask ∧ SpecialFunctionLanes

/-- VLD, VST, PADCOPY, MMA, STORE and ZERO over valid walks: MovesBetweenPadAndLanes, MatrixBanks, as each is stated above. -/
def Obligations.MovesAndMatrices : Prop :=
  MovesBetweenPadAndLanes ∧ MatrixBanks

/-- Row instructions, CVT and the instructions of random draws: RowsAndConversions, RandomInstructions, as each is stated above. -/
def Obligations.RowsConversionsAndDraws : Prop :=
  RowsAndConversions ∧ RandomInstructions

/-- FWAIT by its fence's state; transfers and fused collectives issue and complete: FenceWaitTable, TransfersIssue, FusedCollectiveIssues, TransfersAndSignalsComplete, as each is stated above. -/
def Obligations.FencesAndTransfers : Prop :=
  FenceWaitTable ∧ TransfersIssue ∧ FusedCollectiveIssues ∧ TransfersAndSignalsComplete

/-- Counters, their arrivals, the landing of a collective, the segment limit and pre-emption: CounterInstructions, CounterArrivalAdds, CollectiveSegmentAndPreemption, as each is stated above. -/
def Obligations.CountersSegmentsAndCollectives : Prop :=
  CounterInstructions ∧ CounterArrivalAdds ∧ CollectiveSegmentAndPreemption

/-- A false predicate passes the instruction over; reserved words and fields raise ILLEGAL_INSTRUCTION: FalsePredicatePassesOver, IllegalWordsRaise, as each is stated above. -/
def Obligations.PredicatesAndIllegalWords : Prop :=
  FalsePredicatePassesOver ∧ IllegalWordsRaise

/-- Queue commands, doorbells, and the fetch of one entry: QueueCommands, Doorbells, FetchTakesOneEntry, as each is stated above. -/
def Obligations.QueuesDoorbellsAndFetch : Prop :=
  QueueCommands ∧ Doorbells ∧ FetchTakesOneEntry

/-- The status reply, the votes of the taking part modules, commit and abort: ReplyWritten, VotesAndCommit, as each is stated above. -/
def Obligations.RepliesVotesAndCommit : Prop :=
  ReplyWritten ∧ VotesAndCommit

/-- CONFIG_SET and the phases by which a configuration epoch is applied: ConfigurationSet, ConfigurationBarrier, as each is stated above. -/
def Obligations.ConfigurationPhases : Prop :=
  ConfigurationSet ∧ ConfigurationBarrier

/-- Commands that write what they report at OUT, EVENT_RING, DOMAIN_STATUS, CAPTURE_READ and MEM_COPY: ReadingCommandsWriteOut, RingStatusAndCapture, MemoryCopy, as each is stated above. -/
def Obligations.DiagnosticAndCopyCommands : Prop :=
  ReadingCommandsWriteOut ∧ RingStatusAndCapture ∧ MemoryCopy

/-- TENANT_RESET, PATINA_REPLAN and the self-tests: TenantResetAndReplan, SelfTests, as each is stated above. -/
def Obligations.ResetReplanAndSelfTests : Prop :=
  TenantResetAndReplan ∧ SelfTests

/-- The host link, ATS invalidations, VF Enable, and function-level and host resets: HostPortEvents, FunctionAndHostResets, as each is stated above. -/
def Obligations.HostPortAndResets : Prop :=
  HostPortEvents ∧ FunctionAndHostResets

/-- Rounds, FORM records, ACCEPT and the coordinator's ELECTED decision: RoundsBegin, FormAndAccept, ElectedDecides, as each is stated above. -/
def Obligations.DomainFormation : Prop :=
  RoundsBegin ∧ FormAndAccept ∧ ElectedDecides

/-- Loss and regaining of members, device time's correction, and the coalescing of event interrupts: MembershipChanges, TimeSynchronisation, EventCoalescing, as each is stated above. -/
def Obligations.MembershipTimeAndEvents : Prop :=
  MembershipChanges ∧ TimeSynchronisation ∧ EventCoalescing

/-- Register writes and reads by the access rules, one word or two, with what they log: RegisterWritesChecked, WideWritesAndDoorbellWords, RegisterReads, as each is stated above. -/
def Obligations.RegisterAccess : Prop :=
  RegisterWritesChecked ∧ WideWritesAndDoorbellWords ∧ RegisterReads

/-- The register writes that have a row, the configuration lock, the administration pair and the event ring's head: NamedRegisterWrites, ConfigurationLockHolds, AdministrationPairAndEventHead, as each is stated above. -/
def Obligations.NamedRegisters : Prop :=
  NamedRegisterWrites ∧ ConfigurationLockHolds ∧ AdministrationPairAndEventHead

/-- The states of a link: training, alignment, IDENT, recalibration, retraining and loss: LinkTraining, IdentBringsUpOrMiswired, RecalibrationAndRetraining, LinkLossEvents, as each is stated above. -/
def Obligations.LinkStates : Prop :=
  LinkTraining ∧ IdentBringsUpOrMiswired ∧ RecalibrationAndRetraining ∧ LinkLossEvents

/-- Frames and their acknowledgement; pad, counter and memory messages: FrameEvents, EndToEndAcknowledgement, PadAndCounterMessages, MemoryMessages, as each is stated above. -/
def Obligations.FramesAndMessages : Prop :=
  FrameEvents ∧ EndToEndAcknowledgement ∧ PadAndCounterMessages ∧ MemoryMessages

/-- Collective groups and the messages of the collective protocol: CollectiveGroups, CollectiveMessages, as each is stated above. -/
def Obligations.GroupsAndCollectiveMessages : Prop :=
  CollectiveGroups ∧ CollectiveMessages

/-- Heat notices, MODULE_RESETTING and the relayed segments of a weight image: HeatNoticesAndResettingModules, ImageRelayChecksInOrder, as each is stated above. -/
def Obligations.HeatNoticesAndImageRelay : Prop :=
  HeatNoticesAndResettingModules ∧ ImageRelayChecksInOrder

/-- A hang, its suspects' replay, the capture record and the end of a reset: HangsResetAndReplay, SuspectsReplayInOrder, CaptureCollected, ResetsEnd, as each is stated above. -/
def Obligations.HangsResetsAndCaptures : Prop :=
  HangsResetAndReplay ∧ SuspectsReplayInOrder ∧ CaptureCollected ∧ ResetsEnd

/-- Patina's measurements and hours, and when a re-plan applies: MeasurementsAndHours, ReplansApply, as each is stated above. -/
def Obligations.PatinaMeasuresAndReplans : Prop :=
  MeasurementsAndHours ∧ ReplansApply

/-- The governor's steps down and up, and the bands of the input voltage: GovernorMovesClock, InputVoltageBands, as each is stated above. -/
def Obligations.GovernorAndInputVoltage : Prop :=
  GovernorMovesClock ∧ InputVoltageBands

/-- Stack levels, die ceilings, trips, their time-out and the thermal shutdown: StackLevels, DieTemperaturesAndTrips, as each is stated above. -/
def Obligations.TemperaturesAndTrips : Prop :=
  StackLevels ∧ DieTemperaturesAndTrips

/-- Power-on, PERST_N, start-up training and READY: PowerAndReset, StartupReady, StartupTraining, as each is stated above. -/
def Obligations.PowerTrainingAndReadiness : Prop :=
  PowerAndReset ∧ StartupReady ∧ StartupTraining

/-- FAULT_N, TICK_IN and TICK_OUT, the SMBus port, straps, console and test access: FaultInput, TickInAndOut, SidebandPorts, as each is stated above. -/
def Obligations.SidebandSignals : Prop :=
  FaultInput ∧ TickInAndOut ∧ SidebandPorts

/-- Firmware components, SPDM and TDISP, image keys, debug unlock and entropy: FirmwareComponents, SessionsAndInterfaces, KeysUnlockAndEntropy, as each is stated above. -/
def Obligations.FirmwareSessionsAndKeys : Prop :=
  FirmwareComponents ∧ SessionsAndInterfaces ∧ KeysUnlockAndEntropy

/-- Migration, scrubbing, restoration, repair, retirement and the host's memory window: MigrationScrubAndRestoration, RepairAndRetirement, HostWindow, as each is stated above. -/
def Obligations.MemoryTiersAndHostWindow : Prop :=
  MigrationScrubAndRestoration ∧ RepairAndRetirement ∧ HostWindow

/-- HEAT_SAMPLE, MEM_ALLOC, MEM_FREE, MEM_HINT and PLACE_REPORT: HeatSampled, PlacementCommands, as each is stated above. -/
def Obligations.PlacementOfMemory : Prop :=
  HeatSampled ∧ PlacementCommands

/-- Pools and their rebalance, changes of allocation, and the activation policy: PoolsAndAllocation, ActivationPolicy, as each is stated above. -/
def Obligations.PoolsAllocationAndActivation : Prop :=
  PoolsAndAllocation ∧ ActivationPolicy

/-- LEARN_SETUP, LEARN_STEP and LEARN_UPDATE, and the start of a learning step: LearningCommands, LearningStepRuns, as each is stated above. -/
def Obligations.LearningCommandsAndSteps : Prop :=
  LearningCommands ∧ LearningStepRuns

/-- The update protocol, the sweep and its resumption, buddies and takeovers: UpdateProtocol, SweepAndRecovery, as each is stated above. -/
def Obligations.UpdateSweepAndRecovery : Prop :=
  UpdateProtocol ∧ SweepAndRecovery

/-- MODEL_CREATE, MODEL_LOAD, MODEL_DELETE, VERSION_HOLD, VERSION_QUERY, FREEZE and THAW: ModelCommands, TurnCommands, as each is stated above. -/
def Obligations.ModelAndTurnCommands : Prop :=
  ModelCommands ∧ TurnCommands
end

