-- ==== Sys2Proof/Laws/Commands.lean ====
section
/-! SUPPORT. What a row of a command does at its turn (12 R358, R368, R369): the lemmas that statements about a command rest on. -/

namespace Sys2Proof.Machine

open Sys2Proof.Claims

/-- What a command's body answers, as the state it leaves. -/
def ended (c : CmdRef) (s : State) : CmdRes → State
  | .ok s' d f => s'.vote c d f []
  | .fail st d => s.finish c st d 0
  | .failWith s' st d => s'.finish c st d 0
  | .wait s' => s'

/-- A command that acts at its turn ends as its body says. -/
theorem runCommand_of_acts {op : Nat} {c : CmdRef} {k : Cmd} {s s0 : State} (body : State → Cmd → CmdRes) (h : Acts op c k s s0) :
    runCommand op c body s = ended c s0 (body s0 k) := by
  obtain ⟨k', hk, ho, ht, h0, hp⟩ := h
  rcases hp with ⟨hp, rfl⟩ | ⟨hp, hm, he, rfl⟩
  · rw [hk] at h0
    cases h0
    simp only [runCommand, hk, ho, hp, ht, bne_self_eq_false, Bool.false_eq_true, if_false, if_true, Option.getD_some]
    cases body s0 k <;> rfl
  · simp only [runCommand, hk, ho, hp, ht, hm, he, h0, bne_self_eq_false, Bool.false_eq_true, if_false, if_true, Option.getD_some,
      Bool.and_self]
    cases body (s.start k') k <;> rfl

/-- A command that is started on tiles and scheduled ends as its body says, and its class is charged. -/
theorem startCommand_of_starts {op : Nat} {c : CmdRef} {k : Cmd} {s s0 : State} (body : State → Cmd → CmdRes) (h : Starts op c k s s0) :
    startCommand op c body s = served s0 c k (match body s0 k with
      | .ok s' d f => s'.vote c d f []
      | .fail st d => (s0.start k).finish c st d 0
      | .failWith s' st d => s'.finish c st d 0
      | .wait s' => s') := by
  obtain ⟨hk, ho, hp, he, hm, rfl, hs⟩ := h
  simp only [startCommand, hk, ho, hp, he, hm, hs, bne_self_eq_false, Bool.not_true, Bool.or_self, Bool.false_eq_true, if_false]
  cases body s.syncStride k <;> simp only [served] <;> first | done | (cases s.syncStride.classOfCmd k <;> rfl)

/-- An event of a command that is not in flight changes nothing. -/
theorem runCommand_of_absent {op : Nat} {c : CmdRef} {s : State} (body : State → Cmd → CmdRes) (h : s.cmdAt c = none) :
    runCommand op c body s = s := by simp only [runCommand, h]

end Sys2Proof.Machine
end

