-- ==== Sys2Proof/Laws/Issue.lean ====
section
/-! SUPPORT. What an issue event does (03 R76, R82, R83): the lemmas that statements about an instruction rest on. -/

namespace Sys2Proof.Machine

open Sys2Proof.Claims

/-- The word of a class, an opcode and operand bits as a number. -/
theorem wordOf_toNat (cls op : Nat) (w : Operand) :
    (wordOf cls op w).toNat = cls % 16 * 2 ^ 60 + op % 64 * 2 ^ 54 + w.toNat := by
  have h : (wordOf cls op w).toNat = ((BitVec.ofNat 4 cls ++ BitVec.ofNat 6 op : BitVec 10) ++ w : BitVec (10 + 54)).toNat := rfl
  rw [h, BitVec.toNat_append, ← Nat.shiftLeft_add_eq_or_of_lt w.isLt, BitVec.toNat_append,
    ← Nat.shiftLeft_add_eq_or_of_lt (BitVec.ofNat 6 op).isLt]
  simp only [BitVec.toNat_ofNat, Nat.shiftLeft_eq]
  omega

theorem classOf_wordOf (cls op : Nat) (w : Operand) (h : cls < 16) : classOf (wordOf cls op w) = cls := by
  have := w.isLt
  simp only [classOf, BitVec.extractLsb'_toNat, wordOf_toNat, Nat.shiftRight_eq_div_pow]
  omega

theorem opcodeOf_wordOf (cls op : Nat) (w : Operand) (h : op < 64) : opcodeOf (wordOf cls op w) = op := by
  have := w.isLt
  simp only [opcodeOf, BitVec.extractLsb'_toNat, wordOf_toNat, Nat.shiftRight_eq_div_pow]
  omega

theorem operandOf_wordOf (cls op : Nat) (w : Operand) : operandOf (wordOf cls op w) = w := by
  have := w.isLt
  apply BitVec.eq_of_toNat_eq
  simp only [operandOf, BitVec.extractLsb'_toNat, wordOf_toNat, Nat.shiftRight_eq_div_pow]
  omega

/-- An instruction that issues, and is not CPFX, has its body's outcome. -/
theorem issueThen_of_issues {cls op : Nat} {rsv : List (Nat × Nat)} {body : TileCtx → Tile → TileRes}
    {after : Tile → State → State} {t : Fin 160} {w : Operand} {s : State}
    (h : Issues cls op rsv t w s) (hc : cls < 16) (ho : op < 64) (hv : validOp cls op = true)
    (hx : (cls == 0xB && op == 0) = false) :
    issueThen cls op rsv body after t w s =
      match body (s.tileCtx t s.tiles[t]) s.tiles[t] with
      | .next y => after s.tiles[t] (s.applyRes t s.tiles[t] (wordOf cls op w) 1 (.next y))
      | r => s.applyRes t s.tiles[t] (wordOf cls op w) 1 r := by
  obtain ⟨hst, hw, he, hr⟩ := h
  have hst' : (s.tiles[t].ctl.status != .running && s.tiles[t].ctl.status != .blocked) = false := by
    rcases hst with h | h <;> rw [h] <;> decide
  simp only [issueThen, hst', hw, operandOf_wordOf, he, classOf_wordOf _ _ _ hc, opcodeOf_wordOf _ _ _ ho, hv, hr,
    isCpfx, hx]
  simp only [Bool.false_eq_true, ↓reduceIte, Bool.not_true, ne_eq, not_true_eq_false]
  all_goals (cases body (s.tileCtx t s.tiles[t]) s.tiles[t] <;> rfl)

/-- The same for an instruction whose effect is the tile's own. -/
theorem issue_of_issues {cls op : Nat} {rsv : List (Nat × Nat)} {body : TileCtx → Tile → TileRes}
    {t : Fin 160} {w : Operand} {s : State}
    (h : Issues cls op rsv t w s) (hc : cls < 16) (ho : op < 64) (hv : validOp cls op = true)
    (hx : (cls == 0xB && op == 0) = false) :
    issue cls op rsv body t w s =
      s.applyRes t s.tiles[t] (wordOf cls op w) 1 (body (s.tileCtx t s.tiles[t]) s.tiles[t]) := by
  rw [issue, issueThen_of_issues h hc ho hv hx]
  all_goals (cases body (s.tileCtx t s.tiles[t]) s.tiles[t] <;> rfl)

/-! Reads of the pad (05 R141). -/

/-- An instruction that issues reads the pad unless its body raises or waits. -/
theorem readsPad_of_issues {cls op : Nat} {rsv : List (Nat × Nat)} {body : TileCtx → Tile → TileRes} {t : Fin 160} {w : Operand}
    {s : State} {y : Tile} (h : Issues cls op rsv t w s) (hy : body (s.tileCtx t s.tiles[t]) s.tiles[t] = .next y) :
    s.readsPad cls op rsv body t w = true := by
  obtain ⟨hst, hw, he, hr⟩ := h
  unfold State.readsPad State.issuesNow
  rw [hy]
  have hw' : (s.tiles[t].ctl.istore[s.tiles[t].ctl.pc]? == some (wordOf cls op w)) = true := by rw [hw]; exact beq_self_eq_true _
  have hst' : (s.tiles[t].ctl.status == .running || s.tiles[t].ctl.status == .blocked) = true := by
    rcases hst with h | h <;> rw [h] <;> decide
  simp only [hw', hst', operandOf_wordOf, he, hr, Bool.and_self]

/-- No error stands in the tile's pad. -/
theorem issueRead_of_none {cls op : Nat} {rsv : List (Nat × Nat)} {body : TileCtx → Tile → TileRes} {t : Fin 160} {w : Operand}
    {s : State} (h : tget s.mem.err.padFound t.val = none) : issueRead cls op rsv body t w s = issue cls op rsv body t w s := by
  unfold issueRead
  rw [h]
  split <;> rfl

theorem issueRead_of_error {cls op : Nat} {rsv : List (Nat × Nat)} {body : TileCtx → Tile → TileRes} {t : Fin 160} {w : Operand}
    {s : State} {y : Nat} (h : tget s.mem.err.padFound t.val = some (.uncorrectable y)) (r : s.readsPad cls op rsv body t w = true) :
    issueRead cls op rsv body t w s = s.padFailed t y := by
  unfold issueRead
  rw [if_pos r, h]

theorem issueRead_of_corrected {cls op : Nat} {rsv : List (Nat × Nat)} {body : TileCtx → Tile → TileRes} {t : Fin 160} {w : Operand}
    {s : State} {y : Nat} (h : tget s.mem.err.padFound t.val = some (.correctable y)) (r : s.readsPad cls op rsv body t w = true) :
    issueRead cls op rsv body t w s = issue cls op rsv body t w (s.padCorrected t) := by
  unfold issueRead
  rw [if_pos r, h]

/-- An instruction that does not get to read the pad meets no error. -/
theorem issueRead_of_not_read {cls op : Nat} {rsv : List (Nat × Nat)} {body : TileCtx → Tile → TileRes} {t : Fin 160} {w : Operand}
    {s : State} (r : s.readsPad cls op rsv body t w = false) : issueRead cls op rsv body t w s = issue cls op rsv body t w s := by
  unfold issueRead
  rw [r]
  rfl

end Sys2Proof.Machine
end

