-- ==== Sys2Proof/Laws/Lanes.lean ====
section
/-! SUPPORT. What the shared lane operations do (02 R54; 03 R85). -/

namespace Sys2Proof.Machine

/-- A fold over lanes given by a function is the fold over the lane numbers. -/
theorem foldl_ofFn {α β : Type} {n : Nat} (f : Fin n → α) (g : β → α → β) (b : β) :
    (Vector.ofFn f).foldl g b = (List.finRange n).foldl (fun b i => g b (f i)) b := by
  have h : List.ofFn f = (List.finRange n).map f := by apply List.ext_getElem <;> simp
  rw [← Vector.foldl_toList, Vector.toList_ofFn, h, List.foldl_map]

/-- ORing no flag leaves the flag word. -/
@[simp] theorem Tile.orFlags_zero (t : Tile) : t.orFlags 0 = t := by
  simp [Tile.orFlags, Tile.setFlags]

/-- Lanes that raise no flag raise none together. -/
theorem foldl_or_zero {α : Type} (l : List α) (a : Word) : l.foldl (fun a _ => a ||| (0 : Word)) a = a := by
  induction l generalizing a with
  | nil => rfl
  | cons _ l ih => rw [List.foldl_cons, ih]; simp

/-- What a lane-by-lane instruction writes: VD where LMASK selects, and the OR of the lanes' flags. -/
theorem Tile.mapLanes_eq (t : Tile) (w : Operand) (f : Fin 512 → FRes) :
    t.mapLanes w f = (t.setV (opFin5 w 45) (Vector.ofFn fun i =>
        if (t.getLM (opFin3 w 23)).getLsbD i then (f i).val else t.regs.v[opFin5 w 45][i])).orFlags
      ((List.finRange 512).foldl (fun a i => a ||| (f i).flags) 0) := by
  simp only [Tile.mapLanes, foldl_ofFn, Tile.writeLanes, Fin.getElem_fin, Vector.getElem_map, Vector.getElem_ofFn]

/-- The same for an instruction that raises no flag. -/
theorem Tile.mapLanes_plain (t : Tile) (w : Operand) (f : Fin 512 → Word) :
    (t.mapLanes w fun i => ⟨f i, 0⟩) = t.setV (opFin5 w 45) (Vector.ofFn fun i =>
        if (t.getLM (opFin3 w 23)).getLsbD i then f i else t.regs.v[opFin5 w 45][i]) := by
  rw [Tile.mapLanes_eq]
  simp only [foldl_or_zero, Tile.orFlags_zero]

end Sys2Proof.Machine
end

