-- ==== Sys2Proof/Laws/Memory.lean ====
section
/-! SUPPORT. Memory: a read after a write, and every operation keeps the canonical form. -/

namespace Sys2Proof.Machine

theorem Memory.wfFrom_cons {lo a : Nat} {b : Byte} {m : Memory} :
    Memory.wfFrom lo ((a, b) :: m) = true ↔ lo ≤ a ∧ b ≠ 0 ∧ Memory.wfFrom (a + 1) m = true := by
  simp only [Memory.wfFrom, Bool.and_eq_true, decide_eq_true_eq, and_assoc]

theorem Memory.wfFrom_mono {lo lo' : Nat} {m : Memory} (h : lo' ≤ lo) (hm : Memory.wfFrom lo m = true) : Memory.wfFrom lo' m = true := by
  cases m with
  | nil => rfl
  | cons c m => exact Memory.wfFrom_cons.2 ⟨Nat.le_trans h (Memory.wfFrom_cons.1 hm).1, (Memory.wfFrom_cons.1 hm).2⟩

theorem Memory.read_below {lo x : Nat} {m : Memory} (hm : Memory.wfFrom lo m = true) (h : x < lo) : m.read x = 0 := by
  cases m with
  | nil => rfl
  | cons c m => exact if_pos (Nat.lt_of_lt_of_le h (Memory.wfFrom_cons.1 hm).1)

theorem Memory.wfFrom_write {lo x : Nat} {m : Memory} (v : Byte) (hm : Memory.wfFrom lo m = true) (h : lo ≤ x) :
    Memory.wfFrom lo (m.write x v) = true := by
  induction m generalizing lo with
  | nil =>
    unfold Memory.write
    split
    · rfl
    · exact Memory.wfFrom_cons.2 ⟨h, ‹_›, rfl⟩
  | cons c m ih =>
    obtain ⟨h1, h2, h3⟩ := Memory.wfFrom_cons.1 hm
    unfold Memory.write
    split
    · split
      · exact hm
      · exact Memory.wfFrom_cons.2 ⟨h, ‹_›, Memory.wfFrom_cons.2 ⟨by omega, h2, h3⟩⟩
    · split
      · split
        · exact Memory.wfFrom_mono (by omega) h3
        · exact Memory.wfFrom_cons.2 ⟨h, ‹_›, by subst x; exact h3⟩
      · exact Memory.wfFrom_cons.2 ⟨h1, h2, ih h3 (by omega)⟩

/-- A store keeps the canonical form. -/
theorem Memory.wf_write {m : Memory} (x : Nat) (v : Byte) (h : m.wf = true) : (m.write x v).wf = true :=
  Memory.wfFrom_write v h (Nat.zero_le x)

/-- A read after a store: the byte stored, and every other byte as before. -/
theorem Memory.read_write (m : Memory) (x y : Nat) (v : Byte) (h : m.wf = true) :
    (m.write x v).read y = if y = x then v else m.read y := by
  suffices H : ∀ lo, Memory.wfFrom lo m = true → (m.write x v).read y = if y = x then v else m.read y from H 0 h
  clear h
  induction m with
  | nil =>
    intro _ _
    unfold Memory.write
    by_cases hv : v = 0
    · rw [if_pos hv]; split <;> simp [Memory.read, hv]
    · rw [if_neg hv]; simp only [Memory.read]; split <;> split <;> first | rfl | (exfalso; omega)
  | cons c m ih =>
    intro lo hm
    obtain ⟨h1, h2, h3⟩ := Memory.wfFrom_cons.1 hm
    have hb := @Memory.read_below _ y _ h3
    have hr := ih _ h3
    unfold Memory.write
    split
    · split
      · simp only [Memory.read]
        by_cases hy : y = x
        · rw [if_pos hy, if_pos (by omega)]; exact Eq.symm ‹_›
        · rw [if_neg hy]
      · simp only [Memory.read]
        split
        · rw [if_neg (by omega), if_pos (by omega)]
        · rfl
    · split
      · split
        · simp only [Memory.read]
          by_cases hy : y ≤ c.1
          · rw [hb (by omega)]
            split
            · exact Eq.symm ‹_›
            · rw [if_pos (by omega)]
          · rw [if_neg (by omega), if_neg (by omega), if_neg (by omega)]
        · simp only [Memory.read]
          split
          · rw [if_neg (by omega), if_pos (by omega)]
          · split
            · rfl
            · rw [if_neg (by omega), if_neg (by omega)]
      · simp only [Memory.read]
        rw [hr]
        split
        · rw [if_neg (by omega)]
        · split
          · rw [if_neg (by omega)]
          · rfl

theorem Memory.read_write_same (m : Memory) (x : Nat) (v : Byte) (h : m.wf = true) : (m.write x v).read x = v := by
  rw [Memory.read_write m x x v h, if_pos rfl]

theorem Memory.read_write_other (m : Memory) (x y : Nat) (v : Byte) (h : m.wf = true) (hxy : y ≠ x) : (m.write x v).read y = m.read y := by
  rw [Memory.read_write m x y v h, if_neg hxy]

theorem Memory.wf_writeBytes {m : Memory} (a : Nat) (bs : List Byte) (h : m.wf = true) : (m.writeBytes a bs).wf = true := by
  induction bs generalizing m a with
  | nil => exact h
  | cons b bs ih => exact ih (a + 1) (Memory.wf_write a b h)

/-- Bytes stored from an address leave every byte outside them. -/
theorem Memory.read_writeBytes_other (m : Memory) (a y : Nat) (bs : List Byte) (h : m.wf = true) (hy : y < a ∨ a + bs.length ≤ y) :
    (m.writeBytes a bs).read y = m.read y := by
  induction bs generalizing m a with
  | nil => rfl
  | cons b bs ih =>
    simp only [List.length_cons] at hy
    rw [Memory.writeBytes, ih _ (a + 1) (Memory.wf_write a b h) (by omega), Memory.read_write_other m a y b h (by omega)]

@[simp] theorem leBytes_length (n v : Nat) : (leBytes n v).length = n := by
  induction n generalizing v with
  | zero => rfl
  | succ n ih => simp [leBytes, ih]

theorem Memory.wf_writeLE {m : Memory} (a n v : Nat) (h : m.wf = true) : (m.writeLE a n v).wf = true := Memory.wf_writeBytes a _ h

/-- A number stored in n bytes leaves every byte outside them. -/
theorem Memory.read_writeLE_other (m : Memory) (a n v y : Nat) (h : m.wf = true) (hy : y < a ∨ a + n ≤ y) :
    (m.writeLE a n v).read y = m.read y :=
  Memory.read_writeBytes_other m a y _ h (by simpa using hy)

theorem Memory.wfFrom_filter {lo : Nat} {m : Memory} (p : Host.Cell → Bool) (h : Memory.wfFrom lo m = true) : Memory.wfFrom lo (m.filter p) = true := by
  induction m generalizing lo with
  | nil => rfl
  | cons c m ih =>
    obtain ⟨h1, h2, h3⟩ := Memory.wfFrom_cons.1 h
    rw [List.filter_cons]
    split
    · exact Memory.wfFrom_cons.2 ⟨h1, h2, ih h3⟩
    · exact ih (Memory.wfFrom_mono (by omega) h3)

theorem Memory.wf_clear {m : Memory} (a n : Nat) (h : m.wf = true) : (m.clear a n).wf = true := Memory.wfFrom_filter _ h

/-- A fold of operations that keep the canonical form keeps it. -/
theorem Memory.wf_foldl {α : Type} (f : Memory → α → Memory) (hf : ∀ m x, m.wf = true → (f m x).wf = true) (xs : List α) (m : Memory)
    (h : m.wf = true) : (xs.foldl f m).wf = true := by
  induction xs generalizing m with
  | nil => exact h
  | cons x xs ih => exact ih _ (hf m x h)

/-! Device memory (05 R131, R153). -/

theorem MemState.wf_put {m : MemState} (a : Nat) (bs : List Byte) (h : m.cells.wf = true) : (m.put a bs).cells.wf = true :=
  Memory.wf_writeBytes a bs h

theorem MemState.wf_zero {m : MemState} (a n : Nat) (h : m.cells.wf = true) : (m.zero a n).cells.wf = true := Memory.wf_clear a n h

theorem MemState.wf_carry {m : MemState} (src dst n : Nat) (h : m.cells.wf = true) : (m.carry src dst n).cells.wf = true :=
  Memory.wf_foldl _ (fun _ c h => Memory.wf_write _ c.2 h) _ _ (MemState.wf_zero dst n h)

@[simp] theorem MemState.mark_cells (m : MemState) (a : Nat) : (m.mark a).cells = m.cells := rfl
@[simp] theorem MemState.unmarkWhole_cells (m : MemState) (a n : Nat) : (m.unmarkWhole a n).cells = m.cells := rfl

/-! Pads (02 R42; 03 R75, R97). -/

theorem wf_writeCode {m : Memory} (org e : Int) (b c : Nat) (h : m.wf = true) : (writeCode m org e b c).wf = true :=
  Memory.wf_writeLE _ _ _ h

/-- A fold over a memory and a flag word keeps the canonical form when each step does. -/
theorem wf_foldl_pair {α : Type} (f : Memory × Word → α → Memory × Word) (hf : ∀ p x, p.1.wf = true → (f p x).1.wf = true) (xs : List α)
    (p : Memory × Word) (h : p.1.wf = true) : (xs.foldl f p).1.wf = true := by
  induction xs generalizing p with
  | nil => exact h
  | cons x xs ih => exact ih _ (hf p x h)

theorem Walk.wf_putScalars (w : Walk) (c : Narrow) {m : Memory} (ts : List Target) (h : m.wf = true) : (w.putScalars c m ts).1.wf = true :=
  wf_foldl_pair _ (fun _ _ h => wf_writeCode _ _ _ _ h) _ _ h

theorem Walk.wf_putBlock (w : Walk) (c : Narrow) (t : Word) (k : Int) (ts : List Target) {m : Memory} (h : m.wf = true) :
    (w.putBlock c t k ts m).1.wf = true :=
  Memory.wf_foldl _ (fun _ _ h => wf_writeCode _ _ _ _ h) _ _ (Memory.wf_write _ _ h)

/-- A store through a walk keeps the canonical form. -/
theorem Walk.wf_store (w : Walk) (c : Narrow) (t : Word) (vals : List (Nat × FV)) {m m' : Memory} {fl : Word}
    (h : m.wf = true) (hs : w.store c t vals m = .ok (m', fl)) : m'.wf = true := by
  unfold Walk.store at hs
  split at hs
  · cases hs
  · dsimp only at hs
    split at hs
    · cases hs
    · split at hs
      · have e : _ = m' := congrArg Prod.fst (Except.ok.inj hs)
        rw [← e]
        refine wf_foldl_pair _ (fun p k h => ?_) _ (m, 0) h
        exact Walk.wf_putBlock w c t k _ h
      · have e : _ = m' := congrArg Prod.fst (Except.ok.inj hs)
        rw [← e]
        exact Walk.wf_putScalars w c _ h

theorem Walk.wf_storeHeld (w : Walk) (c : Narrow) (vals : List (Nat × FV)) {m m' : Memory} {fl : Word}
    (h : m.wf = true) (hs : w.storeHeld c vals m = .ok (m', fl)) : m'.wf = true := by
  unfold Walk.storeHeld at hs
  dsimp only at hs
  split at hs
  · cases hs
  · exact Walk.wf_store w c _ vals h hs

/-- The memory after reset is in canonical form, and so is every pad. -/
theorem State.reset_wf : State.reset.mem.cells.wf = true ∧ ∀ t : Fin 160, State.reset.tiles[t].pad.wf = true := by
  refine ⟨rfl, fun t => ?_⟩
  have h : State.reset.tiles[t] = Tile.idle := Vector.getElem_replicate ..
  rw [h]
  rfl

end Sys2Proof.Machine
end

