-- ==== Sys2Proof/Laws/State.lean ====
section
/-! SUPPORT. One lemma for each field of the state under each named update: what it holds afterwards. -/

namespace Sys2Proof.Machine

/-! setMem -/

@[simp] theorem State.setMem_tiles (s : State) (m : MemState) : (s.setMem m).tiles = s.tiles := rfl
@[simp] theorem State.setMem_mem (s : State) (m : MemState) : (s.setMem m).mem = m := rfl
@[simp] theorem State.setMem_place (s : State) (m : MemState) : (s.setMem m).place = s.place := rfl
@[simp] theorem State.setMem_cmd (s : State) (m : MemState) : (s.setMem m).cmd = s.cmd := rfl
@[simp] theorem State.setMem_host (s : State) (m : MemState) : (s.setMem m).host = s.host := rfl
@[simp] theorem State.setMem_dom (s : State) (m : MemState) : (s.setMem m).dom = s.dom := rfl
@[simp] theorem State.setMem_lnk (s : State) (m : MemState) : (s.setMem m).lnk = s.lnk := rfl
@[simp] theorem State.setMem_coll (s : State) (m : MemState) : (s.setMem m).coll = s.coll := rfl
@[simp] theorem State.setMem_flt (s : State) (m : MemState) : (s.setMem m).flt = s.flt := rfl
@[simp] theorem State.setMem_pat (s : State) (m : MemState) : (s.setMem m).pat = s.pat := rfl
@[simp] theorem State.setMem_pwr (s : State) (m : MemState) : (s.setMem m).pwr = s.pwr := rfl
@[simp] theorem State.setMem_turn (s : State) (m : MemState) : (s.setMem m).turn = s.turn := rfl
@[simp] theorem State.setMem_gen (s : State) (m : MemState) : (s.setMem m).gen = s.gen := rfl
@[simp] theorem State.setMem_sig (s : State) (m : MemState) : (s.setMem m).sig = s.sig := rfl
@[simp] theorem State.setMem_boot (s : State) (m : MemState) : (s.setMem m).boot = s.boot := rfl
@[simp] theorem State.setMem_regs (s : State) (m : MemState) : (s.setMem m).regs = s.regs := rfl
@[simp] theorem State.setMem_outbox (s : State) (m : MemState) : (s.setMem m).outbox = s.outbox := rfl
@[simp] theorem State.setMem_fresh (s : State) (m : MemState) : (s.setMem m).fresh = s.fresh := rfl
@[simp] theorem State.setMem_pending (s : State) (m : MemState) : (s.setMem m).pending = s.pending := rfl

/-! setPlace -/

@[simp] theorem State.setPlace_tiles (s : State) (x : PlaceState) : (s.setPlace x).tiles = s.tiles := rfl
@[simp] theorem State.setPlace_mem (s : State) (x : PlaceState) : (s.setPlace x).mem = s.mem := rfl
@[simp] theorem State.setPlace_place (s : State) (x : PlaceState) : (s.setPlace x).place = x := rfl
@[simp] theorem State.setPlace_cmd (s : State) (x : PlaceState) : (s.setPlace x).cmd = s.cmd := rfl
@[simp] theorem State.setPlace_host (s : State) (x : PlaceState) : (s.setPlace x).host = s.host := rfl
@[simp] theorem State.setPlace_dom (s : State) (x : PlaceState) : (s.setPlace x).dom = s.dom := rfl
@[simp] theorem State.setPlace_lnk (s : State) (x : PlaceState) : (s.setPlace x).lnk = s.lnk := rfl
@[simp] theorem State.setPlace_coll (s : State) (x : PlaceState) : (s.setPlace x).coll = s.coll := rfl
@[simp] theorem State.setPlace_flt (s : State) (x : PlaceState) : (s.setPlace x).flt = s.flt := rfl
@[simp] theorem State.setPlace_pat (s : State) (x : PlaceState) : (s.setPlace x).pat = s.pat := rfl
@[simp] theorem State.setPlace_pwr (s : State) (x : PlaceState) : (s.setPlace x).pwr = s.pwr := rfl
@[simp] theorem State.setPlace_turn (s : State) (x : PlaceState) : (s.setPlace x).turn = s.turn := rfl
@[simp] theorem State.setPlace_gen (s : State) (x : PlaceState) : (s.setPlace x).gen = s.gen := rfl
@[simp] theorem State.setPlace_sig (s : State) (x : PlaceState) : (s.setPlace x).sig = s.sig := rfl
@[simp] theorem State.setPlace_boot (s : State) (x : PlaceState) : (s.setPlace x).boot = s.boot := rfl
@[simp] theorem State.setPlace_regs (s : State) (x : PlaceState) : (s.setPlace x).regs = s.regs := rfl
@[simp] theorem State.setPlace_outbox (s : State) (x : PlaceState) : (s.setPlace x).outbox = s.outbox := rfl
@[simp] theorem State.setPlace_fresh (s : State) (x : PlaceState) : (s.setPlace x).fresh = s.fresh := rfl
@[simp] theorem State.setPlace_pending (s : State) (x : PlaceState) : (s.setPlace x).pending = s.pending := rfl

/-! setCmd -/

@[simp] theorem State.setCmd_tiles (s : State) (x : CmdState) : (s.setCmd x).tiles = s.tiles := rfl
@[simp] theorem State.setCmd_mem (s : State) (x : CmdState) : (s.setCmd x).mem = s.mem := rfl
@[simp] theorem State.setCmd_place (s : State) (x : CmdState) : (s.setCmd x).place = s.place := rfl
@[simp] theorem State.setCmd_cmd (s : State) (x : CmdState) : (s.setCmd x).cmd = x := rfl
@[simp] theorem State.setCmd_host (s : State) (x : CmdState) : (s.setCmd x).host = s.host := rfl
@[simp] theorem State.setCmd_dom (s : State) (x : CmdState) : (s.setCmd x).dom = s.dom := rfl
@[simp] theorem State.setCmd_lnk (s : State) (x : CmdState) : (s.setCmd x).lnk = s.lnk := rfl
@[simp] theorem State.setCmd_coll (s : State) (x : CmdState) : (s.setCmd x).coll = s.coll := rfl
@[simp] theorem State.setCmd_flt (s : State) (x : CmdState) : (s.setCmd x).flt = s.flt := rfl
@[simp] theorem State.setCmd_pat (s : State) (x : CmdState) : (s.setCmd x).pat = s.pat := rfl
@[simp] theorem State.setCmd_pwr (s : State) (x : CmdState) : (s.setCmd x).pwr = s.pwr := rfl
@[simp] theorem State.setCmd_turn (s : State) (x : CmdState) : (s.setCmd x).turn = s.turn := rfl
@[simp] theorem State.setCmd_gen (s : State) (x : CmdState) : (s.setCmd x).gen = s.gen := rfl
@[simp] theorem State.setCmd_sig (s : State) (x : CmdState) : (s.setCmd x).sig = s.sig := rfl
@[simp] theorem State.setCmd_boot (s : State) (x : CmdState) : (s.setCmd x).boot = s.boot := rfl
@[simp] theorem State.setCmd_regs (s : State) (x : CmdState) : (s.setCmd x).regs = s.regs := rfl
@[simp] theorem State.setCmd_outbox (s : State) (x : CmdState) : (s.setCmd x).outbox = s.outbox := rfl
@[simp] theorem State.setCmd_fresh (s : State) (x : CmdState) : (s.setCmd x).fresh = s.fresh := rfl
@[simp] theorem State.setCmd_pending (s : State) (x : CmdState) : (s.setCmd x).pending = s.pending := rfl

/-! setHost -/

@[simp] theorem State.setHost_tiles (s : State) (x : HostState) : (s.setHost x).tiles = s.tiles := rfl
@[simp] theorem State.setHost_mem (s : State) (x : HostState) : (s.setHost x).mem = s.mem := rfl
@[simp] theorem State.setHost_place (s : State) (x : HostState) : (s.setHost x).place = s.place := rfl
@[simp] theorem State.setHost_cmd (s : State) (x : HostState) : (s.setHost x).cmd = s.cmd := rfl
@[simp] theorem State.setHost_host (s : State) (x : HostState) : (s.setHost x).host = x := rfl
@[simp] theorem State.setHost_dom (s : State) (x : HostState) : (s.setHost x).dom = s.dom := rfl
@[simp] theorem State.setHost_lnk (s : State) (x : HostState) : (s.setHost x).lnk = s.lnk := rfl
@[simp] theorem State.setHost_coll (s : State) (x : HostState) : (s.setHost x).coll = s.coll := rfl
@[simp] theorem State.setHost_flt (s : State) (x : HostState) : (s.setHost x).flt = s.flt := rfl
@[simp] theorem State.setHost_pat (s : State) (x : HostState) : (s.setHost x).pat = s.pat := rfl
@[simp] theorem State.setHost_pwr (s : State) (x : HostState) : (s.setHost x).pwr = s.pwr := rfl
@[simp] theorem State.setHost_turn (s : State) (x : HostState) : (s.setHost x).turn = s.turn := rfl
@[simp] theorem State.setHost_gen (s : State) (x : HostState) : (s.setHost x).gen = s.gen := rfl
@[simp] theorem State.setHost_sig (s : State) (x : HostState) : (s.setHost x).sig = s.sig := rfl
@[simp] theorem State.setHost_boot (s : State) (x : HostState) : (s.setHost x).boot = s.boot := rfl
@[simp] theorem State.setHost_regs (s : State) (x : HostState) : (s.setHost x).regs = s.regs := rfl
@[simp] theorem State.setHost_outbox (s : State) (x : HostState) : (s.setHost x).outbox = s.outbox := rfl
@[simp] theorem State.setHost_fresh (s : State) (x : HostState) : (s.setHost x).fresh = s.fresh := rfl
@[simp] theorem State.setHost_pending (s : State) (x : HostState) : (s.setHost x).pending = s.pending := rfl

/-! setDom -/

@[simp] theorem State.setDom_tiles (s : State) (x : DomState) : (s.setDom x).tiles = s.tiles := rfl
@[simp] theorem State.setDom_mem (s : State) (x : DomState) : (s.setDom x).mem = s.mem := rfl
@[simp] theorem State.setDom_place (s : State) (x : DomState) : (s.setDom x).place = s.place := rfl
@[simp] theorem State.setDom_cmd (s : State) (x : DomState) : (s.setDom x).cmd = s.cmd := rfl
@[simp] theorem State.setDom_host (s : State) (x : DomState) : (s.setDom x).host = s.host := rfl
@[simp] theorem State.setDom_dom (s : State) (x : DomState) : (s.setDom x).dom = x := rfl
@[simp] theorem State.setDom_lnk (s : State) (x : DomState) : (s.setDom x).lnk = s.lnk := rfl
@[simp] theorem State.setDom_coll (s : State) (x : DomState) : (s.setDom x).coll = s.coll := rfl
@[simp] theorem State.setDom_flt (s : State) (x : DomState) : (s.setDom x).flt = s.flt := rfl
@[simp] theorem State.setDom_pat (s : State) (x : DomState) : (s.setDom x).pat = s.pat := rfl
@[simp] theorem State.setDom_pwr (s : State) (x : DomState) : (s.setDom x).pwr = s.pwr := rfl
@[simp] theorem State.setDom_turn (s : State) (x : DomState) : (s.setDom x).turn = s.turn := rfl
@[simp] theorem State.setDom_gen (s : State) (x : DomState) : (s.setDom x).gen = s.gen := rfl
@[simp] theorem State.setDom_sig (s : State) (x : DomState) : (s.setDom x).sig = s.sig := rfl
@[simp] theorem State.setDom_boot (s : State) (x : DomState) : (s.setDom x).boot = s.boot := rfl
@[simp] theorem State.setDom_regs (s : State) (x : DomState) : (s.setDom x).regs = s.regs := rfl
@[simp] theorem State.setDom_outbox (s : State) (x : DomState) : (s.setDom x).outbox = s.outbox := rfl
@[simp] theorem State.setDom_fresh (s : State) (x : DomState) : (s.setDom x).fresh = s.fresh := rfl
@[simp] theorem State.setDom_pending (s : State) (x : DomState) : (s.setDom x).pending = s.pending := rfl

/-! setLnk -/

@[simp] theorem State.setLnk_tiles (s : State) (x : LinkState) : (s.setLnk x).tiles = s.tiles := rfl
@[simp] theorem State.setLnk_mem (s : State) (x : LinkState) : (s.setLnk x).mem = s.mem := rfl
@[simp] theorem State.setLnk_place (s : State) (x : LinkState) : (s.setLnk x).place = s.place := rfl
@[simp] theorem State.setLnk_cmd (s : State) (x : LinkState) : (s.setLnk x).cmd = s.cmd := rfl
@[simp] theorem State.setLnk_host (s : State) (x : LinkState) : (s.setLnk x).host = s.host := rfl
@[simp] theorem State.setLnk_dom (s : State) (x : LinkState) : (s.setLnk x).dom = s.dom := rfl
@[simp] theorem State.setLnk_lnk (s : State) (x : LinkState) : (s.setLnk x).lnk = x := rfl
@[simp] theorem State.setLnk_coll (s : State) (x : LinkState) : (s.setLnk x).coll = s.coll := rfl
@[simp] theorem State.setLnk_flt (s : State) (x : LinkState) : (s.setLnk x).flt = s.flt := rfl
@[simp] theorem State.setLnk_pat (s : State) (x : LinkState) : (s.setLnk x).pat = s.pat := rfl
@[simp] theorem State.setLnk_pwr (s : State) (x : LinkState) : (s.setLnk x).pwr = s.pwr := rfl
@[simp] theorem State.setLnk_turn (s : State) (x : LinkState) : (s.setLnk x).turn = s.turn := rfl
@[simp] theorem State.setLnk_gen (s : State) (x : LinkState) : (s.setLnk x).gen = s.gen := rfl
@[simp] theorem State.setLnk_sig (s : State) (x : LinkState) : (s.setLnk x).sig = s.sig := rfl
@[simp] theorem State.setLnk_boot (s : State) (x : LinkState) : (s.setLnk x).boot = s.boot := rfl
@[simp] theorem State.setLnk_regs (s : State) (x : LinkState) : (s.setLnk x).regs = s.regs := rfl
@[simp] theorem State.setLnk_outbox (s : State) (x : LinkState) : (s.setLnk x).outbox = s.outbox := rfl
@[simp] theorem State.setLnk_fresh (s : State) (x : LinkState) : (s.setLnk x).fresh = s.fresh := rfl
@[simp] theorem State.setLnk_pending (s : State) (x : LinkState) : (s.setLnk x).pending = s.pending := rfl

/-! setColl -/

@[simp] theorem State.setColl_tiles (s : State) (x : CollState) : (s.setColl x).tiles = s.tiles := rfl
@[simp] theorem State.setColl_mem (s : State) (x : CollState) : (s.setColl x).mem = s.mem := rfl
@[simp] theorem State.setColl_place (s : State) (x : CollState) : (s.setColl x).place = s.place := rfl
@[simp] theorem State.setColl_cmd (s : State) (x : CollState) : (s.setColl x).cmd = s.cmd := rfl
@[simp] theorem State.setColl_host (s : State) (x : CollState) : (s.setColl x).host = s.host := rfl
@[simp] theorem State.setColl_dom (s : State) (x : CollState) : (s.setColl x).dom = s.dom := rfl
@[simp] theorem State.setColl_lnk (s : State) (x : CollState) : (s.setColl x).lnk = s.lnk := rfl
@[simp] theorem State.setColl_coll (s : State) (x : CollState) : (s.setColl x).coll = x := rfl
@[simp] theorem State.setColl_flt (s : State) (x : CollState) : (s.setColl x).flt = s.flt := rfl
@[simp] theorem State.setColl_pat (s : State) (x : CollState) : (s.setColl x).pat = s.pat := rfl
@[simp] theorem State.setColl_pwr (s : State) (x : CollState) : (s.setColl x).pwr = s.pwr := rfl
@[simp] theorem State.setColl_turn (s : State) (x : CollState) : (s.setColl x).turn = s.turn := rfl
@[simp] theorem State.setColl_gen (s : State) (x : CollState) : (s.setColl x).gen = s.gen := rfl
@[simp] theorem State.setColl_sig (s : State) (x : CollState) : (s.setColl x).sig = s.sig := rfl
@[simp] theorem State.setColl_boot (s : State) (x : CollState) : (s.setColl x).boot = s.boot := rfl
@[simp] theorem State.setColl_regs (s : State) (x : CollState) : (s.setColl x).regs = s.regs := rfl
@[simp] theorem State.setColl_outbox (s : State) (x : CollState) : (s.setColl x).outbox = s.outbox := rfl
@[simp] theorem State.setColl_fresh (s : State) (x : CollState) : (s.setColl x).fresh = s.fresh := rfl
@[simp] theorem State.setColl_pending (s : State) (x : CollState) : (s.setColl x).pending = s.pending := rfl

/-! setFlt -/

@[simp] theorem State.setFlt_tiles (s : State) (x : FaultState) : (s.setFlt x).tiles = s.tiles := rfl
@[simp] theorem State.setFlt_mem (s : State) (x : FaultState) : (s.setFlt x).mem = s.mem := rfl
@[simp] theorem State.setFlt_place (s : State) (x : FaultState) : (s.setFlt x).place = s.place := rfl
@[simp] theorem State.setFlt_cmd (s : State) (x : FaultState) : (s.setFlt x).cmd = s.cmd := rfl
@[simp] theorem State.setFlt_host (s : State) (x : FaultState) : (s.setFlt x).host = s.host := rfl
@[simp] theorem State.setFlt_dom (s : State) (x : FaultState) : (s.setFlt x).dom = s.dom := rfl
@[simp] theorem State.setFlt_lnk (s : State) (x : FaultState) : (s.setFlt x).lnk = s.lnk := rfl
@[simp] theorem State.setFlt_coll (s : State) (x : FaultState) : (s.setFlt x).coll = s.coll := rfl
@[simp] theorem State.setFlt_flt (s : State) (x : FaultState) : (s.setFlt x).flt = x := rfl
@[simp] theorem State.setFlt_pat (s : State) (x : FaultState) : (s.setFlt x).pat = s.pat := rfl
@[simp] theorem State.setFlt_pwr (s : State) (x : FaultState) : (s.setFlt x).pwr = s.pwr := rfl
@[simp] theorem State.setFlt_turn (s : State) (x : FaultState) : (s.setFlt x).turn = s.turn := rfl
@[simp] theorem State.setFlt_gen (s : State) (x : FaultState) : (s.setFlt x).gen = s.gen := rfl
@[simp] theorem State.setFlt_sig (s : State) (x : FaultState) : (s.setFlt x).sig = s.sig := rfl
@[simp] theorem State.setFlt_boot (s : State) (x : FaultState) : (s.setFlt x).boot = s.boot := rfl
@[simp] theorem State.setFlt_regs (s : State) (x : FaultState) : (s.setFlt x).regs = s.regs := rfl
@[simp] theorem State.setFlt_outbox (s : State) (x : FaultState) : (s.setFlt x).outbox = s.outbox := rfl
@[simp] theorem State.setFlt_fresh (s : State) (x : FaultState) : (s.setFlt x).fresh = s.fresh := rfl
@[simp] theorem State.setFlt_pending (s : State) (x : FaultState) : (s.setFlt x).pending = s.pending := rfl

/-! setPat -/

@[simp] theorem State.setPat_tiles (s : State) (x : PatinaState) : (s.setPat x).tiles = s.tiles := rfl
@[simp] theorem State.setPat_mem (s : State) (x : PatinaState) : (s.setPat x).mem = s.mem := rfl
@[simp] theorem State.setPat_place (s : State) (x : PatinaState) : (s.setPat x).place = s.place := rfl
@[simp] theorem State.setPat_cmd (s : State) (x : PatinaState) : (s.setPat x).cmd = s.cmd := rfl
@[simp] theorem State.setPat_host (s : State) (x : PatinaState) : (s.setPat x).host = s.host := rfl
@[simp] theorem State.setPat_dom (s : State) (x : PatinaState) : (s.setPat x).dom = s.dom := rfl
@[simp] theorem State.setPat_lnk (s : State) (x : PatinaState) : (s.setPat x).lnk = s.lnk := rfl
@[simp] theorem State.setPat_coll (s : State) (x : PatinaState) : (s.setPat x).coll = s.coll := rfl
@[simp] theorem State.setPat_flt (s : State) (x : PatinaState) : (s.setPat x).flt = s.flt := rfl
@[simp] theorem State.setPat_pat (s : State) (x : PatinaState) : (s.setPat x).pat = x := rfl
@[simp] theorem State.setPat_pwr (s : State) (x : PatinaState) : (s.setPat x).pwr = s.pwr := rfl
@[simp] theorem State.setPat_turn (s : State) (x : PatinaState) : (s.setPat x).turn = s.turn := rfl
@[simp] theorem State.setPat_gen (s : State) (x : PatinaState) : (s.setPat x).gen = s.gen := rfl
@[simp] theorem State.setPat_sig (s : State) (x : PatinaState) : (s.setPat x).sig = s.sig := rfl
@[simp] theorem State.setPat_boot (s : State) (x : PatinaState) : (s.setPat x).boot = s.boot := rfl
@[simp] theorem State.setPat_regs (s : State) (x : PatinaState) : (s.setPat x).regs = s.regs := rfl
@[simp] theorem State.setPat_outbox (s : State) (x : PatinaState) : (s.setPat x).outbox = s.outbox := rfl
@[simp] theorem State.setPat_fresh (s : State) (x : PatinaState) : (s.setPat x).fresh = s.fresh := rfl
@[simp] theorem State.setPat_pending (s : State) (x : PatinaState) : (s.setPat x).pending = s.pending := rfl

/-! setPwr -/

@[simp] theorem State.setPwr_tiles (s : State) (x : PowerState) : (s.setPwr x).tiles = s.tiles := rfl
@[simp] theorem State.setPwr_mem (s : State) (x : PowerState) : (s.setPwr x).mem = s.mem := rfl
@[simp] theorem State.setPwr_place (s : State) (x : PowerState) : (s.setPwr x).place = s.place := rfl
@[simp] theorem State.setPwr_cmd (s : State) (x : PowerState) : (s.setPwr x).cmd = s.cmd := rfl
@[simp] theorem State.setPwr_host (s : State) (x : PowerState) : (s.setPwr x).host = s.host := rfl
@[simp] theorem State.setPwr_dom (s : State) (x : PowerState) : (s.setPwr x).dom = s.dom := rfl
@[simp] theorem State.setPwr_lnk (s : State) (x : PowerState) : (s.setPwr x).lnk = s.lnk := rfl
@[simp] theorem State.setPwr_coll (s : State) (x : PowerState) : (s.setPwr x).coll = s.coll := rfl
@[simp] theorem State.setPwr_flt (s : State) (x : PowerState) : (s.setPwr x).flt = s.flt := rfl
@[simp] theorem State.setPwr_pat (s : State) (x : PowerState) : (s.setPwr x).pat = s.pat := rfl
@[simp] theorem State.setPwr_pwr (s : State) (x : PowerState) : (s.setPwr x).pwr = x := rfl
@[simp] theorem State.setPwr_turn (s : State) (x : PowerState) : (s.setPwr x).turn = s.turn := rfl
@[simp] theorem State.setPwr_gen (s : State) (x : PowerState) : (s.setPwr x).gen = s.gen := rfl
@[simp] theorem State.setPwr_sig (s : State) (x : PowerState) : (s.setPwr x).sig = s.sig := rfl
@[simp] theorem State.setPwr_boot (s : State) (x : PowerState) : (s.setPwr x).boot = s.boot := rfl
@[simp] theorem State.setPwr_regs (s : State) (x : PowerState) : (s.setPwr x).regs = s.regs := rfl
@[simp] theorem State.setPwr_outbox (s : State) (x : PowerState) : (s.setPwr x).outbox = s.outbox := rfl
@[simp] theorem State.setPwr_fresh (s : State) (x : PowerState) : (s.setPwr x).fresh = s.fresh := rfl
@[simp] theorem State.setPwr_pending (s : State) (x : PowerState) : (s.setPwr x).pending = s.pending := rfl

/-! setGen -/

@[simp] theorem State.setGen_tiles (s : State) (x : GenState) : (s.setGen x).tiles = s.tiles := rfl
@[simp] theorem State.setGen_mem (s : State) (x : GenState) : (s.setGen x).mem = s.mem := rfl
@[simp] theorem State.setGen_place (s : State) (x : GenState) : (s.setGen x).place = s.place := rfl
@[simp] theorem State.setGen_cmd (s : State) (x : GenState) : (s.setGen x).cmd = s.cmd := rfl
@[simp] theorem State.setGen_host (s : State) (x : GenState) : (s.setGen x).host = s.host := rfl
@[simp] theorem State.setGen_dom (s : State) (x : GenState) : (s.setGen x).dom = s.dom := rfl
@[simp] theorem State.setGen_lnk (s : State) (x : GenState) : (s.setGen x).lnk = s.lnk := rfl
@[simp] theorem State.setGen_coll (s : State) (x : GenState) : (s.setGen x).coll = s.coll := rfl
@[simp] theorem State.setGen_flt (s : State) (x : GenState) : (s.setGen x).flt = s.flt := rfl
@[simp] theorem State.setGen_pat (s : State) (x : GenState) : (s.setGen x).pat = s.pat := rfl
@[simp] theorem State.setGen_pwr (s : State) (x : GenState) : (s.setGen x).pwr = s.pwr := rfl
@[simp] theorem State.setGen_turn (s : State) (x : GenState) : (s.setGen x).turn = s.turn := rfl
@[simp] theorem State.setGen_gen (s : State) (x : GenState) : (s.setGen x).gen = x := rfl
@[simp] theorem State.setGen_sig (s : State) (x : GenState) : (s.setGen x).sig = s.sig := rfl
@[simp] theorem State.setGen_boot (s : State) (x : GenState) : (s.setGen x).boot = s.boot := rfl
@[simp] theorem State.setGen_regs (s : State) (x : GenState) : (s.setGen x).regs = s.regs := rfl
@[simp] theorem State.setGen_outbox (s : State) (x : GenState) : (s.setGen x).outbox = s.outbox := rfl
@[simp] theorem State.setGen_fresh (s : State) (x : GenState) : (s.setGen x).fresh = s.fresh := rfl
@[simp] theorem State.setGen_pending (s : State) (x : GenState) : (s.setGen x).pending = s.pending := rfl

/-! setSig -/

@[simp] theorem State.setSig_tiles (s : State) (x : SigState) : (s.setSig x).tiles = s.tiles := rfl
@[simp] theorem State.setSig_mem (s : State) (x : SigState) : (s.setSig x).mem = s.mem := rfl
@[simp] theorem State.setSig_place (s : State) (x : SigState) : (s.setSig x).place = s.place := rfl
@[simp] theorem State.setSig_cmd (s : State) (x : SigState) : (s.setSig x).cmd = s.cmd := rfl
@[simp] theorem State.setSig_host (s : State) (x : SigState) : (s.setSig x).host = s.host := rfl
@[simp] theorem State.setSig_dom (s : State) (x : SigState) : (s.setSig x).dom = s.dom := rfl
@[simp] theorem State.setSig_lnk (s : State) (x : SigState) : (s.setSig x).lnk = s.lnk := rfl
@[simp] theorem State.setSig_coll (s : State) (x : SigState) : (s.setSig x).coll = s.coll := rfl
@[simp] theorem State.setSig_flt (s : State) (x : SigState) : (s.setSig x).flt = s.flt := rfl
@[simp] theorem State.setSig_pat (s : State) (x : SigState) : (s.setSig x).pat = s.pat := rfl
@[simp] theorem State.setSig_pwr (s : State) (x : SigState) : (s.setSig x).pwr = s.pwr := rfl
@[simp] theorem State.setSig_turn (s : State) (x : SigState) : (s.setSig x).turn = s.turn := rfl
@[simp] theorem State.setSig_gen (s : State) (x : SigState) : (s.setSig x).gen = s.gen := rfl
@[simp] theorem State.setSig_sig (s : State) (x : SigState) : (s.setSig x).sig = x := rfl
@[simp] theorem State.setSig_boot (s : State) (x : SigState) : (s.setSig x).boot = s.boot := rfl
@[simp] theorem State.setSig_regs (s : State) (x : SigState) : (s.setSig x).regs = s.regs := rfl
@[simp] theorem State.setSig_outbox (s : State) (x : SigState) : (s.setSig x).outbox = s.outbox := rfl
@[simp] theorem State.setSig_fresh (s : State) (x : SigState) : (s.setSig x).fresh = s.fresh := rfl
@[simp] theorem State.setSig_pending (s : State) (x : SigState) : (s.setSig x).pending = s.pending := rfl

/-! setBoot -/

@[simp] theorem State.setBoot_tiles (s : State) (x : BootState) : (s.setBoot x).tiles = s.tiles := rfl
@[simp] theorem State.setBoot_mem (s : State) (x : BootState) : (s.setBoot x).mem = s.mem := rfl
@[simp] theorem State.setBoot_place (s : State) (x : BootState) : (s.setBoot x).place = s.place := rfl
@[simp] theorem State.setBoot_cmd (s : State) (x : BootState) : (s.setBoot x).cmd = s.cmd := rfl
@[simp] theorem State.setBoot_host (s : State) (x : BootState) : (s.setBoot x).host = s.host := rfl
@[simp] theorem State.setBoot_dom (s : State) (x : BootState) : (s.setBoot x).dom = s.dom := rfl
@[simp] theorem State.setBoot_lnk (s : State) (x : BootState) : (s.setBoot x).lnk = s.lnk := rfl
@[simp] theorem State.setBoot_coll (s : State) (x : BootState) : (s.setBoot x).coll = s.coll := rfl
@[simp] theorem State.setBoot_flt (s : State) (x : BootState) : (s.setBoot x).flt = s.flt := rfl
@[simp] theorem State.setBoot_pat (s : State) (x : BootState) : (s.setBoot x).pat = s.pat := rfl
@[simp] theorem State.setBoot_pwr (s : State) (x : BootState) : (s.setBoot x).pwr = s.pwr := rfl
@[simp] theorem State.setBoot_turn (s : State) (x : BootState) : (s.setBoot x).turn = s.turn := rfl
@[simp] theorem State.setBoot_gen (s : State) (x : BootState) : (s.setBoot x).gen = s.gen := rfl
@[simp] theorem State.setBoot_sig (s : State) (x : BootState) : (s.setBoot x).sig = s.sig := rfl
@[simp] theorem State.setBoot_boot (s : State) (x : BootState) : (s.setBoot x).boot = x := rfl
@[simp] theorem State.setBoot_regs (s : State) (x : BootState) : (s.setBoot x).regs = s.regs := rfl
@[simp] theorem State.setBoot_outbox (s : State) (x : BootState) : (s.setBoot x).outbox = s.outbox := rfl
@[simp] theorem State.setBoot_fresh (s : State) (x : BootState) : (s.setBoot x).fresh = s.fresh := rfl
@[simp] theorem State.setBoot_pending (s : State) (x : BootState) : (s.setBoot x).pending = s.pending := rfl

/-! setTile -/

@[simp] theorem State.setTile_tiles (s : State) (i : Fin 160) (x : Tile) : (s.setTile i x).tiles = s.tiles.set i x := rfl
@[simp] theorem State.setTile_mem (s : State) (i : Fin 160) (x : Tile) : (s.setTile i x).mem = s.mem := rfl
@[simp] theorem State.setTile_place (s : State) (i : Fin 160) (x : Tile) : (s.setTile i x).place = s.place := rfl
@[simp] theorem State.setTile_cmd (s : State) (i : Fin 160) (x : Tile) : (s.setTile i x).cmd = s.cmd := rfl
@[simp] theorem State.setTile_host (s : State) (i : Fin 160) (x : Tile) : (s.setTile i x).host = s.host := rfl
@[simp] theorem State.setTile_dom (s : State) (i : Fin 160) (x : Tile) : (s.setTile i x).dom = s.dom := rfl
@[simp] theorem State.setTile_lnk (s : State) (i : Fin 160) (x : Tile) : (s.setTile i x).lnk = s.lnk := rfl
@[simp] theorem State.setTile_coll (s : State) (i : Fin 160) (x : Tile) : (s.setTile i x).coll = s.coll := rfl
@[simp] theorem State.setTile_flt (s : State) (i : Fin 160) (x : Tile) : (s.setTile i x).flt = s.flt := rfl
@[simp] theorem State.setTile_pat (s : State) (i : Fin 160) (x : Tile) : (s.setTile i x).pat = s.pat := rfl
@[simp] theorem State.setTile_pwr (s : State) (i : Fin 160) (x : Tile) : (s.setTile i x).pwr = s.pwr := rfl
@[simp] theorem State.setTile_turn (s : State) (i : Fin 160) (x : Tile) : (s.setTile i x).turn = s.turn := rfl
@[simp] theorem State.setTile_gen (s : State) (i : Fin 160) (x : Tile) : (s.setTile i x).gen = s.gen := rfl
@[simp] theorem State.setTile_sig (s : State) (i : Fin 160) (x : Tile) : (s.setTile i x).sig = s.sig := rfl
@[simp] theorem State.setTile_boot (s : State) (i : Fin 160) (x : Tile) : (s.setTile i x).boot = s.boot := rfl
@[simp] theorem State.setTile_regs (s : State) (i : Fin 160) (x : Tile) : (s.setTile i x).regs = s.regs := rfl
@[simp] theorem State.setTile_outbox (s : State) (i : Fin 160) (x : Tile) : (s.setTile i x).outbox = s.outbox := rfl
@[simp] theorem State.setTile_fresh (s : State) (i : Fin 160) (x : Tile) : (s.setTile i x).fresh = s.fresh := rfl
@[simp] theorem State.setTile_pending (s : State) (i : Fin 160) (x : Tile) : (s.setTile i x).pending = s.pending := rfl

/-! setCmds changes only `cmd`. -/

@[simp] theorem State.setCmds_tiles (s : State) (l : List Cmd) : (s.setCmds l).tiles = s.tiles := rfl
@[simp] theorem State.setCmds_mem (s : State) (l : List Cmd) : (s.setCmds l).mem = s.mem := rfl
@[simp] theorem State.setCmds_place (s : State) (l : List Cmd) : (s.setCmds l).place = s.place := rfl
@[simp] theorem State.setCmds_host (s : State) (l : List Cmd) : (s.setCmds l).host = s.host := rfl
@[simp] theorem State.setCmds_dom (s : State) (l : List Cmd) : (s.setCmds l).dom = s.dom := rfl
@[simp] theorem State.setCmds_lnk (s : State) (l : List Cmd) : (s.setCmds l).lnk = s.lnk := rfl
@[simp] theorem State.setCmds_coll (s : State) (l : List Cmd) : (s.setCmds l).coll = s.coll := rfl
@[simp] theorem State.setCmds_flt (s : State) (l : List Cmd) : (s.setCmds l).flt = s.flt := rfl
@[simp] theorem State.setCmds_pat (s : State) (l : List Cmd) : (s.setCmds l).pat = s.pat := rfl
@[simp] theorem State.setCmds_pwr (s : State) (l : List Cmd) : (s.setCmds l).pwr = s.pwr := rfl
@[simp] theorem State.setCmds_turn (s : State) (l : List Cmd) : (s.setCmds l).turn = s.turn := rfl
@[simp] theorem State.setCmds_gen (s : State) (l : List Cmd) : (s.setCmds l).gen = s.gen := rfl
@[simp] theorem State.setCmds_sig (s : State) (l : List Cmd) : (s.setCmds l).sig = s.sig := rfl
@[simp] theorem State.setCmds_boot (s : State) (l : List Cmd) : (s.setCmds l).boot = s.boot := rfl
@[simp] theorem State.setCmds_regs (s : State) (l : List Cmd) : (s.setCmds l).regs = s.regs := rfl
@[simp] theorem State.setCmds_outbox (s : State) (l : List Cmd) : (s.setCmds l).outbox = s.outbox := rfl
@[simp] theorem State.setCmds_fresh (s : State) (l : List Cmd) : (s.setCmds l).fresh = s.fresh := rfl
@[simp] theorem State.setCmds_pending (s : State) (l : List Cmd) : (s.setCmds l).pending = s.pending := rfl

/-! modCmd changes only `cmd`. -/

@[simp] theorem State.modCmd_tiles (s : State) (c : CmdRef) (f : Cmd → Cmd) : (s.modCmd c f).tiles = s.tiles := rfl
@[simp] theorem State.modCmd_mem (s : State) (c : CmdRef) (f : Cmd → Cmd) : (s.modCmd c f).mem = s.mem := rfl
@[simp] theorem State.modCmd_place (s : State) (c : CmdRef) (f : Cmd → Cmd) : (s.modCmd c f).place = s.place := rfl
@[simp] theorem State.modCmd_host (s : State) (c : CmdRef) (f : Cmd → Cmd) : (s.modCmd c f).host = s.host := rfl
@[simp] theorem State.modCmd_dom (s : State) (c : CmdRef) (f : Cmd → Cmd) : (s.modCmd c f).dom = s.dom := rfl
@[simp] theorem State.modCmd_lnk (s : State) (c : CmdRef) (f : Cmd → Cmd) : (s.modCmd c f).lnk = s.lnk := rfl
@[simp] theorem State.modCmd_coll (s : State) (c : CmdRef) (f : Cmd → Cmd) : (s.modCmd c f).coll = s.coll := rfl
@[simp] theorem State.modCmd_flt (s : State) (c : CmdRef) (f : Cmd → Cmd) : (s.modCmd c f).flt = s.flt := rfl
@[simp] theorem State.modCmd_pat (s : State) (c : CmdRef) (f : Cmd → Cmd) : (s.modCmd c f).pat = s.pat := rfl
@[simp] theorem State.modCmd_pwr (s : State) (c : CmdRef) (f : Cmd → Cmd) : (s.modCmd c f).pwr = s.pwr := rfl
@[simp] theorem State.modCmd_turn (s : State) (c : CmdRef) (f : Cmd → Cmd) : (s.modCmd c f).turn = s.turn := rfl
@[simp] theorem State.modCmd_gen (s : State) (c : CmdRef) (f : Cmd → Cmd) : (s.modCmd c f).gen = s.gen := rfl
@[simp] theorem State.modCmd_sig (s : State) (c : CmdRef) (f : Cmd → Cmd) : (s.modCmd c f).sig = s.sig := rfl
@[simp] theorem State.modCmd_boot (s : State) (c : CmdRef) (f : Cmd → Cmd) : (s.modCmd c f).boot = s.boot := rfl
@[simp] theorem State.modCmd_regs (s : State) (c : CmdRef) (f : Cmd → Cmd) : (s.modCmd c f).regs = s.regs := rfl
@[simp] theorem State.modCmd_outbox (s : State) (c : CmdRef) (f : Cmd → Cmd) : (s.modCmd c f).outbox = s.outbox := rfl
@[simp] theorem State.modCmd_fresh (s : State) (c : CmdRef) (f : Cmd → Cmd) : (s.modCmd c f).fresh = s.fresh := rfl
@[simp] theorem State.modCmd_pending (s : State) (c : CmdRef) (f : Cmd → Cmd) : (s.modCmd c f).pending = s.pending := rfl

/-! modSq changes only `cmd`. -/

@[simp] theorem State.modSq_tiles (s : State) (a b : Nat) (f : Sq → Sq) : (s.modSq a b f).tiles = s.tiles := rfl
@[simp] theorem State.modSq_mem (s : State) (a b : Nat) (f : Sq → Sq) : (s.modSq a b f).mem = s.mem := rfl
@[simp] theorem State.modSq_place (s : State) (a b : Nat) (f : Sq → Sq) : (s.modSq a b f).place = s.place := rfl
@[simp] theorem State.modSq_host (s : State) (a b : Nat) (f : Sq → Sq) : (s.modSq a b f).host = s.host := rfl
@[simp] theorem State.modSq_dom (s : State) (a b : Nat) (f : Sq → Sq) : (s.modSq a b f).dom = s.dom := rfl
@[simp] theorem State.modSq_lnk (s : State) (a b : Nat) (f : Sq → Sq) : (s.modSq a b f).lnk = s.lnk := rfl
@[simp] theorem State.modSq_coll (s : State) (a b : Nat) (f : Sq → Sq) : (s.modSq a b f).coll = s.coll := rfl
@[simp] theorem State.modSq_flt (s : State) (a b : Nat) (f : Sq → Sq) : (s.modSq a b f).flt = s.flt := rfl
@[simp] theorem State.modSq_pat (s : State) (a b : Nat) (f : Sq → Sq) : (s.modSq a b f).pat = s.pat := rfl
@[simp] theorem State.modSq_pwr (s : State) (a b : Nat) (f : Sq → Sq) : (s.modSq a b f).pwr = s.pwr := rfl
@[simp] theorem State.modSq_turn (s : State) (a b : Nat) (f : Sq → Sq) : (s.modSq a b f).turn = s.turn := rfl
@[simp] theorem State.modSq_gen (s : State) (a b : Nat) (f : Sq → Sq) : (s.modSq a b f).gen = s.gen := rfl
@[simp] theorem State.modSq_sig (s : State) (a b : Nat) (f : Sq → Sq) : (s.modSq a b f).sig = s.sig := rfl
@[simp] theorem State.modSq_boot (s : State) (a b : Nat) (f : Sq → Sq) : (s.modSq a b f).boot = s.boot := rfl
@[simp] theorem State.modSq_regs (s : State) (a b : Nat) (f : Sq → Sq) : (s.modSq a b f).regs = s.regs := rfl
@[simp] theorem State.modSq_outbox (s : State) (a b : Nat) (f : Sq → Sq) : (s.modSq a b f).outbox = s.outbox := rfl
@[simp] theorem State.modSq_fresh (s : State) (a b : Nat) (f : Sq → Sq) : (s.modSq a b f).fresh = s.fresh := rfl
@[simp] theorem State.modSq_pending (s : State) (a b : Nat) (f : Sq → Sq) : (s.modSq a b f).pending = s.pending := rfl

/-! modCq changes only `cmd`. -/

@[simp] theorem State.modCq_tiles (s : State) (a b : Nat) (f : Cq → Cq) : (s.modCq a b f).tiles = s.tiles := rfl
@[simp] theorem State.modCq_mem (s : State) (a b : Nat) (f : Cq → Cq) : (s.modCq a b f).mem = s.mem := rfl
@[simp] theorem State.modCq_place (s : State) (a b : Nat) (f : Cq → Cq) : (s.modCq a b f).place = s.place := rfl
@[simp] theorem State.modCq_host (s : State) (a b : Nat) (f : Cq → Cq) : (s.modCq a b f).host = s.host := rfl
@[simp] theorem State.modCq_dom (s : State) (a b : Nat) (f : Cq → Cq) : (s.modCq a b f).dom = s.dom := rfl
@[simp] theorem State.modCq_lnk (s : State) (a b : Nat) (f : Cq → Cq) : (s.modCq a b f).lnk = s.lnk := rfl
@[simp] theorem State.modCq_coll (s : State) (a b : Nat) (f : Cq → Cq) : (s.modCq a b f).coll = s.coll := rfl
@[simp] theorem State.modCq_flt (s : State) (a b : Nat) (f : Cq → Cq) : (s.modCq a b f).flt = s.flt := rfl
@[simp] theorem State.modCq_pat (s : State) (a b : Nat) (f : Cq → Cq) : (s.modCq a b f).pat = s.pat := rfl
@[simp] theorem State.modCq_pwr (s : State) (a b : Nat) (f : Cq → Cq) : (s.modCq a b f).pwr = s.pwr := rfl
@[simp] theorem State.modCq_turn (s : State) (a b : Nat) (f : Cq → Cq) : (s.modCq a b f).turn = s.turn := rfl
@[simp] theorem State.modCq_gen (s : State) (a b : Nat) (f : Cq → Cq) : (s.modCq a b f).gen = s.gen := rfl
@[simp] theorem State.modCq_sig (s : State) (a b : Nat) (f : Cq → Cq) : (s.modCq a b f).sig = s.sig := rfl
@[simp] theorem State.modCq_boot (s : State) (a b : Nat) (f : Cq → Cq) : (s.modCq a b f).boot = s.boot := rfl
@[simp] theorem State.modCq_regs (s : State) (a b : Nat) (f : Cq → Cq) : (s.modCq a b f).regs = s.regs := rfl
@[simp] theorem State.modCq_outbox (s : State) (a b : Nat) (f : Cq → Cq) : (s.modCq a b f).outbox = s.outbox := rfl
@[simp] theorem State.modCq_fresh (s : State) (a b : Nat) (f : Cq → Cq) : (s.modCq a b f).fresh = s.fresh := rfl
@[simp] theorem State.modCq_pending (s : State) (a b : Nat) (f : Cq → Cq) : (s.modCq a b f).pending = s.pending := rfl

/-! modTnt changes only `cmd`. -/

@[simp] theorem State.modTnt_tiles (s : State) (t : Nat) (f : TenantRegs → TenantRegs) : (s.modTnt t f).tiles = s.tiles := by unfold State.modTnt; split <;> rfl
@[simp] theorem State.modTnt_mem (s : State) (t : Nat) (f : TenantRegs → TenantRegs) : (s.modTnt t f).mem = s.mem := by unfold State.modTnt; split <;> rfl
@[simp] theorem State.modTnt_place (s : State) (t : Nat) (f : TenantRegs → TenantRegs) : (s.modTnt t f).place = s.place := by unfold State.modTnt; split <;> rfl
@[simp] theorem State.modTnt_host (s : State) (t : Nat) (f : TenantRegs → TenantRegs) : (s.modTnt t f).host = s.host := by unfold State.modTnt; split <;> rfl
@[simp] theorem State.modTnt_dom (s : State) (t : Nat) (f : TenantRegs → TenantRegs) : (s.modTnt t f).dom = s.dom := by unfold State.modTnt; split <;> rfl
@[simp] theorem State.modTnt_lnk (s : State) (t : Nat) (f : TenantRegs → TenantRegs) : (s.modTnt t f).lnk = s.lnk := by unfold State.modTnt; split <;> rfl
@[simp] theorem State.modTnt_coll (s : State) (t : Nat) (f : TenantRegs → TenantRegs) : (s.modTnt t f).coll = s.coll := by unfold State.modTnt; split <;> rfl
@[simp] theorem State.modTnt_flt (s : State) (t : Nat) (f : TenantRegs → TenantRegs) : (s.modTnt t f).flt = s.flt := by unfold State.modTnt; split <;> rfl
@[simp] theorem State.modTnt_pat (s : State) (t : Nat) (f : TenantRegs → TenantRegs) : (s.modTnt t f).pat = s.pat := by unfold State.modTnt; split <;> rfl
@[simp] theorem State.modTnt_pwr (s : State) (t : Nat) (f : TenantRegs → TenantRegs) : (s.modTnt t f).pwr = s.pwr := by unfold State.modTnt; split <;> rfl
@[simp] theorem State.modTnt_turn (s : State) (t : Nat) (f : TenantRegs → TenantRegs) : (s.modTnt t f).turn = s.turn := by unfold State.modTnt; split <;> rfl
@[simp] theorem State.modTnt_gen (s : State) (t : Nat) (f : TenantRegs → TenantRegs) : (s.modTnt t f).gen = s.gen := by unfold State.modTnt; split <;> rfl
@[simp] theorem State.modTnt_sig (s : State) (t : Nat) (f : TenantRegs → TenantRegs) : (s.modTnt t f).sig = s.sig := by unfold State.modTnt; split <;> rfl
@[simp] theorem State.modTnt_boot (s : State) (t : Nat) (f : TenantRegs → TenantRegs) : (s.modTnt t f).boot = s.boot := by unfold State.modTnt; split <;> rfl
@[simp] theorem State.modTnt_regs (s : State) (t : Nat) (f : TenantRegs → TenantRegs) : (s.modTnt t f).regs = s.regs := by unfold State.modTnt; split <;> rfl
@[simp] theorem State.modTnt_outbox (s : State) (t : Nat) (f : TenantRegs → TenantRegs) : (s.modTnt t f).outbox = s.outbox := by unfold State.modTnt; split <;> rfl
@[simp] theorem State.modTnt_fresh (s : State) (t : Nat) (f : TenantRegs → TenantRegs) : (s.modTnt t f).fresh = s.fresh := by unfold State.modTnt; split <;> rfl
@[simp] theorem State.modTnt_pending (s : State) (t : Nat) (f : TenantRegs → TenantRegs) : (s.modTnt t f).pending = s.pending := by unfold State.modTnt; split <;> rfl

/-! setFn changes only `host`. -/

@[simp] theorem State.setFn_tiles (s : State) (a : Fin 513) (x : FnState) : (s.setFn a x).tiles = s.tiles := rfl
@[simp] theorem State.setFn_mem (s : State) (a : Fin 513) (x : FnState) : (s.setFn a x).mem = s.mem := rfl
@[simp] theorem State.setFn_place (s : State) (a : Fin 513) (x : FnState) : (s.setFn a x).place = s.place := rfl
@[simp] theorem State.setFn_cmd (s : State) (a : Fin 513) (x : FnState) : (s.setFn a x).cmd = s.cmd := rfl
@[simp] theorem State.setFn_dom (s : State) (a : Fin 513) (x : FnState) : (s.setFn a x).dom = s.dom := rfl
@[simp] theorem State.setFn_lnk (s : State) (a : Fin 513) (x : FnState) : (s.setFn a x).lnk = s.lnk := rfl
@[simp] theorem State.setFn_coll (s : State) (a : Fin 513) (x : FnState) : (s.setFn a x).coll = s.coll := rfl
@[simp] theorem State.setFn_flt (s : State) (a : Fin 513) (x : FnState) : (s.setFn a x).flt = s.flt := rfl
@[simp] theorem State.setFn_pat (s : State) (a : Fin 513) (x : FnState) : (s.setFn a x).pat = s.pat := rfl
@[simp] theorem State.setFn_pwr (s : State) (a : Fin 513) (x : FnState) : (s.setFn a x).pwr = s.pwr := rfl
@[simp] theorem State.setFn_turn (s : State) (a : Fin 513) (x : FnState) : (s.setFn a x).turn = s.turn := rfl
@[simp] theorem State.setFn_gen (s : State) (a : Fin 513) (x : FnState) : (s.setFn a x).gen = s.gen := rfl
@[simp] theorem State.setFn_sig (s : State) (a : Fin 513) (x : FnState) : (s.setFn a x).sig = s.sig := rfl
@[simp] theorem State.setFn_boot (s : State) (a : Fin 513) (x : FnState) : (s.setFn a x).boot = s.boot := rfl
@[simp] theorem State.setFn_regs (s : State) (a : Fin 513) (x : FnState) : (s.setFn a x).regs = s.regs := rfl
@[simp] theorem State.setFn_outbox (s : State) (a : Fin 513) (x : FnState) : (s.setFn a x).outbox = s.outbox := rfl
@[simp] theorem State.setFn_fresh (s : State) (a : Fin 513) (x : FnState) : (s.setFn a x).fresh = s.fresh := rfl
@[simp] theorem State.setFn_pending (s : State) (a : Fin 513) (x : FnState) : (s.setFn a x).pending = s.pending := rfl

/-! modFn changes only `host`. -/

@[simp] theorem State.modFn_tiles (s : State) (a : Fin 513) (f : FnState → FnState) : (s.modFn a f).tiles = s.tiles := rfl
@[simp] theorem State.modFn_mem (s : State) (a : Fin 513) (f : FnState → FnState) : (s.modFn a f).mem = s.mem := rfl
@[simp] theorem State.modFn_place (s : State) (a : Fin 513) (f : FnState → FnState) : (s.modFn a f).place = s.place := rfl
@[simp] theorem State.modFn_cmd (s : State) (a : Fin 513) (f : FnState → FnState) : (s.modFn a f).cmd = s.cmd := rfl
@[simp] theorem State.modFn_dom (s : State) (a : Fin 513) (f : FnState → FnState) : (s.modFn a f).dom = s.dom := rfl
@[simp] theorem State.modFn_lnk (s : State) (a : Fin 513) (f : FnState → FnState) : (s.modFn a f).lnk = s.lnk := rfl
@[simp] theorem State.modFn_coll (s : State) (a : Fin 513) (f : FnState → FnState) : (s.modFn a f).coll = s.coll := rfl
@[simp] theorem State.modFn_flt (s : State) (a : Fin 513) (f : FnState → FnState) : (s.modFn a f).flt = s.flt := rfl
@[simp] theorem State.modFn_pat (s : State) (a : Fin 513) (f : FnState → FnState) : (s.modFn a f).pat = s.pat := rfl
@[simp] theorem State.modFn_pwr (s : State) (a : Fin 513) (f : FnState → FnState) : (s.modFn a f).pwr = s.pwr := rfl
@[simp] theorem State.modFn_turn (s : State) (a : Fin 513) (f : FnState → FnState) : (s.modFn a f).turn = s.turn := rfl
@[simp] theorem State.modFn_gen (s : State) (a : Fin 513) (f : FnState → FnState) : (s.modFn a f).gen = s.gen := rfl
@[simp] theorem State.modFn_sig (s : State) (a : Fin 513) (f : FnState → FnState) : (s.modFn a f).sig = s.sig := rfl
@[simp] theorem State.modFn_boot (s : State) (a : Fin 513) (f : FnState → FnState) : (s.modFn a f).boot = s.boot := rfl
@[simp] theorem State.modFn_regs (s : State) (a : Fin 513) (f : FnState → FnState) : (s.modFn a f).regs = s.regs := rfl
@[simp] theorem State.modFn_outbox (s : State) (a : Fin 513) (f : FnState → FnState) : (s.modFn a f).outbox = s.outbox := rfl
@[simp] theorem State.modFn_fresh (s : State) (a : Fin 513) (f : FnState → FnState) : (s.modFn a f).fresh = s.fresh := rfl
@[simp] theorem State.modFn_pending (s : State) (a : Fin 513) (f : FnState → FnState) : (s.modFn a f).pending = s.pending := rfl

/-! reply changes only `host`. -/

@[simp] theorem State.reply_tiles (s : State) (r : HostReply) : (s.reply r).tiles = s.tiles := rfl
@[simp] theorem State.reply_mem (s : State) (r : HostReply) : (s.reply r).mem = s.mem := rfl
@[simp] theorem State.reply_place (s : State) (r : HostReply) : (s.reply r).place = s.place := rfl
@[simp] theorem State.reply_cmd (s : State) (r : HostReply) : (s.reply r).cmd = s.cmd := rfl
@[simp] theorem State.reply_dom (s : State) (r : HostReply) : (s.reply r).dom = s.dom := rfl
@[simp] theorem State.reply_lnk (s : State) (r : HostReply) : (s.reply r).lnk = s.lnk := rfl
@[simp] theorem State.reply_coll (s : State) (r : HostReply) : (s.reply r).coll = s.coll := rfl
@[simp] theorem State.reply_flt (s : State) (r : HostReply) : (s.reply r).flt = s.flt := rfl
@[simp] theorem State.reply_pat (s : State) (r : HostReply) : (s.reply r).pat = s.pat := rfl
@[simp] theorem State.reply_pwr (s : State) (r : HostReply) : (s.reply r).pwr = s.pwr := rfl
@[simp] theorem State.reply_turn (s : State) (r : HostReply) : (s.reply r).turn = s.turn := rfl
@[simp] theorem State.reply_gen (s : State) (r : HostReply) : (s.reply r).gen = s.gen := rfl
@[simp] theorem State.reply_sig (s : State) (r : HostReply) : (s.reply r).sig = s.sig := rfl
@[simp] theorem State.reply_boot (s : State) (r : HostReply) : (s.reply r).boot = s.boot := rfl
@[simp] theorem State.reply_regs (s : State) (r : HostReply) : (s.reply r).regs = s.regs := rfl
@[simp] theorem State.reply_outbox (s : State) (r : HostReply) : (s.reply r).outbox = s.outbox := rfl
@[simp] theorem State.reply_fresh (s : State) (r : HostReply) : (s.reply r).fresh = s.fresh := rfl
@[simp] theorem State.reply_pending (s : State) (r : HostReply) : (s.reply r).pending = s.pending := rfl

/-! modTp changes only `place`. -/

@[simp] theorem State.modTp_tiles (s : State) (t : Nat) (f : TenantPlace → TenantPlace) : (s.modTp t f).tiles = s.tiles := rfl
@[simp] theorem State.modTp_mem (s : State) (t : Nat) (f : TenantPlace → TenantPlace) : (s.modTp t f).mem = s.mem := rfl
@[simp] theorem State.modTp_cmd (s : State) (t : Nat) (f : TenantPlace → TenantPlace) : (s.modTp t f).cmd = s.cmd := rfl
@[simp] theorem State.modTp_host (s : State) (t : Nat) (f : TenantPlace → TenantPlace) : (s.modTp t f).host = s.host := rfl
@[simp] theorem State.modTp_dom (s : State) (t : Nat) (f : TenantPlace → TenantPlace) : (s.modTp t f).dom = s.dom := rfl
@[simp] theorem State.modTp_lnk (s : State) (t : Nat) (f : TenantPlace → TenantPlace) : (s.modTp t f).lnk = s.lnk := rfl
@[simp] theorem State.modTp_coll (s : State) (t : Nat) (f : TenantPlace → TenantPlace) : (s.modTp t f).coll = s.coll := rfl
@[simp] theorem State.modTp_flt (s : State) (t : Nat) (f : TenantPlace → TenantPlace) : (s.modTp t f).flt = s.flt := rfl
@[simp] theorem State.modTp_pat (s : State) (t : Nat) (f : TenantPlace → TenantPlace) : (s.modTp t f).pat = s.pat := rfl
@[simp] theorem State.modTp_pwr (s : State) (t : Nat) (f : TenantPlace → TenantPlace) : (s.modTp t f).pwr = s.pwr := rfl
@[simp] theorem State.modTp_turn (s : State) (t : Nat) (f : TenantPlace → TenantPlace) : (s.modTp t f).turn = s.turn := rfl
@[simp] theorem State.modTp_gen (s : State) (t : Nat) (f : TenantPlace → TenantPlace) : (s.modTp t f).gen = s.gen := rfl
@[simp] theorem State.modTp_sig (s : State) (t : Nat) (f : TenantPlace → TenantPlace) : (s.modTp t f).sig = s.sig := rfl
@[simp] theorem State.modTp_boot (s : State) (t : Nat) (f : TenantPlace → TenantPlace) : (s.modTp t f).boot = s.boot := rfl
@[simp] theorem State.modTp_regs (s : State) (t : Nat) (f : TenantPlace → TenantPlace) : (s.modTp t f).regs = s.regs := rfl
@[simp] theorem State.modTp_outbox (s : State) (t : Nat) (f : TenantPlace → TenantPlace) : (s.modTp t f).outbox = s.outbox := rfl
@[simp] theorem State.modTp_fresh (s : State) (t : Nat) (f : TenantPlace → TenantPlace) : (s.modTp t f).fresh = s.fresh := rfl
@[simp] theorem State.modTp_pending (s : State) (t : Nat) (f : TenantPlace → TenantPlace) : (s.modTp t f).pending = s.pending := rfl

/-! setLease changes only `place`. -/

@[simp] theorem State.setLease_tiles (s : State) (t : Nat) (l : Lease) : (s.setLease t l).tiles = s.tiles := rfl
@[simp] theorem State.setLease_mem (s : State) (t : Nat) (l : Lease) : (s.setLease t l).mem = s.mem := rfl
@[simp] theorem State.setLease_cmd (s : State) (t : Nat) (l : Lease) : (s.setLease t l).cmd = s.cmd := rfl
@[simp] theorem State.setLease_host (s : State) (t : Nat) (l : Lease) : (s.setLease t l).host = s.host := rfl
@[simp] theorem State.setLease_dom (s : State) (t : Nat) (l : Lease) : (s.setLease t l).dom = s.dom := rfl
@[simp] theorem State.setLease_lnk (s : State) (t : Nat) (l : Lease) : (s.setLease t l).lnk = s.lnk := rfl
@[simp] theorem State.setLease_coll (s : State) (t : Nat) (l : Lease) : (s.setLease t l).coll = s.coll := rfl
@[simp] theorem State.setLease_flt (s : State) (t : Nat) (l : Lease) : (s.setLease t l).flt = s.flt := rfl
@[simp] theorem State.setLease_pat (s : State) (t : Nat) (l : Lease) : (s.setLease t l).pat = s.pat := rfl
@[simp] theorem State.setLease_pwr (s : State) (t : Nat) (l : Lease) : (s.setLease t l).pwr = s.pwr := rfl
@[simp] theorem State.setLease_turn (s : State) (t : Nat) (l : Lease) : (s.setLease t l).turn = s.turn := rfl
@[simp] theorem State.setLease_gen (s : State) (t : Nat) (l : Lease) : (s.setLease t l).gen = s.gen := rfl
@[simp] theorem State.setLease_sig (s : State) (t : Nat) (l : Lease) : (s.setLease t l).sig = s.sig := rfl
@[simp] theorem State.setLease_boot (s : State) (t : Nat) (l : Lease) : (s.setLease t l).boot = s.boot := rfl
@[simp] theorem State.setLease_regs (s : State) (t : Nat) (l : Lease) : (s.setLease t l).regs = s.regs := rfl
@[simp] theorem State.setLease_outbox (s : State) (t : Nat) (l : Lease) : (s.setLease t l).outbox = s.outbox := rfl
@[simp] theorem State.setLease_fresh (s : State) (t : Nat) (l : Lease) : (s.setLease t l).fresh = s.fresh := rfl
@[simp] theorem State.setLease_pending (s : State) (t : Nat) (l : Lease) : (s.setLease t l).pending = s.pending := rfl

/-! progressed changes only `flt`. -/

@[simp] theorem State.progressed_tiles (s : State) (a b : Nat) : (s.progressed a b).tiles = s.tiles := rfl
@[simp] theorem State.progressed_mem (s : State) (a b : Nat) : (s.progressed a b).mem = s.mem := rfl
@[simp] theorem State.progressed_place (s : State) (a b : Nat) : (s.progressed a b).place = s.place := rfl
@[simp] theorem State.progressed_cmd (s : State) (a b : Nat) : (s.progressed a b).cmd = s.cmd := rfl
@[simp] theorem State.progressed_host (s : State) (a b : Nat) : (s.progressed a b).host = s.host := rfl
@[simp] theorem State.progressed_dom (s : State) (a b : Nat) : (s.progressed a b).dom = s.dom := rfl
@[simp] theorem State.progressed_lnk (s : State) (a b : Nat) : (s.progressed a b).lnk = s.lnk := rfl
@[simp] theorem State.progressed_coll (s : State) (a b : Nat) : (s.progressed a b).coll = s.coll := rfl
@[simp] theorem State.progressed_pat (s : State) (a b : Nat) : (s.progressed a b).pat = s.pat := rfl
@[simp] theorem State.progressed_pwr (s : State) (a b : Nat) : (s.progressed a b).pwr = s.pwr := rfl
@[simp] theorem State.progressed_turn (s : State) (a b : Nat) : (s.progressed a b).turn = s.turn := rfl
@[simp] theorem State.progressed_gen (s : State) (a b : Nat) : (s.progressed a b).gen = s.gen := rfl
@[simp] theorem State.progressed_sig (s : State) (a b : Nat) : (s.progressed a b).sig = s.sig := rfl
@[simp] theorem State.progressed_boot (s : State) (a b : Nat) : (s.progressed a b).boot = s.boot := rfl
@[simp] theorem State.progressed_regs (s : State) (a b : Nat) : (s.progressed a b).regs = s.regs := rfl
@[simp] theorem State.progressed_outbox (s : State) (a b : Nat) : (s.progressed a b).outbox = s.outbox := rfl
@[simp] theorem State.progressed_fresh (s : State) (a b : Nat) : (s.progressed a b).fresh = s.fresh := rfl
@[simp] theorem State.progressed_pending (s : State) (a b : Nat) : (s.progressed a b).pending = s.pending := rfl

/-! send changes only `outbox`. -/

@[simp] theorem State.send_tiles (s : State) (m : Msg) : (s.send m).tiles = s.tiles := rfl
@[simp] theorem State.send_mem (s : State) (m : Msg) : (s.send m).mem = s.mem := rfl
@[simp] theorem State.send_place (s : State) (m : Msg) : (s.send m).place = s.place := rfl
@[simp] theorem State.send_cmd (s : State) (m : Msg) : (s.send m).cmd = s.cmd := rfl
@[simp] theorem State.send_host (s : State) (m : Msg) : (s.send m).host = s.host := rfl
@[simp] theorem State.send_dom (s : State) (m : Msg) : (s.send m).dom = s.dom := rfl
@[simp] theorem State.send_lnk (s : State) (m : Msg) : (s.send m).lnk = s.lnk := rfl
@[simp] theorem State.send_coll (s : State) (m : Msg) : (s.send m).coll = s.coll := rfl
@[simp] theorem State.send_flt (s : State) (m : Msg) : (s.send m).flt = s.flt := rfl
@[simp] theorem State.send_pat (s : State) (m : Msg) : (s.send m).pat = s.pat := rfl
@[simp] theorem State.send_pwr (s : State) (m : Msg) : (s.send m).pwr = s.pwr := rfl
@[simp] theorem State.send_turn (s : State) (m : Msg) : (s.send m).turn = s.turn := rfl
@[simp] theorem State.send_gen (s : State) (m : Msg) : (s.send m).gen = s.gen := rfl
@[simp] theorem State.send_sig (s : State) (m : Msg) : (s.send m).sig = s.sig := rfl
@[simp] theorem State.send_boot (s : State) (m : Msg) : (s.send m).boot = s.boot := rfl
@[simp] theorem State.send_regs (s : State) (m : Msg) : (s.send m).regs = s.regs := rfl
@[simp] theorem State.send_fresh (s : State) (m : Msg) : (s.send m).fresh = s.fresh := rfl
@[simp] theorem State.send_pending (s : State) (m : Msg) : (s.send m).pending = s.pending := rfl

/-! setLearn changes only `turn`. -/

@[simp] theorem State.setLearn_tiles (s : State) (t m : Nat) (l : Learn) : (s.setLearn t m l).tiles = s.tiles := rfl
@[simp] theorem State.setLearn_mem (s : State) (t m : Nat) (l : Learn) : (s.setLearn t m l).mem = s.mem := rfl
@[simp] theorem State.setLearn_place (s : State) (t m : Nat) (l : Learn) : (s.setLearn t m l).place = s.place := rfl
@[simp] theorem State.setLearn_cmd (s : State) (t m : Nat) (l : Learn) : (s.setLearn t m l).cmd = s.cmd := rfl
@[simp] theorem State.setLearn_host (s : State) (t m : Nat) (l : Learn) : (s.setLearn t m l).host = s.host := rfl
@[simp] theorem State.setLearn_dom (s : State) (t m : Nat) (l : Learn) : (s.setLearn t m l).dom = s.dom := rfl
@[simp] theorem State.setLearn_lnk (s : State) (t m : Nat) (l : Learn) : (s.setLearn t m l).lnk = s.lnk := rfl
@[simp] theorem State.setLearn_coll (s : State) (t m : Nat) (l : Learn) : (s.setLearn t m l).coll = s.coll := rfl
@[simp] theorem State.setLearn_flt (s : State) (t m : Nat) (l : Learn) : (s.setLearn t m l).flt = s.flt := rfl
@[simp] theorem State.setLearn_pat (s : State) (t m : Nat) (l : Learn) : (s.setLearn t m l).pat = s.pat := rfl
@[simp] theorem State.setLearn_pwr (s : State) (t m : Nat) (l : Learn) : (s.setLearn t m l).pwr = s.pwr := rfl
@[simp] theorem State.setLearn_gen (s : State) (t m : Nat) (l : Learn) : (s.setLearn t m l).gen = s.gen := rfl
@[simp] theorem State.setLearn_sig (s : State) (t m : Nat) (l : Learn) : (s.setLearn t m l).sig = s.sig := rfl
@[simp] theorem State.setLearn_boot (s : State) (t m : Nat) (l : Learn) : (s.setLearn t m l).boot = s.boot := rfl
@[simp] theorem State.setLearn_regs (s : State) (t m : Nat) (l : Learn) : (s.setLearn t m l).regs = s.regs := rfl
@[simp] theorem State.setLearn_outbox (s : State) (t m : Nat) (l : Learn) : (s.setLearn t m l).outbox = s.outbox := rfl
@[simp] theorem State.setLearn_fresh (s : State) (t m : Nat) (l : Learn) : (s.setLearn t m l).fresh = s.fresh := rfl
@[simp] theorem State.setLearn_pending (s : State) (t m : Nat) (l : Learn) : (s.setLearn t m l).pending = s.pending := rfl

/-! setPhase changes only `turn`. -/

@[simp] theorem State.setPhase_tiles (s : State) (t : Nat) (p : TenantPhase) : (s.setPhase t p).tiles = s.tiles := rfl
@[simp] theorem State.setPhase_mem (s : State) (t : Nat) (p : TenantPhase) : (s.setPhase t p).mem = s.mem := rfl
@[simp] theorem State.setPhase_place (s : State) (t : Nat) (p : TenantPhase) : (s.setPhase t p).place = s.place := rfl
@[simp] theorem State.setPhase_cmd (s : State) (t : Nat) (p : TenantPhase) : (s.setPhase t p).cmd = s.cmd := rfl
@[simp] theorem State.setPhase_host (s : State) (t : Nat) (p : TenantPhase) : (s.setPhase t p).host = s.host := rfl
@[simp] theorem State.setPhase_dom (s : State) (t : Nat) (p : TenantPhase) : (s.setPhase t p).dom = s.dom := rfl
@[simp] theorem State.setPhase_lnk (s : State) (t : Nat) (p : TenantPhase) : (s.setPhase t p).lnk = s.lnk := rfl
@[simp] theorem State.setPhase_coll (s : State) (t : Nat) (p : TenantPhase) : (s.setPhase t p).coll = s.coll := rfl
@[simp] theorem State.setPhase_flt (s : State) (t : Nat) (p : TenantPhase) : (s.setPhase t p).flt = s.flt := rfl
@[simp] theorem State.setPhase_pat (s : State) (t : Nat) (p : TenantPhase) : (s.setPhase t p).pat = s.pat := rfl
@[simp] theorem State.setPhase_pwr (s : State) (t : Nat) (p : TenantPhase) : (s.setPhase t p).pwr = s.pwr := rfl
@[simp] theorem State.setPhase_gen (s : State) (t : Nat) (p : TenantPhase) : (s.setPhase t p).gen = s.gen := rfl
@[simp] theorem State.setPhase_sig (s : State) (t : Nat) (p : TenantPhase) : (s.setPhase t p).sig = s.sig := rfl
@[simp] theorem State.setPhase_boot (s : State) (t : Nat) (p : TenantPhase) : (s.setPhase t p).boot = s.boot := rfl
@[simp] theorem State.setPhase_regs (s : State) (t : Nat) (p : TenantPhase) : (s.setPhase t p).regs = s.regs := rfl
@[simp] theorem State.setPhase_outbox (s : State) (t : Nat) (p : TenantPhase) : (s.setPhase t p).outbox = s.outbox := rfl
@[simp] theorem State.setPhase_fresh (s : State) (t : Nat) (p : TenantPhase) : (s.setPhase t p).fresh = s.fresh := rfl
@[simp] theorem State.setPhase_pending (s : State) (t : Nat) (p : TenantPhase) : (s.setPhase t p).pending = s.pending := rfl

/-! setStack changes only `pwr`. -/

@[simp] theorem State.setStack_tiles (s : State) (k : Fin 16) (x : StackTherm) : (s.setStack k x).tiles = s.tiles := rfl
@[simp] theorem State.setStack_mem (s : State) (k : Fin 16) (x : StackTherm) : (s.setStack k x).mem = s.mem := rfl
@[simp] theorem State.setStack_place (s : State) (k : Fin 16) (x : StackTherm) : (s.setStack k x).place = s.place := rfl
@[simp] theorem State.setStack_cmd (s : State) (k : Fin 16) (x : StackTherm) : (s.setStack k x).cmd = s.cmd := rfl
@[simp] theorem State.setStack_host (s : State) (k : Fin 16) (x : StackTherm) : (s.setStack k x).host = s.host := rfl
@[simp] theorem State.setStack_dom (s : State) (k : Fin 16) (x : StackTherm) : (s.setStack k x).dom = s.dom := rfl
@[simp] theorem State.setStack_lnk (s : State) (k : Fin 16) (x : StackTherm) : (s.setStack k x).lnk = s.lnk := rfl
@[simp] theorem State.setStack_coll (s : State) (k : Fin 16) (x : StackTherm) : (s.setStack k x).coll = s.coll := rfl
@[simp] theorem State.setStack_flt (s : State) (k : Fin 16) (x : StackTherm) : (s.setStack k x).flt = s.flt := rfl
@[simp] theorem State.setStack_pat (s : State) (k : Fin 16) (x : StackTherm) : (s.setStack k x).pat = s.pat := rfl
@[simp] theorem State.setStack_turn (s : State) (k : Fin 16) (x : StackTherm) : (s.setStack k x).turn = s.turn := rfl
@[simp] theorem State.setStack_gen (s : State) (k : Fin 16) (x : StackTherm) : (s.setStack k x).gen = s.gen := rfl
@[simp] theorem State.setStack_sig (s : State) (k : Fin 16) (x : StackTherm) : (s.setStack k x).sig = s.sig := rfl
@[simp] theorem State.setStack_boot (s : State) (k : Fin 16) (x : StackTherm) : (s.setStack k x).boot = s.boot := rfl
@[simp] theorem State.setStack_regs (s : State) (k : Fin 16) (x : StackTherm) : (s.setStack k x).regs = s.regs := rfl
@[simp] theorem State.setStack_outbox (s : State) (k : Fin 16) (x : StackTherm) : (s.setStack k x).outbox = s.outbox := rfl
@[simp] theorem State.setStack_fresh (s : State) (k : Fin 16) (x : StackTherm) : (s.setStack k x).fresh = s.fresh := rfl
@[simp] theorem State.setStack_pending (s : State) (k : Fin 16) (x : StackTherm) : (s.setStack k x).pending = s.pending := rfl

/-! setDieTherm changes only `pwr`. -/

@[simp] theorem State.setDieTherm_tiles (s : State) (d : Fin 6) (x : DieTherm) : (s.setDieTherm d x).tiles = s.tiles := rfl
@[simp] theorem State.setDieTherm_mem (s : State) (d : Fin 6) (x : DieTherm) : (s.setDieTherm d x).mem = s.mem := rfl
@[simp] theorem State.setDieTherm_place (s : State) (d : Fin 6) (x : DieTherm) : (s.setDieTherm d x).place = s.place := rfl
@[simp] theorem State.setDieTherm_cmd (s : State) (d : Fin 6) (x : DieTherm) : (s.setDieTherm d x).cmd = s.cmd := rfl
@[simp] theorem State.setDieTherm_host (s : State) (d : Fin 6) (x : DieTherm) : (s.setDieTherm d x).host = s.host := rfl
@[simp] theorem State.setDieTherm_dom (s : State) (d : Fin 6) (x : DieTherm) : (s.setDieTherm d x).dom = s.dom := rfl
@[simp] theorem State.setDieTherm_lnk (s : State) (d : Fin 6) (x : DieTherm) : (s.setDieTherm d x).lnk = s.lnk := rfl
@[simp] theorem State.setDieTherm_coll (s : State) (d : Fin 6) (x : DieTherm) : (s.setDieTherm d x).coll = s.coll := rfl
@[simp] theorem State.setDieTherm_flt (s : State) (d : Fin 6) (x : DieTherm) : (s.setDieTherm d x).flt = s.flt := rfl
@[simp] theorem State.setDieTherm_pat (s : State) (d : Fin 6) (x : DieTherm) : (s.setDieTherm d x).pat = s.pat := rfl
@[simp] theorem State.setDieTherm_turn (s : State) (d : Fin 6) (x : DieTherm) : (s.setDieTherm d x).turn = s.turn := rfl
@[simp] theorem State.setDieTherm_gen (s : State) (d : Fin 6) (x : DieTherm) : (s.setDieTherm d x).gen = s.gen := rfl
@[simp] theorem State.setDieTherm_sig (s : State) (d : Fin 6) (x : DieTherm) : (s.setDieTherm d x).sig = s.sig := rfl
@[simp] theorem State.setDieTherm_boot (s : State) (d : Fin 6) (x : DieTherm) : (s.setDieTherm d x).boot = s.boot := rfl
@[simp] theorem State.setDieTherm_regs (s : State) (d : Fin 6) (x : DieTherm) : (s.setDieTherm d x).regs = s.regs := rfl
@[simp] theorem State.setDieTherm_outbox (s : State) (d : Fin 6) (x : DieTherm) : (s.setDieTherm d x).outbox = s.outbox := rfl
@[simp] theorem State.setDieTherm_fresh (s : State) (d : Fin 6) (x : DieTherm) : (s.setDieTherm d x).fresh = s.fresh := rfl
@[simp] theorem State.setDieTherm_pending (s : State) (d : Fin 6) (x : DieTherm) : (s.setDieTherm d x).pending = s.pending := rfl

/-! setPort changes only `mem`. -/

@[simp] theorem State.setPort_tiles (s : State) (p : Fin 8) (x : CxlPort) : (s.setPort p x).tiles = s.tiles := rfl
@[simp] theorem State.setPort_place (s : State) (p : Fin 8) (x : CxlPort) : (s.setPort p x).place = s.place := rfl
@[simp] theorem State.setPort_cmd (s : State) (p : Fin 8) (x : CxlPort) : (s.setPort p x).cmd = s.cmd := rfl
@[simp] theorem State.setPort_host (s : State) (p : Fin 8) (x : CxlPort) : (s.setPort p x).host = s.host := rfl
@[simp] theorem State.setPort_dom (s : State) (p : Fin 8) (x : CxlPort) : (s.setPort p x).dom = s.dom := rfl
@[simp] theorem State.setPort_lnk (s : State) (p : Fin 8) (x : CxlPort) : (s.setPort p x).lnk = s.lnk := rfl
@[simp] theorem State.setPort_coll (s : State) (p : Fin 8) (x : CxlPort) : (s.setPort p x).coll = s.coll := rfl
@[simp] theorem State.setPort_flt (s : State) (p : Fin 8) (x : CxlPort) : (s.setPort p x).flt = s.flt := rfl
@[simp] theorem State.setPort_pat (s : State) (p : Fin 8) (x : CxlPort) : (s.setPort p x).pat = s.pat := rfl
@[simp] theorem State.setPort_pwr (s : State) (p : Fin 8) (x : CxlPort) : (s.setPort p x).pwr = s.pwr := rfl
@[simp] theorem State.setPort_turn (s : State) (p : Fin 8) (x : CxlPort) : (s.setPort p x).turn = s.turn := rfl
@[simp] theorem State.setPort_gen (s : State) (p : Fin 8) (x : CxlPort) : (s.setPort p x).gen = s.gen := rfl
@[simp] theorem State.setPort_sig (s : State) (p : Fin 8) (x : CxlPort) : (s.setPort p x).sig = s.sig := rfl
@[simp] theorem State.setPort_boot (s : State) (p : Fin 8) (x : CxlPort) : (s.setPort p x).boot = s.boot := rfl
@[simp] theorem State.setPort_regs (s : State) (p : Fin 8) (x : CxlPort) : (s.setPort p x).regs = s.regs := rfl
@[simp] theorem State.setPort_outbox (s : State) (p : Fin 8) (x : CxlPort) : (s.setPort p x).outbox = s.outbox := rfl
@[simp] theorem State.setPort_fresh (s : State) (p : Fin 8) (x : CxlPort) : (s.setPort p x).fresh = s.fresh := rfl
@[simp] theorem State.setPort_pending (s : State) (p : Fin 8) (x : CxlPort) : (s.setPort p x).pending = s.pending := rfl

/-! setDie changes only `mem`. -/

@[simp] theorem State.setDie_tiles (s : State) (d : Nat) (r : DieRegion) : (s.setDie d r).tiles = s.tiles := by unfold State.setDie; split <;> rfl
@[simp] theorem State.setDie_place (s : State) (d : Nat) (r : DieRegion) : (s.setDie d r).place = s.place := by unfold State.setDie; split <;> rfl
@[simp] theorem State.setDie_cmd (s : State) (d : Nat) (r : DieRegion) : (s.setDie d r).cmd = s.cmd := by unfold State.setDie; split <;> rfl
@[simp] theorem State.setDie_host (s : State) (d : Nat) (r : DieRegion) : (s.setDie d r).host = s.host := by unfold State.setDie; split <;> rfl
@[simp] theorem State.setDie_dom (s : State) (d : Nat) (r : DieRegion) : (s.setDie d r).dom = s.dom := by unfold State.setDie; split <;> rfl
@[simp] theorem State.setDie_lnk (s : State) (d : Nat) (r : DieRegion) : (s.setDie d r).lnk = s.lnk := by unfold State.setDie; split <;> rfl
@[simp] theorem State.setDie_coll (s : State) (d : Nat) (r : DieRegion) : (s.setDie d r).coll = s.coll := by unfold State.setDie; split <;> rfl
@[simp] theorem State.setDie_flt (s : State) (d : Nat) (r : DieRegion) : (s.setDie d r).flt = s.flt := by unfold State.setDie; split <;> rfl
@[simp] theorem State.setDie_pat (s : State) (d : Nat) (r : DieRegion) : (s.setDie d r).pat = s.pat := by unfold State.setDie; split <;> rfl
@[simp] theorem State.setDie_pwr (s : State) (d : Nat) (r : DieRegion) : (s.setDie d r).pwr = s.pwr := by unfold State.setDie; split <;> rfl
@[simp] theorem State.setDie_turn (s : State) (d : Nat) (r : DieRegion) : (s.setDie d r).turn = s.turn := by unfold State.setDie; split <;> rfl
@[simp] theorem State.setDie_gen (s : State) (d : Nat) (r : DieRegion) : (s.setDie d r).gen = s.gen := by unfold State.setDie; split <;> rfl
@[simp] theorem State.setDie_sig (s : State) (d : Nat) (r : DieRegion) : (s.setDie d r).sig = s.sig := by unfold State.setDie; split <;> rfl
@[simp] theorem State.setDie_boot (s : State) (d : Nat) (r : DieRegion) : (s.setDie d r).boot = s.boot := by unfold State.setDie; split <;> rfl
@[simp] theorem State.setDie_regs (s : State) (d : Nat) (r : DieRegion) : (s.setDie d r).regs = s.regs := by unfold State.setDie; split <;> rfl
@[simp] theorem State.setDie_outbox (s : State) (d : Nat) (r : DieRegion) : (s.setDie d r).outbox = s.outbox := by unfold State.setDie; split <;> rfl
@[simp] theorem State.setDie_fresh (s : State) (d : Nat) (r : DieRegion) : (s.setDie d r).fresh = s.fresh := by unfold State.setDie; split <;> rfl
@[simp] theorem State.setDie_pending (s : State) (d : Nat) (r : DieRegion) : (s.setDie d r).pending = s.pending := by unfold State.setDie; split <;> rfl

/-! setLink changes only `lnk`. -/

@[simp] theorem State.setLink_tiles (s : State) (l : Nat) (x : Link) : (s.setLink l x).tiles = s.tiles := by unfold State.setLink; split <;> rfl
@[simp] theorem State.setLink_mem (s : State) (l : Nat) (x : Link) : (s.setLink l x).mem = s.mem := by unfold State.setLink; split <;> rfl
@[simp] theorem State.setLink_place (s : State) (l : Nat) (x : Link) : (s.setLink l x).place = s.place := by unfold State.setLink; split <;> rfl
@[simp] theorem State.setLink_cmd (s : State) (l : Nat) (x : Link) : (s.setLink l x).cmd = s.cmd := by unfold State.setLink; split <;> rfl
@[simp] theorem State.setLink_host (s : State) (l : Nat) (x : Link) : (s.setLink l x).host = s.host := by unfold State.setLink; split <;> rfl
@[simp] theorem State.setLink_dom (s : State) (l : Nat) (x : Link) : (s.setLink l x).dom = s.dom := by unfold State.setLink; split <;> rfl
@[simp] theorem State.setLink_coll (s : State) (l : Nat) (x : Link) : (s.setLink l x).coll = s.coll := by unfold State.setLink; split <;> rfl
@[simp] theorem State.setLink_flt (s : State) (l : Nat) (x : Link) : (s.setLink l x).flt = s.flt := by unfold State.setLink; split <;> rfl
@[simp] theorem State.setLink_pat (s : State) (l : Nat) (x : Link) : (s.setLink l x).pat = s.pat := by unfold State.setLink; split <;> rfl
@[simp] theorem State.setLink_pwr (s : State) (l : Nat) (x : Link) : (s.setLink l x).pwr = s.pwr := by unfold State.setLink; split <;> rfl
@[simp] theorem State.setLink_turn (s : State) (l : Nat) (x : Link) : (s.setLink l x).turn = s.turn := by unfold State.setLink; split <;> rfl
@[simp] theorem State.setLink_gen (s : State) (l : Nat) (x : Link) : (s.setLink l x).gen = s.gen := by unfold State.setLink; split <;> rfl
@[simp] theorem State.setLink_sig (s : State) (l : Nat) (x : Link) : (s.setLink l x).sig = s.sig := by unfold State.setLink; split <;> rfl
@[simp] theorem State.setLink_boot (s : State) (l : Nat) (x : Link) : (s.setLink l x).boot = s.boot := by unfold State.setLink; split <;> rfl
@[simp] theorem State.setLink_regs (s : State) (l : Nat) (x : Link) : (s.setLink l x).regs = s.regs := by unfold State.setLink; split <;> rfl
@[simp] theorem State.setLink_outbox (s : State) (l : Nat) (x : Link) : (s.setLink l x).outbox = s.outbox := by unfold State.setLink; split <;> rfl
@[simp] theorem State.setLink_fresh (s : State) (l : Nat) (x : Link) : (s.setLink l x).fresh = s.fresh := by unfold State.setLink; split <;> rfl
@[simp] theorem State.setLink_pending (s : State) (l : Nat) (x : Link) : (s.setLink l x).pending = s.pending := by unfold State.setLink; split <;> rfl

/-! modModel changes only `turn`. -/

@[simp] theorem State.modModel_tiles (s : State) (t m : Nat) (f : Model → Model) : (s.modModel t m f).tiles = s.tiles := rfl
@[simp] theorem State.modModel_mem (s : State) (t m : Nat) (f : Model → Model) : (s.modModel t m f).mem = s.mem := rfl
@[simp] theorem State.modModel_place (s : State) (t m : Nat) (f : Model → Model) : (s.modModel t m f).place = s.place := rfl
@[simp] theorem State.modModel_cmd (s : State) (t m : Nat) (f : Model → Model) : (s.modModel t m f).cmd = s.cmd := rfl
@[simp] theorem State.modModel_host (s : State) (t m : Nat) (f : Model → Model) : (s.modModel t m f).host = s.host := rfl
@[simp] theorem State.modModel_dom (s : State) (t m : Nat) (f : Model → Model) : (s.modModel t m f).dom = s.dom := rfl
@[simp] theorem State.modModel_lnk (s : State) (t m : Nat) (f : Model → Model) : (s.modModel t m f).lnk = s.lnk := rfl
@[simp] theorem State.modModel_coll (s : State) (t m : Nat) (f : Model → Model) : (s.modModel t m f).coll = s.coll := rfl
@[simp] theorem State.modModel_flt (s : State) (t m : Nat) (f : Model → Model) : (s.modModel t m f).flt = s.flt := rfl
@[simp] theorem State.modModel_pat (s : State) (t m : Nat) (f : Model → Model) : (s.modModel t m f).pat = s.pat := rfl
@[simp] theorem State.modModel_pwr (s : State) (t m : Nat) (f : Model → Model) : (s.modModel t m f).pwr = s.pwr := rfl
@[simp] theorem State.modModel_gen (s : State) (t m : Nat) (f : Model → Model) : (s.modModel t m f).gen = s.gen := rfl
@[simp] theorem State.modModel_sig (s : State) (t m : Nat) (f : Model → Model) : (s.modModel t m f).sig = s.sig := rfl
@[simp] theorem State.modModel_boot (s : State) (t m : Nat) (f : Model → Model) : (s.modModel t m f).boot = s.boot := rfl
@[simp] theorem State.modModel_regs (s : State) (t m : Nat) (f : Model → Model) : (s.modModel t m f).regs = s.regs := rfl
@[simp] theorem State.modModel_outbox (s : State) (t m : Nat) (f : Model → Model) : (s.modModel t m f).outbox = s.outbox := rfl
@[simp] theorem State.modModel_fresh (s : State) (t m : Nat) (f : Model → Model) : (s.modModel t m f).fresh = s.fresh := rfl
@[simp] theorem State.modModel_pending (s : State) (t m : Nat) (f : Model → Model) : (s.modModel t m f).pending = s.pending := rfl

/-! setModel changes only `turn`. -/

@[simp] theorem State.setModel_tiles (s : State) (t m : Nat) (x : Model) : (s.setModel t m x).tiles = s.tiles := rfl
@[simp] theorem State.setModel_mem (s : State) (t m : Nat) (x : Model) : (s.setModel t m x).mem = s.mem := rfl
@[simp] theorem State.setModel_place (s : State) (t m : Nat) (x : Model) : (s.setModel t m x).place = s.place := rfl
@[simp] theorem State.setModel_cmd (s : State) (t m : Nat) (x : Model) : (s.setModel t m x).cmd = s.cmd := rfl
@[simp] theorem State.setModel_host (s : State) (t m : Nat) (x : Model) : (s.setModel t m x).host = s.host := rfl
@[simp] theorem State.setModel_dom (s : State) (t m : Nat) (x : Model) : (s.setModel t m x).dom = s.dom := rfl
@[simp] theorem State.setModel_lnk (s : State) (t m : Nat) (x : Model) : (s.setModel t m x).lnk = s.lnk := rfl
@[simp] theorem State.setModel_coll (s : State) (t m : Nat) (x : Model) : (s.setModel t m x).coll = s.coll := rfl
@[simp] theorem State.setModel_flt (s : State) (t m : Nat) (x : Model) : (s.setModel t m x).flt = s.flt := rfl
@[simp] theorem State.setModel_pat (s : State) (t m : Nat) (x : Model) : (s.setModel t m x).pat = s.pat := rfl
@[simp] theorem State.setModel_pwr (s : State) (t m : Nat) (x : Model) : (s.setModel t m x).pwr = s.pwr := rfl
@[simp] theorem State.setModel_gen (s : State) (t m : Nat) (x : Model) : (s.setModel t m x).gen = s.gen := rfl
@[simp] theorem State.setModel_sig (s : State) (t m : Nat) (x : Model) : (s.setModel t m x).sig = s.sig := rfl
@[simp] theorem State.setModel_boot (s : State) (t m : Nat) (x : Model) : (s.setModel t m x).boot = s.boot := rfl
@[simp] theorem State.setModel_regs (s : State) (t m : Nat) (x : Model) : (s.setModel t m x).regs = s.regs := rfl
@[simp] theorem State.setModel_outbox (s : State) (t m : Nat) (x : Model) : (s.setModel t m x).outbox = s.outbox := rfl
@[simp] theorem State.setModel_fresh (s : State) (t m : Nat) (x : Model) : (s.setModel t m x).fresh = s.fresh := rfl
@[simp] theorem State.setModel_pending (s : State) (t m : Nat) (x : Model) : (s.setModel t m x).pending = s.pending := rfl

/-! modReq changes only `gen`. -/

@[simp] theorem State.modReq_tiles (s : State) (t g : Nat) (f : GenReq → GenReq) : (s.modReq t g f).tiles = s.tiles := rfl
@[simp] theorem State.modReq_mem (s : State) (t g : Nat) (f : GenReq → GenReq) : (s.modReq t g f).mem = s.mem := rfl
@[simp] theorem State.modReq_place (s : State) (t g : Nat) (f : GenReq → GenReq) : (s.modReq t g f).place = s.place := rfl
@[simp] theorem State.modReq_cmd (s : State) (t g : Nat) (f : GenReq → GenReq) : (s.modReq t g f).cmd = s.cmd := rfl
@[simp] theorem State.modReq_host (s : State) (t g : Nat) (f : GenReq → GenReq) : (s.modReq t g f).host = s.host := rfl
@[simp] theorem State.modReq_dom (s : State) (t g : Nat) (f : GenReq → GenReq) : (s.modReq t g f).dom = s.dom := rfl
@[simp] theorem State.modReq_lnk (s : State) (t g : Nat) (f : GenReq → GenReq) : (s.modReq t g f).lnk = s.lnk := rfl
@[simp] theorem State.modReq_coll (s : State) (t g : Nat) (f : GenReq → GenReq) : (s.modReq t g f).coll = s.coll := rfl
@[simp] theorem State.modReq_flt (s : State) (t g : Nat) (f : GenReq → GenReq) : (s.modReq t g f).flt = s.flt := rfl
@[simp] theorem State.modReq_pat (s : State) (t g : Nat) (f : GenReq → GenReq) : (s.modReq t g f).pat = s.pat := rfl
@[simp] theorem State.modReq_pwr (s : State) (t g : Nat) (f : GenReq → GenReq) : (s.modReq t g f).pwr = s.pwr := rfl
@[simp] theorem State.modReq_turn (s : State) (t g : Nat) (f : GenReq → GenReq) : (s.modReq t g f).turn = s.turn := rfl
@[simp] theorem State.modReq_sig (s : State) (t g : Nat) (f : GenReq → GenReq) : (s.modReq t g f).sig = s.sig := rfl
@[simp] theorem State.modReq_boot (s : State) (t g : Nat) (f : GenReq → GenReq) : (s.modReq t g f).boot = s.boot := rfl
@[simp] theorem State.modReq_regs (s : State) (t g : Nat) (f : GenReq → GenReq) : (s.modReq t g f).regs = s.regs := rfl
@[simp] theorem State.modReq_outbox (s : State) (t g : Nat) (f : GenReq → GenReq) : (s.modReq t g f).outbox = s.outbox := rfl
@[simp] theorem State.modReq_fresh (s : State) (t g : Nat) (f : GenReq → GenReq) : (s.modReq t g f).fresh = s.fresh := rfl
@[simp] theorem State.modReq_pending (s : State) (t g : Nat) (f : GenReq → GenReq) : (s.modReq t g f).pending = s.pending := rfl

/-! modStats changes only `gen`. -/

@[simp] theorem State.modStats_tiles (s : State) (t : Nat) (f : GenStats → GenStats) : (s.modStats t f).tiles = s.tiles := rfl
@[simp] theorem State.modStats_mem (s : State) (t : Nat) (f : GenStats → GenStats) : (s.modStats t f).mem = s.mem := rfl
@[simp] theorem State.modStats_place (s : State) (t : Nat) (f : GenStats → GenStats) : (s.modStats t f).place = s.place := rfl
@[simp] theorem State.modStats_cmd (s : State) (t : Nat) (f : GenStats → GenStats) : (s.modStats t f).cmd = s.cmd := rfl
@[simp] theorem State.modStats_host (s : State) (t : Nat) (f : GenStats → GenStats) : (s.modStats t f).host = s.host := rfl
@[simp] theorem State.modStats_dom (s : State) (t : Nat) (f : GenStats → GenStats) : (s.modStats t f).dom = s.dom := rfl
@[simp] theorem State.modStats_lnk (s : State) (t : Nat) (f : GenStats → GenStats) : (s.modStats t f).lnk = s.lnk := rfl
@[simp] theorem State.modStats_coll (s : State) (t : Nat) (f : GenStats → GenStats) : (s.modStats t f).coll = s.coll := rfl
@[simp] theorem State.modStats_flt (s : State) (t : Nat) (f : GenStats → GenStats) : (s.modStats t f).flt = s.flt := rfl
@[simp] theorem State.modStats_pat (s : State) (t : Nat) (f : GenStats → GenStats) : (s.modStats t f).pat = s.pat := rfl
@[simp] theorem State.modStats_pwr (s : State) (t : Nat) (f : GenStats → GenStats) : (s.modStats t f).pwr = s.pwr := rfl
@[simp] theorem State.modStats_turn (s : State) (t : Nat) (f : GenStats → GenStats) : (s.modStats t f).turn = s.turn := rfl
@[simp] theorem State.modStats_sig (s : State) (t : Nat) (f : GenStats → GenStats) : (s.modStats t f).sig = s.sig := rfl
@[simp] theorem State.modStats_boot (s : State) (t : Nat) (f : GenStats → GenStats) : (s.modStats t f).boot = s.boot := rfl
@[simp] theorem State.modStats_regs (s : State) (t : Nat) (f : GenStats → GenStats) : (s.modStats t f).regs = s.regs := rfl
@[simp] theorem State.modStats_outbox (s : State) (t : Nat) (f : GenStats → GenStats) : (s.modStats t f).outbox = s.outbox := rfl
@[simp] theorem State.modStats_fresh (s : State) (t : Nat) (f : GenStats → GenStats) : (s.modStats t f).fresh = s.fresh := rfl
@[simp] theorem State.modStats_pending (s : State) (t : Nat) (f : GenStats → GenStats) : (s.modStats t f).pending = s.pending := rfl

end Sys2Proof.Machine
end

