-- ==== Sys2Proof/Tests/Slice0.lean ====
section
/-! SUPPORT. Tests: ill-formed commands refused, one-step tests whose results are worked from the spec, and for every statement
states and operands that meet its hypotheses. -/

section Tests

set_option Elab.async false

open Sys2Proof Sys2Proof.Machine Sys2Proof.Claims

namespace Sys2Proof.Tests

/-! ## Helpers -/

/-- Tile x at the first word of a program of these words. -/
def running (x : Tile) (ws : List DWord) : Tile :=
  { x with ctl := { x.ctl with status := .running, istore := ws, pc := 0 } }

/-- The module after reset, with tile 0 as given. -/
def tile0 (x : Tile) : State := State.reset.setTile 0 x

/-- Tile 0 at an instruction. -/
def on (x : Tile) (cls op : Nat) (w : Operand) : State := tile0 (running x [wordOf cls op w])

/-- A descriptor of n elements of a format in a row (03 R87, R88), at the pad's start. -/
def rowOf (fmt n : Nat) (writable : Bool) : BitVec 1024 :=
  BitVec.ofNat 1024 (fmt * 2 ^ 32 + 2 ^ 40 + (if writable then 2 ^ 52 else 0) + n * 2 ^ 256 + 2 ^ 288 + n * 2 ^ 304 + 2 ^ 352
    + 0xFFFFFFF0 * 2 ^ 896 + 2 ^ 928)

/-- An idle tile whose descriptors are all that one. -/
def withRows (fmt n : Nat) (writable : Bool) : Tile :=
  { Tile.idle with regs := { Tile.idle.regs with descs := Vector.replicate 64 (rowOf fmt n writable) } }

/-- A command of opcode op at the head of queue 0 of the first tenant's function, started. -/
def aRef : CmdRef := ⟨1, 0, 0⟩

def aCmd (op : Nat) (params : List Byte) : Cmd :=
  ⟨aRef, 0, op, 0, 0, 0, 0, 0xFFFF, 0, params, .started, 0, 0, 0, 0, 0, (0, 0, 0), 0, 0, 20, 1, 0, false, false, none, [], [], 0, [], [], [], []⟩

def withCmd (s : State) (k : Cmd) : State := s.setCmds [k]

/-- The module after reset with that command. -/
def cmdOn (op : Nat) (params : List Byte) : State := withCmd State.reset (aCmd op params)

/-- A transfer outstanding at tile 0 that can move its data, and one that faults; a CSIGNAL outstanding (FencesAndTransfers,
CountersSegmentsAndCollectives). -/
def withOp (a : AsyncOp) : State :=
  withCmd (tile0 { withRows 0 4 true with
    sync := { TileSync.zero with outstanding := [a] }, ctl := { TileCtl.zero with status := .running, cmd := some aRef, istore := [0] } }) (aCmd 0x500 [])

/-- An instance whose contributions are missing, one of a gather that has its own, one whose reduction raises; a segment before and past its
limit; a command that may be put back to its start (CountersSegmentsAndCollectives). -/
def anInst (parts : List CollPart) : CollInst := ⟨⟨aRef, 0, 0, 0⟩, 0, 0, 0, [0], 0, 0, 0, 1, 4, ⟨0, 0, 0, 0, 1, 4, 0, 0, []⟩, parts, 0, 10000, 0, 0⟩

/-- A member of its domain in service, the anchor, with the functions of two tenants, and one pair of queues of the first tenant. -/
def live : State := { State.reset with
  sig := { SigState.reset with phase := .running, visible := true, ready := true }
  host := { HostState.reset with numVfs := 2, vfEnable := true, gen := 5, width := 16 }
  dom := { DomState.reset with phase := .member, members := 3, time := 10000000000 }
  flt := { FaultState.reset with mode := .service }
  cmd := { CmdState.reset with
    sqs := [newSq 1 0 0 64 128 false 0 0x1000], cqs := [newCq 1 0 0 64 0 1 0 0x10000]
    tnt := CmdState.reset.tnt.set 0 { TenantRegs.zero with enable := true, alloc := 3 } } }

/-- The same command fetched and not yet started. -/
def fetched (op : Nat) (ps : List Byte) : Cmd := { aCmd op ps with phase := .fetched, runs := 0 }

/-- The first tenant's unit 1 (TVA 0x20_0000) in HBM, mapped. -/
def mapped : State := live.setMem { live.mem with units := [((0, 1), ⟨.whole ⟨.hbm, 0⟩, 0, 0, 0, .none, none, none, none⟩)] }

end Sys2Proof.Tests

open Sys2Proof.Tests

/-! ## Witnesses: states and operands that meet the hypotheses of the statements -/

theorem witness_on_issues (x : Tile) (cls op : Nat) (rsv : List (Nat × Nat)) (w : Operand) (h : x.getP (opFin3 w 51) ≠ opBit w 50)
    (h' : rsvClear rsv w = true) : Issues cls op rsv 0 w (on x cls op w) := by
  refine ⟨.inl rfl, rfl, ?_, h'⟩
  show (x.getP (opFin3 w 51) != opBit w 50) = true
  simpa using h

/-- Every instruction of every tile statement issues somewhere: with operand bits 0, on an idle tile (predicate P0, reserved fields 0). -/
theorem witness_issues (cls op : Nat) (rsv : List (Nat × Nat)) : Issues cls op rsv 0 0 (on Tile.idle cls op 0) := by
  refine witness_on_issues _ _ _ _ _ (by decide) ?_
  simp [rsvClear, opBits]

/-- A front command (StepRunsFrontCommand), an empty queue without and with power (EmptyQueueOnlyAdvancesTime). -/
theorem witness_StepRunsFrontCommand : ({ State.reset with pending := [.powerOn] } : State).pending = .powerOn :: [] := rfl
theorem witness_EmptyQueueOnlyAdvancesTime : State.reset.pending = [] ∧ State.reset.sig.phase = .off
    ∧ (State.reset.setSig { State.reset.sig with phase := .running }).pending = [] ∧ PowerPhase.running ≠ .off := by decide

/-- What those states hold at tile 0: the tile as given, but for its program. -/
theorem witness_on_tile (x : Tile) (cls op : Nat) (w : Operand) : (on x cls op w).tiles[(0 : Fin 160)] = running x [wordOf cls op w] := by
  simp [on, tile0, State.setTile]

/-- Addresses: aligned and inside, the last one inside, one outside, one misaligned (PadAndDescriptorAccess). -/
theorem witness_PadAccessesLoadAndStore :
    let a := fun (w : Operand) => (Tile.idle.saPlusImm w 40).toNat
    (a 0 % 8 = 0 ∧ a 0 + 8 ≤ 0x3FF000) ∧ (a 0x3FFFF8 % 8 = 0 ∧ a 0x3FFFF8 + 8 ≤ 2 ^ 22 ∧ 0x3FF000 < a 0x3FFFF8 + 8)
    ∧ (a 0x400000 % 8 = 0 ∧ 2 ^ 22 < a 0x400000 + 8) ∧ a 4 % 8 ≠ 0 := by
  decide +kernel

theorem witness_descriptorAccess :
    let d := fun (w : Operand) => (Tile.idle.saPlusImm w 39).toNat
    (d 0 % 128 = 0 ∧ d 0 + 128 ≤ 0x3FF000) ∧ (d 0x3FFF80 % 128 = 0 ∧ d 0x3FFF80 + 128 ≤ 2 ^ 22 ∧ 0x3FF000 < d 0x3FFF80 + 128)
    ∧ (d 0x400000 % 128 = 0 ∧ 2 ^ 22 < d 0x400000 + 128) ∧ d 64 % 128 ≠ 0 := by
  decide +kernel

/-- A branch target that is legal, one past the program, a LOOP that goes on and one that ends (ControlInstructions). -/
theorem witness_ControlInstructions :
    opBits (0 : Operand) 0 14 < 1 ∧ ¬opBits (1 : Operand) 0 14 < 1
    ∧ ((Tile.idle.setS 1 2).setS 1 ((Tile.idle.setS 1 2).getS 1 - 1)).getS 1 ≠ 0
    ∧ ((Tile.idle.setS 1 1).setS 1 ((Tile.idle.setS 1 1).getS 1 - 1)).getS 1 = 0 := by
  decide +kernel

/-- A tile with a FAILED fence, one with an ARMED fence, one with none (SegmentsEndAndWaitAll, FenceWaitTable). -/
theorem witness_fences :
    let s := fun (f : FenceState) => on { Tile.idle with sync := { Tile.idle.sync with fences := Tile.idle.sync.fences.set 0 f } } 9 0x00 0
    ∀ f ∈ [FenceState.idle, .armed, .done, .failed ⟨5, 0⟩],
      Issues 9 0x00 rsvSync 0 0 (s f) ∧ (s f).tiles[(0 : Fin 160)].sync.fences[opFin6 0 44] = f ∧ (s f).tiles[(0 : Fin 160)].sync.outstanding = [] := by
  unfold Issues; decide +kernel

/-- Both kinds of rounding-mode field: RNE, and reserved (FloatingLanes). -/
theorem witness_FloatingLanes : RMode.ofCode (opBits (0 : Operand) 27 3) = some .rne ∧ RMode.ofCode (opBits (0x38000000 : Operand) 27 3) = none
    ∧ (∃ c < 8, RMode.ofCode c = some .sr) ∧ Issues 5 0x00 rsvVec 0 0x38000000 (on Tile.idle 5 0x00 0x38000000) := by
  refine ⟨by decide, by decide, by decide, witness_on_issues _ _ _ _ _ (by decide) (by decide)⟩

/-- A valid walk and an invalid one, with the cursor at its start; a value that a store holds (MovesBetweenPadAndLanes). -/
theorem witness_MovesBetweenPadAndLanes :
    let x := withRows 0 4 true
    (((x.walk 0).toOption.bind fun d => (x.cursorSpan 0 d).toOption) = some (0, 4))
    ∧ ((x.narrow 0 30 29 25).toOption.isSome = true)
    ∧ ((x.walk 0).toOption.any fun d => (x.narrow 0 30 29 25).toOption.any fun c => (d.storeHeld c [(0, laneValue d 0)] x.pad).toOption.isSome) = true
    ∧ ((x.walk 0).toOption.any fun d => (x.narrow 0 30 29 25).toOption.any fun c => (d.storeHeld c (d.copyValues x.pad) x.pad).toOption.isSome) = true
    ∧ ((Tile.idle.walk 0).toOption = none) := by
  decide +kernel

/-- One row and one column of one FP32 element: an MMA, a STORE without C, one with C, and an Assay bank that is not closed (MovesAndMatrices). -/
theorem witness_MatrixBanks :
    let x := withRows 0 1 true
    ((x.walk 0).toOption.any fun a => (mmaBank x.pad a a x.regs.banks[(0 : Fin 4)] 0 false).toOption.isSome) = true
    ∧ ((x.walk 0).toOption.any fun d => (x.narrow 0 33 32 28).toOption.any fun c =>
      (storeRows x.pad d none x.regs.banks[(0 : Fin 4)].tab c 1 1 x.regs.banks[(0 : Fin 4)].at).toOption.isSome
      && (storeRows x.pad d (some d) x.regs.banks[(0 : Fin 4)].tab c 1 1 x.regs.banks[(0 : Fin 4)].at).toOption.isSome) = true
    ∧ ({ Bank.zero with assay := true } : Bank).closed = false ∧ opFin6 ((63 : Operand) <<< 38) 38 = 63 ∧ opFin6 (0 : Operand) 38 ≠ 63
    ∧ rsvClear rsvStore ((63 : Operand) <<< 38) = true := by
  decide +kernel

/-- Row operands that are accepted and refused, with CONT and without (RowsConversionsAndDraws). -/
theorem witness_RowsAndConversions :
    let x := withRows 0 2 true
    (rowWhole .softmax x 0).toOption.isSome = true ∧ (rowWhole .softmax Tile.idle 0).toOption = none
    ∧ (rowReduce .sum x 0).toOption.isSome = true ∧ (rowReduce .sum Tile.idle 0).toOption = none
    ∧ (convertWalk x 0).toOption.isSome = true ∧ (convertWalk Tile.idle 0).toOption = none := by
  decide +kernel

theorem witness_RowsUnderCont : opBit (0x2000 : Operand) 13 = true ∧ rsvClear rsvRow 0x2000 = true
    ∧ (rowReduce .sum (withRows 0 2 true) 0x2000).toOption.isSome = true := by
  decide +kernel

theorem witness_RandomInstructions :
    let x := withRows 0 2 true
    (dropOut x 0).toOption.isSome = true ∧ (dropOut Tile.idle 0).toOption = none
    ∧ (randInit x 0).toOption.isSome = true ∧ (randInit Tile.idle 0).toOption = none
    ∧ (sample Tile.idle 0).toOption = none ∧ (randUniform Tile.idle 0).toOption = none
    ∧ (((x.walk 0).toOption.bind fun d => (x.cursorSpan 0 d).toOption).isSome = true) := by
  decide +kernel

/-- Counters on each side of a CWAIT's threshold (CountersSegmentsAndCollectives). -/
theorem witness_CounterInstructions : ((0 : Word) - 0).toNat < 2 ^ 31 ∧ 2 ^ 31 ≤ ((0 : Word) - 1).toNat ∧ rsvClear rsvSync (1 + 2 ^ 33) = true
    ∧ opBit (1 + 2 ^ 33 : Operand) 33 = true ∧ opImm (1 + 2 ^ 33 : Operand) = 1 := by
  decide +kernel

/-- A command of this module and of another on whose tiles a CSIGNAL or a pad transfer may be addressed, and a place that is none. -/
theorem witness_locators :
    let s := withCmd State.reset { aCmd 0x500 [] with tiles := [(0, 0), (1, 0)] }
    let x := { running Tile.idle [] with ctl := { (running Tile.idle []).ctl with cmd := some aRef } }
    let c := s.tileCtx 0 x
    locOk c 0 = true ∧ locRank 0 = s.dom.rank ∧ locOk c (1 <<< 42) = true ∧ locRank (1 <<< 42) ≠ s.dom.rank ∧ locOk c (1 <<< 22) = false := by
  decide +kernel

/-- Operands that a transfer's rules accept, for a GET; a fence of each state (FencesAndTransfers). -/
theorem witness_TransferOk :
    let x := withRows 0 4 true
    ((x.walk 0).toOption.any fun d => (x.walkDm d 0).toOption.any fun m => (dmaShape m d).toOption.isSome && d.d.fmtCode == 0
      && (dmaLocator .get ((tile0 x).tileCtx 0 x) m 0).toOption.isSome) = true := by
  decide +kernel

/-- A false predicate, a reserved field that is not zero, a reserved opcode, an idle tile (PredicatesAndIllegalWords). -/
theorem witness_PredicatesAndIllegalWords :
    Tile.idle.enabled (1 <<< 50) = false ∧ Tile.idle.enabled 0 = true ∧ validOp 1 0 = true ∧ rsvClear rsvScalar (1 <<< 32) = false
    ∧ validOp (classOf (wordOf 0xF 0 0)) (opcodeOf (wordOf 0xF 0 0)) = false ∧ Tile.idle.ctl.status = .idle := by
  decide +kernel

/-- An exception of a tile that runs no command, and of one that does (ExceptionsRecordAndStop). -/
theorem witness_ExceptionsRecordAndStop :
    Tile.idle.ctl.cmd.bind State.reset.cmdAt = none
    ∧ (({ Tile.idle.ctl with cmd := some aRef } : TileCtl).cmd.bind (cmdOn 0x500 []).cmdAt).isSome = true := by
  decide +kernel

/-- CPFX and a PADCOPY of a group of one: accepted; with no group, refused; with the copy's predicate false (FencesAndTransfers). -/
theorem witness_FusedCollectiveIssues :
    let w : Operand := (2 <<< 37) ||| (63 <<< 28)
    let x := running (withRows 0 4 true) [wordOf 0xB 0 w, wordOf 3 2 0]
    rsvClear rsvCpfx w = true ∧ x.enabled w = true ∧ x.enabled (operandOf (wordOf 3 2 0)) = true ∧ x.enabled (operandOf (wordOf 3 2 (1 <<< 50))) = false
    ∧ (cpfxCheck x w (some ⟨[0], 0, 8, 0⟩)).toOption.isSome = true ∧ cpfxMisplaced x w .padcopy 0 = none ∧ State.reset.coll.earlyFail = []
    ∧ (match cpfxCheck x w none with | .error e => e.code != 0x08 | .ok _ => false) = true := by
  decide +kernel

theorem witness_TransfersComplete :
    let a := AsyncOp.plain .padget 0 0
    let s := withOp a
    s.tiles[(0 : Fin 160)].opOn 0 false = some a ∧ (s.tiles[(0 : Fin 160)].ctl.cmd.bind s.cmdAt).isSome = true ∧ s.stackWaits 0 a = false
    ∧ a.tvaRange = none ∧ locRank a.loc = s.dom.rank ∧ (s.transfer 0 aRef 0 a).toOption.isSome = true ∧ a.ct = none
    ∧ ({ a with ct := some 3 } : AsyncOp).ct = some 3 := by
  decide +kernel

theorem witness_TransferFaults :
    let a : AsyncOp := { AsyncOp.plain .get 0 (2 ^ 57) with dp := rowOf 0 4 true, dm := rowOf 0 4 true }
    let s := withOp a
    s.tiles[(0 : Fin 160)].opOn 0 false = some a
    ∧ (match s.transfer 0 aRef 0 a with | .error (.fault _) => true | _ => false) = true := by
  decide +kernel

theorem witness_CounterArrivalAdds :
    let a : AsyncOp := { AsyncOp.plain .csignal 0 0 with ct := some 3, amount := 5 }
    let s := withOp a
    a.kind = .csignal ∧ a.loc = 0 ∧ a.ct = some 3 ∧ a.amount = 5 ∧ s.tiles[(0 : Fin 160)].sync.outstanding = a :: []
    ∧ (∀ j : Fin 160, j < 0 → s.tiles[j].sync.outstanding = []) ∧ locRank 0 = s.dom.rank
    ∧ locRank (1 <<< 42) ≠ s.dom.rank := by
  refine ⟨rfl, rfl, rfl, rfl, by decide +kernel, fun j h => absurd h (Fin.not_lt_zero j), by decide +kernel, by decide +kernel⟩

theorem witness_CollectiveDone :
    let a := AsyncOp.plain .coll 0 0
    let s := withOp a
    s.tiles[(0 : Fin 160)].opOn 0 true = some a
    ∧ ((s.setColl { s.coll with insts := [anInst []] }).coll.insts.find? fun i => i.tile == 0 && i.fence == 0) = some (anInst [])
    ∧ (anInst []).result.isNone = true ∧ (match (anInst [⟨0, 0, 0, 0, 1, 4, 0, 0, []⟩]).result with | some (.ok _) => true | _ => false) = true := by
  decide +kernel

theorem witness_SegmentAndPreemption :
    let s := withOp (AsyncOp.plain .get 0 0)
    s.segElapsed 0 ≤ s.regs.segLimitUs * 1000
    ∧ (s.setDom { s.dom with time := 2000001 }).regs.segLimitUs * 1000 < (s.setDom { s.dom with time := 2000001 }).segElapsed 0
    ∧ s.tiles[(0 : Fin 160)].ctl.status = .running
    ∧ (let k := { aCmd 0x500 [] with preempt := true }
      let s := withCmd State.reset k
      s.cmdAt aRef = some k ∧ k.running = true ∧ k.opcode ≠ 0x402 ∧ ((s.localTiles aRef).all fun i => s.tiles[i].yields) = true) := by
  decide +kernel

/-! Commands. -/

/-- Every command statement's `Acts`: the command of that opcode and parameters, in flight on any module. -/
theorem witness_acts (op : Nat) (ps : List Byte) (s : State) : Acts op aRef (aCmd op ps) (withCmd s (aCmd op ps)) (withCmd s (aCmd op ps)) := by
  refine ⟨aCmd op ps, ?_, rfl, ?_, ?_, .inl ⟨rfl, rfl⟩⟩
  · simp [withCmd, State.cmdAt, State.setCmds, State.setCmd, aCmd]
  · simp [withCmd, State.myTurn, State.earlier, State.queueCmds, State.setCmds, State.setCmd, aCmd]
  · simp [withCmd, State.cmdAt, State.setCmds, State.setCmd, aCmd]

theorem witness_starts : Starts 0x500 aRef (fetched 0x500 []) (withCmd live (fetched 0x500 [])) (withCmd live (fetched 0x500 [])).syncStride
    ∧ Starts 0x401 aRef (fetched 0x401 []) (withCmd live (fetched 0x401 [])) (withCmd live (fetched 0x401 [])).syncStride := by
  refine ⟨⟨by decide +kernel, rfl, rfl, by decide +kernel, by decide +kernel, rfl, by decide +kernel⟩,
    by decide +kernel, rfl, rfl, by decide +kernel, by decide +kernel, rfl, by decide +kernel⟩

/-- No such command; another opcode; settled; an earlier command before it; its start not yet due; its deadline past (CommandsActAtTheirTurn,
ChargesDeadlinesAndCoalescing, DeadlineBoundsTheStart). -/
theorem witness_CommandsActAtTheirTurn :
    let other : Cmd := { aCmd 0 [] with ref := ⟨1, 0, 7⟩ }
    let late := { fetched 0 [] with deadline := 5 }
    State.reset.cmdAt aRef = none ∧ (cmdOn 0 []).cmdAt aRef = some (aCmd 0 []) ∧ (aCmd 0 []).opcode ≠ 1
    ∧ (live.setCmds [other, aCmd 0 []]).myTurn aRef = false ∧ (live.setCmds [other, aCmd 0 []]).missed (aCmd 0 []) = false
    ∧ (withCmd State.reset (fetched 0 [])).eligible (fetched 0 []) = false ∧ (withCmd State.reset (fetched 0 [])).missed (fetched 0 []) = false
    ∧ (withCmd live late).missed late = true ∧ (withCmd live late).eligible late = true
    ∧ late.deadline < (withCmd live late).dom.time ∧ ((withCmd live late).sqAt late.ref.fn late.ref.sq).any (·.paced) = false
    ∧ (withCmd live (aCmd 0 [])).myTurn aRef = true := by
  decide +kernel

/-- SQ_CREATE and CQ_CREATE with good and bad operands; queues that exist, that do not, and that are used (QueuesDoorbellsAndFetch). -/
theorem witness_QueueCommands :
    let p := fields [(2, 1), (2, 0), (4, 64), (1, 0), (1, 0), (6, 0), (8, 0x2000)]
    let c := fields [(2, 1), (2, 0), (4, 64), (2, 1), (2, 0), (4, 0), (8, 0x2000)]
    let k := aCmd 1 p
    let s := withCmd live k
    let bad := fun (k : Cmd) => slotOf (s.pewterFn 1) (k.u 8 1) = none ∨ queueLimit 1 ≤ k.u 0 2 ∨ (s.sqAt 1 (k.u 0 2)).isSome ∨ s.cqAt 1 (k.u 2 2) = none
        ∨ ¬(2 ≤ k.u 4 4 ∧ k.u 4 4 ≤ 65536) ∨ ¬(k.u 0x10 8 % 4096 = 0 ∧ k.u 0x10 8 < 2 ^ 56) ∨ (bit (k.u 9 1) 0 = true ∧ s.pewterFn 1 = true)
    let badC := fun (k : Cmd) => queueLimit 1 ≤ k.u 0 2 ∨ (s.cqAt 1 (k.u 0 2)).isSome ∨ ¬(2 ≤ k.u 4 4 ∧ k.u 4 4 ≤ 65536)
        ∨ ¬(k.u 0x10 8 % 4096 = 0 ∧ k.u 0x10 8 < 2 ^ 56) ∨ ¬(k.u 2 2 = 0xFFFF ∨ k.u 2 2 < vectorLimit 1)
    ¬bad k ∧ bad (aCmd 1 []) ∧ (s.newSqId 1).isSome = true ∧ (slotOf (s.pewterFn 1) (k.u 8 1)).isSome = true
    ∧ ¬badC (aCmd 3 c) ∧ badC (aCmd 3 []) ∧ (s.newCqId 1).isSome = true
    ∧ (s.sqAt 1 0).isSome = true ∧ s.sqAt 1 1 = none ∧ (s.cqAt 1 0).isSome = true ∧ s.cqAt 1 1 = none
    ∧ (s.cmd.sqs.any fun q => q.fn == 1 && q.cq == 0) = true ∧ (s.cmd.sqs.any fun q => q.fn == 1 && q.cq == 1) = false := by
  decide +kernel

/-- Doorbells closed and open, a tail at the most that the ring holds and one above it, a head that returns what was written and one that
returns more (QueuesDoorbellsAndFetch). -/
theorem witness_Doorbells :
    State.reset.doorbellOpen 1 = false ∧ live.doorbellOpen 1 = true ∧ live.sqAt 1 5 = none ∧ live.cqAt 1 5 = none
    ∧ (live.sqAt 1 0).any (fun q => q.closing == false && q.depth == 64 && q.tail == 0 && q.fetchPos == 0) = true
    ∧ (63 + 64 - 0) % 64 + (0 + 64 - 0) % 64 ≤ 64 - 1 ∧ 64 ≤ 64
    ∧ (live.cqAt 1 0).any (fun q => q.depth == 64 && q.head == 0 && q.written == 0 && q.returned == 0) = true
    ∧ (0 + 64 - 0) % 64 ≤ 0 - 0 ∧ 0 - 0 < (1 + 64 - 0) % 64 := by
  decide +kernel

/-- An entry to fetch, with a header that is valid and one that is not, a ring that does not translate, and nothing to fetch. -/
theorem witness_FetchTakesOneEntry :
    let s := live.modSq 1 0 fun q => { q with tail := 1 }
    live.fetchChoice 0 = none ∧ (s.fetchChoice 0).isSome = true
    ∧ (s.fetchChoice 0).any (fun q => s.translates q.fn q.ring q.slotBytes && s.headerOk q (nativeHeader 128 (zeros 128))
      && !s.headerOk q (nativeHeader 128 (zeros 2 ++ leBytes 2 0xFFFF ++ zeros 124))) = true
    ∧ (s.fetchChoice 0).any (fun q => !(s.setHost { s.host with refused := [(1, 1)] }).translates q.fn q.ring q.slotBytes) = true
    ∧ (s.flt.resets.any fun r => r.level == .module || (r.level == .die && r.unit == 0)) = false := by
  decide +kernel

/-- A command that holds every tile beyond its slice and within it, and one of another tenant that waits (ChargesDeadlinesAndCoalescing). -/
theorem witness_SliceExpiry :
    let busy := { Tile.idle with ctl := { Tile.idle.ctl with status := .running, cmd := some aRef } }
    let w : Cmd := { fetched 0x500 (zeros 10 ++ [1, 0]) with ref := ⟨2, 0, 0⟩ }
    let k := aCmd 0x500 []
    let base := { live with
      tiles := Vector.replicate 160 busy
      cmd := { live.cmd with sqs := live.cmd.sqs ++ [newSq 2 0 1 64 128 false 0 0x1000], cqs := live.cmd.cqs ++ [newCq 2 0 1 64 0 1 0 0x10000], cmds := [k, w] } }
    let s := base.setDom { base.dom with time := 20000001 }
    let s' := base.setDom { base.dom with time := 20000000 }
    s.cmdAt aRef = some k ∧ s.cmdAt w.ref = some w ∧ s.preemptable k = true ∧ w.phase = .fetched ∧ s.eligible w = true ∧ tileOpcode w.opcode = true
    ∧ s.assignTiles w.ref [s.dom.rank] (w.u 0xA 2) = none ∧ w.tenant ≠ k.tenant ∧ s.scheduled w = true ∧ k.exempt = false
    ∧ k.startedAt + k.sliceMs * 1000000 < s.dom.time ∧ s'.dom.time ≤ k.startedAt + k.sliceMs * 1000000
    ∧ (s'.sqAt w.ref.fn w.ref.sq).any (·.paced) = false := by
  intro busy w k base s s'
  refine ⟨rfl, rfl, by decide +kernel, rfl, by decide +kernel, rfl, by decide +kernel, by decide, by decide +kernel, rfl, by decide, by decide, by decide +kernel⟩

/-- A ring with entries not signalled: the time not yet over, and over. -/
theorem witness_CqCoalesceTimeout :
    let q : Cq := { newCq 1 0 0 64 0 4 10 0x10000 with unsignalled := 1, firstAt := 10000000000 }
    let s := live.setCmd { live.cmd with cqs := [q] }
    s.cqAt 1 0 = some q ∧ q.unsignalled ≠ 0 ∧ s.dom.time < q.firstAt + q.coalUs * 1000
    ∧ q.firstAt + q.coalUs * 1000 ≤ (s.setDom { s.dom with time := 10000010000 }).dom.time := by
  decide +kernel

/-- A reply's queues; a ring that faulted (RepliesVotesAndCommit). -/
theorem witness_ReplyWritten :
    (live.sqAt 1 0).any (fun q => (live.cqAt q.fn q.cq).any fun c => c.faulted == false && live.translates q.fn c.ring 32) = true
    ∧ (aCmd 0 []).dupOf = none ∧ (aCmd 0 []).runs ≠ 0 ∧ ({ newCq 1 0 0 64 0 1 0 0x10000 with faulted := true } : Cq).faulted = true := by
  decide +kernel

/-- A command of this interpreter on ranks 0 and 1, the same as a part of another's, deciding with an acknowledgement (RepliesVotesAndCommit). -/
theorem witness_VotesAndCommit :
    let k := { aCmd 0x500 [] with tiles := [(0, 0), (1, 0)], home := 0 }
    let p := { k with home := 1, phase := .voting }
    let d := { k with phase := .deciding, acks := [1] }
    (withCmd live k).cmdAt aRef = some k ∧ k.home = (withCmd live k).dom.rank ∧ k.running = true ∧ 1 ∈ (withCmd live k).ranks k
    ∧ 5 ∉ (withCmd live k).ranks k ∧ (1 : Nat) ≠ voteRerun ∧ p.home ≠ (withCmd live p).dom.rank ∧ p.phase = .voting
    ∧ d.phase = .deciding ∧ 1 ∈ d.acks ∧ 0 ∉ d.acks := by
  intro k p d
  refine ⟨rfl, rfl, rfl, by decide +kernel, by decide +kernel, by decide, by decide, rfl, rfl, by decide, by decide⟩

/-- An epoch ahead of the one in force and one in force; a job whose phase is being applied (ConfigurationPhases). -/
theorem witness_ConfigurationBarrier :
    let j : ConfigJob := ⟨aRef, 0, 0, [], [], 0, [1], [], 0, 0⟩
    live.cmd.staged = [] ∧ live.cmd.configJobs = [] ∧ live.dom.epoch < 1 ∧ 0 ≤ live.dom.epoch
    ∧ (live.setCmd { live.cmd with configJobs := [j] }).cmd.configJobs = j :: [] ∧ j.tenant = 0 ∧ (0 : Nat) ∉ j.applied ∧ 1 ∈ j.applied
    ∧ live.dom.members.getLsbD 0 = true ∧ 1 = live.dom.epoch + 1 := by
  decide +kernel

/-- OUT in mapped memory and where nothing is mapped (DiagnosticAndCopyCommands). -/
theorem witness_ReadingCommandsWriteOut :
    let k := aCmd 0xF00 (fields [(8, 0x200040), (8, 7)])
    let s := withCmd mapped k
    (s.output k 0x200040 (k.params.drop 8)).toOption.isSome = true
    ∧ (match (withCmd live k).output k 0x200040 (k.params.drop 8) with | .error (.fault _) => true | _ => false) = true
    ∧ k.ref.fn.val ≠ 0 ∧ 1 ≤ field 0x18 8 (zeros 24 ++ [16] ++ zeros 15) ∧ field 0x20 8 (zeros 32 ++ [8] ++ zeros 7) % 8 = 0
    ∧ field 0x20 8 (zeros 32 ++ [4] ++ zeros 7) % 8 ≠ 0 ∧ live.translates 0 64 1 = true := by
  decide +kernel

theorem witness_adminActs :
    let k := { aCmd 6 (fields [(8, 0x200040)]) with ref := ⟨0, 0, 0⟩ }
    k.ref.fn.val = 0 ∧ Acts 6 ⟨0, 0, 0⟩ k (withCmd live k) (withCmd live k) := by
  refine ⟨rfl, _, rfl, rfl, rfl, rfl, .inl ⟨rfl, rfl⟩⟩

/-- CONFIG_SET with no entries, by a tenant for another, for a tenant that is not enabled, and with one entry whose report is writable; a job in
progress (ConfigurationPhases). -/
theorem witness_ConfigurationSet :
    let good := aCmd 5 (fields [(2, 0xFFFF), (2, 1), (4, 0), (8, 0x200040), (2, 0x300), (6, 1)])
    let s := withCmd mapped good
    (s.configTarget good).toOption = some 0 ∧ (s.outputAny good (good.u 8 8) (zeros 16)).toOption.isSome = true
    ∧ (s.cmd.configJobs.any (·.cmd == good.ref)) = false ∧ (aCmd 5 []).u 2 2 = 0 ∧ (aCmd 5 (fields [(2, 1), (2, 1)])).u 0 2 ≠ 0xFFFF
    ∧ (s.tntOf 1).enable = false ∧ good.u 2 2 ≤ 251 ∧ (s.tntOf 0).enable = true
    ∧ (([⟨aRef, 0, 0, [], [], 0, [], [], 0, 0⟩] : List ConfigJob).any (·.cmd == good.ref)) = true := by
  decide +kernel

/-- An event ring that is allowed and one that is not; DOMAIN_STATUS's two operations and a third; a capture record that is there. -/
theorem witness_RingStatusAndCapture :
    let k := aCmd 8 (fields [(8, 0x3000), (4, 64), (2, 0), (2, 1)])
    let d := fun (op : Nat) => { aCmd 0x83 (fields [(8, 0x200040), (1, op)]) with ref := ⟨0, 0, 0⟩ }
    (k.u 0 8 % 4096 = 0 ∧ k.u 0 8 < 2 ^ 56 ∧ 64 ≤ k.u 8 4 ∧ k.u 8 4 ≤ 65536 ∧ k.u 8 4 = 2 ^ Nat.log2 (k.u 8 4)
      ∧ (k.u 0xC 2 = 0xFFFF ∨ k.u 0xC 2 < vectorLimit k.ref.fn)) ∧ ¬64 ≤ (aCmd 8 []).u 8 4
    ∧ (d 0).u 8 1 = 0 ∧ (d 1).u 8 1 = 1 ∧ 1 < (d 2).u 8 1 ∧ (live.outputAny (d 0) 64 (zeros 48)).toOption.isSome = true
    ∧ (live.flt.captures.find? fun r => r.collected) = none
    ∧ (([⟨1, 0, 0, 1, 0, .tile, 0, 0xFFFF, 0, true, []⟩] : List Capture).find? fun r => r.collected && (0 == 0 || r.id == 0)).isSome = true := by
  decide +kernel

/-- A copy within memory, one toward the host whose page translates and one whose does not, one with an operand too large, one that has read. -/
theorem witness_MemoryCopy :
    let k := fun (src dst n : Nat) => aCmd 0x105 (fields [(8, src), (8, dst), (8, n)])
    let s := withCmd mapped (k 0x200000 0x200080 16)
    (s.copySource (k 0x200000 0x200080 16) 0x200000 16 none).toOption.isSome = true ∧ isHostTva 0x200080 = false
    ∧ (s.stageWrite aRef 0 0x200080 (zeros 16)).toOption.isSome = true ∧ isHostTva (2 ^ 56) = true ∧ s.translates 1 (2 ^ 56 % 2 ^ 56) 16 = true
    ∧ (s.setHost { s.host with refused := [(1, 0)] }).translates 1 (2 ^ 56 % 2 ^ 56) 16 = false
    ∧ (k 0x200000 0x200080 0).u 0x10 8 = 0 ∧ 2 ^ 57 ≤ (k (2 ^ 57) 0 1).u 0 8 ∧ (s.host.copies.find? (·.1 == aRef)) = none
    ∧ (([(aRef, 5, [])] : List (CmdRef × Nat × List Byte)).find? (·.1 == aRef)) = some (aRef, 5, []) := by
  decide +kernel

/-- TENANT_RESET of a tenant that exists, one that does not, a reserved operation; a plan pending and none (ResetReplanAndSelfTests). -/
theorem witness_TenantResetAndReplan :
    let k := fun (t f : Nat) => aCmd 0x80 (fields [(2, t), (2, f)])
    (live.flt.tenantResets.any (·.cmd == some aRef)) = false ∧ (k 0 1).u 2 2 ≤ 1 ∧ live.fnExists ((k 0 1).u 0 2) = true
    ∧ live.fnExists ((k 9 1).u 0 2) = false ∧ 1 < (k 0 2).u 2 2 ∧ live.pat.pending = none ∧ live.flt.mode ≠ .recovery := by
  decide +kernel

/-- A program of one END at TVA 0x20_0000 of the first tenant. -/
def withImage : State := mapped.setMem (mapped.mem.put 0 (leBytes 4 0x31455553 ++ zeros 4 ++ leBytes 4 1 ++ zeros 4 ++ leBytes 4 0x40 ++ zeros 44
  ++ leBytes 8 (wordOf 0 4 0).toNat))

/-- TILE_RUN over all ranks: with operands that fit, with too many tiles, with none; an image that is valid, one that is refused; tiles free and
not (TileRunStarts). -/
theorem witness_TileRunStarts :
    let k := fun (tva n : Nat) => fetched 0x500 (fields [(8, tva), (1, 0xFF), (1, 0), (2, n)])
    let s := (withCmd withImage (k 0x200000 1)).syncStride
    s.tilePool 0 0xFF = some [0, 1] ∧ (k 0x200000 1).u 8 1 = 0xFF ∧ (k 0x200000 1).u 9 1 ≤ 8 ∧ 1 ≤ (k 0x200000 1).u 0xA 2 ∧ (k 0x200000 1).u 0xA 2 ≤ 160
    ∧ (k 0x200000 1).tileGroups = [] ∧ tilesInService s.flt.tileMap = 160 ∧ ¬1 ≤ (k 0 0).u 0xA 2
    ∧ (match s.imageAt (some aRef) 0 0x200000 with | .ok (.ok img) => img.instrs.length == 1 | _ => false) = true
    ∧ (match s.imageAt (some aRef) 0 1 with | .ok (.error _) => true | _ => false) = true
    ∧ (s.assignTiles aRef [0, 1] 1).isSome = true
    ∧ ({ s with tiles := Vector.replicate 160 (running Tile.idle []) } : State).assignTiles aRef [0, 1] 1 = none
    ∧ [0, 1].contains s.dom.rank = true ∧ ([159] : List Nat).min?.getD 160 < (k 0x200000 160).u 0xA 2 := by
  decide +kernel

/-- Self-tests: targets in and out of range; OUT that translates and not; a resource idle and in use; within 10 s of the start and past it
(ResetReplanAndSelfTests). -/
theorem witness_SelfTests :
    let k := { aCmd 0xF10 (fields [(4, 3), (8, 64)]) with ref := ⟨0, 0, 0⟩ }
    k.u 0 4 < 160 ∧ ¬(aCmd 0xF10 (fields [(4, 160)])).u 0 4 < 160 ∧ live.translates 0 64 64 = true
    ∧ (live.setHost { live.host with refused := [(0, 0)] }).translates 0 64 64 = false
    ∧ (live.tiles[(3 : Fin 160)].ctl.status == .idle) = true ∧ ((tile0 (running Tile.idle [])).tiles[(0 : Fin 160)].ctl.status == .idle) = false
    ∧ engineId 0x1000 = true ∧ engineId 0 = false ∧ live.engineIdle 0x1000 = true ∧ live.engineIdle 0x3000 = true ∧ mapped.engineIdle 0x3000 = false
    ∧ live.regionEmpty 0 = true ∧ mapped.regionEmpty 0 = false ∧ (live.leasesOnDie 0).isEmpty = true
    ∧ ((live.linkAt 0).phase == .disabled && (live.linkAt 0).queue.isEmpty) = true
    ∧ k.startedAt + 10000 * 1000000 ≤ live.dom.time ∧ (0 : Nat) < k.startedAt + 10000 * 1000000 := by
  decide +kernel

/-! Host port, formation, membership and time. -/

theorem witness_HostPortEvents :
    live.sig.visible = true ∧ ((4 : Nat) ≠ live.host.gen ∨ (16 : Nat) ≠ live.host.width) ∧ (5 : Nat) = live.host.gen ∧ (16 : Nat) = live.host.width
    ∧ live.barOpen 1 = true ∧ live.barOpen 3 = false ∧ live.barOpen 0 = true ∧ live.dom.rank = live.dom.anchor ∧ live.host.copies = []
    ∧ (([(aRef, 5, [0])] : List (CmdRef × Nat × List Byte)).filter fun (c, b, bs) => c.fn == 1 && b < 0 + 16 && 0 < b + bs.length).getLast?
      = some (aRef, 5, [0])
    ∧ (live.setDom { live.dom with anchor := 1 }).dom.rank ≠ 1 := by
  decide +kernel

/-- A forming module whose groups are released, with its majority reached and not; a member that does not reach its coordinator; a round that
waits for ELECTED, before and after 5 ms; a coordinator below its majority and above (DomainFormation). -/
theorem witness_RoundsBegin :
    let form := State.reset.setSig { State.reset.sig with groupsReleased := 1 }
    let small := form.setDom { form.dom with size := 1 }
    let f : Form := formOf []
    let lost := live.setDom { live.dom with size := 2, coord := 1 }
    let alone := live.setDom { live.dom with size := 2 }
    let whole := live.setDom { live.dom with size := 1 }
    form.sig.groupsReleased ≠ 0 ∧ form.dom.phase = .forming ∧ form.dom.forms = [] ∧ form.intraUp < form.majority
    ∧ small.majority ≤ (small.modLink 0 fun x => { x with phase := .up }).intraUp ∧ form.dom.time < form.sig.releasedAt + 2000 * 1000000
    ∧ form.sig.releasedAt + 2000 * 1000000 ≤ (form.setDom { form.dom with time := 2000000000 }).dom.time
    ∧ lost.dom.rank ≠ lost.dom.coord ∧ (lost.dom.members &&& lost.reachRecent).getLsbD lost.dom.coord = false
    ∧ live.inReset = false ∧ live.dom.phase ≠ .minority ∧ [f] ≠ [] ∧ live.dom.electedIn ≠ some live.dom.round
    ∧ live.dom.roundAt + 5 * 1000000 ≤ live.dom.time ∧ (0 : Nat) < live.dom.roundAt + 5 * 1000000
    ∧ live.dom.rank = live.dom.coord ∧ countBits alone.reachRecent < alone.majority
    ∧ whole.majority ≤ countBits whole.reachRecent := by
  decide +kernel

/-- FORM of another rank: with this round, a later and an earlier one; ACCEPT new, twice, of another round (DomainFormation). -/
theorem witness_FormAndAccept :
    let form := fun (r : Nat) => zeros 8 ++ leBytes 1 1 ++ zeros 47 ++ leBytes 8 r
    let s := (live.setDom { live.dom with round := 1, size := 2, accepts := [1] })
    s.inReset = false ∧ (formOf (form 1)).rank < s.dom.size ∧ (formOf (form 1)).rank ≠ s.dom.rank ∧ (formOf (form 1)).round = s.dom.round
    ∧ s.dom.round < (formOf (form 2)).round ∧ (formOf (form 0)).round < s.dom.round ∧ (2 : Fin 64).val ∉ s.dom.accepts
    ∧ (1 : Fin 64).val ∈ s.dom.accepts ∧ (0 : Nat) ≠ s.dom.round := by
  decide +kernel

/-- ELECTED by another module: with a quarantine cause, for a member, for a module that is none (DomainFormation). -/
theorem witness_ElectedDecides :
    live.inReset = false ∧ live.dom.round ≤ 0 ∧ (1 : Fin 64).val ≠ live.dom.rank ∧ (Admission.mk 3 0 0 0 0 false 0 0 0 none [] [] []).cause ≠ 0
    ∧ (Admission.mk 0 3 0 0 0 false 0 0 0 none [] [] []).cause = 0 ∧ live.dom.phase = .member
    ∧ (live.setDom { live.dom with phase := .forming }).inReset = false ∧ (live.setDom { live.dom with phase := .forming }).dom.phase ≠ .member := by
  decide +kernel

/-- A member below and at its majority, a module in minority; ranks in and out of the domain, a resetting one (MembershipTimeAndEvents). -/
theorem witness_MembershipChanges :
    let alone := live.setDom { live.dom with size := 2 }
    let whole := live.setDom { live.dom with size := 1 }
    let away := (live.setDom { live.dom with resetting := [(1, 0)] })
    let follow := live.setDom { live.dom with coord := 1 }
    alone.dom.phase = .member ∧ countBits alone.reachRecent < alone.majority ∧ whole.majority ≤ countBits whole.reachRecent
    ∧ (alone.setDom { alone.dom with phase := .minority }).dom.phase = .minority
    ∧ (countBits (alone.setDom { alone.dom with phase := .minority }).reachNow < (alone.setDom { alone.dom with phase := .minority }).majority)
    ∧ (whole.setDom { whole.dom with phase := .minority }).majority ≤ countBits (whole.setDom { whole.dom with phase := .minority }).reachNow
    ∧ away.isCoord = true ∧ (away.dom.resetting.any (·.1 == 1)) = true ∧ follow.isCoord = false ∧ (live.dom.resetting.any (·.1 == 1)) = false
    ∧ (live.dom.members ||| live.dom.quarantined).getLsbD 63 = false := by
  decide +kernel

/-- A member that follows a master; offsets on both sides of each bound; a clock slowed already (MembershipTimeAndEvents). -/
theorem witness_TimeSynchronisation :
    let follow := live.setDom { live.dom with coord := 1 }
    let below := (live.setDom { live.dom with row := 1 }).modLink 41 fun x => { x with phase := .up }
    let slow := follow.setDom { follow.dom with ratePpb := -200000, timeOffset := 26 }
    follow.dom.phase = .member ∧ follow.gridMaster = false ∧ follow.isCoord = false ∧ below.dom.phase = .member ∧ below.gridMaster = false
    ∧ below.isCoord = true ∧ (-1001 : Int) < -1000 ∧ (1000 : Int) < 1001
    ∧ slow.dom.ratePpb = -200000 ∧ 25 < slow.dom.timeOffset ∧ ¬(25 < follow.dom.timeOffset) ∧ (-1000 : Int) ≤ 1 ∧ (1 : Int) ≤ 1000 := by
  decide +kernel

/-- An event ring with a record that no interrupt told of. -/
def ringOf : EvRing := ⟨0x40000, 16, 1, 0, 3, 0, 0, 2, 0, false⟩

/-- The module with that ring at PF0. -/
def ringed : State := live.modFn 0 fun x => { x with ring := some ringOf }

/-- The first record that no interrupt told of is 100 µs old, and younger (MembershipTimeAndEvents). -/
theorem witness_EventCoalescing :
    (ringed.fnOf 0).ring = some ringOf ∧ ringOf.unsignalled ≠ 0 ∧ ringOf.firstAt + 100 * 1000 ≤ ringed.dom.time
    ∧ (ringed.setDom { ringed.dom with time := 99999 }).dom.time < ringOf.firstAt + 100 * 1000 := by
  decide +kernel

/-! Registers. -/

/-- BAR0 takes writes of PF0 and of the first tenant's function (RegisterAccess). -/
theorem witness_writable : Writable live 0 ∧ Writable live 1 := by
  unfold Writable; decide +kernel

/-- Each clause of RegisterAccess's writes: offset of no register, read-only from this function, locked, refused value, accepted value, a word not
aligned, a write that is held (RegisterAccess). -/
theorem witness_RegisterWritesChecked :
    let locked : State := { live with regs := { live.regs with cfgLock := true } }
    live.barOpen 0 = true ∧ State.reset.barOpen 0 = false ∧ (mapOffset 0 0xFFFFC).bind regAt = none
    ∧ (mapOffset 0 0x52000).bind regAt = some (0x52000, 4) ∧ permitted 0 0x52000 = true ∧ byteWritable 0x52000 = false
    ∧ locked.lockRefuses 0x52000 1 = true ∧ live.lockRefuses 0x52000 1 = false ∧ (live.regWrite 0 0x52000 1500).2 = 0
    ∧ (mapOffset 0 0x50008).bind regAt = some (0x50008, 4) ∧ (live.regWrite 0 0x50008 (2 ^ 24 - 1)).2 ≠ 0 := by
  decide +kernel

/-- A write that is held while its die is under reset; an offset that a virtual function may not write (RegisterAccess). -/
theorem witness_HeldWrites :
    (live.beginReset .die 0 6 false).holdsWrite 0 0x10000 = true ∧ (live.beginReset .die 0 6 false).barOpen 0 = true
    ∧ (live.beginReset .die 0 6 false).barFailed 0 = false ∧ (mapOffset 1 0x14).bind regAt = some (0x14, 4) ∧ permitted 1 0x14 = false := by
  decide +kernel

/-- A 64-bit register of PF0, with a low word staged and not (RegisterAccess). -/
theorem witness_WideWrites :
    let staged := live.modFn 0 fun x => { x with slot := some (0x10000, 5) }
    (mapOffset 0 0x10000).bind regAt = some (0x10000, 8) ∧ mapOffset 0 0x10000 = some 0x10000 ∧ mapOffset 0 0x10004 = some 0x10004
    ∧ regAt 0x10004 = some (0x10000, 8) ∧ permitted 0 0x10000 = true ∧ byteWritable 0x10000 = false ∧ live.lockRefuses 0x10000 64 = false
    ∧ (live.regWrite 0 0x10000 64).2 = 0 ∧ (staged.fnOf 0).slot = some (0x10000, 5)
    ∧ ((staged.modFn 0 fun x => { x with slot := none }).regWrite 0 0x10000 (5 + 2 ^ 32 * 7)).2 = 0 ∧ live.doorbellOpen 1 = true := by
  decide +kernel

/-- Reads of a 4-byte register, of an offset of none, of both words of a 64-bit one, and out of alignment (RegisterAccess). -/
theorem witness_RegisterReads :
    let latched := live.modFn 0 fun x => { x with latch := some (8, 5) }
    live.barOpen 0 = true ∧ live.barFailed 0 = false ∧ mapOffset 0 4 = some 4 ∧ regAt 4 = some (4, 4) ∧ (mapOffset 0 0xFFFFC).bind regAt = none
    ∧ mapOffset 0 8 = some 8 ∧ regAt 8 = some (8, 8) ∧ mapOffset 0 12 = some (8 + 4) ∧ regAt 12 = some (8, 8)
    ∧ (latched.fnOf 0).latch = some (8, 5) ∧ (2 : Nat) % 4 ≠ 0 := by
  decide +kernel

/-- Units on both sides of each bound; a pseudo-channel that is requested and not, mapped already, on a die that drains; a sideband port that
may rejoin; the lock set and not (NamedRegisters). -/
theorem witness_NamedRegisterWrites :
    let asked : Word := 1024
    let locked : State := { live with regs := { live.regs with cfgLock := true } }
    let iso : State := { live with sig := { live.sig with smbIso := true, sclLow := false, sdaLow := false } }
    live.regs.cfgLock = false ∧ locked.regs.cfgLock = true ∧ engineId 0x1000 = true ∧ engineId 0 = false ∧ (159 : Fin 65536).val < 160
    ∧ 160 ≤ (160 : Fin 65536).val ∧ (11 : Fin 65536).val < 12 ∧ (3 : Fin 65536).val < 4
    ∧ asked.getLsbD 10 = true ∧ ((live.mem.die (dieOfPc 0)).mapped.any (·.1 == pclOf 0)) = false ∧ (live.mem.die (dieOfPc 0)).draining = false
    ∧ (live.mem.die (dieOfPc 0)).retired = false ∧ ((live.beginDrain (dieOfPc 0) (pclOf 0) 3).mem.die (dieOfPc 0)).draining = true
    ∧ (((live.beginDrain (dieOfPc 0) (pclOf 0) 3).mem.die (dieOfPc 1)).mapped.any (·.1 == pclOf 1)) = false
    ∧ iso.sig.smbIso = true ∧ iso.sig.sclLow = false ∧ iso.sig.sdaLow = false := by
  decide +kernel

theorem witness_NamedRegisterWritable :
    let locked : State := { live with regs := { live.regs with cfgLock := true } }
    let iso : State := { live with sig := { live.sig with smbIso := true, sclLow := false, sdaLow := false } }
    let drained := live.beginDrain (dieOfPc 0) (pclOf 0) 3
    Writable locked 0 ∧ Writable iso 0 ∧ Writable drained 0 := by
  unfold Writable; decide +kernel

/-- The administration pair disabled and enabled, at PF0, at an enabled tenant's function and at one not enabled; event heads inside and outside
what was written; no ring (NamedRegisters). -/
theorem witness_AdministrationPair :
    let w1 : Word := 0x10001
    let w0 : Word := 0
    let on := live.modFn 0 fun x => { x with enable := true }
    (live.fnOf 0).enable = false ∧ w1.getLsbD 0 = true ∧ (live.tntOf ((1 : Fin 513).val - 1)).enable = true
    ∧ (live.tntOf ((2 : Fin 513).val - 1)).enable = false ∧ w0.getLsbD 0 = false ∧ (on.fnOf 0).enable = true
    ∧ (let n := fun (v : Word) => (v.toNat % 65536 + ringOf.depth - ringOf.head) % ringOf.depth
      n 3 ≤ ringOf.written - ringOf.returned ∧ ringOf.written - ringOf.returned < n 4 ∧ ringOf.depth ≤ (16 : Word).toNat % 65536)
    ∧ (live.fnOf 0).ring = none := by
  decide +kernel

theorem witness_AdministrationWritable :
    Writable live 2 ∧ Writable (live.modFn 0 fun x => { x with enable := true }) 0 ∧ Writable ringed 0 := by
  unfold Writable; decide +kernel

/-! Links. -/

/-- A link of the module in a state, since device time 0. -/
def inPhase (l : Fin 96) (p : LinkPhase) : State := live.modLink l fun x => { x with phase := p, since := 0 }

/-- A link in training, before and after 200 ms, at its second and third attempt; in ALIGN before and after 10 ms (LinkStates). -/
theorem witness_LinkTraining :
    let tr := (inPhase 1 .training).setDom { live.dom with time := 200000000 }
    let al := (inPhase 1 .align).setDom { live.dom with time := 10000000 }
    (tr.linkAt 1).phase = .training ∧ (tr.linkAt 1).since + 200 * 1000000 ≤ tr.dom.time ∧ (tr.linkAt 1).attempts < 2
    ∧ 2 ≤ ((tr.modLink 1 fun x => { x with attempts := 2 }).linkAt 1).attempts
    ∧ (tr.setDom { live.dom with time := 199999999 }).dom.time < (tr.linkAt 1).since + 200 * 1000000 ∧ (live.linkAt 1).phase ≠ .training
    ∧ (al.linkAt 1).phase = .align ∧ (al.linkAt 1).since + 10 * 1000000 ≤ al.dom.time
    ∧ (al.setDom { live.dom with time := 9999999 }).dom.time < (al.linkAt 1).since + 10 * 1000000 ∧ (live.linkAt 1).phase ≠ .align := by
  decide +kernel

/-- IDENT of the peer and of another module; a link that does not wait for it (LinkStates). -/
theorem witness_Ident :
    let s := inPhase 1 .identify
    let good : IdentRec := ⟨7, 0, 0, 1, (portOf 1).1.code, (portOf 1).2, 0, 0⟩
    let s1 := s.modLink 1 fun x => { x with lseqExpected := (x.lseqExpected + 1) % 65536, peer := some good.serial }
    (s.linkAt 1).phase = .identify ∧ s1.identOk 1 good = true ∧ s1.identOk 1 { good with rank := 2 } = false ∧ (live.linkAt 1).phase ≠ .identify := by
  decide +kernel

/-- A group that recalibrates; a link of it past 200 µs; retraining with each cause; a retrained link and its peer, at its second and third
attempt past 5 ms (LinkStates). -/
theorem witness_Recalibration :
    let rc := inPhase 1 .recal
    let rt := (inPhase 1 .retrain).modLink 1 fun x => { x with peer := some 7 }
    (((live.modGroup 0 fun x => { x with recalling := true }).groupAt 0).recalling = true) ∧ (live.groupAt 0).recalling = false
    ∧ (rc.linkAt 1).phase = .recal ∧ (rc.linkAt 1).since + 200 * 1000 < rc.dom.time ∧ (live.linkAt 1).phase ≠ .recal
    ∧ ((inPhase 1 .up).linkAt 1).phase = .up ∧ (16 : Nat) < 17 ∧ 8 ≤ (((inPhase 1 .up).modLink 1 fun x => { x with resends := 8 }).linkAt 1).resends
    ∧ ¬8 ≤ ((inPhase 1 .up).linkAt 1).resends
    ∧ (rt.linkAt 1).phase = .retrain ∧ (rt.linkAt 1).peer = some 7 ∧ (rt.linkAt 1).peer ≠ some 8 ∧ (rt.linkAt 1).since + 5 * 1000000 ≤ rt.dom.time
    ∧ (rt.linkAt 1).attempts < 2 ∧ 2 ≤ ((rt.modLink 1 fun x => { x with attempts := 2 }).linkAt 1).attempts := by
  decide +kernel

/-- Codewords at and above one in 1,000; messages that wait for a peer in training, before and after 10 ms; a pair without an UP link and a module
that reaches it, before and after 20 µs; a peer without links before and after 50 ms (LinkStates). -/
theorem witness_LinkLoss :
    let wait := (State.setLnk live { live.lnk with waiting := [(2, 0)], links := Vector.replicate 96 { Link.reset with initial := true } })
    let lost := ((inPhase 1 .up).modLink 2 fun x => { x with phase := .retrain }).setLnk
      { ((inPhase 1 .up).modLink 2 fun x => { x with phase := .retrain }).lnk with settling := [(2, 0)], reported := [(1, 2)] }
    let gone := State.setLnk live { live.lnk with settling := [(2, 0)] }
    1 * 1000 ≤ 1000 ∧ 999 < 1 * 1000 ∧ (live.linkAt 1).degradedAt = none
    ∧ tget wait.lnk.waiting 2 = some 0 ∧ 0 + 10 * 1000000 ≤ wait.dom.time ∧ (wait.setDom { live.dom with time := 5 }).dom.time < 0 + 10 * 1000000
    ∧ ((wait.pair 2).all fun l => (wait.linkAt l).initial) = true
    ∧ (((withCmd wait (aCmd 0 [])).dropWaiting 2).cmdAt aRef).any (·.running) = true
    ∧ ((inPhase 2 .up).upLinks 2 ≠ []) ∧ lost.upLinks 2 = [] ∧ ((lost.pair 2).any fun l => (lost.linkAt l).settles) = true
    ∧ tget lost.lnk.settling 2 = some 0 ∧ lost.lnk.detours = [] ∧ lost.via 2 = some 1 ∧ 0 + 20 * 1000 ≤ lost.dom.time
    ∧ gone.upLinks 2 = [] ∧ gone.lnk.detours = [] ∧ 2 ∉ gone.lnk.unreachable ∧ 0 + 50 * 1000000 ≤ gone.dom.time
    ∧ (gone.setDom { live.dom with time := 5 }).dom.time < 0 + 50 * 1000000 := by
  decide +kernel

/-- A link UP and one not; a frame; a detour list with and without the named frame (FramesAndMessages). -/
theorem witness_Frames :
    let f : Frame := ⟨0, 1, 0, false, true, 0, 0, 0, 0, 0, 2, 0, 0, 0, 0, []⟩
    let d : Detour := ⟨2, 1, [f], [], true⟩
    ((inPhase 1 .up).linkAt 1).phase = .up ∧ (live.linkAt 1).phase ≠ .up ∧ (2 : Fin 3) ≠ 0
    ∧ (∀ d ∈ live.lnk.detours, d.draining = false ∨ d.unacked ≠ [])
    ∧ ((State.setLnk live { live.lnk with detours := [d] }).lnk.detours.map fun d => d.unacked.filter fun f => !(f.dst == 2 && f.vc == 1 && f.sseq == 0)) = [[]] := by
  decide +kernel

/-- A locator of a tile that runs the command, and of one that does not; codes inside the pad; a walk that can be read (FramesAndMessages). -/
theorem witness_PadMessages :
    let s := tile0 { withRows 0 4 true with ctl := { TileCtl.zero with status := .running, cmd := some aRef, istore := [0] } }
    let w : Option Walk := (formatOf (Desc.ofBits 0 (rowOf 0 4 true)).fmtCode).map fun f => ⟨Desc.ofBits 0 (rowOf 0 4 true), f⟩
    s.located aRef 0 = some 0 ∧ State.reset.located aRef 0 = none
    ∧ (∀ e ∈ [((0 : Int), 1), (3, 1)], 0 ≤ (elemSpan (locPad 0) e.1 8).1 ∧ (elemSpan (locPad 0) e.1 8).1 + (elemSpan (locPad 0) e.1 8).2.2 ≤ 0x3FF000)
    ∧ (w.bind fun w => (sourceCodes w fun e => padReadCode s.tiles[(0 : Fin 160)].pad w (locPad 0) e).toOption).isSome = true := by
  decide +kernel

/-- A PADGET outstanding whose answer has not come, with walks; memory committed and not, DPAs in service and of none, of this module and of a
peer (FramesAndMessages). -/
theorem witness_MemoryMessages :
    let a : AsyncOp := ⟨.padget, 3, rowOf 0 4 true, rowOf 0 4 true, 0, none, 0, 0, 0, [], [], Bank.zero, (0, 0, 0), none⟩
    let s := tile0 { withRows 0 4 true with
      sync := { TileSync.zero with outstanding := [a] }, ctl := { TileCtl.zero with status := .running, cmd := some aRef, istore := [0] } }
    s.tiles[(0 : Fin 160)].opOn 3 false = some a ∧ s.tiles[(0 : Fin 160)].ctl.cmd = some aRef ∧ a.kind = .padget ∧ a.landed = none
    ∧ a.walks.any (fun w => (padWriteCodes s.tiles[(0 : Fin 160)].pad w.1 w.1.d.base (destCodes w.1 [(0, 5)])).toOption.isSome) = true
    ∧ mapped.mem.unmapped 0 0x200000 4 = none ∧ mapped.mem.unmapped 0 0 4 ≠ none
    ∧ (live.dpaTier 0).isSome = true ∧ (live.dpaTier 3).isSome = true ∧ live.dpaTier (2 ^ 60) = none
    ∧ live.dpaTier peerBase = some .peer ∧ live.dpaTier 0 ≠ some .peer := by
  decide +kernel

/-! Groups, collective messages, heat notices and the image relay. -/

/-- A group's operands that fit and that do not; its group in use and unused, present and not (GroupsAndCollectiveMessages). -/
theorem witness_CollectiveGroups :
    let p := fields [(1, 5), (1, 0), (1, 0), (1, 0), (2, 1), (2, 100)]
    let g : CollGroup := ⟨0, 0, 5, 0, false, false, 1, 100, [[0]]⟩
    let s := live.setColl { live.coll with groups := [g] }
    let used := { aCmd 0x500 [] with groups := [0] }
    (match live.newGroup 0 p [0] [] with | .ok x => x.id == 0 | _ => false) = true
    ∧ (match live.newGroup 0 [] [0] [] with | .error st => st == 2 | _ => false) = true
    ∧ (((aCmd 0x601 (zeros 8)).params.drop 1).take 7).all (· == 0) = true ∧ (live.coll.groups.any fun x => x.tenant == 0 && x.id == 0) = false
    ∧ (s.coll.groups.any fun x => x.tenant == 0 && x.id == 0) = true ∧ ((s.setCmds [used]).cmd.cmds.any fun x => x.ref.fn == 1 && x.joins 0) = true
    ∧ ((s.setCmds [aCmd 0x601 (zeros 8)]).cmd.cmds.any fun x => x.ref.fn == 1 && x.joins 0) = false
    ∧ (s.coll.groups.find? fun x => x.tenant == 0 && x.id == 0) = some g := by
  decide +kernel

/-- A module with one instance. -/
def joined (i : CollInst) : State := live.setColl { live.coll with insts := [i] }

/-- An instance that is there, one that a command in flight has yet to issue, one of no command; a timer held, within and past its limit
(GroupsAndCollectiveMessages). -/
theorem witness_CollectiveMessages :
    let i := { anInst [] with timeoutUs := 100 }
    let early := withCmd live (aCmd 0x500 [])
    (joined i).instAt i.key = some i ∧ live.instAt i.key = none ∧ (early.cmdAt aRef).isSome = true ∧ early.instAt i.key = none
    ∧ tgetD early.coll.done (aRef, 0, 0) 0 ≤ 0 ∧ (early.coll.earlyFail.any (·.1 == i.key)) = false ∧ live.cmdAt aRef = none
    ∧ (joined i).instOn 0 0 = some i ∧ i.heldUntil ≤ (joined i).dom.time ∧ i.timeoutUs * 1000 < (joined i).instElapsed i
    ∧ live.dom.time < 20000000000 ∧ (joined { i with issuedAt := 10000000000 }).instElapsed { i with issuedAt := 10000000000 } ≤ 100 * 1000 := by
  decide +kernel

/-- A timer held till now and beyond; a member that resets, seen before and not, before and after 2 s; no member (HeatNoticesAndImageRelay). -/
theorem witness_HeatNotices :
    let i := { anInst [] with heldUntil := 5 }
    let away := live.setDom { live.dom with resetting := [(1, 5000000000)] }
    (joined i).instAt ⟨aRef, 0, 0, 0⟩ = some i ∧ (joined i).instOn 0 0 = some i ∧ i.heldUntil ≠ 0 ∧ i.heldUntil ≤ (joined i).dom.time
    ∧ live.dom.time < 20000000000 ∧ (1 : Fin 64).val ≠ live.dom.rank ∧ live.dom.members.getLsbD 1 = true
    ∧ (live.dom.resetting.any (·.1 == 1)) = false ∧ live.coll.insts = [] ∧ live.cmd.cmds = [] ∧ (away.dom.resetting.any (·.1 == 1)) = true
    ∧ live.dom.members.getLsbD 2 = false ∧ (away.dom.resetting.find? (·.1 == 1)) = some (1, 5000000000)
    ∧ 5000000000 + 2000 * 1000000 ≤ away.dom.time ∧ away.isCoord = true
    ∧ (away.setDom { away.dom with time := 5000000000 }).dom.time < 5000000000 + 2000 * 1000000 := by
  decide +kernel

/-- A model of no tensors. -/
def aModel : Model := modelOf (zeros 96) [] []

/-- A load with and without its header; a header that names it and one that does not; its key held and not; segments seen, in order and out of it
(HeatNoticesAndImageRelay). -/
theorem witness_ImageRelay :
    let h := leBytes 4 0x3149574A ++ leBytes 2 1 ++ [0, 2] ++ leBytes 4 3 ++ leBytes 4 4 ++ zeros 112
    let r : RelayLoad := ⟨aRef, 3, 2, 4, none, [], [], [], [], false, []⟩
    let s := (withCmd live (aCmd 0x701 [])).setHost { live.host with relay := [r] }
    let named := fun (h : List Byte) => field 0 4 h = 0x3149574A ∧ field 4 2 h = 1 ∧ field 7 1 h = r.target ∧ field 8 4 h = r.model ∧ field 0xC 4 h = r.version
    s.loadOf aRef = some r ∧ (s.cmdAt aRef).isSome = true ∧ r.head = none ∧ named h ∧ ¬named [] ∧ (tget s.boot.imageKeys (0, field 6 1 h)).isSome = false
    ∧ (tget (s.setBoot { s.boot with imageKeys := [((0, 0), [])] }).boot.imageKeys (0, field 6 1 h)).isSome = true
    ∧ (({ s with turn := { s.turn with models := [((0, 3), aModel)] } } : State).modelAt (aRef.fn.val - 1) 3).isSome = true
    ∧ field 0 8 (leBytes 8 0) < tgetD [((0 : Nat), 10)] (0 % 10) (0 % 10) ∧ tgetD ([] : List (Nat × Nat)) (12 % 10) (12 % 10) < field 0 8 (leBytes 8 12)
    ∧ (s.setDom { s.dom with anchor := 1 }).dom.rank ≠ 1 := by
  decide +kernel

/-! Faults and recovery. -/

/-- A tile that runs on a module in service: no reset, no trip, no hang before it, and one within the last second; a module that starts up
(HangsResetsAndCaptures). -/
theorem witness_Hangs :
    let busy := { live with tiles := live.tiles.set 0 (running Tile.idle []) }
    let again := busy.setFlt { busy.flt with hangCount := 1, lastReset := [((1, 0), 10000000000)] }
    busy.inReset = false ∧ busy.flt.withdrawn = false ∧ busy.underReset .tile 0 = false ∧ busy.unitHeld .tile 0 = false ∧ busy.unitBusy .tile 0 = true
    ∧ busy.flt.mode = .service ∧ (busy.setFlt { busy.flt with hangCount := 1 }).recurs .tile 0 = false ∧ again.recurs .tile 0 = true
    ∧ live.unitBusy .tile 0 = false ∧ (busy.setFlt { busy.flt with mode := .startUp }).flt.mode = .startUp
    ∧ (live.linkAt 0).queue = [] ∧ live.unitBusy .linkGroup 0 = false := by
  decide +kernel

/-- A replay whose first suspect runs, is done, or has left (HangsResetsAndCaptures). -/
theorem witness_Suspects :
    let x : HangReplay := ⟨.tile, 0, 1, [aRef], false⟩
    let s := live.setFlt { live.flt with replays := [x] }
    (s.flt.replays.find? fun x => x.level.code == 1 && x.unit == 0) = some x ∧ s.cmdAt aRef = none
    ∧ ((withCmd s (aCmd 0 [])).cmdAt aRef).any (·.running) = true ∧ (aCmd 0 []).phase ≠ .done
    ∧ ((withCmd s { aCmd 0 [] with phase := .done }).cmdAt aRef).any (fun k => k.phase == .done && !k.running) = true := by
  decide +kernel

/-- A record to collect, and none; resets of a tile and of the module that end, and none; a tenant's reset (HangsResetsAndCaptures). -/
theorem witness_CapturesAndResets :
    let c : Capture := ⟨1, 0, 0, 1, 0, .tile, 0, 0xFFFF, 0, false, []⟩
    let r : ResetJob := ⟨.tile, 0, 1, 0, false⟩
    let m : ResetJob := ⟨.module, 0, 1, 0, false⟩
    let x : TenantReset := ⟨0, none, 0, 0, 0, false⟩
    (live.flt.captures.find? fun c => c.id == 1 && !c.collected) = none
    ∧ ((live.setFlt { live.flt with captures := [c] }).flt.captures.find? fun c => c.id == 1 && !c.collected) = some c
    ∧ ((live.setFlt { live.flt with resets := [r] }).flt.resets.find? fun r => r.level.code == 1 && (r.level == .module || r.unit == 0)) = some r
    ∧ ((live.setFlt { live.flt with resets := [m] }).flt.resets.find? fun r => r.level.code == 6 && (r.level == .module || r.unit == 0)) = some m
    ∧ (live.flt.resets.find? fun r => r.level.code == 1 && (r.level == .module || r.unit == 0)) = none ∧ r.level ≠ .module ∧ r.level ≠ .die
    ∧ ((live.setFlt { live.flt with tenantResets := [x] }).flt.tenantResets.find? (·.tenant == 0)) = some x := by
  decide +kernel

/-! Patina, power and temperature. -/

/-- Six margins; a link with a peer, UP and not; an hour within its conditions (PatinaMeasuresAndReplans). -/
theorem witness_Measurements :
    live.inReset = false ∧ ([1, 2, 3, 4, 5, 6] : List Int).length = 6 ∧ (live.peerAddr 1).isSome = true ∧ ((inPhase 1 .up).linkAt 1).phase = .up
    ∧ (live.linkAt 1).phase ≠ .up ∧ (0 : BitVec 5).toNat + (if live.pwr.tripInHour then 32 else 0) = 0 := by
  decide +kernel

/-- A daily re-plan due and not; a plan that waits for its boundary, at it and before it (PatinaMeasuresAndReplans). -/
theorem witness_Replans :
    let due := live.setPat { live.pat with hours := 24, last := 0 }
    let p : Replan := ⟨[], 1800, 0, 0, 0, true, 0, 0, 1800, 0, Vector.replicate 4 0, Vector.replicate 4 0, Vector.replicate 16 0, 0, 0, [],
      Vector.replicate 4 850, Vector.replicate 4 900⟩
    let s := live.setPat { live.pat with pending := some p }
    due.inReset = false ∧ due.flt.withdrawn = false ∧ due.flt.mode ≠ .recovery ∧ due.pat.pending = none ∧ due.pat.last + 24 ≤ due.pat.hours
    ∧ (live.setPat { live.pat with hours := 23, last := 0 }).pat.hours < 0 + 24 ∧ s.pat.pending = some p ∧ s.inReset = false ∧ s.inStep = false
    ∧ s.cmd.staged = [] ∧ 1500 ≤ live.pat.maxMhz ∧ live.pat.maxMhz % 25 = 0 := by
  decide +kernel

/-- Predictions above a limit, at it, and 50 W below; 100 µs of calm and less, on the duty cycle, at the top and below it by one step and by more
(GovernorAndInputVoltage). -/
theorem witness_Governor :
    let calm := live.setPwr { live.pwr with calmSince := some 0 }
    let lims := (live.setPwr live.pwr).powerLimits
    lims.length = 4 ∧ (∃ p ∈ ([5000, 0, 0, 0] : List Nat).zip lims, p.2 < p.1) ∧ (∀ p ∈ ([0, 0, 0, 0] : List Nat).zip lims, p.1 + 50 ≤ p.2)
    ∧ (∀ p ∈ lims.zip lims, p.1 ≤ p.2) ∧ (∃ p ∈ lims.zip lims, p.2 < p.1 + 50)
    ∧ calm.pwr.calmSince = some 0 ∧ 0 + 100 * 1000 ≤ calm.dom.time ∧ calm.pwr.duty = false ∧ calm.governorTop ≤ calm.governorMhz
    ∧ (calm.setPwr { calm.pwr with powerMhz := 1000 }).governorMhz + 25 < (calm.setPwr { calm.pwr with powerMhz := 1000 }).governorTop
    ∧ (let s := calm.setPwr { calm.pwr with powerMhz := calm.governorTop - 25 }
      s.governorMhz < s.governorTop ∧ s.governorTop ≤ s.governorMhz + 25)
    ∧ live.pwr.calmSince = none := by
  decide +kernel

/-- The power off and on; bands on both sides of each bound (GovernorAndInputVoltage). -/
theorem witness_InputVoltage :
    let band := fun (v : Nat) => if v < 4800 then 1 else if 6000 < v then 2 else 0
    (live.setSig { live.sig with phase := .off }).sig.phase = .off ∧ live.sig.phase ≠ .off ∧ band 5400 = live.pwr.band ∧ band 6200 ≠ live.pwr.band
    ∧ band 4600 ≠ live.pwr.band := by
  decide +kernel

/-- A stack below its level's entry, at a higher one, at its second sample of 105 °C, 100 ms below its exit and less; tripped
(TemperaturesAndTrips). -/
theorem witness_StackLevels :
    let y := live.stackAt 0
    let warm := live.setStack 0 { y with level := .breeze, belowSince := some 0 }
    y.level ≠ .trip ∧ (entryLevel 900).code > y.level.code ∧ ¬(entryLevel 500).code > y.level.code ∧ 2 ≤ 1 + 1
    ∧ exitBound (warm.stackAt 0).level ≠ none ∧ ((exitBound (warm.stackAt 0).level).any fun b => 500 < b.1) = true
    ∧ (warm.stackAt 0).belowSince = some 0 ∧ 0 + 100 * 1000000 ≤ warm.dom.time ∧ live.inReset = false
    ∧ ((live.setStack 0 { y with tripSamples := 1 }).stackAt 0).tripSamples + 1 = 2 := by
  decide +kernel

/-- A compute die that is cool, hot, and at its second sample of 110 °C; a stack tripped for 60 s and less; the power off and on
(TemperaturesAndTrips). -/
theorem witness_DieTemperatures :
    let t := live.setStack 0 { live.stackAt 0 with level := .trip, tripAt := 0, belowSince := none }
    let late := t.setDom { t.dom with time := 60000000000 }
    live.inReset = false ∧ (0 : Fin 6).val < 4 ∧ (live.dieAt 0).trip = false ∧ (live.dieAt 0).ceil = none
    ∧ ((live.setDieTherm 0 { live.dieAt 0 with tripSamples := 1 }).dieAt 0).tripSamples = 1
    ∧ (t.stackAt 0).level = .trip ∧ (t.stackAt 0).belowSince = none ∧ (late.stackAt 0).tripAt + 60 * 1000000000 ≤ late.dom.time
    ∧ t.dom.time < (t.stackAt 0).tripAt + 60 * 1000000000 ∧ live.sig.phase ≠ .off ∧ live.sig.phase ≠ .standby := by
  decide +kernel

/-! Signals, start-up, firmware, sessions and keys. -/

/-- The power off, in standby, held and running; a cold start (PowerTrainingAndReadiness). -/
theorem witness_Power :
    (live.setSig { live.sig with phase := .off }).sig.phase = .off ∧ (live.setSig { live.sig with phase := .standby }).sig.phase = .standby
    ∧ (live.setSig { live.sig with phase := .held }).sig.phase = .held ∧ live.sig.phase ≠ .off ∧ live.sig.phase ≠ .standby ∧ live.sig.phase ≠ .held := by
  decide +kernel

/-- A module that has all that READY asks for, running and starting; one that lacks it (PowerTrainingAndReadiness). -/
theorem witness_StartupReady :
    let s := live.setSig { live.sig with ready := false, portsTrained := BitVec.allOnes 8, stacksTrained := BitVec.allOnes 16 }
    let ready := fun (s : State) => s.dom.phase = .member ∧ s.flt.mode = .service ∧ s.sig.portsTrained = BitVec.allOnes 8
      ∧ (∀ k : Fin 16, s.sig.stacksTrained.getLsbD k = true ∨ (s.mem.die (k.val / 4)).retired = true) ∧ (s.dom.rank = s.dom.anchor → s.sig.visible = true)
    ready s ∧ s.sig.phase = .running ∧ s.sig.ready = false ∧ ready (s.setSig { s.sig with phase := .starting })
    ∧ ¬ready (s.setSig { s.sig with stacksTrained := 1 }) ∧ live.sig.ready = true := by
  decide +kernel

/-- A host port that trains with and without its clock, seen before and not; a group, a stack, a port and a bridge that have not trained
(PowerTrainingAndReadiness). -/
theorem witness_StartupTraining :
    let s := live.setSig { live.sig with hostRefclk := true, visible := false }
    s.inReset = false ∧ s.sig.hostRefclk = true ∧ (4 : Fin 8) ≤ 4 ∧ (16 : Fin 32).val = 16 ∧ s.sig.visible = false ∧ live.sig.visible = true
    ∧ (live.setHost { live.host with gen := 0 }).host.gen = 0 ∧ (s.setSig { s.sig with hostRefclk := false }).sig.hostRefclk = false
    ∧ live.sig.groupsReleased.getLsbD 11 = false ∧ live.sig.stacksTrained.getLsbD 15 = false ∧ live.sig.portsTrained.getLsbD 7 = false
    ∧ live.flt.withdrawn = false ∧ 2 * 3 + 1 ∉ live.sig.bridgesDown := by
  decide +kernel

/-- FAULT_N high, low, masked, and driven; low for 1 s and for less (SidebandSignals). -/
theorem witness_FaultInput :
    let low := live.setSig { live.sig with faultLow := true, faultSince := 0 }
    let masked := live.setSig { live.sig with faultMask := true }
    live.sig.phase ≠ .off ∧ live.sig.faultDrive = false ∧ live.sig.faultLow = false ∧ live.sig.faultMask = false ∧ masked.sig.faultMask = true
    ∧ low.sig.faultLow = true ∧ low.sig.faultSince + 1000000000 ≤ low.dom.time
    ∧ (low.setDom { low.dom with time := 999999999 }).dom.time < low.sig.faultSince + 1000000000
    ∧ (live.setSig { live.sig with faultDrive := true }).sig.faultDrive = true := by
  decide +kernel

/-- Edges 1 s apart and not, free-running and disciplined, at the second and third valid interval; 2 s without an edge and less; a second crossed and
not; a grid master and a module that is none (SidebandSignals). -/
theorem witness_Tick :
    let t := live.dom.time / 4 * 4
    let valid := fun (a : Nat) => 1000000000 ≤ t - a + 100000 ∧ t - a ≤ 1000100000
    let free := live.setSig { live.sig with tickFree := true, lastEdge := some 9000000000, tickRun := 2, tickSec := 9 }
    let kept := live.setSig { live.sig with tickFree := false, tickNs := 8000000000, tickSec := 10 }
    let follow := live.setDom { live.dom with coord := 1 }
    live.sig.phase ≠ .off ∧ valid 9000000000 ∧ ¬valid 0 ∧ free.sig.tickFree = true ∧ free.sig.lastEdge = some 9000000000 ∧ 2 ≤ free.sig.tickRun
    ∧ kept.sig.tickFree = false ∧ ¬valid kept.sig.tickNs ∧ kept.sig.tickNs + 2000000000 ≤ kept.dom.time
    ∧ live.dom.time < 9000000000 + 2000000000 ∧ free.sig.tickSec < free.dom.time / 1000000000 ∧ kept.dom.time / 1000000000 ≤ kept.sig.tickSec
    ∧ live.gridMaster = true ∧ follow.gridMaster = false := by
  decide +kernel

/-- A sideband port that is free, recovers, and is isolated, locked and not; recovery checked in time and too soon; straps that differ and not,
before READY and after (SidebandSignals). -/
theorem witness_Sideband :
    let rec_ := live.setSig { live.sig with recovering := true, stuckAt := 0 }
    let iso := live.setSig { live.sig with smbIso := true }
    live.sig.smbIso = false ∧ live.sig.recovering = false ∧ rec_.sig.recovering = true ∧ rec_.sig.stuckAt + 1090000 ≤ rec_.dom.time
    ∧ (rec_.setDom { rec_.dom with time := 1089999 }).dom.time < rec_.sig.stuckAt + 1090000 ∧ iso.sig.smbIso = true ∧ iso.sig.smbLock = false
    ∧ (live.setSig { live.sig with smbLock := true }).sig.smbLock = true
    ∧ (live.setSig { live.sig with anchorPin := !live.sig.anchorPin }).sig.pins ≠ live.sig.pins
    ∧ live.sig.ready = true ∧ (live.setSig { live.sig with ready := false }).sig.ready = false := by
  decide +kernel

/-- Components that verify and that do not; transferred and not (FirmwareSessionsAndKeys). -/
theorem witness_Firmware :
    let good : FwPayload := .controller ⟨0, 1, 0, 1, live.boot.mcSvn, 0⟩
    let held := live.setBoot { live.boot with transferred := [good] }
    live.sig.phase ≠ .off ∧ live.verifies good = true ∧ live.verifies (.package ⟨1, 1, 0, 1, 1, 0⟩) = false ∧ componentOf good = 0
    ∧ live.controllerRuns = true ∧ (live.setBoot { live.boot with mcA := none, mcB := none }).controllerRuns = false
    ∧ (live.boot.transferred.find? fun x => componentOf x == 0) = none
    ∧ (held.boot.transferred.find? fun x => componentOf x == 0) = some good := by
  decide +kernel

/-- Responders open and closed; a session more that fits and one too many; interfaces in each state (FirmwareSessionsAndKeys). -/
theorem witness_Sessions :
    let full := live.setBoot { live.boot with sessions := [⟨1, false⟩] }
    let locked := live.setBoot { live.boot with tdi := [(0, .locked)] }
    State.reset.spdmOpen 0 false = false ∧ live.spdmOpen 0 false = true ∧ live.spdmOpen 1 false = true ∧ live.spdmOpen 0 true = true
    ∧ (live.measurements[(7 : Fin 8).val - 1]?).isSome = true ∧ live.boot.entropyFail = false
    ∧ (live.boot.sessions.filter (·.fn == 0)).length < 4 ∧ (full.boot.sessions.filter (·.fn == 1)).length = 1
    ∧ live.fnExists 1 = true ∧ live.fnExists 2 = false ∧ live.tdiOf 0 = .unlocked ∧ locked.tdiOf 0 = .locked := by
  decide +kernel

/-- Keys with a session and without, during the tenant's reset and not; a debug unlock over a session of PF0; entropy lost before and not
(FirmwareSessionsAndKeys). -/
theorem witness_Keys :
    let s := live.setBoot { live.boot with sessions := [⟨1, false⟩, ⟨0, true⟩] }
    let resetting := live.setFlt { live.flt with tenantResets := [⟨0, none, 0, 0, 0, false⟩] }
    (resetting.flt.tenantResets.any (·.tenant == 0)) = true ∧ (live.flt.tenantResets.any (·.tenant == 0)) = false ∧ s.hasSession 0 = true
    ∧ live.hasSession 0 = false ∧ (∃ x ∈ s.boot.sessions, x.fn = 0) ∧ ¬(∃ x ∈ live.boot.sessions, x.fn = 0) ∧ live.boot.entropyFail = false
    ∧ (live.setBoot { live.boot with entropyFail := true }).boot.entropyFail = true ∧ live.keyInUse 0 0 = false := by
  decide +kernel

/-! Memory tiers and the host's window. -/

/-- A migration whose source is free and one under restoration; granules in service, of a peer, and of none; a restoration with an intact copy,
without one, and none (MemoryTiersAndHostWindow). -/
theorem witness_MemoryTiers :
    let g : Migration := ⟨(0, 1), none, ⟨.bulk, bulkBase⟩, []⟩
    let r : Restoration := ⟨0, 1, 0, []⟩
    let moving := mapped.setMem { mapped.mem with migrations := [g] }
    let held := moving.setMem { moving.mem with restorations := [r] }
    let e := moving.mem.unit (0, 1)
    let healing := mapped.setMem { mapped.mem with restorations := [r] }
    let copied := healing.setMem { healing.mem with units := [((0, 1), ⟨.whole ⟨.hbm, 0⟩, 0, 0, 0, .none, none, some bulkBase, none⟩)] }
    (moving.mem.migrations.find? (·.key == (0, 1))) = some g ∧ e.isSome = true
    ∧ (e.any fun e => e.backing.extents.any fun (a, n) => moving.mem.restorations.any fun r => r.meets a n) = false
    ∧ (e.any fun e => e.backing.extents.any fun (a, n) => held.mem.restorations.any fun r => r.meets a n) = true
    ∧ (live.mem.migrations.find? (·.key == (0, 1))) = none ∧ live.dpaTier (0 * 256) = some .hbm ∧ live.dpaTier (peerBase / 256 * 256) = some .peer
    ∧ live.dpaTier (2 ^ 60 * 256) = none ∧ (live.mem.restorations.find? (·.granule == 0)) = none
    ∧ (healing.mem.restorations.find? (·.granule == 0)) = some r ∧ healing.intactCopy (0 * 256) = none ∧ (copied.intactCopy (0 * 256)).isSome = true
    ∧ (healing.restore r (zeros 256)).isSome = true := by
  decide +kernel

/-- A row due, with its repair rows used up or not, and one that is not; dies with a request, retired, draining, retiring; a region that is empty and
one that is not; a port in service and not (MemoryTiersAndHostWindow). -/
theorem witness_RowRepair (pc : Fin 1024) (row : Nat) :
    let bank := (pc.val, Config.internalDatum row)
    let s := live.setMem { live.mem with err := { live.mem.err with repairDue := [(pc.val, row)], repaired := [(bank, Config.repairRows pc)] } }
    (pc.val, row) ∉ live.mem.err.repairDue ∧ (pc.val, row) ∈ s.mem.err.repairDue ∧ Config.repairRows pc ≤ tgetD s.mem.err.repaired bank 0 := by
  intro bank s
  refine ⟨?_, ?_, ?_⟩
  · simp [live, State.reset, MemState.reset]
  · simp [s, State.setMem]
  · simp [s, State.setMem, tgetD, tget]

theorem witness_Retirement :
    let dying := fun (s : State) (retiring : Bool) => s.setDie 0 { s.mem.die 0 with draining := true, request := some (3, 1), retiring := retiring }
    let gone := live.setDie 0 { live.mem.die 0 with retired := true }
    let on := live.setPort 7 ⟨true, true, 1, 0, 512, false, false⟩
    (live.mem.die 0).request = none ∧ ((dying live false).mem.die 0).request = some (3, 1) ∧ ((dying live false).mem.die 0).draining = true
    ∧ ((dying live false).mem.die 0).retiring = false ∧ ((dying live true).mem.die 0).retiring = true ∧ (dying live false).regionEmpty 0 = true
    ∧ (dying mapped false).regionEmpty 0 = false ∧ (gone.mem.die 0).retired = true ∧ (live.mem.die 0).retired = false
    ∧ (live.mem.die 0).draining = false ∧ on.mem.ports[(7 : Fin 8)].inService = true ∧ live.mem.ports[(0 : Fin 8)].inService = false := by
  decide +kernel

/-- Offsets inside and outside the window; an interface in ERROR; memory mapped and not, poisoned, and under restoration
(MemoryTiersAndHostWindow). -/
theorem witness_HostWindow :
    let err := mapped.setBoot { mapped.boot with tdi := [(0, .error)] }
    let poisoned := mapped.setMem (mapped.mem.mark 0)
    let healing := mapped.setMem { mapped.mem with restorations := [⟨0, 1, 0, []⟩] }
    mapped.fnExists 0 = true ∧ 0x200000 + 4 ≤ 2 ^ mapped.host.bar4Log ∧ State.reset.fnExists 0 = false ∧ err.tdiError 0 = true
    ∧ mapped.tdiError 0 = false ∧ mapped.mem.unmapped 0 (mapped.bar4Tva 0 0x200000) 4 = none
    ∧ (mapped.mem.unmapped 0 (mapped.bar4Tva 0 0) 4).isSome = true ∧ healing.restoring 0 (mapped.bar4Tva 0 0x200000) 4 = true
    ∧ mapped.restoring 0 (mapped.bar4Tva 0 0x200000) 4 = false ∧ poisoned.poisonedRange 0 (mapped.bar4Tva 0 0x200000) 4 = true
    ∧ mapped.poisonedRange 0 (mapped.bar4Tva 0 0x200000) 4 = false := by
  decide +kernel

/-! Placement, pools, generation. -/

/-- The status of a refusal. -/
def errOf {α : Type} : Except Nat α → Option Nat
  | .error e => some e
  | .ok _ => none

/-- Every unit's heat; allocations of nothing, of too much, that fit; ranges of units that are there, misaligned, not there; a pinned range in HBM, one
to bring in, one beyond the reservation; reports at good and bad operands (PlacementOfMemory). -/
theorem witness_Placement :
    let big := fields [(8, 2 ^ 54 + 1), (8, 0)]
    let s := mapped
    let resv := s.modTp 0 id
    let bulk := live.setMem { (live.setPort 0 ⟨true, true, 1, 0, 512, false, false⟩).mem with units := [((0, 1), ⟨.whole ⟨.bulk, bulkBase⟩, 0, 0, 0, .none, none, none, none⟩)] }
    2 ^ 54 < field 0 8 big ∧ field 0 8 (fields [(8, 4096)]) ≤ 2 ^ 54
    ∧ (s.unitsAt 0 0x200000 0x200000).toOption = some [(0, 1)] ∧ errOf (s.unitsAt 0 0x400000 0x200000) = some 0x05
    ∧ errOf (s.unitsAt 0 1 0x200000) = some 0x02 ∧ errOf (s.unitsAt 0 0x200000 0x200001) = some 0x02 ∧ s.broughtIn [(0, 1)] = true ∧ bulk.broughtIn [(0, 1)] = false ∧ (mapped.bringIn [(0, 2)]).isSome = true
    ∧ resv.resvBytes 0 < 2 * 2 ^ 60 ∧ (s.output (aCmd 0x103 []) 0x200000 (s.placeReport 0 0x200000 1)).toOption.isSome = true
    ∧ (65536 : Nat) ≤ 65536 ∧ 65536 < 65537 := by
  decide +kernel

/-- A placement ends in one of the three ways that MEM_ALLOC tells apart (PlacementOfMemory). -/
theorem witness_placed (r : AllocRes) : (∃ s, r = .ok s) ∨ (∃ s, r = .wait s) ∨ r = .full := by
  cases r with
  | ok s => exact .inl ⟨s, rfl⟩
  | wait s => exact .inr (.inl ⟨s, rfl⟩)
  | full => exact .inr (.inr rfl)

/-- The model of no tensors with version 1 published, and its layout. -/
def ready1 : Model := { aModel with published := some 1, layouts := [⟨1, false, false, 0, [], 0⟩], images := [some [], some [], some [], none], maxContext := 100 }

/-- Generation of the first tenant on the first module, of that model. -/
def generating : State :=
  let s : State := { mapped with turn := { mapped.turn with models := [((0, 3), ready1)], phases := [(0, .generate)] } }
  s.modTp 0 fun x => { x with groups := [[0]], pools := ⟨[], [0], [], [], []⟩ }

/-- Leases that are none, loading, active and releasing; a grant that is possible and one that is refused (FoilLeases). -/
theorem witness_FoilLeases :
    let l := generating.leaseOf 0
    let leased := fun (st : LeaseState) (sw : Option (Nat × Nat)) => generating.setLease 0 { l with state := st, model := 3, version := 1, switchTo := sw }
    l.state = .none ∧ (generating.leaseRefusal 0 3 0).toOption = some 1 ∧ errOf (generating.leaseRefusal 0 4 0) = some stModelUnknown
    ∧ ((leased .active none).leaseOf 0).state = .active ∧ ((leased .active none).leaseOf 0).switchTo = none ∧ ((leased .active none).leaseOf 0).model = 3
    ∧ ((leased .active none).leaseOf 0).version = 1 ∧ ((leased .active none).leaseRefusal 0 3 0).toOption = some 1
    ∧ ((leased .releasing none).leaseOf 0).state = .releasing ∧ ((leased .loading none).leaseOf 0).state = .loading
    ∧ ((leased .loading none).leaseOf 0).streamed = false ∧ ((leased .active (some (3, 1))).leaseOf 0).switchTo = some (3, 1)
    ∧ ((leased .active none).leaseOf 0).units.any (leased .active none).mem.leaseBad.contains = false := by
  decide +kernel

/-- A module that joins; stage times even and not, at the third time; a move that is due and one that becomes due; cache use on each side of its bounds;
an allocation that waits for leases and one that does not (PoolsAllocationAndActivation). -/
theorem witness_Pools :
    let p := fun (f : TenantPlace → TenantPlace) => generating.modTp 0 f
    let joining := p fun x => { x with joining := [(5, .dec)] }
    let staged := p fun x => { x with stages := [4, 4], stageCount := 2 }
    let two := p fun x => { x with imbalance := 2, pools := ⟨[1, 2, 3, 4, 5, 6], [7, 8, 9, 10, 11, 12], [], [], []⟩, groups := [[7], [8], [9], [10], [11], [12]] }
    let due := p fun x => { x with moveDue := some ([1], .pre, .dec) }
    let cacheOf := p fun x => { x with cacheHigh := 2, pools := ⟨[1, 2, 3], [0], [], [], []⟩ }
    let alloc := (p fun x => { x with pendingAlloc := some 3 })
    ((generating.tp 0).joining.find? (·.1 == 5)) = none ∧ ((joining.tp 0).joining.find? (·.1 == 5)) = some (5, .dec)
    ∧ (staged.tp 0).stages.length = 2 ∧ 4 * 5 ≤ 5 * 4 ∧ 5 * 4 < 4 * 6 ∧ 3 ≤ (staged.tp 0).stageCount + 1 ∧ (generating.tp 0).stageCount + 1 < 3
    ∧ 1 < (staged.tp 0).stages.getD 0 0 ∧ generating.phaseOf 0 = .generate ∧ (two.tp 0).moveDue = none ∧ 3 ≤ (two.tp 0).imbalance + 1
    ∧ (two.leaseOf 0).state = .none ∧ ((two.rebalanceTarget 0 100 10).any fun x => !x.1.isEmpty) = true
    ∧ (due.tp 0).moveDue = some ([1], .pre, .dec) ∧ due.overGroups 0 [1] .pre .dec = false
    ∧ 9 * 10 ≤ 10 * 9 ∧ 10 ≤ 9 * 2 ∧ 10 * 9 < 10 * 10 ∧ 3 ≤ (cacheOf.tp 0).cacheHigh + 1
    ∧ (let rs := (cacheOf.leavingOrder 0 (cacheOf.tp 0).width (cacheOf.tp 0).pools.prefillPool
        (poolGroups (cacheOf.tp 0).width (cacheOf.tp 0).pools.prefillPool)).take 1
      cacheOf.poolMin 0 .pre < (cacheOf.tp 0).pools.prefillPool.length ∧ rs ≠ [] ∧ cacheOf.overGroups 0 rs .pre .cache = false)
    ∧ (generating.tp 0).pendingAlloc = none ∧ (alloc.tp 0).pendingAlloc = some 3 ∧ alloc.phaseOf 0 ≠ .learn
    ∧ (alloc.applyAlloc 0 3).phaseOf 0 ≠ .learn := by
  decide +kernel

/-- Tensors within and beyond the tenant's HBM; choices that stay, that leave KEEP, and that come back to it (PoolsAllocationAndActivation). -/
theorem witness_ActivationPolicy :
    let x : SavedTensor := ⟨true, .keep, none, 0, 0, 0⟩
    let s := generating.modTp 0 fun p => { p with saved := [x] }
    (generating.tp 0).saved = [] ∧ (s.tp 0).saved = [x] ∧ x.auto = true ∧ x.choice = .keep ∧ ActChoice.keep = x.choice ∧ ActChoice.offload ≠ x.choice ∧ ({ x with choice := .offload } : SavedTensor).choice ≠ .keep := by
  decide +kernel

/-- A request of the first tenant in a state. -/
def aReq (st : ReqState) : GenReq := { GenReq.new 0 7 false 3 1 [5] 0x200000 [0] 0 0 0 0 with state := st }

def withReq (r : GenReq) : State := generating.setGen { generating.gen with reqs := [r] }

/-- A submission that passes each check in turn and finds a home and a queue, and one that fails each (GenerationCommands). -/
theorem witness_GenSubmit :
    let ps := fields [(8, 7), (4, 3), (4, 0), (8, 0x200000), (4, 1), (4, 1), (8, 0x200040)] ++ zeros 20 ++ leBytes 4 0x3F800000 ++ zeros 16
    let k := aCmd 0x300 ps
    let x := generating.genModel 0 3 [0, 1]
    let long := aCmd 0x300 (fields [(8, 7), (4, 3), (4, 0), (8, 0x200000), (4, 99), (4, 2), (8, 0x200040)] ++ zeros 20 ++ leBytes 4 0x3F800000 ++ zeros 16)
    generating.phaseOf 0 = .generate ∧ live.phaseOf 0 ≠ .generate ∧ generating.phaseWaits 0 = false ∧ x.isSome = true ∧ bits (k.u 0xC 4) 2 2 ≠ 1
    ∧ (x.any fun x => (x.resolve k.verSel).toOption == some 1) = true ∧ generating.genModel 0 4 [0, 1] = none ∧ ((withReq (aReq .queued)).reqAt 0 (k.u 0 8)).isSome = true
    ∧ generating.reqAt 0 (k.u 0 8) = none ∧ (x.any fun x => submitOperandsOk k x) = true ∧ (x.any fun x => !submitOperandsOk (aCmd 0x300 []) x) = true
    ∧ (x.any fun x => submitOperandsOk long x && x.maxContext < long.u 0x18 4 + long.u 0x1C 4) = true
    ∧ generating.mem.unmapped 0 (k.u 0x10 8) (4 * k.u 0x18 4) = none ∧ generating.mem.unmapped 0 (k.u 0x20 8) (64 + 16 * k.u 0x1C 4) = none
    ∧ (generating.readTva (some aRef) 0 (k.u 0x10 8) (4 * k.u 0x18 4)).toOption.isSome = true ∧ generating.chooseHome 0 (generating.tp 0).groups = some [0]
    ∧ generating.chooseHome 0 [] = none ∧ generating.chooseQueue 0 [0] = some 0 ∧ bit (k.u 0xC 4) 0 = false := by
  decide +kernel

/-- A submission's header written at OUT; a request known and unknown, parked and not; phases each way; a score with its model; statistics
(GenerationCommands). -/
theorem witness_GenOthers :
    let k := aCmd 0x303 (fields [(8, 7), (8, 0x200000), (4, 1), (4, 0), (8, 0x200040)])
    let s : State := { generating with turn := { generating.turn with phases := [(0, .score)], scoring := [(0, (3, 1))] } }
    (generating.output (aCmd 0x300 []) 0x200040 (aReq .queued).header).toOption.isSome = true ∧ generating.reqAt 0 7 = none
    ∧ (withReq (aReq .parked)).reqAt 0 7 = some (aReq .parked) ∧ aRef ∉ (aReq .parked).cancels ∧ (aReq .queued).state ≠ .parked
    ∧ generating.cfg 0 0x0300 ≠ 1 ∧ ((withReq (aReq .queued)).modReq 0 7 fun x => { x with cancels := x.cancels ++ [aRef], cancelDue := true }).cfg 0 0x0300 ≠ 1
    ∧ (generating.gen.phaseJobs.any (·.cmd == aRef)) = false ∧ s.phaseOf 0 = .score ∧ (generating.modelAt 0 3).any rewardOk = true
    ∧ (generating.modelAt 0 4).any rewardOk = false ∧ tget s.turn.scoring 0 = some (3, 1) ∧ (s.modelAt 0 3).isSome = true ∧ s.phaseWaits 0 = false
    ∧ 1 ≤ k.u 0x10 4 ∧ k.u 0x10 4 ≤ ready1.maxContext ∧ k.u 0x18 8 % 64 = 0 ∧ k.u 8 8 % 4 = 0 ∧ s.mem.unmapped 0 (k.u 8 8) (4 * k.u 0x10 4) = none
    ∧ s.mem.unmapped 0 (k.u 0x18 8) 128 = none ∧ (s.readTva (some aRef) 0 (k.u 8 8) (4 * k.u 0x10 4)).toOption.isSome = true
    ∧ s.chooseHome 0 (s.tp 0).groups = some [0] ∧ s.queueLength 0 < 8192
    ∧ (generating.output (aCmd 0x304 []) 0x200000 (generating.genStats 0)).toOption.isSome = true := by
  decide +kernel

/-- Cancels due and not, requests ended and live; a phase job with requests left and without; steps of a group that prefills, decodes and scores
(GenerationSteps). -/
theorem witness_GenSteps :
    let j : PhaseJob := ⟨aRef, 0, true, 3⟩
    let waits := generating.setGen { generating.gen with phaseJobs := [j] }
    let pre := generating.modTp 0 fun x => { x with pools := { x.pools with prefillPool := [1] } }
    let s := generating.setPhase 0 .score
    (withReq { aReq .decode with cancelDue := true }).reqAt 0 7 = some { aReq .decode with cancelDue := true } ∧ (aReq .decode).cancelDue = false
    ∧ (aReq .complete).state.terminal = true ∧ (aReq .decode).state.terminal = false ∧ (generating.gen.phaseJobs.find? (·.tenant == 0)) = none
    ∧ (waits.gen.phaseJobs.find? (·.tenant == 0)) = some j ∧ (waits.gen.reqs.any (·.tenant == 0)) = false ∧ ((withReq (aReq .decode)).gen.reqs.any (·.tenant == 0)) = true
    ∧ (waits.modelAt 0 3).any rewardOk = true ∧ ((poolGroups (pre.tp 0).width (pre.tp 0).pools.prefillPool).find? fun g => g.head? == some 1) = some [1]
    ∧ ((pre.stallCheck 0).here [1] && (pre.stallCheck 0).gen.stalled.contains 0) = false
    ∧ ((generating.tp 0).groups.find? fun g => g.head? == some 0) = some [0] ∧ generating.phaseOf 0 ≠ .score ∧ s.phaseOf 0 = .score := by
  decide +kernel

/-- The anchor and another module; updates that wait; items for this module and for others; requests and pools that wait past the limit and not
(OutputShippingStarvation). -/
theorem witness_Output :
    let h : PageHeader := ⟨0, 0, 3, 7, 1, 0, 0, 0, 0, 0, 0⟩
    let h2 : PageHeader := ⟨0, 0, 3, 7, 1, 0, 0, 2, 1, 0, 0⟩
    let late := withReq { aReq .queued with since := 0 }
    let soon := late.setDom { late.dom with time := 5 }
    let past := late.setDom { late.dom with time := 10 ^ 15 }
    let ran := past.setGen { past.gen with runs := [⟨0, 0, 0, 0, false⟩] }
    live.dom.rank = live.dom.anchor ∧ (live.setDom { live.dom with anchor := 1 }).dom.rank ≠ 1 ∧ live.gen.outQueue = []
    ∧ ((withReq (aReq .decode)).reqAt h.tenant h.tag).any (!·.state.terminal) = true ∧ h2.kind ≠ 0 ∧ h2.kind ≠ 3 ∧ h2.dst = live.dom.rank ∧ h2.src ≠ live.dom.rank
    ∧ late.reqAt 0 7 = some { aReq .queued with since := 0 }
    ∧ 0 + past.cfg 0 0x0304 * 1000000 < past.dom.time ∧ ¬(0 + soon.cfg 0 0x0304 * 1000000 < soon.dom.time) ∧ (aReq .decode).state ≠ .queued
    ∧ (aReq .decode).state ≠ .shipping ∧ (ran.tp 0).pools.decodePool ≠ [] ∧ (ran.gen.reqs.filter fun r => r.state == .queued) ≠ []
    ∧ (ran.gen.runs.filter fun p => p.tenant == 0 && (ran.tp 0).pools.decodePool.contains p.rank) ≠ [] ∧ (ran.gen.runs.any (·.starved)) = false
    ∧ (live.tp 0).pools.prefillPool = [] := by
  decide +kernel

/-- A tensor that the tenant's HBM does not hold (PoolsAllocationAndActivation). -/
theorem witness_overBudget (s : State) (h : s.resvBytes 0 + s.reservable < 2 ^ 60) :
    (s.resvBytes 0 - (s.hbmUse 0 - 2 ^ 60)) + min s.hbmFree s.headroom.toNat < 2 ^ 60 := by
  have h1 : s.hbmFree ≤ s.reservable := Nat.sub_le _ _
  omega

theorem witness_overBudget_here : generating.resvBytes 0 + generating.reservable < 2 ^ 60 := by
  decide +kernel

/-- An arena that has a page to take (OutputShippingStarvation). -/
theorem witness_takePage :
    let u := generating.arenaBase 0 3 / unitBytes
    (State.takePage (generating.setMem { generating.mem with units := [((0, u), ⟨.whole ⟨.hbm, 0⟩, 0, 0, 0, .none, none, none, none⟩)] }) 0 3).isSome = true := by
  intro u
  unfold State.takePage
  rw [Option.isSome_map]
  decide +kernel

/-- A run whose drafts agree to the end, and one that stops at a draw (AcceptedRun). -/
theorem witness_AcceptedRun :
    ([(5, 0), (6, 0)] : List (Nat × Word)).length = ([5] : List Nat).length + 1 ∧ 0 < ([5] : List Nat).length := by
  decide

/-! Learning. -/

/-- The learning side of a model with one member, this module, in a phase. -/
def learner (p : LearnPhase) : Learn := { Learn.start [0] 0x200000 [] with phase := p, planned := 1 }

/-- The first tenant with model 3 whose learning side is that, its setup without groups. -/
def learning (l : Learn) : State :=
  { mapped with turn := { mapped.turn with models := [((0, 3), { aModel with learn := some l })] } }

/-- Options without groups, one parameter group of SIGN_MOMENTUM, and an update that waits for READY and DONE of its members. -/
def aSetup : LearnSetup := ⟨false, false, [], 0, 0, 0, [], [], [⟨2, List.replicate 16 0⟩]⟩
def anUpdate (readys : List ReadyRec) (dones : List DoneRec) : UpdateJob := ⟨aRef, 0x3F800000, 0x200000, 0, false, readys, dones, 0, 0, 0, 0, 0, 0⟩

/-- Models that are unknown, lost, without a spare, and that take a setup; a record that is good and one that is not (LearningCommandsAndSteps). -/
theorem witness_LearnSetup :
    let ps := fields [(4, 3), (1, 1), (1, 0), (1, 0), (1, 0)] ++ zeros 56 ++ leBytes 2 1 ++ zeros 78
    let k := aCmd 0x400 ps
    let s := learning (learner .idle)
    errOf (s.learnGate 0 4) = some stModelUnknown ∧ errOf ((learning (learner .lost)).learnGate 0 3) = some stLearnStateLost
    ∧ errOf ((learning { learner .idle with noSpare := true }).learnGate 0 3) = some stNoSpare
    ∧ (s.learnGate 0 3).toOption.isSome = true ∧ k.learnModel = 3 ∧ setupHeaderOk k = true ∧ setupHeaderOk (aCmd 0x400 []) = false
    ∧ (s.readTva (some aRef) 0 (k.u 0x28 8) 0).toOption.isSome = true
    ∧ (match s.programsAt (some aRef) 0 (k.u 0x18 8) with | .ok (.ok ps) => ps.isEmpty | _ => false) = true
    ∧ (match s.programsAt (some aRef) 0 0x200000 with | .ok (.error o) => o == 0 | _ => false) = true
    ∧ s.setupOk 0 aModel aSetup = true ∧ s.setupOk 0 aModel { aSetup with gradGroups := [9] } = false := by
  decide +kernel

/-- An update's operands that are good and not; steps that are idle, open and closed; the last version (LearningCommandsAndSteps). -/
theorem witness_LearnUpdate :
    let k := aCmd 0x402 (fields [(4, 3), (4, 0x3F800000), (8, 0x200000), (8, 0), (4, 0)])
    let l := { learner .closed with setup := some aSetup }
    ((learning l).learnGate 0 3).toOption.isSome = true ∧ l.update = none
    ∧ (atLeast0 (BitVec.ofNat 32 (k.u 4 4)) = true ∧ k.u 8 8 % 64 = 0 ∧ l.setup.isSome = true)
    ∧ ¬atLeast0 (BitVec.ofNat 32 ((aCmd 0x402 (leBytes 8 0xBF80000000000003)).u 4 4)) = true ∧ l.failedRerun = none ∧ l.rerunAt = none
    ∧ l.takeovers = [] ∧ l.version ≠ 0xFFFFFFFE ∧ { l with version := 0xFFFFFFFE }.version = 0xFFFFFFFE
    ∧ (learning l).mem.unmapped 0 (k.u 8 8) 256 = none := by
  decide +kernel

/-- A gradient step in and out of its ranges, that waits, that is refused, and that may start; a generation step's flag (LearningCommandsAndSteps). -/
theorem witness_LearnStep :
    let ps := fun (flags : Nat) => fields [(4, 3), (4, flags), (8, 0x200000), (4, 1), (4, 0), (8, 1)] ++ zeros 32
    let first := fetched 0x401 (ps 3)
    let next := fetched 0x401 (ps 2)
    let s := withCmd (learning (learner .idle)) first
    (s.syncStride.learnGate 0 3).toOption.isSome = true ∧ first.u 0x10 4 ≠ 0 ∧ first.u 0x20 2 ≤ 256 ∧ first.u 0x22 2 ≤ 3904
    ∧ (aCmd 0x401 []).u 0x10 4 = 0 ∧ first.gradient = true ∧ (fetched 0x401 (ps 8)).gradient = false ∧ (fetched 0x401 (ps 4)).gradient = false
    ∧ bit (fetched 0x401 (ps 4)).learnFlags 3 = false ∧ s.stepWaits first (learner .idle) = false ∧ s.stepWaits first (learner .preparing) = true
    ∧ bit next.learnFlags 0 = false ∧ bit first.learnFlags 0 = true ∧ s.stepRefusal first (learner .idle) = none := by
  decide +kernel

/-- A step's tiles free on its members; no member; its image; its part elsewhere (LearningCommandsAndSteps). -/
theorem witness_LearningStepRuns :
    let k := fetched 0x401 (fields [(4, 3), (4, 2), (8, 0x200000), (4, 1), (4, 0), (8, 1)] ++ zeros 32)
    let s := { withImage with turn := (learning (learner .opened)).turn, flt := { withImage.flt with tileMap := 1 } }
    let tiles := (List.range 160).filter fun i => s.flt.tileMap.getLsbD i
    tiles ≠ [] ∧ (learner .opened).members ≠ [] ∧ s.tilesOk aRef ((learner .opened).members.flatMap fun r => tiles.map fun i => (r, i)) = true
    ∧ (match s.imageAt (some aRef) 0 (k.u 8 8) with | .ok (.ok img) => img.instrs.length == 1 | _ => false) = true
    ∧ (learner .opened).planned ≠ 0 ∧ (learner .opened).phase ≠ .idle ∧ (s.readTva (some aRef) 0 (k.u 0x28 8) 0).toOption = some []
    ∧ k.gradient = true ∧ k.u 0x20 2 = 0 ∧ ({ learner .opened with members := [] } : Learn).members = []
    ∧ (s.modelAt 0 (field 0 4 k.params)).isSome = true ∧ bit (field 4 4 k.params) 3 = false := by
  decide +kernel

/-- A model under update: PREPARE of its version and of another; READY and DONE of a member, new, twice, and of no member; past the time-out and
before it; a GO record new and old; a swept member (UpdateSweepAndRecovery). -/
theorem witness_UpdateProtocol :
    let l := learner .closed
    let r : ReadyRec := ⟨0, 0, 0, 0, 0⟩
    let d : DoneRec := ⟨0, [], 0, 0, 0, 0⟩
    let g : GoRecord := ⟨0, 1, 0, 0x3F800000, aSetup⟩
    let s := learning { learner .preparing with update := some (anUpdate [] []), setup := some aSetup }
    ((learning l).modelAt 0 3).isSome = true ∧ l.version = 0 ∧ l.phase ≠ .updating ∧ l.phase ≠ .lost ∧ l.prepared = none ∧ l.update = none
    ∧ r.rank ∈ (learner .preparing).members ∧ ((anUpdate [] []).readys.any (·.rank == r.rank)) = false ∧ ((anUpdate [r] []).readys.any (·.rank == r.rank)) = true
    ∧ (5 : Nat) ∉ (learner .preparing).members ∧ ((anUpdate [] []).dones.any (·.rank == d.rank)) = false ∧ (learner .updating).phase = .updating
    ∧ (anUpdate [] []).tPrepare + s.turn.prepareMs * 1000000 ≤ s.dom.time ∧ (∃ r ∈ (learner .preparing).members, s.dom.members.getLsbD r = true
      ∧ ((anUpdate [] []).readys.any (·.rank == r)) = false)
    ∧ g.version = (learner .preparing).version ∧ l.go = none ∧ s.dom.rank ∈ l.members ∧ ({ l with go := some g, swept := true } : Learn).swept = true := by
  decide +kernel

/-- A sweep's next block, and a block that is not it; a stopped sweep, one that did not stop; a model with a buddy and without; a takeover to copy;
a re-run that goes on and that ends (UpdateSweepAndRecovery). -/
theorem witness_SweepAndRecovery :
    let g : GoRecord := ⟨0, 1, 0x3F800000, 0x3F800000, { aSetup with groupMap := [0] }⟩
    let m : Model := { aModel with tensors := [⟨1, 1, false, 1, 0, 0, 0⟩] }
    let l := { learner .updating with go := some g, shards := [⟨0x800000, 0x800100, 0x800200⟩] }
    let s := learning l
    let two : Learn := { learner .closed with members := [0, 1], setup := some { aSetup with buddy := true } }
    l.shards[0]? = some ⟨0x800000, 0x800100, 0x800200⟩ ∧ l.stopped = false ∧ l.swept = false ∧ l.undo = []
    ∧ s.nextBlock 0 m l g.setup (s.blockDie 0 m l g.setup 0 0) = some (0, 0)
    ∧ s.nextBlock 0 m l g.setup (s.blockDie 0 m l g.setup 0 9) ≠ some (0, 9)
    ∧ s.blockReadable 0 m l.n 0 ⟨0x800000, 0x800100, 0x800200⟩ (m.blockOf l.n 0 (groupOf g.setup 0) 0).2.2 = true
    ∧ ({ l with stopped := true } : Learn).stopped = true ∧ (learner .idle).go = none ∧ two.buddied = true ∧ two.ckptVersion ≠ some two.version
    ∧ (learner .idle).buddied = false ∧ (0 : Nat) ∈ l.members ∧ l.phase ≠ .lost
    ∧ (({ l with takeovers := [⟨1, 0, 2, false, false⟩] } : Learn).takeovers.find? fun x => !x.copied) = some ⟨1, 0, 2, false, false⟩
    ∧ (l.takeovers.find? fun x => !x.copied) = none ∧ ({ l with rerunAt := some 0, kept := [⟨[], 1⟩] } : Learn).kept[0]? = some ⟨[], 1⟩
    ∧ 0 + 1 < ({ l with kept := [⟨[], 1⟩, ⟨[], 1⟩] } : Learn).kept.length := by
  decide +kernel

/-! Models and turns. -/

/-- A model's record that is good, not good, with a table refused, and one that exists; images that are absent (ModelAndTurnCommands). -/
theorem witness_ModelCreate :
    let ps := fields [(4, 4), (1, 1), (1, 0), (1, 0), (1, 0), (8, 0), (4, 1), (2, 1), (2, 1), (1, 0), (1, 1), (2, 32), (2, 32), (2, 0), (2, 0), (2, 1), (4, 100),
      (4, 1000)] ++ zeros 4 ++ leBytes 8 0x200000 ++ leBytes 8 0x200000
    let k := aCmd 0x200 ps
    let tbl := leBytes 4 1 ++ leBytes 4 32 ++ zeros 24
    (generating.modelAt 0 3).isSome = true ∧ generating.modelAt 0 (k.u 0 4) = none ∧ createOk k.params = true ∧ createOk [] = false
    ∧ (generating.readTva (some aRef) 0 (k.u 0x30 8) 32).toOption.isSome = true ∧ (generating.readTva (some aRef) 0 (k.u 0x38 8) 32).toOption.isSome = true
    ∧ createRefusal k.params [] ≠ none
    ∧ (match generating.stepImages (some aRef) 0 [0, 0, 0, 0] with | .ok (.ok xs) => xs == [none, none, none, none] | _ => false) = true
    ∧ (generating.addModel 0 4 (modelOf k.params tbl [])).toOption.isSome = true := by
  decide +kernel

/-- A load that is valid, one that is not, one while a step is open, one at the version limit; holds; a query's record; deletion of a model in use
and of one that is not (ModelAndTurnCommands). -/
theorem witness_ModelOthers :
    let k := fun (target v : Nat) => aCmd 0x201 (fields [(4, 3), (1, target), (1, 0), (2, 0), (4, v), (4, 0), (8, 2 ^ 56)])
    let m := { aModel with learn := some (learner .opened) }
    let full := { ready1 with layouts := (List.range 64).map fun i => ⟨i + 1, false, false, 0, [], 0⟩ }
    (generating.host.relay.any (·.cmd == aRef)) = false ∧ (generating.modelAt 0 3).isSome = true ∧ (k 2 5).u 4 1 = 2 ∧ ready1.highest < (k 2 5).u 8 4
    ∧ isHostTva ((k 2 5).u 0x10 8) = true ∧ (k 2 0).u 8 4 = 0 ∧ m.learn.any (fun l => l.phase != .idle && l.phase != .lost) = true
    ∧ generating.versionLimit 0 3 ready1 = none ∧ (generating.versionLimit 0 3 full).isSome = true ∧ ready1.hasLayout 1 = true ∧ ready1.hasLayout 2 = false
    ∧ 8 ≤ ({ ready1 with layouts := [⟨1, false, false, 8, [], 0⟩] } : Model).layouts.foldl (fun a l => a + l.holds) 0
    ∧ (({ ready1 with layouts := [⟨1, false, false, 8, [], 0⟩] } : Model).layouts.any fun l => l.version == 1 && l.holds != 0) = true
    ∧ (ready1.layouts.any fun l => l.version == 1 && l.holds != 0) = false
    ∧ (generating.output (aCmd 0x205 []) 0x200000 (generating.versionRecord 0 3 ready1)).toOption.isSome = true
    ∧ (withReq (aReq .decode)).modelBusy 0 3 = true ∧ ({ generating with turn := { generating.turn with models := [((0, 3), aModel)], phases := [] } } : State).modelBusy 0 3 = false := by
  decide +kernel

/-- Freezes of models that are unknown, without a learning side, lost, without a spare, during an update, of another version, of the published one, and
that start; thaws in each phase (ModelAndTurnCommands). -/
theorem witness_TurnCommands :
    let s := learning (learner .idle)
    let m := { aModel with learn := some (learner .idle) }
    let p := s.planOf 0 3 m 0 false false
    (withCmd s (aCmd 0x202 [3])).overlapped (aCmd 0x202 [3]) = false ∧ s.turn.freezes = [] ∧ s.phaseOf 0 = .learn ∧ s.modelAt 0 4 = none ∧ s.modelAt 0 3 = some m
    ∧ ready1.learn = none ∧ ((ready1.layouts.filter (!·.staging)).map (·.version)).max? = some 1 ∧ ready1.published = some 1
    ∧ ((aModel.layouts.filter (!·.staging)).map (·.version)).max? = none ∧ (learner .idle).noSpare = false ∧ m.published ≠ some (learner .idle).version
    ∧ m.layout 0 = none ∧ s.versionLimit 0 3 m = none
    ∧ (match s.startFreeze aRef p with | .wait _ => true | _ => false) = true
    ∧ (match s.startFreeze aRef { p with model := 4 } with | .fail st 0 => st == stModelUnknown | _ => false) = true
    ∧ (s.beginFreeze aRef 1 p).toOption.isSome = true ∧ errOf (s.beginFreeze aRef 1 { p with model := 4 }) = some stModelUnknown
    ∧ (1 : Nat) ≠ s.dom.rank ∧ s.turn.thaws = [] ∧ generating.phaseOf 0 = .generate ∧ (generating.setPhase 0 .freezing).phaseOf 0 = .freezing := by
  decide +kernel

/-- A Freeze with this module among its receivers; units of members and of others; LANDED at the coordinator and elsewhere; PUBLISH ready and not; a
thaw that waits; a drain past its limit and before; a layout with references and without (TurnEvents). -/
theorem witness_TurnEvents :
    let p : FreezePlan := ⟨0, 3, 1, false, false, true, 1, [], [0], []⟩
    let j : FreezeJob := ⟨aRef, 0, p, 1, some 0, [], [], false⟩
    let l := { learner .idle with shards := [⟨0x200000, 0x200100, 0x200200⟩], version := 1 }
    let m : Model := { aModel with tensors := [⟨1, 32, false, 1, 0, 0, 0⟩], learn := some l, layouts := [⟨1, true, false, 0, [], 0⟩] }
    let s : State := { mapped with turn := { mapped.turn with models := [((0, 3), m)], freezes := [j] } }
    let th : ThawJob := ⟨aRef, 0, 0, 0, 0, false⟩
    let d : Drain := ⟨0, none, 0, 0⟩
    let thawing : State := { mapped with turn := { mapped.turn with thaws := [th], drains := [d] }, cmd := { mapped.cmd with config := [⟨0, 0x201, 5, 0⟩] } }
    mapped.freezeOf 0 3 = none ∧ s.freezeOf 0 3 = some j ∧ (0 : Nat) ∈ l.members ∧ (5 : Nat) ∉ l.members ∧ s.dom.rank ∈ l.members ∧ sourceReady m l j 0 = true
    ∧ m.tensors[0]? = some ⟨1, 32, false, 1, 0, 0, 0⟩ ∧ l.shards[0]? = some ⟨0x200000, 0x200100, 0x200200⟩ ∧ (s.dieAt (4 + 0 % 2)).throttle = false
    ∧ ((m.partUnits l.n 0 0 (l.index s.dom.rank)).contains 0) = true ∧ ((m.partUnits l.n 0 0 (l.index s.dom.rank)).contains 9) = false
    ∧ j.home = s.dom.rank ∧ (s.receivers j.plan).contains 0 = true ∧ (s.receivers j.plan).contains 9 = false ∧ s.publishable j = false
    ∧ s.publishable { j with landed := [0] } = true ∧ ({ j with home := 1 } : FreezeJob).home ≠ s.dom.rank
    ∧ (mapped.turn.thaws.find? (·.tenant == 0)) = none ∧ (thawing.turn.thaws.find? (·.tenant == 0)) = some th ∧ th.due = false
    ∧ (∀ r ∈ thawing.gen.reqs, r.tenant = 0 → r.score = false ∧ (r.state = .parked ∨ r.state = .queued)) ∧ (withReq (aReq .decode)).gen.reqs = [aReq .decode]
    ∧ (mapped.turn.drains.find? fun d => d.tenant == 0 && d.model == none) = none ∧ (thawing.turn.drains.find? fun d => d.tenant == 0 && d.model == none) = some d
    ∧ d.since + thawing.cfg 0 0x0201 * 1000000 ≤ (thawing.setDom { thawing.dom with time := 10 ^ 20 }).dom.time
    ∧ (thawing.setDom { thawing.dom with time := 0 }).dom.time < d.since + thawing.cfg 0 0x0201 * 1000000
    ∧ (m.layout 1).isSome = true ∧ s.refs 0 3 1 = 0 ∧ generating.refs 0 3 1 ≠ 0 ∧ mapped.modelAt 0 3 = none := by
  decide +kernel

/-! Numbers, clocks and the queue. -/

/-- Finite, infinite and NaN lanes; a mode that is not SR; a value that is not of the largest exponent; sums with products and without (ExactZeroSums,
ConversionToAndFromInt32). -/
theorem witness_Numbers :
    fv 0x3FC00000 = .fin false 12582912 (-23) ∧ fv 0x7F800000 = .inf false ∧ fv 0xFF800000 = .inf true ∧ fv 0x7FC00000 = .nan
    ∧ RMode.ofCode (opBits (0 : Operand) 27 3) = some .rne ∧ RMode.rne ≠ .sr ∧ (0x3FC00000 : Word).extractLsb' 23 8 ≠ 255#8
    ∧ ([FV.fin true 0 0] : List FV) ≠ [] ∧ (∀ x ∈ [FV.fin true 0 0], ∃ g, x = .fin true 0 g) := by
  refine ⟨by decide +kernel, by decide +kernel, by decide +kernel, by decide +kernel, by decide +kernel, by decide, by decide +kernel, by decide, ?_⟩
  intro x hx
  exact ⟨0, by simpa using hx⟩

/-- Legal clocks, at reset and under a plan that waits and a thermal ceiling; a state in which a step runs (ClocksStayLegal,
QueueIsFirstInFirstOut, ReplanLowersClockBySteps). -/
theorem witness_ClocksStayLegal :
    let s : State := { (live.setDieTherm 0 { live.dieAt 0 with ceil := some 975 }) with pending := [.powerOn] }
    (1500 ≤ s.pat.maxMhz ∧ s.pat.maxMhz ≤ 1950 ∧ s.pat.maxMhz % 25 = 0) ∧ s.pat.pending = none
    ∧ (975 ≤ s.pwr.powerMhz ∧ s.pwr.powerMhz ≤ 1950 ∧ s.pwr.powerMhz % 25 = 0)
    ∧ (∀ d : Fin 6, s.pwr.dies[d].ceil = none ∨ s.pwr.dies[d].ceil = some 975) ∧ s.pending = .powerOn :: [] := by
  decide +kernel

theorem witness_aStep : ∃ t, step { State.reset with pending := [.powerOn] } = .next t := ⟨_, rfl⟩

/-! ## Ill-formed commands (WellFormed) -/

/-- A frame whose payload is 8 bytes, one of VC 5, one to hop class 7; each field in range. -/
def aFrame : Frame := ⟨0, 1, 0, false, true, 0, 0, 0, 0, 0, 2, 0, 0, 0, 0, []⟩

theorem test_frames_checked : Instr.wellFormed (.dataFrame 0 aFrame 0) = true ∧ Instr.wellFormed (.dataFrame 0 { aFrame with payload := zeros 8 } 0) = false
    ∧ Instr.wellFormed (.dataFrame 0 { aFrame with payload := zeros 8208 } 0) = false
    ∧ Instr.wellFormed (.linkFrame 0 { aFrame with vc := 5 } 0) = false ∧ Instr.wellFormed (.nak 0 { aFrame with hop := 7 }) = false
    ∧ Instr.wellFormed (.frameTransmit 0 [{ aFrame with dst := 2 ^ 14 }]) = false ∧ Instr.wellFormed (.dataFrame 0 { aFrame with type := 16 } 0) = false
    ∧ Instr.wellFormed (.dataFrame 0 { aFrame with lseq := 65536 } 0) = false := by decide +kernel

theorem test_parts_checked : Instr.wellFormed (.tileRun aRef [] (some ⟨64, 0x500, [], [], []⟩)) = false
    ∧ Instr.wellFormed (.learnStep aRef (some ⟨0, 0x401, [], [], [(0, 160)]⟩)) = false
    ∧ Instr.wellFormed (.collContribution aRef 0 0 0 ⟨0, 0, 0, 0, 1, 4, 0, 0, []⟩) = false := by decide +kernel

theorem test_records_checked : Instr.wellFormed (.form (zeros 63)) = false ∧ Instr.wellFormed (.form (zeros 64)) = true
    ∧ Instr.wellFormed (.elected 0 0 ⟨5, 0, 0, 0, 0, false, 0, 0, 0, none, [], [], []⟩) = false
    ∧ Instr.wellFormed (.ident 0 ⟨0, 16, 0, 0, 0, 0, 0, 0⟩) = false ∧ Instr.wellFormed (.patinaDailyReplan ⟨[1, 2, 3], [], [], [1, 2, 3, 4]⟩) = false
    ∧ Instr.wellFormed (.patinaReplan aRef (some ⟨[1, 2, 3, 4], [(1024, 0)], [], [1, 2, 3, 4]⟩)) = false
    ∧ Instr.wellFormed (.patinaMeasure [1, 2, 3, 4, 5]) = false ∧ Instr.wellFormed (.governorSample 0 0 0 0 [1, 2, 3] 0) = false
    ∧ Instr.wellFormed (.captureTaken 0 []) = false ∧ Instr.wellFormed (.pageShip ⟨512, 0, 0, 0, 0, 0, 0, 0, 0, 0, 0⟩ [] [] 0) = false := by decide +kernel

theorem test_accesses_checked : Instr.wellFormed (.registerWrite 0 false (2 ^ 26) [some 0]) = false ∧ Instr.wellFormed (.registerWrite 0 false 0 []) = false
    ∧ Instr.wellFormed (.readLatch 0 false 0 []) = false ∧ Instr.wellFormed (.unalignedRead 0 false (2 ^ 26) [true]) = false
    ∧ Instr.wellFormed (.hostLinkUp 3 16) = false ∧ Instr.wellFormed (.hostLinkChange 5 2) = false ∧ Instr.wellFormed (.atsInvalidation 0 (2 ^ 64) 1 false) = false
    ∧ Instr.wellFormed (.cmdFetch 0 (zeros 16385)) = false ∧ Instr.wellFormed (.patrolScrub (2 ^ 40) .clean) = false
    ∧ Instr.wellFormed (.patrolScrub 0 (.correctable 9)) = false ∧ Instr.wellFormed (.patrolScrub 0 (.uncorrectable 8)) = true := by decide +kernel

/-! ## Worked examples of the spec, and results worked by hand from its rules -/

/-- The instruction word of the example of chapter 03: MMA with DA = D3, DB = D4, BANK = B1, ASSAY, CLOSE, M = 128, N = 64, K = 4,096. -/
theorem test_mma_word :
    let w := (0x40003117FDF83FFC : DWord)
    classOf w = 4 ∧ opcodeOf w = 0 ∧ opBits (operandOf w) 44 6 = 3 ∧ opBits (operandOf w) 38 6 = 4 ∧ opBits (operandOf w) 36 2 = 1
    ∧ opBits (operandOf w) 26 7 = 127 ∧ opBits (operandOf w) 19 7 = 63 ∧ opBits (operandOf w) 2 17 = 4095
    ∧ leBytes 8 w.toNat = [0xFC, 0x3F, 0xF8, 0xFD, 0x17, 0x31, 0x00, 0x40] := by decide +kernel

/-- The BFP4 example of chapter 02: largest magnitude 3.0 gives T = 0.5; a block of 2.4 and −0.7 gives X = 127 and codes 6 and 0xB. -/
theorem test_bfp4_example :
    bfp4T [fv 0x40400000, fv 0xBF000000] = (0x3F000000, 0)
    ∧ bfp4Block 0x3F000000 [⟨fv 0x4019999A, .rne, 0⟩, ⟨fv 0xBF333333, .rne, 0⟩] = ⟨127, [6, 0xB], 0⟩ := by decide +kernel

/-- Of the example of chapter 02: 1 + 2^24 rounds to 2^24, 1 − 2^24 is exact, and the elements 0x3C, 0x6C, 0xEC of E5M2 are 1, 4,096, −4,096. -/
theorem test_accumulation_example :
    faddF .rne false 0x3F800000 0x4B800000 = ⟨0x4B800000, 0⟩ ∧ faddF .rne false 0x3F800000 0xCB800000 = ⟨0xCB7FFFFF, 0⟩
    ∧ (e5m2.decode 0x3C).cmp (fv 0x3F800000) = .eq ∧ (e5m2.decode 0x6C).cmp (fv 0x45800000) = .eq ∧ (e5m2.decode 0xEC).cmp (fv 0xC5800000) = .eq := by decide +kernel

/-- The HBM interleave examples of chapter 05: DPA 0xC1_2345_9A80, and 0xC1_2345_4B00 with pseudo-channel 0x2C of die 3 mapped out. -/
theorem test_hbm_examples :
    State.reset.mem.hbmLocate 0xC123459A80 = ⟨13, 31, 1, 895, 0x1234580⟩
    ∧ pclOf 895 = 0xFD ∧ dieOfPc 895 = 3 := by decide +kernel

theorem test_hbm_mapout_example :
    let m := State.reset.mem
    let m' := { m with dies := m.dies.set 3 { m.dies[3] with mapped := [(0x2C, 1)] } }
    (m'.hbmLocate 0xC123454B00).pseudoChannel = 922 ∧ (m'.hbmLocate 0xC123454B00).stack = 14 ∧ (m'.hbmLocate 0xC123454B00).offset = 0x3FFEDB00 := by
  decide +kernel

/-- The example of chapter 11: module (3, 9, 5) of a domain of 64; link 17 leads to rank 20, link 84 to (3, 5), rank 5. -/
theorem test_ports_example :
    let s := live.setDom { live.dom with size := 64, row := 3, col := 9, rank := 5 }
    let t := s.setLnk { s.lnk with rowsM1 := 15, colsM1 := 15 }
    t.peerAddr 17 = some (mkAddr 3 9 20) ∧ t.peerAddr 84 = some (mkAddr 3 5 5) ∧ (t.setLnk { t.lnk with colsM1 := 11 }).peerAddr 38 = none := by decide +kernel

/-- The detour example of chapter 11: group 2 of rank 5 is in RECAL; for peer 21 the intermediate is rank 29. -/
theorem test_detour_example :
    let s := live.setDom { live.dom with size := 64, row := 0, col := 0, rank := 5 }
    let up := fun (l : Nat) => if 16 ≤ l ∧ l < 24 then { Link.reset with phase := .recal } else { Link.reset with phase := .up }
    let t := s.setLnk { s.lnk with links := Vector.ofFn fun l => up l.val, reported := (List.range 64).map fun m => (m, 21) }
    t.via 21 = some 29 := by decide +kernel

/-- The chain example of chapter 13: anchor 9, 64 ranks; chain 2 visits 9, 14, 19 and ends at rank 4. -/
theorem test_chain_example :
    let s := live.setDom { live.dom with size := 64, anchor := 9, members := BitVec.allOnes 64 }
    (s.chain 2).take 3 = [9, 14, 19] ∧ (s.chain 2).getLast? = some 4 ∧ (s.chain 2).length = 64 := by decide +kernel

/-- The margins of the example of chapter 14: 1.925 GHz gains 6.66 ps of cycle, 1.875 GHz 20.51 ps, 1.85 GHz 27.72 ps. -/
theorem test_clock_steps_example : (stepGain 1925 + 5) / 10 = 666 ∧ (stepGain 1875 + 5) / 10 = 2051 ∧ (stepGain 1850 + 5) / 10 = 2772 := by decide +kernel

/-- The window example of chapter 04: 3 × 3 windows of stride 2 and padding 1 over 224 × 224; 12,544 rows of 9; row (0, 0) begins in the padding, row
(5, 7) at offset 2,029. -/
theorem test_window_example :
    let x : Axis := ⟨112, 3, 1, 2, 224, 1, 1, 0⟩
    let d := { Desc.ofBits 0 0 with naxes := 2, axes := [x, { x with memStride := 224 }, x, x], order := 0xFFFF2031, ksplit := 2 }
    d.rowLen = 9 ∧ d.rowCount = 12544 ∧ d.locate 0 = none ∧ (d.locate ((5 * 112 + 7) * 9)).map Prod.fst = some 2029
    ∧ (d.locate ((5 * 112 + 7) * 9 + 2)).map Prod.fst = some 2031 := by decide +kernel

/-- What holds of the state after one command. -/
def after (o : Host.Outcome State Fault Refusal) (p : State → Bool) : Bool :=
  match o with
  | .next s => p s
  | _ => false

/-- S2 = S1 op S3 on an idle tile. -/
def scalarOf (a b : DWord) (op : Nat) : State :=
  let regs := (Tile.idle.setS 1 a).setS 3 b
  on regs 1 op (BitVec.ofNat 54 (2 * 2 ^ 45 + 1 * 2 ^ 40 + 3 * 2 ^ 35))

/-- Scalar arithmetic modulo 2^64, shift distances modulo 64, an unsigned and a signed comparison; the pc goes on by one word (03 R86). -/
theorem test_scalar :
    let w := BitVec.ofNat 54 (2 * 2 ^ 45 + 1 * 2 ^ 40 + 3 * 2 ^ 35)
    let s2 := fun (s : State) => s.tiles[(0 : Fin 160)].getS 2
    after (exec (.add 0 w) (scalarOf (2 ^ 64 - 1) 2 0)) (fun s => s2 s == 1 && s.tiles[(0 : Fin 160)].ctl.pc == 1) = true
    ∧ after (exec (.sub 0 w) (scalarOf 1 2 1)) (fun s => s2 s == 2 ^ 64 - 1) = true
    ∧ after (exec (.mul 0 w) (scalarOf (2 ^ 63) 3 2)) (fun s => s2 s == 2 ^ 63) = true
    ∧ after (exec (.shl 0 w) (scalarOf 5 64 6)) (fun s => s2 s == 5) = true
    ∧ after (exec (.sra 0 w) (scalarOf (2 ^ 63) 63 8)) (fun s => s2 s == 2 ^ 64 - 1) = true
    ∧ after (exec (.xor 0 w) (scalarOf 0xFF 0x0F 5)) (fun s => s2 s == 0xF0) = true := by decide +kernel

theorem test_compares :
    let w := BitVec.ofNat 54 (1 * 2 ^ 47 + 1 * 2 ^ 40 + 3 * 2 ^ 35)
    let go := fun (op : Nat) => on ((Tile.idle.setS 1 (2 ^ 64 - 1)).setS 3 1) 1 op w
    after (exec (.cmplt 0 w) (go 0x11)) (fun s => s.tiles[(0 : Fin 160)].getP 1) = true
    ∧ after (exec (.cmpltu 0 w) (go 0x12)) (fun s => !s.tiles[(0 : Fin 160)].getP 1) = true
    ∧ after (exec (.cmpeq 0 w) (go 0x10)) (fun s => !s.tiles[(0 : Fin 160)].getP 1) = true := by decide +kernel

/-- Power-on: device time from 0, no start-up before PWR_EN (16 R476); PWR_CAP clamped to 1,200 to 2,800 W (15 R449); a read of PWR_CAP after reset (18). -/
theorem test_power :
    after (exec .powerOn { State.reset with dom := { State.reset.dom with time := 9 } }) (fun s => s.dom.time == 0 && s.sig.phase == .standby) = true
    ∧ after (exec (.pwrCapWrite 100) live) (fun s => s.pwr.capW == 1200) = true ∧ after (exec (.pwrCapWrite 4095) live) (fun s => s.pwr.capW == 2800) = true
    ∧ after (exec (.pwrCapWrite 1500) live) (fun s => s.pwr.capW == 1500) = true
    ∧ after (exec (.readLatch 0 false 0x52000 [true, true, true, true]) live) (fun s => s.host.replies.head? == some (.data [0xF0, 0x0A, 0, 0])) = true := by
  decide +kernel

/-- The little-endian example of chapter 00, over BAR0: a 64-bit register written as 0x0123_4567_89AB_CDEF reads 0x89AB_CDEF and then 0x0123_4567. -/
theorem test_little_endian :
    let low := exec (.registerWrite 1 false 0x4000 ((leBytes 4 0x00ABC000).map some)) live
    leBytes 8 0x0123456789ABCDEF = [0xEF, 0xCD, 0xAB, 0x89, 0x67, 0x45, 0x23, 0x01]
    ∧ after low (fun s => (s.fnOf 1).slot.any fun x => x.2 == 0x00ABC000) = true
    ∧ after low (fun s => after (exec (.registerWrite 1 false 0x4004 ((leBytes 4 1).map some)) s) fun t => (t.fnOf 1).sqBase == 0x100ABC000) = true := by
  decide +kernel

/-- A memory write message to committed memory is read back, and one to memory that is not mapped writes nothing (11 R323, 05 R129). -/
theorem test_memory_write :
    after (exec (.memoryWrite (.tva 0 0x200010) [1, 2, 3]) mapped) (fun s => s.peek 0 0x200010 4 == [1, 2, 3, 0]) = true
    ∧ after (exec (.memoryWrite (.tva 0 0) [1]) mapped) (fun s => s.mem.cells == mapped.mem.cells) = true := by decide +kernel

/-- A link: training ends in ALIGN, lock in IDENTIFY, a wrong peer in MISWIRED (11 R327, R328). -/
theorem test_link :
    after (exec (.linkTrainingDone 1) (inPhase 1 .training)) (fun s => (s.linkAt 1).phase == .align) = true
    ∧ after (exec (.fecAlignLock 1) (inPhase 1 .align)) (fun s => (s.linkAt 1).phase == .identify && (s.linkAt 1).sent.length == 1) = true
    ∧ after (exec (.ident 1 ⟨7, 0, 0, 2, 0, 0, 0, 0⟩) (inPhase 1 .identify)) (fun s => (s.linkAt 1).phase == .miswired) = true := by decide +kernel

/-- A die at 100 °C lowers its ceiling by a step from 1,950 MHz, and two samples of 110 °C trip it (15 R455, R456). -/
theorem test_die_heat :
    after (exec (.dieTempSample 0 1000) live) (fun s => (s.pwr.dies[(0 : Fin 6)]).ceil == some 1925) = true
    ∧ after (exec (.dieTempSample 0 1100) live) (fun s => after (exec (.dieTempSample 0 1100) s) fun t => (t.pwr.dies[(0 : Fin 6)]).trip) = true := by
  decide +kernel

/-- LDS by a command at work, in a tile whose pad holds that error, with n earlier ones in the last 24 hours (PadErrorsCountOrKill). -/
def hurt (f : Finding) (n : Nat) : State :=
  let s := withCmd (on { Tile.idle with ctl := { Tile.idle.ctl with cmd := some aRef } } 1 0x18 0) (aCmd 0x500 [])
  s.setMem { s.mem with err := { s.mem.err with padFound := [(0, f)], padUe := if n = 0 then [] else [(0, [0])] } }

/-- A corrected error is counted and the load goes on; the first uncorrectable one puts the command back to its start, and the second
takes tile 0 out of service (05 R141). -/
theorem test_pad_errors :
    let k := { aCmd 0x500 [] with home := 0 }
    (hurt (.correctable 1) 0).cmdAt aRef = some k ∧ k.running = true
    ∧ after (exec (.lds 0 0) (hurt (.correctable 1) 0)) (fun s => s.mem.regs.ce == 1 && s.tiles[(0 : Fin 160)].ctl.pc == 1) = true
    ∧ after (exec (.lds 0 0) (hurt (.uncorrectable 6) 0)) (fun s => s.tiles[(0 : Fin 160)].ctl.status == .idle
      && (s.cmdAt aRef).any (·.phase == .fetched) && s.flt.tileMap.getLsbD 0) = true
    ∧ after (exec (.lds 0 0) (hurt (.uncorrectable 6) 1)) (fun s => !s.flt.tileMap.getLsbD 0 && s.flt.tileMap.getLsbD 1) = true := by
  decide +kernel

/-- The misplaced member of the example of 03 R108: K_BASE 2,048 and 64 blocks give level 6, c = 0 and FRACTIONAL, at block 32; and a tree of four
subtrees of level 6 with one left out breaks at the third (R517). -/
theorem test_misplaced_member :
    let b := ({ Bank.zero with assay := true, kFirst := 2048, kNext := 6144 } : Bank).closeAt
    let x := { Tile.idle with regs := { Tile.idle.regs with banks := Tile.idle.regs.banks.set 1 b } }
    cpfxMisplaced x (1 <<< 34) .store (wordOf 4 1 (1 <<< 36)) = some ⟨3, 32 + 6 * 2 ^ 56 + 2 ^ 61⟩
    ∧ misplaced 0 [(6, 0, []), (6, 1, []), (6, 3, [])] = some (6, 3, []) ∧ misplaced 0 [(6, 0, []), (6, 1, []), (6, 2, []), (6, 3, [])] = none := by
  decide +kernel

end Tests
end

section
/-! PROOFS. Numbers (02 R36, R40, R43, R50, R516): sums that are zero, elements of MXINT8, conversion to and from INT32. -/

namespace Sys2Proof.Machine

open Sys2Proof.Claims

/-! ## Exact values: sums that are zero (02 R40) -/

theorem alignInt_true (m : Nat) (e b : Int) : alignInt true m e b = -alignInt false m e b := rfl

theorem alignInt_zero (a : Bool) (e b : Int) : alignInt a 0 e b = 0 := by cases a <;> simp [alignInt]

theorem alignInt_false_nonneg (m : Nat) (e b : Int) : 0 ≤ alignInt false m e b := by
  have h : alignInt false m e b = (m : Int) * 2 ^ (e - b).toNat := rfl
  rw [h]
  exact Int.mul_nonneg (Int.natCast_nonneg m) (Int.pow_nonneg (by decide))

theorem alignInt_eq_zero {a : Bool} {m : Nat} {e b : Int} : alignInt a m e b = 0 ↔ m = 0 := by
  have hpow : (2 : Int) ^ (e - b).toNat ≠ 0 := Int.ne_of_gt (Int.pow_pos (by decide))
  have hpos : alignInt false m e b = 0 ↔ m = 0 := by
    have h : alignInt false m e b = (m : Int) * 2 ^ (e - b).toNat := rfl
    rw [h, Int.mul_eq_zero, Int.natCast_eq_zero, or_iff_left hpow]
  cases a with
  | false => exact hpos
  | true => rw [alignInt_true, Int.neg_eq_zero, hpos]

@[simp] theorem ofInt_zero (z : Bool) (e : Int) : ofInt z 0 e = .fin z 0 0 := rfl

theorem ofInt_of_ne_zero {n : Int} (h : n ≠ 0) (z : Bool) (e : Int) : ofInt z n e = .fin (n < 0) n.natAbs e := by
  simp [ofInt, h]

/-- An integer at an exponent is −0 only as an exact zero that is to be −0. -/
theorem ofInt_eq_negZero {z : Bool} {n b e : Int} : ofInt z n b = .fin true 0 e ↔ n = 0 ∧ z = true ∧ e = 0 := by
  by_cases h : n = 0
  · subst h
    simp [eq_comm]
  · simp [ofInt_of_ne_zero h, h]

/-- x + (−x) for a finite x. -/
theorem FV.add_negate (mode : RMode) (a : Bool) (n : Nat) (e : Int) :
    FV.add mode (.fin a n e) (FV.fin a n e).negate = .fin (mode == .rdn) 0 0 := by
  have hs : alignInt a n e e + alignInt (!a) n e e = 0 := by
    cases a with
    | false => exact Int.add_right_neg _
    | true => exact Int.add_left_neg _
  simp [FV.add, FV.negate, hs]

/-- The sum of two zeros of one sign. -/
theorem FV.add_zeros_same (mode : RMode) (a : Bool) (e g : Int) : FV.add mode (.fin a 0 e) (.fin a 0 g) = .fin a 0 0 := by
  simp [FV.add, alignInt_zero]

/-! ## Exact sums of a list -/

/-- The value of a finite element at a common exponent; 0 of any other. -/
def FV.alignedTo (base : Int) : FV → Int
  | .fin n m e => alignInt n m e base
  | _ => 0

/-- A fold that adds a number for each element adds the numbers' sum. -/
theorem foldl_eq_add_sum {g : Int → FV → Int} {f : FV → Int} (hg : ∀ t x, g t x = t + f x) (xs : List FV) (t : Int) :
    xs.foldl g t = t + (xs.map f).sum := by
  induction xs generalizing t with
  | nil => simp
  | cons x xs ih => rw [List.foldl_cons, ih, hg, List.map_cons, List.sum_cons, Int.add_assoc]

/-- The exact sum of finite values, at a common exponent. -/
theorem exactSum_of_finite {xs : List FV} (h : ∀ x ∈ xs, x.isFinite = true) :
    ∃ base, exactSum xs = ofInt (!xs.isEmpty && xs.all FV.neg) (xs.map (FV.alignedTo base)).sum base := by
  have hnan : xs.any FV.isNan = false := by
    rw [List.any_eq_false]
    intro x hx
    have := h x hx
    cases x <;> simp_all [FV.isFinite, FV.isNan]
  have hinf : ∀ b, (xs.any fun x => x == .inf b) = false := by
    intro b
    rw [List.any_eq_false]
    intro x hx
    have := h x hx
    cases x <;> simp_all [FV.isFinite]
  simp only [exactSum, hnan, hinf, Bool.and_self, Bool.false_eq_true, if_false]
  refine ⟨_, congrArg (fun s => ofInt _ s _) ?_⟩
  rw [foldl_eq_add_sum (f := FV.alignedTo _), Int.zero_add]
  intro t x
  cases x <;> simp [FV.alignedTo]

/-- An exact sum is finite only if every product is. -/
theorem finite_of_exactSum {xs : List FV} (h : (exactSum xs).isFinite = true) : ∀ x ∈ xs, x.isFinite = true := by
  intro x hx
  have hany : ∀ p : FV → Bool, p x = true → xs.any p = true := fun p hp => List.any_eq_true.2 ⟨x, hx, hp⟩
  cases x with
  | fin => rfl
  | nan => simp [exactSum, hany FV.isNan rfl, FV.isFinite] at h
  | inf b =>
    have hb := hany (fun x => x == .inf b) (by simp)
    cases b with
    | false =>
      simp only [exactSum, hb, Bool.true_and, if_true] at h
      split at h
      · exact absurd h Bool.false_ne_true
      · split at h <;> exact absurd h Bool.false_ne_true
    | true =>
      simp only [exactSum, hb, Bool.and_true, if_true] at h
      split at h
      · exact absurd h Bool.false_ne_true
      · split at h <;> exact absurd h Bool.false_ne_true

/-- A value of the minus sign is not above 0, and is 0 only as −0. -/
theorem FV.alignedTo_of_neg {x : FV} (hf : x.isFinite = true) (hn : x.neg = true) (base : Int) :
    x.alignedTo base ≤ 0 ∧ (x.alignedTo base = 0 ↔ ∃ g, x = .fin true 0 g) := by
  cases x with
  | nan => cases hf
  | inf b => cases hf
  | fin a m e =>
    obtain rfl : a = true := hn
    refine ⟨Int.neg_nonpos_of_nonneg (alignInt_false_nonneg m e base), ?_⟩
    simp [FV.alignedTo, alignInt_eq_zero]

/-- Values of the minus sign have a sum not above 0, and the sum is 0 only if each is −0. -/
theorem sum_alignedTo_of_neg {xs : List FV} (base : Int) (hf : ∀ x ∈ xs, x.isFinite = true) (hn : ∀ x ∈ xs, x.neg = true) :
    (xs.map (FV.alignedTo base)).sum ≤ 0
      ∧ ((xs.map (FV.alignedTo base)).sum = 0 ↔ ∀ x ∈ xs, ∃ g, x = .fin true 0 g) := by
  induction xs with
  | nil => simp
  | cons x xs ih =>
    rw [List.forall_mem_cons] at hf hn
    obtain ⟨hx, hx0⟩ := FV.alignedTo_of_neg hf.1 hn.1 base
    obtain ⟨hs, hs0⟩ := ih hf.2 hn.2
    rw [List.forall_mem_cons, ← hx0, ← hs0, List.map_cons, List.sum_cons]
    omega

/-- An exact sum is −0 exactly when it has products and every one is −0 (02 R40). -/
theorem exactSum_eq_negZero (xs : List FV) (e : Int) :
    exactSum xs = .fin true 0 e ↔ xs ≠ [] ∧ (∀ x ∈ xs, ∃ g, x = .fin true 0 g) ∧ e = 0 := by
  constructor
  · intro h
    have hf := finite_of_exactSum (h ▸ rfl : (exactSum xs).isFinite = true)
    obtain ⟨base, hs⟩ := exactSum_of_finite hf
    obtain ⟨hsum, hneg, he⟩ := ofInt_eq_negZero.1 (hs.symm.trans h)
    simp only [Bool.and_eq_true, Bool.not_eq_true', List.isEmpty_eq_false_iff, List.all_eq_true] at hneg
    exact ⟨hneg.1, (sum_alignedTo_of_neg base hf hneg.2).2.1 hsum, he⟩
  · rintro ⟨hne, hz, rfl⟩
    have hf : ∀ x ∈ xs, x.isFinite = true := fun x hx => by obtain ⟨g, rfl⟩ := hz x hx; rfl
    have hn : ∀ x ∈ xs, x.neg = true := fun x hx => by obtain ⟨g, rfl⟩ := hz x hx; rfl
    obtain ⟨base, hs⟩ := exactSum_of_finite hf
    rw [hs, ofInt_eq_negZero]
    refine ⟨(sum_alignedTo_of_neg base hf hn).2.2 hz, ?_, rfl⟩
    simpa [hne] using hn

/-! ## FP32 words as exact values -/

/-- The sign, exponent and mantissa fields of an FP32 word. -/
theorem fv_eq (a : Word) : fv a =
    if a.extractLsb' 23 8 = 255#8 then if a.extractLsb' 0 23 = 0#23 then .inf a.msb else .nan
    else if a.extractLsb' 23 8 = 0#8 then .fin a.msb (a.extractLsb' 0 23).toNat (-149)
    else .fin a.msb ((a.extractLsb' 0 23).toNat + 2 ^ 23) ((a.extractLsb' 23 8).toNat - 150) := by
  have hs : (a.toNat / 2147483648 % 2 == 1) = a.msb := by
    rw [BitVec.msb_eq_decide, Bool.eq_iff_iff, beq_iff_eq, decide_eq_true_iff]
    omega
  simp [fv, Fmt.decode, fp32, Int.sub_sub, ← BitVec.toNat_inj, BitVec.extractLsb'_toNat, Nat.shiftRight_eq_div_pow, hs]

/-- A word is finite unless its exponent field is all ones. -/
theorem fv_isFinite_of_exponent {a : Word} (h : a.extractLsb' 23 8 ≠ 255#8) : ∃ neg n e, fv a = .fin neg n e := by
  rw [fv_eq, if_neg h]
  split <;> exact ⟨_, _, _, rfl⟩

/-- Inverting the sign bit of an FP32 word negates its value. -/
theorem fv_xor_signBit (a : Word) : fv (a ^^^ 0x80000000#32) = (fv a).negate := by
  have hm : (a ^^^ 0x80000000#32).extractLsb' 0 23 = a.extractLsb' 0 23 := by simp [BitVec.extractLsb'_xor]
  have he : (a ^^^ 0x80000000#32).extractLsb' 23 8 = a.extractLsb' 23 8 := by simp [BitVec.extractLsb'_xor]
  have hs : (a ^^^ 0x80000000#32).msb = !a.msb := by
    rw [BitVec.msb_xor, show (0x80000000#32).msb = true from rfl, Bool.xor_true]
  rw [fv_eq, fv_eq a, hm, he, hs]
  split
  · split <;> rfl
  · split <;> rfl

/-- The FP32 word of a zero. -/
def zeroW (neg : Bool) : Word := if neg then 0x80000000 else 0

theorem fv_zeroW (neg : Bool) : fv (zeroW neg) = .fin neg 0 (-149) := by cases neg <;> decide

/-- A finite exact value as a fraction, of either sign of the exponent. -/
theorem fracOf_eq (n : Nat) (e : Int) : fracOf n e = (n * 2 ^ e.toNat, 2 ^ (-e).toNat) := by
  by_cases h : 0 ≤ e
  · simp [fracOf, h, Int.toNat_of_nonpos (Int.neg_nonpos_of_nonneg h)]
  · simp [fracOf, h, Int.toNat_of_nonpos (Int.le_of_not_le h)]

theorem Fmt.roundMag_zero (f : Fmt) (m : RMode) (sat : Bool) (r : Nat) (neg : Bool) (d : Nat) :
    f.roundMag m sat r neg 0 d = ⟨f.signBit neg, 0⟩ := by
  simp [Fmt.roundMag]

/-- A finite value as an FP32 word: its magnitude rounded. -/
theorem toF32_fin (m : RMode) (sat neg : Bool) (n : Nat) (e : Int) : toF32 m sat (.fin neg n e) =
    let r := fp32.roundMag m sat 0 neg (n * 2 ^ e.toNat) (2 ^ (-e).toNat)
    ⟨BitVec.ofNat 32 r.code, r.flags⟩ := by
  have h : toF32 m sat (.fin neg n e) = let r := fp32.roundMag m sat 0 neg (fracOf n e).1 (fracOf n e).2
    ⟨BitVec.ofNat 32 r.code, r.flags⟩ := rfl
  rw [h, fracOf_eq]

theorem toF32_zero (m : RMode) (sat neg : Bool) (e : Int) : toF32 m sat (.fin neg 0 e) = ⟨zeroW neg, 0⟩ := by
  rw [toF32_fin, Nat.zero_mul, Fmt.roundMag_zero]
  cases neg <;> rfl

/-- An FP32 sum whose exact value is a zero is that zero, and raises no flag. -/
theorem faddF_of_zero {m : RMode} {sat neg : Bool} {a b : Word} {e : Int} (h : FV.add m (fv a) (fv b) = .fin neg 0 e) :
    faddF m sat a b = ⟨zeroW neg, 0⟩ := by
  simp [faddF, h, toF32_zero, invFlag, FV.isNan]

theorem fsubF_of_zero {m : RMode} {sat neg : Bool} {a b : Word} {e : Int}
    (h : FV.add m (fv a) (fv b).negate = .fin neg 0 e) : fsubF m sat a b = ⟨zeroW neg, 0⟩ := by
  simp [fsubF, h, toF32_zero, invFlag, FV.isNan]

theorem faddF_zeroW_self (m : RMode) (sat neg : Bool) : faddF m sat (zeroW neg) (zeroW neg) = ⟨zeroW neg, 0⟩ := by
  apply faddF_of_zero (e := 0)
  rw [fv_zeroW, FV.add_zeros_same]

/-! ## Elements of MXINT8 (02 R43) -/

theorem mxint8_decode (n : Nat) (h : n < 256) :
    Elem.mxint8.decode n = ofInt false (if n < 128 then n else n - 256) (-6) := by
  have hv : (BitVec.ofNat 8 n).toInt = if n < 128 then (n : Int) else n - 256 := by
    rw [BitVec.toInt_eq_toNat_cond, BitVec.toNat_ofNat, Nat.mod_eq_of_lt h]
    split <;> split <;> omega
  rw [Elem.decode, hv]

end Sys2Proof.Machine

open Sys2Proof Sys2Proof.Machine

/-- Settles O54: the code's two's-complement value, by its sign. -/
theorem mxInt8ElementValues : Obligations.MxInt8ElementValues := by
  intro n hn
  rw [mxint8_decode n hn]
  refine ⟨?zero, ?pos, ?neg⟩
  case zero =>
    rintro rfl
    rfl
  case pos =>
    intro h1 h2
    rw [if_pos (by omega), ofInt_of_ne_zero (by omega)]
    simp
  case neg =>
    intro h
    rw [if_neg (by omega), ofInt_of_ne_zero (by omega), decide_eq_true (by omega)]
    congr
    omega

/-- Settles O55: x + (−x) aligns to 0, and a list of values of the minus sign sums to 0 only if each is −0. -/
theorem exactZeroSums : Obligations.ExactZeroSums := by
  refine ⟨?exact, ?words, exactSum_eq_negZero⟩
  case exact =>
    rintro m x ⟨a, n, e, rfl⟩
    exact FV.add_negate m a n e
  case words =>
    intro m sat a _ ha
    obtain ⟨neg, n, e, hx⟩ := fv_isFinite_of_exponent ha
    have hz : (if m = .rdn then 0x80000000 else 0 : Word) = zeroW (m == .rdn) := by simp [zeroW]
    have hsum : FV.add m (fv a) (fv a).negate = .fin (m == .rdn) 0 0 := by rw [hx, FV.add_negate]
    dsimp only
    rw [hz]
    refine ⟨faddF_of_zero (e := 0) ?_, fsubF_of_zero hsum, faddF_zeroW_self m sat false, faddF_zeroW_self m sat true⟩
    rw [← hsum]
    exact congrArg _ (fv_xor_signBit a)

end

section
/-! PROOFS. Rounding to an integer, and conversion to and from INT32 (02 R50, R516). -/

namespace Sys2Proof.Machine

open Sys2Proof.Claims

/-! ## Rounding a magnitude to an integer (02 R50) -/

/-- A magnitude with a sign, as an integer. -/
def signed (neg : Bool) (n : Nat) : Int := (if neg then -1 else 1) * n

theorem signed_true (n : Nat) : signed true n = -n := by simp [signed]

theorem signed_false (n : Nat) : signed false n = n := by simp [signed]

@[simp] theorem signed_natAbs (neg : Bool) (n : Nat) : (signed neg n).natAbs = n := by cases neg <;> simp [signed]

theorem signed_sign_natAbs (v : Int) : signed (v < 0) v.natAbs = v := by
  by_cases h : v < 0
  · simp only [h, decide_true, signed_true]
    omega
  · simp only [h, decide_false, signed_false]
    omega

/-- A rounded fraction is its quotient, or one more where there is a remainder. -/
theorem roundNat_eq_or {m : RMode} (hm : m ≠ .sr) (neg : Bool) (r n : Nat) {d : Nat} (hd : 0 < d) :
    roundNat m neg r n d = n / d ∨ (roundNat m neg r n d = n / d + 1 ∧ n % d ≠ 0) := by
  cases m with
  | sr => exact absurd rfl hm
  | rtz => exact Or.inl rfl
  | rne =>
    simp only [roundNat, Bool.or_eq_true, Bool.and_eq_true, decide_eq_true_eq, beq_iff_eq]
    split <;> omega
  | rdn =>
    simp only [roundNat, Bool.and_eq_true, bne_iff_ne]
    split <;> omega
  | rup =>
    simp only [roundNat, Bool.and_eq_true, bne_iff_ne]
    split <;> omega

/-- A whole number rounds to itself. -/
theorem roundNat_whole {m : RMode} (hm : m ≠ .sr) (neg : Bool) (r n : Nat) : roundNat m neg r n 1 = n := by
  rcases roundNat_eq_or hm neg r n Nat.one_pos with h | ⟨_, h⟩
  · rwa [Nat.div_one] at h
  · exact absurd (Nat.mod_one n) h

/-- Rounding a magnitude in the way of its sign rounds the signed value. -/
theorem roundNat_roundsTo {m : RMode} (hm : m ≠ .sr) (neg : Bool) (r n : Nat) {d : Nat} (hd : 0 < d) :
    RoundsTo m (signed neg n) d (signed neg (roundNat m neg r n d)) := by
  have hn : (n : Int) = (n / d : Nat) * (d : Int) + (n % d : Nat) := by
    rw [← Int.natCast_mul, ← Int.natCast_add, Nat.div_add_mod']
  have hx : n % d < d := Nat.mod_lt n hd
  unfold roundNat
  generalize n / d = q at *
  generalize n % d = x at *
  have hup : ((q + 1 : Nat) : Int) * d = q * d + d := by
    rw [Int.natCast_add, Int.add_mul, Int.natCast_one, Int.one_mul]
  have hnn : (0 : Int) ≤ q * n := Int.mul_nonneg (Int.natCast_nonneg q) (Int.natCast_nonneg n)
  cases m with
  | sr => exact absurd rfl hm
  | rtz =>
    refine ⟨?_, ?_, ?_⟩
    · cases neg with
      | false => exact signed_false q ▸ signed_false n ▸ hnn
      | true => exact signed_true q ▸ signed_true n ▸ (Int.neg_mul_neg _ _).symm ▸ hnn
    · simp only [signed_natAbs]
      omega
    · simp only [signed_natAbs, Int.add_mul, Int.one_mul]
      omega
  | rne =>
    simp only [RoundsTo, Bool.or_eq_true, Bool.and_eq_true, decide_eq_true_eq, beq_iff_eq]
    cases neg with
    | false =>
      simp only [signed_false]
      split <;> omega
    | true =>
      simp only [signed_true, Int.neg_mul]
      split <;> omega
  | rdn =>
    cases neg with
    | false =>
      simp only [RoundsTo, signed_false, Bool.false_and, Bool.false_eq_true, if_false, Int.add_mul, Int.one_mul]
      omega
    | true =>
      simp only [RoundsTo, signed_true, Bool.true_and, bne_iff_ne, Int.add_mul, Int.neg_mul, Int.one_mul]
      split <;> omega
  | rup =>
    cases neg with
    | false =>
      simp only [RoundsTo, signed_false, Bool.not_false, Bool.true_and, bne_iff_ne, Int.sub_mul, Int.one_mul]
      split <;> omega
    | true =>
      simp only [RoundsTo, signed_true, Bool.not_true, Bool.false_and, Bool.false_eq_true, if_false, Int.sub_mul, Int.neg_mul, Int.one_mul]
      omega

/-! ## FP32 to INT32 -/

/-- A finite lane converts to its rounded integer, clamped (02 R516). -/
theorem cvtFI_of_finite {m : RMode} {a : Word} {neg : Bool} {n : Nat} {e : Int} (h : fv a = .fin neg n e) :
    let z := signed neg (roundNat m neg 0 (n * 2 ^ e.toNat) (2 ^ (-e).toNat))
    cvtFI m a = if z > 2 ^ 31 - 1 then ⟨0x7FFFFFFF, flagSATF⟩ else if z < -2 ^ 31 then ⟨0x80000000, flagSATF⟩
      else ⟨BitVec.ofInt 32 z, 0⟩ := by
  simp only [cvtFI, h, fracOf_eq]
  generalize roundNat m neg 0 (n * 2 ^ e.toNat) (2 ^ (-e).toNat) = q
  cases neg with
  | false =>
    rw [signed_false, if_neg (by decide)]
    by_cases hq : q > 2 ^ 31 - 1
    · rw [if_pos hq, if_pos (by omega)]; rfl
    · rw [if_neg hq, if_neg (by omega), if_neg (by omega), BitVec.ofInt_natCast]
  | true =>
    have hz : ¬ -(q : Int) > 2 ^ 31 - 1 := by omega
    simp only [signed_true, if_true, hz, if_false]
    by_cases hq : q > 2 ^ 31
    · rw [if_pos hq, if_pos (by omega)]; rfl
    · rw [if_neg hq, if_neg (by omega)]

theorem cvtFI_of_inf {m : RMode} {a : Word} {neg : Bool} (h : fv a = .inf neg) :
    cvtFI m a = ⟨if neg then 0x80000000 else 0x7FFFFFFF, flagSATF⟩ := by
  cases neg <;> simp [cvtFI, h]

theorem cvtFI_of_nan {m : RMode} {a : Word} (h : fv a = .nan) : cvtFI m a = ⟨0, flagINV⟩ := by
  simp [cvtFI, h]

/-! ## INT32 to FP32 -/

theorem fp32_signBit (neg : Bool) : fp32.signBit neg = neg.toNat * 2 ^ 31 := by cases neg <;> rfl

/-- The FP32 code of a sign, a significand of 24 bits and a biased exponent has that value. -/
theorem fp32_decode_normal (neg : Bool) {ex q : Nat} (h1 : 1 ≤ ex) (h2 : ex ≤ 254) (hq : 2 ^ 23 ≤ q) (hq' : q < 2 ^ 24) :
    fp32.decode (fp32.signBit neg + (ex * 2 ^ 23 + (q - 2 ^ 23))) = .fin neg q (ex - 150) := by
  have hs := fp32_signBit neg
  have hbit := neg.toNat_lt
  generalize hc : fp32.signBit neg + (ex * 2 ^ 23 + (q - 2 ^ 23)) = c
  have hman : c % 8388608 = q - 8388608 := by omega
  have hex : c / 8388608 % 256 = ex := by omega
  have hneg : (c / 2147483648 % 2 == 1) = neg := by
    rw [show c / 2147483648 % 2 = neg.toNat by omega]
    cases neg <;> rfl
  have h255 : ex ≠ 255 := by omega
  have h0 : ex ≠ 0 := by omega
  have hsig : q - 8388608 + 8388608 = q := Nat.sub_add_cancel hq
  simp [Fmt.decode, fp32, hman, hex, hneg, h255, h0, hsig, Int.sub_sub]

theorem log2Frac_one {n : Nat} (h : n ≠ 0) : log2Frac n 1 = Nat.log2 n := by
  have h1 : Nat.log2 1 = 0 := rfl
  simp [log2Frac, h1, Nat.log2_self_le h]

/-- A magnitude divided by a power of two, of either sign of the exponent. -/
theorem scaleFrac_eq (n d : Nat) (k : Int) : scaleFrac n d k = (n * 2 ^ (-k).toNat, d * 2 ^ k.toNat) := by
  by_cases h : 0 ≤ k
  · simp [scaleFrac, h, Int.toNat_of_nonpos (Int.neg_nonpos_of_nonneg h)]
  · simp [scaleFrac, h, Int.toNat_of_nonpos (Int.le_of_not_le h)]

/-- A whole number's significand of 24 bits, rounded. -/
def sig24 (m : RMode) (neg : Bool) (n : Nat) : Nat := roundNat m neg 0 (n * 2 ^ (23 - n.log2)) (2 ^ (n.log2 - 23))

/-- It is the number rounded at the last of its 24 bits, and shifted up where it has fewer. -/
theorem sig24_eq {m : RMode} (hm : m ≠ .sr) (neg : Bool) (n : Nat) :
    sig24 m neg n = roundNat m neg 0 n (2 ^ (n.log2 - 23)) * 2 ^ (23 - n.log2) := by
  rcases Nat.le_total 23 n.log2 with h | h
  · simp [sig24, Nat.sub_eq_zero_of_le h]
  · simp [sig24, Nat.sub_eq_zero_of_le h, roundNat_whole hm]

/-- It has 24 bits, or is the power of two above them; it then comes of a number of more bits than that. -/
theorem sig24_bounds {m : RMode} (hm : m ≠ .sr) (neg : Bool) {n : Nat} (hn : n ≠ 0) :
    2 ^ 23 ≤ sig24 m neg n ∧ (sig24 m neg n < 2 ^ 24 ∨ (sig24 m neg n = 2 ^ 24 ∧ 23 < n.log2)) := by
  have hd : 0 < 2 ^ (n.log2 - 23) := Nat.two_pow_pos _
  have hpow : 2 ^ 23 * 2 ^ (n.log2 - 23) = 2 ^ n.log2 * 2 ^ (23 - n.log2) := by
    rw [← Nat.pow_add, ← Nat.pow_add]
    congr 1
    omega
  have hlo : 2 ^ 23 ≤ n * 2 ^ (23 - n.log2) / 2 ^ (n.log2 - 23) := by
    rw [Nat.le_div_iff_mul_le hd, hpow]
    exact Nat.mul_le_mul_right _ (Nat.log2_self_le hn)
  have hhi : n * 2 ^ (23 - n.log2) / 2 ^ (n.log2 - 23) < 2 ^ 24 := by
    rw [Nat.div_lt_iff_lt_mul hd, Nat.pow_succ (m := 23), Nat.mul_right_comm, hpow, Nat.mul_right_comm, ← Nat.pow_succ]
    exact Nat.mul_lt_mul_of_pos_right Nat.lt_log2_self (Nat.two_pow_pos _)
  unfold sig24
  rcases roundNat_eq_or hm neg 0 (n * 2 ^ (23 - n.log2)) hd with h | ⟨h, hrem⟩
  · omega
  · have hbits : 23 < n.log2 := Nat.lt_of_not_le fun hle => by
      rw [Nat.sub_eq_zero_of_le hle] at hrem
      exact hrem (Nat.mod_one _)
    omega

/-- A whole number below 2^32 rounds to its significand at its exponent, halved and one higher where the significand overflows. -/
theorem fp32_roundMag_nat {m : RMode} (hm : m ≠ .sr) (neg : Bool) {n : Nat} (hn : n ≠ 0) (hlt : n.log2 < 32) :
    ∃ q ex, (fp32.roundMag m false 0 neg n 1).code = fp32.signBit neg + (ex * 2 ^ 23 + (q - 2 ^ 23))
      ∧ 2 ^ 23 ≤ q ∧ q < 2 ^ 24
      ∧ ((q = sig24 m neg n ∧ ex = n.log2 + 127) ∨ (q * 2 = sig24 m neg n ∧ ex = n.log2 + 128 ∧ 23 < n.log2)) := by
  have he : max (log2Frac n 1) (1 - (fp32.bias : Int)) = n.log2 := by
    rw [log2Frac_one hn]
    simp only [fp32]
    omega
  have hfrac : scaleFrac n 1 ((n.log2 : Int) - fp32.mbits) = (n * 2 ^ (23 - n.log2), 2 ^ (n.log2 - 23)) := by
    rw [scaleFrac_eq, Nat.one_mul]
    congr 3 <;> simp only [fp32] <;> omega
  have hsig : roundNat m neg 0 (n * 2 ^ (23 - n.log2)) (2 ^ (n.log2 - 23)) = sig24 m neg n := rfl
  have hb := sig24_bounds hm neg hn
  simp only [Fmt.roundMag, he, hfrac, beq_iff_eq, hn, if_false, hsig]
  generalize sig24 m neg n = s at *
  obtain ⟨q, l, hpair, hq, hq', hl, hs⟩ : ∃ q l : Nat,
      (if s ≥ 2 ^ (fp32.mbits + 1) then (s / 2, (n.log2 : Int) + 1) else (s, (n.log2 : Int))) = (q, (l : Int))
      ∧ 2 ^ 23 ≤ q ∧ q < 2 ^ 24 ∧ l ≤ 32 ∧ ((q = s ∧ l = n.log2) ∨ (q * 2 = s ∧ l = n.log2 + 1 ∧ 23 < n.log2)) := by
    rcases hb with ⟨hlo, hhi | ⟨rfl, hbits⟩⟩
    · exact ⟨s, n.log2, if_neg (Nat.not_le.2 hhi), hlo, hhi, Nat.le_of_lt hlt, Or.inl ⟨rfl, rfl⟩⟩
    · exact ⟨2 ^ 23, n.log2 + 1, rfl, Nat.le_refl _, by decide, hlt, Or.inr ⟨rfl, rfl, hbits⟩⟩
  have hs0 : s ≠ 0 := by omega
  have hsub : ¬ q < 2 ^ fp32.mbits := Nat.not_lt.2 hq
  have hex : ((l : Int) + fp32.bias).toNat = l + 127 := rfl
  have htop : fp32.topExp = 254 := rfl
  simp only [hpair, hs0, hsub, hex, htop, if_false]
  rw [if_neg (by simp only [Bool.or_eq_true, Bool.and_eq_true, decide_eq_true_eq, beq_iff_eq]; omega)]
  exact ⟨q, l + 127, Nat.add_assoc .., hq, hq', by omega⟩

/-- The FP32 word of a whole number below 2^32 has the value of the number rounded at the last of its 24 bits. -/
theorem fv_roundMag_nat {m : RMode} (hm : m ≠ .sr) (neg : Bool) {n : Nat} (hn : n ≠ 0) (hlt : n.log2 < 32) :
    ∃ q e, fv (BitVec.ofNat 32 (fp32.roundMag m false 0 neg n 1).code) = .fin neg q e
      ∧ q * 2 ^ e.toNat = roundNat m neg 0 n (2 ^ (n.log2 - 23)) * 2 ^ (n.log2 - 23) * 2 ^ (-e).toNat := by
  obtain ⟨q, ex, hcode, hq, hq', hs⟩ := fp32_roundMag_nat hm neg hn hlt
  refine ⟨q, ex - 150, ?_, ?_⟩
  · have hword : fp32.signBit neg + (ex * 2 ^ 23 + (q - 2 ^ 23)) < 2 ^ 32 := by
      have := neg.toNat_lt
      rw [fp32_signBit]
      omega
    rw [fv, hcode, BitVec.toNat_ofNat, Nat.mod_eq_of_lt hword]
    exact fp32_decode_normal neg (by omega) (by omega) hq hq'
  rw [sig24_eq hm] at hs
  rcases hs with ⟨rfl, rfl⟩ | ⟨hs, rfl, hbits⟩
  · rw [show (((n.log2 + 127 : Nat) : Int) - 150).toNat = n.log2 - 23 by omega,
      show (-(((n.log2 + 127 : Nat) : Int) - 150)).toNat = 23 - n.log2 by omega, Nat.mul_right_comm]
  · rw [show (((n.log2 + 128 : Nat) : Int) - 150).toNat = n.log2 - 23 + 1 by omega,
      show (-(((n.log2 + 128 : Nat) : Int) - 150)).toNat = 23 - n.log2 by omega, Nat.mul_right_comm, ← hs, Nat.pow_succ]
    ac_rfl

/-- An INT32 lane below or above 0 as a sign and a magnitude. -/
theorem cvtIF_of_ne_zero {m : RMode} {a : Word} (h : a.toInt ≠ 0) :
    cvtIF m a = BitVec.ofNat 32 (fp32.roundMag m false 0 (a.toInt < 0) a.toInt.natAbs 1).code := by
  rw [cvtIF, ofInt_of_ne_zero h, toF32_fin]
  simp

/-- An INT32 lane converts to its 24 leading bits, rounded; 0 to +0 (02 R516). -/
theorem fv_cvtIF {m : RMode} (hm : m ≠ .sr) (a : Word) :
    ∃ neg n e, fv (cvtIF m a) = .fin neg n e ∧
      ∃ k : Int, RoundsTo m a.toInt (2 ^ (a.toInt.natAbs.log2 - 23)) k
        ∧ signed neg (n * 2 ^ e.toNat) = k * 2 ^ (a.toInt.natAbs.log2 - 23) * 2 ^ (-e).toNat := by
  by_cases h0 : a.toInt = 0
  · refine ⟨false, 0, -149, ?_, 0, ?_, by simp [signed]⟩
    · rw [cvtIF, h0, ofInt_zero, toF32_zero, fv_zeroW]
    · have h := roundNat_roundsTo hm false 0 0 Nat.one_pos
      rw [roundNat_whole hm] at h
      rw [h0]
      simpa [signed] using h
  · have hlog : a.toInt.natAbs.log2 < 32 := by
      rw [Nat.log2_lt (by omega)]
      have := a.toInt_lt
      have := a.le_toInt
      omega
    obtain ⟨q, e, hv, hval⟩ := fv_roundMag_nat hm (a.toInt < 0) (Int.natAbs_ne_zero.2 h0) hlog
    have hround := roundNat_roundsTo hm (a.toInt < 0) 0 a.toInt.natAbs (Nat.two_pow_pos (a.toInt.natAbs.log2 - 23))
    rw [signed_sign_natAbs] at hround
    refine ⟨_, q, e, cvtIF_of_ne_zero h0 ▸ hv, _, by exact_mod_cast hround, ?_⟩
    rw [hval, signed, signed, Int.natCast_mul, Int.natCast_mul, Int.natCast_pow, Int.mul_assoc, Int.mul_assoc, Int.mul_assoc]
    rfl

/-! ## The instructions' lanes (03 R85) -/

theorem vecMode_of_code {w : Operand} {m : RMode} (h : RMode.ofCode (opBits w 27 3) = some m) (hm : m ≠ .sr) :
    vecMode w = .ok m := by
  unfold vecMode
  rw [h]
  cases m with
  | sr => exact absurd rfl hm
  | rne | rtz | rdn | rup => rfl

/-- FP32 lane arithmetic that issues in a legal mode goes on with the lanes' results. -/
theorem issue_floatBody {op : Nat} {f : RMode → Bool → Word → Word → Word → FRes} {t : Fin 160} {w : Operand} {s : State} {m : RMode}
    (h : Issues 5 op rsvVec t w s) (ho : op < 64) (hv : validOp 5 op = true)
    (hc : RMode.ofCode (opBits w 27 3) = some m) (hm : m ≠ .sr) :
    let x := s.tiles[t]
    issue 5 op rsvVec (fun _ x => floatBody w f x) t w s =
      wentOn s t (x.mapLanes w fun i => f m (opBit w 26) (x.va w)[i] (x.vb w)[i] (x.vc w)[i]) 1 := by
  rw [issue_of_issues h (by decide) ho hv rfl, floatBody, vecMode_of_code hc hm]
  rfl

end Sys2Proof.Machine

open Sys2Proof Sys2Proof.Machine Sys2Proof.Claims

/-- Settles O56: a lane is rounded as its magnitude is, in the way of its sign; the flags of all lanes are ORed (log entry 22). -/
theorem conversionToAndFromInt32 : Obligations.ConversionToAndFromInt32 := by
  refine ⟨?values, ?lanes⟩
  case values =>
    intro m a hm
    refine ⟨?_, cvtFI_of_inf, cvtFI_of_inf, cvtFI_of_nan, ?_⟩
    · intro neg n e h
      refine ⟨_, ?_, cvtFI_of_finite h⟩
      have hr := roundNat_roundsTo hm neg 0 (n * 2 ^ e.toNat) (Nat.two_pow_pos (-e).toNat)
      simpa [signed] using hr
    · obtain ⟨neg, n, e, hv, k, hk, hval⟩ := fv_cvtIF hm a
      refine ⟨neg, n, e, hv, k, hk, ?_⟩
      rw [← hval, signed]
      push_cast
      rfl
  case lanes =>
    intro s t w m hc hm
    refine ⟨fun h => ?cvtfi, fun h => ?cvtif⟩
    case cvtfi =>
      show execCvtfi t w s = _
      rw [execCvtfi, issue_floatBody h (by decide) rfl hc hm, Tile.mapLanes_eq]
      rfl
    case cvtif =>
      show execCvtif t w s = _
      rw [execCvtif, issue_floatBody h (by decide) rfl hc hm, Tile.mapLanes_plain]
      rfl

end

section
/-! PROOFS. The DEADLINE of a command bounds its start (12 R371). -/

namespace Sys2Proof.Machine

open Sys2Proof.Claims

/-- Device time has passed the DEADLINE of a command of an unpaced queue, whose run would be its first. -/
theorem missed_of_deadline_passed {s : State} {k : Cmd} (hr : k.runs = 0) (h0 : k.deadline ≠ 0) (hd : k.deadline < s.dom.time)
    (hq : (s.sqAt k.ref.fn k.ref.sq).any (·.paced) = false) : s.missed k = true := by
  have hd' : s.time > k.deadline := hd
  simp [State.missed, hr, h0, hd', hq]

/-! Each row that could start a command, or tell of its DEADLINE, ends one that has missed it. -/

theorem exec_deadlineMissed_of_missed {c : CmdRef} {k : Cmd} {s : State} (hk : s.cmdAt c = some k) (hp : k.phase = .fetched)
    (hm : s.missed k = true) : exec (.deadlineMissed c) s = .next (s.finish c stDeadlineMissed 0 0) := by
  show execDeadlineMissed c s = _
  simp [execDeadlineMissed, hk, hp, hm]

theorem runCommand_of_missed {c : CmdRef} {k : Cmd} {s : State} (body : State → Cmd → CmdRes) (hk : s.cmdAt c = some k)
    (hp : k.phase = .fetched) (hm : s.missed k = true) : runCommand k.opcode c body s = s.finish c stDeadlineMissed 0 0 := by
  simp [runCommand, hk, hp, hm]

theorem startCommand_of_missed {c : CmdRef} {k : Cmd} {s : State} (body : State → Cmd → CmdRes) (hk : s.cmdAt c = some k)
    (hp : k.phase = .fetched) (he : s.eligible k = true) (hm : s.missed k = true) :
    startCommand k.opcode c body s = s.finish c stDeadlineMissed 0 0 := by
  simp [startCommand, hk, hp, he, hm]

/-- A started command acts at its turn on the state as it is, whatever its DEADLINE. -/
theorem acts_of_started {c : CmdRef} {k : Cmd} {s : State} (hk : s.cmdAt c = some k) (hp : k.phase = .started)
    (ht : s.myTurn c = true) : Acts k.opcode c k s s :=
  ⟨k, hk, rfl, ht, hk, .inl ⟨hp, rfl⟩⟩

end Sys2Proof.Machine

open Sys2Proof Sys2Proof.Machine

/-- Settles O17: the missed DEADLINE is looked at before the start of each row, and not at all by a command that has started. -/
theorem deadlineBoundsTheStart : Obligations.DeadlineBoundsTheStart := by
  intro s c k hk
  refine ⟨?fetched, ?started⟩
  case fetched =>
    intro hp hr h0 hd hq
    have hm : s.missed k = true := missed_of_deadline_passed hr h0 hd hq
    exact ⟨exec_deadlineMissed_of_missed hk hp hm, fun body => runCommand_of_missed body hk hp hm,
      fun body he => startCommand_of_missed body hk hp he hm⟩
  case started =>
    intro hp ht body
    have hrun : runCommand k.opcode c body s = ended c s (body s k) := runCommand_of_acts body (acts_of_started hk hp ht)
    exact ⟨fun s' d f h => by rw [hrun, h, ended], fun st d h => by rw [hrun, h, ended],
      fun s' st d h => by rw [hrun, h, ended], fun s' h => by rw [hrun, h, ended]⟩

end

section
/-! PROOFS. The core of a state (the queue, the clocks) and the rules by which an operation keeps it. -/

namespace Sys2Proof.Machine

open Sys2Proof.Claims

/-- What no clean operation touches: the queue, Patina's state and the governor's. -/
def State.core (s : State) : List Instr × PatinaState × PowerState := (s.pending, s.pat, s.pwr)

@[simp] theorem State.core_mk (a b c d e f g h i j k l m n o p q r u) :
    (State.mk a b c d e f g h i j k l m n o p q r u).core = (u, j, k) := by
  unfold State.core; rfl
@[simp] theorem State.core_eta (s : State) : (s.pending, s.pat, s.pwr) = s.core := by
  unfold State.core; rfl
@[simp] theorem State.core_ite (c : Prop) [Decidable c] (a b : State) : (if c then a else b).core = if c then a.core else b.core :=
  apply_ite _ _ _ _
@[simp] theorem State.core_foldl {α : Type} (g : State → α → State) (l : List α) (s : State) (h : ∀ s a, (g s a).core = s.core) :
    (l.foldl g s).core = s.core := by
  induction l generalizing s with
  | nil => rfl
  | cons a l ih => rw [List.foldl_cons, ih, h]

def CmdRes.Keeps (r : CmdRes) (x : List Instr × PatinaState × PowerState) : Prop :=
  match r with
  | .ok s _ _ => s.core = x
  | .fail _ _ => True
  | .failWith s _ _ => s.core = x
  | .wait s => s.core = x
@[simp] theorem CmdRes.keeps_ok (s a b x) : (CmdRes.ok s a b).Keeps x ↔ s.core = x := Iff.rfl
@[simp] theorem CmdRes.keeps_fail (a b x) : (CmdRes.fail a b).Keeps x := trivial
@[simp] theorem CmdRes.keeps_failWith (s a b x) : (CmdRes.failWith s a b).Keeps x ↔ s.core = x := Iff.rfl
@[simp] theorem CmdRes.keeps_wait (s x) : (CmdRes.wait s).Keeps x ↔ s.core = x := Iff.rfl

/-- A computation that answers has answered in its first part. -/
theorem exceptBind_eq_ok {ε α β : Type} {x : Except ε α} {f : α → Except ε β} {b : β} (h : x >>= f = .ok b) :
    ∃ a, x = .ok a ∧ f a = .ok b := by
  cases x with
  | error e => exact absurd h (by simp [bind, Except.bind])
  | ok a => exact ⟨a, rfl, h⟩

theorem State.core_foldlM {ε α : Type} {g : State → α → Except ε State} (hg : ∀ s a t, g s a = .ok t → t.core = s.core) (l : List α)
    {s t : State} (h : l.foldlM g s = .ok t) : t.core = s.core := by
  induction l generalizing s with
  | nil => cases h; rfl
  | cons a l ih =>
    obtain ⟨s', h1, h2⟩ := exceptBind_eq_ok h
    rw [ih h2, hg _ _ _ h1]

/-- The same for a fold that carries a value beside the state. -/
theorem State.core_foldl_fst {α β : Type} (g : State × β → α → State × β) (hg : ∀ p a, (g p a).1.core = p.1.core) (l : List α) (p : State × β) :
    (l.foldl g p).1.core = p.1.core := by
  induction l generalizing p with
  | nil => rfl
  | cons a l ih => rw [List.foldl_cons, ih, hg]

/-- An event that is absent changes nothing. -/
@[simp] theorem State.core_elim {α : Type} (o : Option α) (s : State) (g : α → State) (h : ∀ a, (g a).core = s.core) :
    (o.elim s g).core = s.core := by
  cases o with
  | none => rfl
  | some a => exact h a
@[simp] theorem State.modFn_core (s : State) (f : Fin 513) (g : FnState → FnState) : (s.modFn f g).core = s.core := by
  unfold State.core; rfl

/-- The states that an allocation answers. -/
def AllocRes.Keeps (r : AllocRes) (x : List Instr × PatinaState × PowerState) : Prop :=
  match r with
  | .ok s => s.core = x
  | .wait s => s.core = x
  | .full => True
@[simp] theorem AllocRes.keeps_ok (s x) : (AllocRes.ok s).Keeps x ↔ s.core = x := Iff.rfl
@[simp] theorem AllocRes.keeps_wait (s x) : (AllocRes.wait s).Keeps x ↔ s.core = x := Iff.rfl
@[simp] theorem AllocRes.keeps_full (x) : AllocRes.full.Keeps x := trivial

theorem Option.core_foldlM {α : Type} {g : State → α → Option State} (hg : ∀ s a t, g s a = some t → t.core = s.core) (l : List α)
    {s t : State} (h : l.foldlM g s = some t) : t.core = s.core := by
  induction l generalizing s with
  | nil => cases h; rfl
  | cons a l ih =>
    obtain ⟨s', h1, h2⟩ := Option.bind_eq_some_iff.1 (show (g s a).bind _ = some t from h)
    rw [ih h2, hg _ _ _ h1]

end Sys2Proof.Machine
end

section
/-! PROOFS. The operations that keep the core, one rule each, in the order of the definitions. -/

namespace Sys2Proof.Machine

open Sys2Proof.Claims

@[simp] theorem State.setDom_core (s : State) (d : DomState) : (s.setDom d).core = s.core := by simp [State.setDom]
@[simp] theorem State.tick_core (s : State) : s.tick.core = s.core := by simp [State.tick]
@[simp] theorem State.setFlt_core (s : State) (x : FaultState) : (s.setFlt x).core = s.core := by simp [State.setFlt]
@[simp] theorem State.progressed_core (s : State) (level : Nat) (unit : Nat) : (s.progressed level unit).core = s.core := by
  simp [State.progressed]
@[simp] theorem State.setTile_core (s : State) (i : Fin 160) (t : Tile) : (s.setTile i t).core = s.core := by simp [State.setTile]
@[simp] theorem State.setHost_core (s : State) (h : HostState) : (s.setHost h).core = s.core := by simp [State.setHost]
@[simp] theorem State.hostWrite_core (s : State) (fn : Nat) (iova : Nat) (bytes : List Byte) : (s.hostWrite fn iova bytes).core = s.core := by
  simp [State.hostWrite]
@[simp] theorem State.interrupt_core (s : State) (fn : Nat) (vector : Nat) : (s.interrupt fn vector).core = s.core := by simp [State.interrupt]
@[simp] theorem State.setFn_core (s : State) (f : Fin 513) (x : FnState) : (s.setFn f x).core = s.core := by simp [State.setFn]
@[simp] theorem State.writeRecord_core (s : State) (f : Fin 513) (r : EvRing) (e : EventRec) : (s.writeRecord f r e).core = s.core := by
  simp only [State.writeRecord, State.core_ite]
  simp [State.hostWrite, State.interrupt, State.setHost]
@[simp] theorem State.drainEvents_core (n : Nat) (s : State) (f : Fin 513) : (State.drainEvents n s f).core = s.core := by
  induction n generalizing s with
  | zero => rfl
  | succ n ih =>
    unfold State.drainEvents
    (repeat' split) <;> simp [ih]
@[simp] theorem State.deliverEvent_core (s : State) (f : Fin 513) (e : EventRec) : (s.deliverEvent f e).core = s.core := by
  simp [State.deliverEvent]
@[simp] theorem State.send_core (s : State) (m : Msg) : (s.send m).core = s.core := by simp [State.send]
@[simp] theorem State.emit_core (s : State) (f : Fin 513) (source : Nat) (type : Nat) (payload : List Byte) :
    (s.emit f source type payload).core = s.core := by
  unfold State.emit
  dsimp only
  split <;> simp
@[simp] theorem State.emitTenant_core (s : State) (t : Nat) (source : Nat) (type : Nat) (payload : List Byte) :
    (s.emitTenant t source type payload).core = s.core := by
  simp [State.emitTenant]
@[simp] theorem State.setCmd_core (s : State) (c : CmdState) : (s.setCmd c).core = s.core := by simp [State.setCmd]
@[simp] theorem State.setCmds_core (s : State) (l : List Cmd) : (s.setCmds l).core = s.core := by simp [State.setCmds]
@[simp] theorem State.modCmd_core (s : State) (c : CmdRef) (f : Cmd → Cmd) : (s.modCmd c f).core = s.core := by simp [State.modCmd]
@[simp] theorem State.setMem_core (s : State) (m : MemState) : (s.setMem m).core = s.core := by simp [State.setMem]
@[simp] theorem State.unmapUnit_core (s : State) (k : UnitKey) : (s.unmapUnit k).core = s.core := by simp [State.unmapUnit]
@[simp] theorem State.putKey_core (s : State) (t : Nat) (k : Nat) (key : Option (List Byte)) : (s.putKey t k key).core = s.core := by
  simp [State.putKey]
@[simp] theorem State.settleKeys_core (s : State) : s.settleKeys.core = s.core := by simp [State.settleKeys]
@[simp] theorem State.dropLoad_core (s : State) (c : CmdRef) : (s.dropLoad c).core = s.core := by unfold State.dropLoad; split <;> simp
@[simp] theorem State.discard_core (s : State) (c : CmdRef) : (s.discard c).core = s.core := by simp [State.discard]
@[simp] theorem State.setColl_core (s : State) (x : CollState) : (s.setColl x).core = s.core := by simp [State.setColl]
@[simp] theorem State.killLocal_core (s : State) (c : CmdRef) : (s.killLocal c).core = s.core := by simp [State.killLocal]
@[simp] theorem State.dropPart_core (s : State) (c : CmdRef) : (s.dropPart c).core = s.core := by simp [State.dropPart]
@[simp] theorem State.sendTo_core (s : State) (dst : Nat) (kind : MsgKind) (args : List Nat) : (s.sendTo dst kind args).core = s.core := by
  simp [State.sendTo]
@[simp] theorem State.sendAll_core (s : State) (dsts : List Nat) (kind : MsgKind) (args : List Nat) : (s.sendAll dsts kind args).core = s.core := by
  simp [State.sendAll]
@[simp] theorem State.modTnt_core (s : State) (t : Nat) (g : TenantRegs → TenantRegs) : (s.modTnt t g).core = s.core := by
  unfold State.modTnt
  split <;> simp
@[simp] theorem State.lose_core (s : State) (c : Cmd) : (s.lose c).core = s.core := by simp [State.lose]
@[simp] theorem State.rerun_core (s : State) (c : Cmd) (lost : Bool) : (s.rerun c lost).core = s.core := by simp [State.rerun]
@[simp] theorem State.emitHost_core (s : State) (f : Fin 513) (kind : Nat) (subject : Nat) (value : Nat) (cause : Nat) :
    (s.emitHost f kind subject value cause).core = s.core := by
  simp [State.emitHost]
@[simp] theorem State.modCq_core (s : State) (fn : Nat) (cq : Nat) (f : Cq → Cq) : (s.modCq fn cq f).core = s.core := by simp [State.modCq]
@[simp] theorem State.modSq_core (s : State) (fn : Nat) (sq : Nat) (f : Sq → Sq) : (s.modSq fn sq f).core = s.core := by simp [State.modSq]
theorem State.post_core (s : State) (c : Cmd) (q : Sq) : (s.post c q).2.core = s.core ∧ ∀ t, (s.post c q).1 = some t → t.core = s.core := by
  unfold State.post
  split
  · simp
  · dsimp only
    split
    · simp
    · split <;> simp
@[simp] theorem State.settled_core (s : State) (c : CmdRef) (status : Nat) (detail : Nat) (flags : Nat) :
    (s.settled c status detail flags).core = s.core := by
  simp [State.settled]
@[simp] theorem State.writeCommitted_core (s : State) (t : Nat) (a : Nat) (bs : List Byte) : (s.writeCommitted t a bs).core = s.core := by
  unfold State.writeCommitted
  split <;> simp
@[simp] theorem State.writeCommittedAll_core (s : State) (t : Nat) (a : Nat) (bs : List Byte) : (s.writeCommittedAll t a bs).core = s.core := by
  simp [State.writeCommittedAll]
@[simp] theorem State.freeValue_core (s : State) : s.freeValue.2.core = s.core := by simp [State.freeValue]
@[simp] theorem State.commitLoad_core (s : State) (c : Cmd) : (s.commitLoad c).core = s.core := by
  unfold State.commitLoad
  (repeat' split) <;> simp
@[simp] theorem State.setLearn_core (s : State) (t : Nat) (m : Nat) (l : Learn) : (s.setLearn t m l).core = s.core := by simp [State.setLearn]
@[simp] theorem State.commitLearn_core (s : State) (c : Cmd) : (s.commitLearn c).core = s.core := by
  simp only [State.commitLearn]
  (repeat' split) <;> simp
@[simp] theorem State.commitStaging_core (s : State) (c : CmdRef) : (s.commitStaging c).core = s.core := by simp [State.commitStaging]
@[simp] theorem State.decide_core (s : State) (c : Cmd) : (s.decide c).core = s.core := by unfold State.decide; (repeat' split) <;> simp
@[simp] theorem State.settle_core (n : Nat) (s : State) (c : CmdRef) : (State.settle n s c).core = s.core := by
  induction n generalizing s with
  | zero => rfl
  | succ n ih =>
    unfold State.settle
    split
    · split
      · have h := State.post_core s ‹Cmd› ‹Sq›
        split
        · simp_all
        · simp_all
      · split <;> simp [ih]
      · split <;> simp [ih]
      · rfl
    · rfl
@[simp] theorem State.settleQueue_core (s : State) (c : CmdRef) : (s.settleQueue c).core = s.core := by simp [State.settleQueue]
@[simp] theorem State.finish_core (s : State) (c : CmdRef) (status : Nat) (detail : Nat) (flags : Nat) : (s.finish c status detail flags).core = s.core := by
  simp [State.finish]
@[simp] theorem State.failCmd_core (s : State) (c : Cmd) (status : Nat) (detail : Nat) (flags : Nat) : (s.failCmd c status detail flags).core = s.core := by
  simp [State.failCmd]
@[simp] theorem State.raiseExc_core (s : State) (t : Fin 160) (e : Exc) : (s.raiseExc t e).core = s.core := by
  simp only [State.raiseExc]
  (repeat' split) <;> simp
@[simp] theorem State.vote_core (s : State) (c : CmdRef) (detail : Nat) (flags : Nat) (counts : List (Nat × Nat)) :
    (s.vote c detail flags counts).core = s.core := by
  simp [State.vote]
@[simp] theorem State.endTile_core (s : State) (t : Fin 160) (x : Tile) : (s.endTile t x).core = s.core := by
  simp only [State.endTile]
  (repeat' split) <;> simp
@[simp] theorem State.applyRes_core (s : State) (t : Fin 160) (x : Tile) (word : DWord) (next : Nat) (x5 : TileRes) :
    (s.applyRes t x word next x5).core = s.core := by
  unfold State.applyRes
  split <;> simp
@[simp] theorem issueThen_core (cls op : Nat) (rsv : List (Nat × Nat)) (body : TileCtx → Tile → TileRes) (after : Tile → State → State) (t : Fin 160) (w : Operand) (s : State)
    (h : ∀ x s, (after x s).core = s.core) : (issueThen cls op rsv body after t w s).core = s.core := by
  unfold issueThen
  dsimp only
  (repeat' split) <;> simp_all
@[simp] theorem issue_core (cls : Nat) (op : Nat) (rsv : List (Nat × Nat)) (body : TileCtx → Tile → TileRes) (t : Fin 160) (w : Operand) (s : State) :
    (issue cls op rsv body t w s).core = s.core := by
  simp [issue]
@[simp] theorem State.padMet_core (s : State) (t : Fin 160) : (s.padMet t).core = s.core := by simp [State.padMet]
@[simp] theorem State.killCmd_core (s : State) (c : Cmd) : (s.killCmd c).core = s.core := by simp [State.killCmd]
@[simp] theorem State.emitPf0_core (s : State) (source : Nat) (type : Nat) (payload : List Byte) : (s.emitPf0 source type payload).core = s.core := by
  simp [State.emitPf0]
@[simp] theorem State.memEvent_core (s : State) (die : Nat) (e : MemEvent) : (s.memEvent die e).core = s.core := by
  unfold State.memEvent
  split <;> simp
@[simp] theorem State.faultEvent_core (s : State) (source : Nat) (e : FaultEvent) : (s.faultEvent source e).core = s.core := by
  simp [State.faultEvent]
@[simp] theorem State.recoveryEvent_core (s : State) (e : FaultEvent) : (s.recoveryEvent e).core = s.core := by simp [State.recoveryEvent]
@[simp] theorem State.tileOut_core (s : State) (u : Nat) : (s.tileOut u).core = s.core := by simp [State.tileOut]
@[simp] theorem State.padFailed_core (s : State) (t : Fin 160) (syndrome : Nat) : (s.padFailed t syndrome).core = s.core := by
  simp [State.padFailed]
@[simp] theorem State.padCorrected_core (s : State) (t : Fin 160) : (s.padCorrected t).core = s.core := by simp [State.padCorrected]
@[simp] theorem issueRead_core (cls : Nat) (op : Nat) (rsv : List (Nat × Nat)) (body : TileCtx → Tile → TileRes) (t : Fin 160) (w : Operand) (s : State) :
    (issueRead cls op rsv body t w s).core = s.core := by
  unfold issueRead
  (repeat' split) <;> simp
@[simp] theorem csignalSend_core (w : Operand) (x : Tile) (s : State) : (csignalSend w x s).core = s.core := by simp [csignalSend]
@[simp] theorem dmaSend_core (kind : AsyncKind) (t : Fin 160) (w : Operand) (x : Tile) (s : State) : (dmaSend kind t w x s).core = s.core := by
  simp only [dmaSend]
  (repeat' split) <;> simp
@[simp] theorem cpfxReport_core (m : Option Machine.Membership) (t : Fin 160) (w : Operand) (s : State) : (cpfxReport m t w s).core = s.core := by
  simp only [cpfxReport]
  (repeat' split) <;> simp
@[simp] theorem State.sendPart_core (s : State) (i : CollInst) (dst : Nat) (p : CollPart) : (s.sendPart i dst p).core = s.core := by
  simp [State.sendPart]
@[simp] theorem State.sendShares_core (s : State) (i : CollInst) : (s.sendShares i).1.core = s.core := by
  unfold State.sendShares
  refine State.core_foldl_fst _ (fun p j => ?_) _ _
  dsimp only
  (repeat' split) <;> simp
@[simp] theorem State.sendHeat_core (s : State) (i : CollInst) : (s.sendHeat i).core = s.core := by unfold State.sendHeat; split <;> simp
@[simp] theorem State.dropInst_core (s : State) (k : CollKey) : (s.dropInst k).core = s.core := by simp [State.dropInst]
@[simp] theorem State.failFence_core (s : State) (i : CollInst) (e : Exc) : (s.failFence i e).core = s.core := by simp [State.failFence]
theorem State.secondPhase_core {t1 : State} {j : CollInst} (s : State) (i : CollInst) (h : s.secondPhase i = .ok (t1, j)) : t1.core = s.core := by
  unfold State.secondPhase at h
  split at h
  · cases h; rfl
  · split at h
    · cases h; rfl
    · split at h
      · cases h
      · cases h; simp
@[simp] theorem State.setInst_core (s : State) (i : CollInst) : (s.setInst i).core = s.core := by simp [State.setInst]
@[simp] theorem State.detectFail_core (s : State) (i : CollInst) (e : Exc) : (s.detectFail i e).core = s.core := by simp [State.detectFail]
@[simp] theorem State.acceptPart_core (s : State) (i : CollInst) (p : CollPart) : (s.acceptPart i p).core = s.core := by
  unfold State.acceptPart
  split
  · simp
  · split
    · rfl
    · split
      · simp
      · simp [State.secondPhase_core _ _ ‹_›]
@[simp] theorem State.issueInst_core (s : State) (i : CollInst) : (s.issueInst i).core = s.core := by
  unfold State.issueInst
  dsimp only
  split
  · simp
  · rw [State.core_foldl]
    · split
      · simp [State.secondPhase_core _ _ ‹_›]
      · simp
    · intro s a
      split <;> simp
@[simp] theorem cpfxInst_core (m : Option Machine.Membership) (t : Fin 160) (w : Operand) (x : Tile) (s : State) :
    (cpfxInst m t w x s).core = s.core := by
  unfold cpfxInst
  (repeat' split) <;> simp
@[simp] theorem State.modTile_core (s : State) (i : Fin 160) (f : Tile → Tile) : (s.modTile i f).core = s.core := by simp [State.modTile]
@[simp] theorem State.touch_core (s : State) (t : Nat) (a : Nat) (n : Nat) : (s.touch t a n).core = s.core := by simp [State.touch]
@[simp] theorem State.touched_core (s : State) (t : Fin 160) (tenant : Nat) (a : AsyncOp) : (s.touched t tenant a).core = s.core := by
  unfold State.touched
  split <;> simp
@[simp] theorem State.addCounter_core (s : State) (t : Nat) (ct : Nat) (v : Word) : (s.addCounter t ct v).core = s.core := by
  simp [State.addCounter]
theorem State.stagePage_core {t1 : State} {p : Page} (s : State) (c : CmdRef) (t a n : Nat) (h : s.stagePage c t a n = .ok (p, t1)) :
    t1.core = s.core := by
  unfold State.stagePage at h
  split at h
  · cases h; rfl
  · split at h
    · cases h
    · split at h
      · cases h
      · dsimp only at h
        split at h
        · cases h
        · cases h; simp
theorem State.stageChunk_core {t1 : State} (s : State) (c : CmdRef) (t : Nat) (a : Nat) (bs : List Byte) (h : (s.stageChunk c t a bs) = .ok t1) :
    t1.core = s.core := by
  obtain ⟨⟨p, s'⟩, h1, h2⟩ := exceptBind_eq_ok h
  cases h2
  simp [State.stagePage_core _ _ _ _ _ h1]
theorem State.stageChunks_core {t1 : State} (c : CmdRef) (t : Nat) (bs : List Byte) (a0 : Nat) (l : List (Nat × Nat)) (s : State)
    (h : State.stageChunks c t bs a0 l s = .ok t1) : t1.core = s.core := by
  induction l generalizing s with
  | nil => cases h; rfl
  | cons x l ih =>
    obtain ⟨s', h1, h2⟩ := exceptBind_eq_ok h
    rw [ih _ h2, State.stageChunk_core _ _ _ _ _ h1]
theorem State.stageWrite_core {t1 : State} (s : State) (c : CmdRef) (t : Nat) (a : Nat) (bs : List Byte) (h : (s.stageWrite c t a bs) = .ok t1) :
    t1.core = s.core := by
  unfold State.stageWrite at h
  split at h
  · cases h
  · exact State.stageChunks_core _ _ _ _ _ _ h
theorem State.tvaWriteCode_core {t1 : State} (s : State) (c : CmdRef) (t : Nat) (tva : Nat) (e : Int) (b : Nat) (code : Nat) (h : (s.tvaWriteCode c t tva e b code) = .ok t1) :
    t1.core = s.core := by
  unfold State.tvaWriteCode at h
  dsimp only at h
  split at h
  · cases h
  · exact State.stageWrite_core _ _ _ _ _ h
theorem State.atomAdd_core {t1 : State} (s : State) (c : CmdRef) (t : Nat) (tva : Nat) (ts : List (Int × Nat)) (h : (s.atomAdd c t tva ts) = .ok t1) :
    t1.core = s.core := by
  refine State.core_foldlM (fun s x t h => ?_) _ h
  obtain ⟨old, _, h2⟩ := exceptBind_eq_ok h
  exact State.tvaWriteCode_core _ _ _ _ _ _ _ h2
theorem State.transfer_core {t1 : State} (s : State) (t : Fin 160) (c : CmdRef) (tenant : Nat) (a : AsyncOp) (h : (s.transfer t c tenant a) = .ok t1) :
    t1.core = s.core := by
  unfold State.transfer at h
  split at h
  · cases h; rfl
  · dsimp only at h
    split at h
    · obtain ⟨_, _, h⟩ := exceptBind_eq_ok h
      obtain ⟨_, _, h⟩ := exceptBind_eq_ok h
      cases h; simp
    · obtain ⟨_, _, h⟩ := exceptBind_eq_ok h
      exact State.core_foldlM (fun s x t h => State.tvaWriteCode_core _ _ _ _ _ _ _ h) _ h
    · obtain ⟨_, _, h⟩ := exceptBind_eq_ok h
      exact State.atomAdd_core _ _ _ _ _ h
    · split at h
      · obtain ⟨_, _, h⟩ := exceptBind_eq_ok h
        obtain ⟨_, _, h⟩ := exceptBind_eq_ok h
        cases h; simp
      · cases h; rfl
    · split at h
      · obtain ⟨_, _, h⟩ := exceptBind_eq_ok h
        obtain ⟨_, _, h⟩ := exceptBind_eq_ok h
        cases h; simp
      · obtain ⟨_, _, h⟩ := exceptBind_eq_ok h
        obtain ⟨_, _, h⟩ := exceptBind_eq_ok h
        cases h; rfl
    · cases h; rfl
@[simp] theorem State.mirrorPut_core (s : State) (c : Cmd) (a : AsyncOp) : (s.mirrorPut c a).core = s.core := by
  simp only [State.mirrorPut]
  (repeat' split) <;> simp
@[simp] theorem State.gradPut_core (s : State) (t : Fin 160) (c : Cmd) (a : AsyncOp) : (s.gradPut t c a).core = s.core := by
  unfold State.gradPut
  (repeat' split) <;> simp
@[simp] theorem State.landTransfer_core (s : State) (t : Fin 160) (c : Cmd) (a : AsyncOp) (f : Fin 64) : (s.landTransfer t c a f).core = s.core := by
  unfold State.landTransfer
  dsimp only
  (repeat' split) <;> simp
  all_goals exact State.transfer_core _ _ _ _ _ ‹_›
@[simp] theorem State.gradDrain_core (s : State) (t : Fin 160) (a : AsyncOp) (i : CollInst) (vals : List (Option Word)) :
    (s.gradDrain t a i vals).core = s.core := by
  unfold State.gradDrain
  (repeat' split) <;> simp
@[simp] theorem State.landCollective_core (s : State) (t : Fin 160) (a : AsyncOp) (f : Fin 64) (i : CollInst) (vals : List (Option Word)) :
    (s.landCollective t a f i vals).core = s.core := by
  unfold State.landCollective
  split <;> simp
@[simp] theorem State.withdrawUpdate_core (s : State) (c : Cmd) : (s.withdrawUpdate c).core = s.core := by
  unfold State.withdrawUpdate
  split <;> simp
@[simp] theorem State.emitCommand_core (s : State) (f : Fin 513) (die : Nat) (kind : Nat) (sq : Nat) (seq : Nat) (value : Nat) :
    (s.emitCommand f die kind sq seq value).core = s.core := by
  simp [State.emitCommand]
@[simp] theorem State.setPlace_core (s : State) (p : PlaceState) : (s.setPlace p).core = s.core := by simp [State.setPlace]
@[simp] theorem State.switchMigration_core (s : State) (g : Migration) : (s.switchMigration g).core = s.core := by
  unfold State.switchMigration
  split <;> simp
@[simp] theorem State.correctable_core (s : State) (g : Nat) (syndrome : Nat) : (s.correctable g syndrome).core = s.core := by
  simp [State.correctable]
@[simp] theorem State.uncorrectable_core (s : State) (g : Nat) (syndrome : Nat) : (s.uncorrectable g syndrome).core = s.core := by
  simp [State.uncorrectable]
@[simp] theorem State.modUnit_core (s : State) (k : UnitKey) (f : UnitEntry → UnitEntry) : (s.modUnit k f).core = s.core := by
  simp [State.modUnit]
@[simp] theorem State.clearPins_core (s : State) (t : Nat) : (s.clearPins t).1.core = s.core := by simp [State.clearPins]
@[simp] theorem State.scaleReservations_core (s : State) (cOld : Nat) (cNew : Nat) : (s.scaleReservations cOld cNew).core = s.core := by
  simp [State.scaleReservations]
@[simp] theorem State.setDie_core (s : State) (d : Nat) (r : DieRegion) : (s.setDie d r).core = s.core := by
  unfold State.setDie
  split <;> simp
@[simp] theorem State.lowerForDrain_core (s : State) (d : Nat) : (s.lowerForDrain d).core = s.core := by simp [State.lowerForDrain]
@[simp] theorem State.migrate_core (s : State) (k : UnitKey) (dest : Page) : (s.migrate k dest).core = s.core := by simp [State.migrate]
theorem State.bulkRoomFuel_core {d : Nat} {t1 : State} (k : Nat) (s : State) (n : Nat) (h : State.bulkRoomFuel k s n = some (d, t1)) :
    t1.core = s.core := by
  induction k generalizing s with
  | zero => cases h
  | succ k ih =>
    unfold State.bulkRoomFuel at h
    split at h
    · cases h; rfl
    · split at h
      · simpa using ih _ h
      · cases h
theorem State.bulkRoom_core {v1 : Nat} {t1 : State} (s : State) (n : Nat) (h : (s.bulkRoom n) = some (v1, t1)) :
    t1.core = s.core := State.bulkRoomFuel_core _ _ _ h
@[simp] theorem State.evacuate_core (s : State) (d : Nat) : (s.evacuate d).core = s.core := by
  unfold State.evacuate
  refine State.core_foldl _ _ _ fun s x => ?_
  obtain ⟨k, u⟩ := x
  dsimp only
  split
  · simp
  · split
    · rfl
    · split
      · simp [State.bulkRoom_core _ _ ‹_›]
      · rfl
@[simp] theorem State.beginDrain_core (s : State) (d : Nat) (pcl : Nat) (cause : Nat) : (s.beginDrain d pcl cause).core = s.core := by
  simp [State.beginDrain]
@[simp] theorem State.scrubUncorrectable_core (s : State) (g : Nat) (syndrome : Nat) : (s.scrubUncorrectable g syndrome).core = s.core := by
  simp only [State.scrubUncorrectable]
  (repeat' split) <;> simp
theorem State.rehouse_core {t1 : State} (s : State) (a : Nat) (bs : List Byte) (h : (s.rehouse a bs) = some t1) : t1.core = s.core := by
  unfold State.rehouse at h
  obtain ⟨o, _, h⟩ := Option.bind_eq_some_iff.1 h
  obtain ⟨p, hp, rfl⟩ := Option.map_eq_some_iff.1 h
  split at hp
  · cases hp; simp
  · obtain ⟨q, hq, rfl⟩ := Option.map_eq_some_iff.1 hp
    simp [State.bulkRoom_core _ _ hq]
theorem State.restore_core {t1 : State} (s : State) (r : Restoration) (bs : List Byte) (h : (s.restore r bs) = some t1) : t1.core = s.core := by
  unfold State.restore at h
  split at h
  · cases h; simp
  · exact State.rehouse_core _ _ _ h
@[simp] theorem State.restorationEvent_core (s : State) (o : Option (Nat × Nat)) (tier : Nat) (r : Restoration) (kind : Nat) (source : Nat) (detail : Nat) :
    (s.restorationEvent o tier r kind source detail).core = s.core := by
  simp [State.restorationEvent]
@[simp] theorem State.withdrawLease_core (s : State) (a : Nat) : (s.withdrawLease a).core = s.core := by simp [State.withdrawLease]
@[simp] theorem State.dropPoisonedNodes_core (s : State) : s.dropPoisonedNodes.core = s.core := by simp [State.dropPoisonedNodes]
@[simp] theorem State.logAccess_core (s : State) (f : Fin 513) (bar2 : Bool) (offset : Nat) (reason : Nat) (be : Nat) :
    (s.logAccess f bar2 offset reason be).core = s.core := by
  simp [State.logAccess]
@[simp] theorem applied_core (s : State) : (applied s).1.core = s.core := by simp [applied]
@[simp] theorem State.writeId_core (s : State) (f : Fin 513) (o : Nat) (v : Nat) : (s.writeId f o v).1.core = s.core := by
  unfold State.writeId
  split <;> simp
@[simp] theorem rwl_core (s : State) (locked : Bool) (cur new : Nat) (f : State → State) (h : ∀ s, (f s).core = s.core) :
    (rwl s locked cur new f).1.core = s.core := by
  unfold rwl
  (repeat' split) <;> simp [h]
@[simp] theorem State.addSq_core (s : State) (q : Sq) : (s.addSq q).core = s.core := by simp [State.addSq]
@[simp] theorem State.addCq_core (s : State) (q : Cq) : (s.addCq q).core = s.core := by simp [State.addCq]
@[simp] theorem State.startAdmin_core (s : State) (f : Fin 513) : (s.startAdmin f).core = s.core := by
  simp only [State.startAdmin]
  (repeat' split) <;> simp
@[simp] theorem State.enableAdmin_core (s : State) (f : Fin 513) : (s.enableAdmin f).core = s.core := by simp [State.enableAdmin]
@[simp] theorem State.writeCmd_core (s : State) (f : Fin 513) (o : Nat) (v : Nat) : (s.writeCmd f o v).1.core = s.core := by
  unfold State.writeCmd
  dsimp only
  (repeat' split) <;> simp
@[simp] theorem State.killCommands_core (s : State) (t : Nat) : (s.killCommands t).core = s.core := by simp [State.killCommands]
@[simp] theorem State.tdiFail_core (s : State) (t : Nat) : (s.tdiFail t).core = s.core := by simp [State.tdiFail]
@[simp] theorem State.reportLost_core (s : State) (f : Fin 513) : (s.reportLost f).core = s.core := by simp [State.reportLost]
@[simp] theorem State.flushEvents_core (s : State) (f : Fin 513) : (s.flushEvents f).core = s.core := by simp [State.flushEvents]
@[simp] theorem State.writeEvtHead_core (s : State) (f : Fin 513) (v : Nat) : (s.writeEvtHead f v).1.core = s.core := by
  simp only [State.writeEvtHead]
  (repeat' split) <;> simp
@[simp] theorem State.writeHst_core (s : State) (f : Fin 513) (o : Nat) (v : Nat) : (s.writeHst f o v).1.core = s.core := by
  unfold State.writeHst
  dsimp only
  (repeat' split) <;> simp
@[simp] theorem State.writeTntCtrl_core (s : State) (t : Nat) (v : Nat) : (s.writeTntCtrl t v).1.core = s.core := by
  unfold State.writeTntCtrl
  split <;> simp
@[simp] theorem State.modTp_core (s : State) (t : Nat) (f : TenantPlace → TenantPlace) : (s.modTp t f).core = s.core := by simp [State.modTp]
@[simp] theorem State.writeAlloc_core (s : State) (t : Nat) (v : Nat) : (s.writeAlloc t v).1.core = s.core := by
  simp only [State.writeAlloc]
  (repeat' split) <;> simp
@[simp] theorem State.writeTnt_core (s : State) (o : Nat) (v : Nat) : (s.writeTnt o v).1.core = s.core := by
  unfold State.writeTnt
  (repeat' split) <;> simp
@[simp] theorem State.writeMapout_core (s : State) (v : Nat) : (s.writeMapout v).1.core = s.core := by
  simp only [State.writeMapout]
  (repeat' split) <;> simp
@[simp] theorem State.writeMem_core (s : State) (o : Nat) (v : Nat) : (s.writeMem o v).1.core = s.core := by
  unfold State.writeMem
  split <;> simp
@[simp] theorem State.writePlc_core (s : State) (o : Nat) (v : Nat) : (s.writePlc o v).1.core = s.core := by simp [State.writePlc]
@[simp] theorem State.learnEvent_core (s : State) (t : Nat) (kind : Nat) (mid : Nat) (version : Nat) (member : Nat) (rank : Nat) (value : Nat) (cause : Nat) :
    (s.learnEvent t kind mid version member rank value cause).core = s.core := by
  simp [State.learnEvent]
@[simp] theorem State.endLearnCmds_core (s : State) (t : Nat) (mid : Nat) (status : Nat) : (s.endLearnCmds t mid status).core = s.core := by
  simp [State.endLearnCmds]
@[simp] theorem State.loseModel_core (s : State) (t : Nat) (mid : Nat) (l : Learn) : (s.loseModel t mid l).core = s.core := by
  simp [State.loseModel]
@[simp] theorem State.zeroGrads_core (s : State) (t : Nat) (m : Model) (l : Learn) : (s.zeroGrads t m l).core = s.core := by
  simp [State.zeroGrads]
@[simp] theorem State.abandonStep_core (s : State) (t : Nat) (m : Model) (l : Learn) : (s.abandonStep t m l).1.core = s.core := by
  simp [State.abandonStep]
@[simp] theorem State.replaceRank_core (s : State) (t : Nat) (a : Nat) (b : Nat) : (s.replaceRank t a b).core = s.core := by
  simp [State.replaceRank]
@[simp] theorem State.loseMemberOf_core (s : State) (t : Nat) (mid : Nat) (m : Model) (l : Learn) (r : Nat) : (s.loseMemberOf t mid m l r).core = s.core := by
  simp only [State.loseMemberOf]
  (repeat' split) <;> simp
@[simp] theorem State.spareNamed_core (s : State) : s.spareNamed.core = s.core := by
  unfold State.spareNamed
  refine State.core_foldl _ _ _ fun s x => ?_
  obtain ⟨k, m⟩ := x
  dsimp only
  split
  · rfl
  · split
    · rfl
    · refine State.core_foldl _ _ _ fun s r => ?_
      split <;> simp
@[simp] theorem State.spareBoundary_core (s : State) : s.spareBoundary.core = s.core := by unfold State.spareBoundary; split <;> simp
@[simp] theorem State.writeSpares_core (s : State) (v : Nat) : (s.writeSpares v).1.core = s.core := by simp [State.writeSpares]
@[simp] theorem State.writeLrn_core (s : State) (o : Nat) (v : Nat) : (s.writeLrn o v).1.core = s.core := by
  unfold State.writeLrn
  split <;> simp
@[simp] theorem State.setLnk_core (s : State) (x : LinkState) : (s.setLnk x).core = s.core := by simp [State.setLnk]
@[simp] theorem State.modGroup_core (s : State) (g : Nat) (f : LinkGroup → LinkGroup) : (s.modGroup g f).core = s.core := by
  unfold State.modGroup
  split <;> simp
@[simp] theorem State.settleFrom_core (s : State) (l : Nat) : (s.settleFrom l).core = s.core := by unfold State.settleFrom; split <;> simp
@[simp] theorem State.linkEvent_core (s : State) (kind : Nat) (l : Nat) (state : Nat) (detail : Nat) : (s.linkEvent kind l state detail).core = s.core := by
  simp [State.linkEvent]
@[simp] theorem State.setLink_core (s : State) (l : Nat) (x : Link) : (s.setLink l x).core = s.core := by unfold State.setLink; split <;> simp
@[simp] theorem State.modLink_core (s : State) (l : Nat) (f : Link → Link) : (s.modLink l f).core = s.core := by simp [State.modLink]
@[simp] theorem State.linkSettle_core (s : State) (l : Nat) (p : LinkPhase) : (s.linkSettle l p).core = s.core := by simp [State.linkSettle]
@[simp] theorem State.startRecal_core (s : State) (g : Nat) : (s.startRecal g).core = s.core := by simp [State.startRecal]
@[simp] theorem State.beginCapture_core (s : State) (unit : Nat) (cause : Nat) (level : ResetLevel) (tenant : Nat) :
    (s.beginCapture unit cause level tenant).2.core = s.core := by
  unfold State.beginCapture
  split <;> simp
@[simp] theorem State.releaseLink_core (s : State) (l : Nat) : (s.releaseLink l).core = s.core := by simp [State.releaseLink]
@[simp] theorem State.disableLink_core (s : State) (l : Nat) : (s.disableLink l).core = s.core := by simp [State.disableLink]
@[simp] theorem State.writeGroupCmd_core (s : State) (g : Nat) (v : Nat) : (s.writeGroupCmd g v).core = s.core := by simp [State.writeGroupCmd]
@[simp] theorem State.writeLnk_core (s : State) (o : Nat) (v : Nat) : (s.writeLnk o v).1.core = s.core := by simp [State.writeLnk]
@[simp] theorem State.emitSignalAt_core (s : State) (kind : Nat) (value : Nat) (time : Nat) : (s.emitSignalAt kind value time).core = s.core := by
  simp [State.emitSignalAt]
@[simp] theorem State.sigEvent_core (s : State) (kind : Nat) (value : Nat) : (s.sigEvent kind value).core = s.core := by simp [State.sigEvent]
@[simp] theorem State.bootEvent_core (s : State) (i : Nat) : (s.bootEvent i).core = s.core := by simp [State.bootEvent]
theorem State.bootBank_core {t1 : State} (s : State) (h : s.bootBank = some t1) : t1.core = s.core := by
  unfold State.bootBank at h
  dsimp only at h
  split at h
  · cases h; simp
  · cases h
@[simp] theorem State.bootFail_core (s : State) : s.bootFail.core = s.core := by simp [State.bootFail]
@[simp] theorem State.takeRecord_core (s : State) (r : DomainRecord) : (s.takeRecord r).core = s.core := by simp [State.takeRecord]
@[simp] theorem State.bootRecord_core (s : State) : s.bootRecord.core = s.core := by unfold State.bootRecord; split <;> simp
@[simp] theorem State.startPackage_core (s : State) (t2 : Nat) : (s.startPackage t2).core = s.core := by
  unfold State.startPackage
  dsimp only
  split
  · simp
  · simp [State.bootBank_core _ ‹_›]
@[simp] theorem State.killTenant_core (s : State) (t : Nat) : (s.killTenant t).core = s.core := by simp [State.killTenant]
@[simp] theorem State.beginTenantReset_core (s : State) (t : Nat) (cmd : Option CmdRef) (capture : Bool) (disable : Bool) :
    (s.beginTenantReset t cmd capture disable).core = s.core := by
  simp [State.beginTenantReset]
@[simp] theorem State.resetTenant_core (s : State) (t : Nat) (disable : Bool) : (s.resetTenant t disable).core = s.core := by
  simp [State.resetTenant]
@[simp] theorem State.resetAllTenants_core (s : State) : s.resetAllTenants.core = s.core := by simp [State.resetAllTenants]
@[simp] theorem State.killOn_core (s : State) (l : ResetLevel) (u : Nat) : (s.killOn l u).core = s.core := by simp [State.killOn]
@[simp] theorem State.abortColls_core (s : State) (cause : Nat) (p : CollInst → Bool) : (s.abortColls cause p).core = s.core := by
  simp [State.abortColls]
@[simp] theorem State.unlockReset_core (s : State) : s.unlockReset.core = s.core := by simp [State.unlockReset]
@[simp] theorem State.takeCopy_core (s : State) (d : Nat) : (s.takeCopy d).core = s.core := by simp [State.takeCopy]
@[simp] theorem State.recalEnd_core (s : State) (g : Nat) : (s.recalEnd g).core = s.core := by simp [State.recalEnd]
@[simp] theorem State.unmapLease_core (s : State) (t : Nat) (l : Lease) : (s.unmapLease t l).core = s.core := by simp [State.unmapLease]
@[simp] theorem State.placeEvent_core (s : State) (t : Nat) (kind : Nat) (pool : Nat) (st : Nat) (count : Nat) (before : Nat) (after : Nat) (ratio : Word) (step : Nat) (cause : Nat) :
    (s.placeEvent t kind pool st count before after ratio step cause).core = s.core := by
  simp [State.placeEvent]
@[simp] theorem State.leaseEvent_core (s : State) (t : Nat) (st : LeaseState) (v : Nat) (cause : Nat) : (s.leaseEvent t st v cause).core = s.core := by
  simp [State.leaseEvent]
@[simp] theorem State.deviceFree_core (s : State) (t : Nat) (tva : Nat) (bytes : Nat) : (s.deviceFree t tva bytes).core = s.core := by
  simp [State.deviceFree]
@[simp] theorem State.setGen_core (s : State) (g : GenState) : (s.setGen g).core = s.core := by simp [State.setGen]
@[simp] theorem State.givePages_core (s : State) (t : Nat) (m : Nat) (ns : List Nat) : (s.givePages t m ns).core = s.core := by
  simp [State.givePages]
@[simp] theorem State.modModel_core (s : State) (t : Nat) (m : Nat) (f : Model → Model) : (s.modModel t m f).core = s.core := by
  simp [State.modModel]
@[simp] theorem State.turnEvent_core (s : State) (t : Nat) (kind : Nat) (m : Nat) (v : Nat) (prev : Nat) (drained : Nat) (requeued : Nat) (carried : Nat) (us : Nat) :
    (s.turnEvent t kind m v prev drained requeued carried us).core = s.core := by
  simp [State.turnEvent]
@[simp] theorem State.releaseLayout_core (s : State) (t : Nat) (m : Nat) (x : Model) (l : GenLayout) : (s.releaseLayout t m x l).core = s.core := by
  simp [State.releaseLayout]
@[simp] theorem State.releaseZero_core (s : State) (t : Nat) : (s.releaseZero t).core = s.core := by simp [State.releaseZero]
@[simp] theorem State.refDropped_core (s : State) (t : Nat) : (s.refDropped t).core = s.core := by unfold State.refDropped; split <;> simp
@[simp] theorem State.endLease_core (s : State) (t : Nat) (l : Lease) (cause : Nat) : (s.endLease t l cause).core = s.core := by
  simp [State.endLease]
@[simp] theorem State.revokeLease_core (s : State) (t : Nat) (cause : Nat) : (s.revokeLease t cause).core = s.core := by
  simp [State.revokeLease]
@[simp] theorem State.revoked_core (s : State) (t : Nat) (kind : Nat) (record : Nat) : (s.revoked t kind record).core = s.core := by
  simp [State.revoked]
@[simp] theorem State.loseDomain_core (s : State) (l : ResetLevel) (u : Nat) : (s.loseDomain l u).core = s.core := by
  unfold State.loseDomain
  split <;> simp
@[simp] theorem State.beginReset_core (s : State) (l : ResetLevel) (u : Nat) (cause : Nat) (escalated : Bool) :
    (s.beginReset l u cause escalated).core = s.core := by
  simp [State.beginReset]
@[simp] theorem State.writeSig_core (s : State) (o : Nat) (v : Nat) : (s.writeSig o v).1.core = s.core := by
  simp only [State.writeSig]
  (repeat' split) <;> simp
@[simp] theorem State.finishDrain_core (s : State) (d : Nat) (r' : DieRegion) : (s.finishDrain d r').core = s.core := by
  simp [State.finishDrain]
@[simp] theorem State.losePort_core (s : State) (p : Nat) : (s.losePort p).core = s.core := by simp [State.losePort]
@[simp] theorem State.setPort_core (s : State) (p : Fin 8) (x : CxlPort) : (s.setPort p x).core = s.core := by simp [State.setPort]
@[simp] theorem State.reply_core (s : State) (r : HostReply) : (s.reply r).core = s.core := by simp [State.reply]
@[simp] theorem State.bar4Fault_core (s : State) (t : Nat) (a : Nat) : (s.bar4Fault t a).core = s.core := by simp [State.bar4Fault]
@[simp] theorem State.applyPlc_core (s : State) (off : Nat) (v : Nat) : (s.applyPlc off v).core = s.core := by simp [State.applyPlc]
theorem State.evictUnit_core {t1 : State} (s : State) (k : UnitKey) (u : UnitEntry) (h : (s.evictUnit k u) = some t1) : t1.core = s.core := by
  unfold State.evictUnit at h
  dsimp only at h
  split at h
  · cases h; simp
  · obtain ⟨q, hq, rfl⟩ := Option.map_eq_some_iff.1 h
    simp [State.bulkRoom_core _ _ hq]
@[simp] theorem State.promote_core (s : State) (k : UnitKey) : (s.promote k).core = s.core := by
  have go : ∀ s : State, (match s.hbmBlock unitBytes with
    | some a => (s.setPlace { s.place with lastPromoted := k.1 }).migrate k ⟨.hbm, a⟩
    | none => s).core = s.core := by
    intro s
    split <;> simp
  unfold State.promote
  dsimp only
  split
  · exact go s
  · split
    · obtain ⟨v, _, hv⟩ := Option.bind_eq_some_iff.1 ‹_›
      rw [← State.evictUnit_core _ _ _ hv]
      split
      · exact go _
      · rfl
    · rfl
@[simp] theorem State.promotions_core (s : State) : s.promotions.core = s.core := by simp [State.promotions]
@[simp] theorem State.start_core (s : State) (c : Cmd) : (s.start c).core = s.core := by simp [State.start]
@[simp] theorem runCommand_core (op : Nat) (c : CmdRef) (body : State → Cmd → CmdRes) (s : State) (h : ∀ s k, (body s k).Keeps s.core) :
    (runCommand op c body s).core = s.core := by
  unfold runCommand
  split
  · rfl
  · next k _ =>
    extract_lets go
    have hg : ∀ s, (go s).core = s.core := by
      intro s
      have hb := h s ((s.cmdAt c).getD k)
      unfold go
      cases hr : body s ((s.cmdAt c).getD k) <;> simp_all
    clear_value go
    split
    · rfl
    · split
      · split
        · exact State.finish_core ..
        · split
          · exact (hg _).trans (State.start_core ..)
          · rfl
      · split
        · exact hg _
        · rfl
      · rfl
@[simp] theorem State.mapUnit_core (s : State) (k : UnitKey) (p : Page) : (s.mapUnit k p).core = s.core := by simp [State.mapUnit]
@[simp] theorem State.placeInBulk_core (s : State) (k : UnitKey) : (s.placeInBulk k).Keeps s.core := by
  unfold State.placeInBulk
  split
  · split
    · simp [State.bulkRoom_core _ _ ‹_›]
    · simp
  · simp
theorem State.evictOne_core {t1 : State} (s : State) (h : s.evictOne = some t1) : t1.core = s.core := by
  unfold State.evictOne at h
  obtain ⟨stage, _, h⟩ := List.exists_of_findSome?_eq_some h
  dsimp only at h
  split at h
  · cases h
  · split at h
    · cases h
      exact State.evictUnit_core _ _ _ ‹_›
    · obtain ⟨v, _, hv⟩ := Option.bind_eq_some_iff.1 h
      exact State.evictUnit_core _ _ _ hv
theorem State.evictFor_core {t1 : State} (l : List (UnitKey × UnitEntry)) (s : State) (n : Nat) (h : State.evictFor l s n = some t1) :
    t1.core = s.core := by
  induction l generalizing s with
  | nil =>
    unfold State.evictFor at h
    split at h <;> cases h
    rfl
  | cons u l ih =>
    unfold State.evictFor at h
    split at h
    · cases h; rfl
    · obtain ⟨s', h1, h2⟩ := Option.bind_eq_some_iff.1 h
      rw [ih _ h2, State.evictOne_core _ h1]
@[simp] theorem State.placeEvicting_core (s : State) (k : UnitKey) : (s.placeEvicting k).Keeps s.core := by
  unfold State.placeEvicting
  split
  · have h := State.evictFor_core _ _ _ ‹_›
    split
    · cases State.hbmBlock _ unitBytes <;> simp [h]
    · simp [h]
  · simp
@[simp] theorem State.placeUnit_core (s : State) (k : UnitKey) (w : Want) : (s.placeUnit k w).Keeps s.core := by
  unfold State.placeUnit
  split
  · exact State.placeInBulk_core s k
  · split
    · split
      · exact State.mapUnit_core ..
      · exact State.placeEvicting_core s k
    · split
      · dsimp only
        split
        · exact State.mapUnit_core ..
        · exact State.placeInBulk_core s k
      · exact State.placeInBulk_core s k
@[simp] theorem State.placeUnits_core (s0 : State) (ks : List UnitKey) (w : Want) (s : State) (h0 : s0.core = s.core) :
    (State.placeUnits s0 ks w s).Keeps s.core := by
  induction ks generalizing s with
  | nil => simp [State.placeUnits]
  | cons k ks ih =>
    have hk := State.placeUnit_core s k w
    unfold State.placeUnits
    split
    · next s' hs =>
      rw [hs, AllocRes.keeps_ok] at hk
      rw [← hk]
      exact ih _ (h0.trans hk.symm)
    · split
      · simp [State.evictFor_core _ _ _ ‹_›, h0]
      · simp
    · simp
@[simp] theorem memAllocBody_core (s : State) (c : Cmd) : (memAllocBody s c).Keeps s.core := by
  unfold memAllocBody
  dsimp only
  split
  · simp
  · split
    · simp
    · generalize hr : State.placeUnits s _ _ s = r
      have := hr ▸ State.placeUnits_core s _ _ s rfl
      cases r <;> simp_all
@[simp] theorem memFreeBody_core (s : State) (c : Cmd) : (memFreeBody s c).Keeps s.core := by unfold memFreeBody; split <;> simp
theorem State.bringIn_core {t1 : State} (s : State) (ks : List UnitKey) (h : (s.bringIn ks) = some t1) : t1.core = s.core := by
  refine Option.core_foldlM (fun s k t h => ?_) _ h
  split at h
  · cases h; rfl
  · split at h
    · cases h; rfl
    · split at h
      · cases h; simp
      · exact State.evictFor_core _ _ _ h
@[simp] theorem State.chargeDma_core (s : State) (c : Cmd) (us : Nat) : (s.chargeDma c us).core = s.core := by simp [State.chargeDma]
@[simp] theorem memHintBody_core (s : State) (c : Cmd) : (memHintBody s c).Keeps s.core := by
  unfold memHintBody
  dsimp only
  split
  · simp
  · split
    · simp
    · split
      · simp
      · split
        · simp
        · split
          · simp
          · split
            · simp
            · simp [State.bringIn_core _ _ ‹_›]
theorem State.output_core {t1 : State} (s : State) (c : Cmd) (a : Nat) (bs : List Byte) (h : (s.output c a bs) = .ok t1) : t1.core = s.core := by
  unfold State.output at h
  split at h
  · cases h
  · exact State.stageWrite_core _ _ _ _ _ h
@[simp] theorem CmdRes.ofErr_core (s : State) (e : MemErr) : (CmdRes.ofErr s e).Keeps s.core := by unfold CmdRes.ofErr; split <;> simp
@[simp] theorem placeReportBody_core (s : State) (c : Cmd) : (placeReportBody s c).Keeps s.core := by
  unfold placeReportBody
  dsimp only
  split
  · simp
  · split
    · simp [State.output_core _ _ _ _ ‹_›]
    · simp
@[simp] theorem State.setLease_core (s : State) (t : Nat) (l : Lease) : (s.setLease t l).core = s.core := by simp [State.setLease]
@[simp] theorem State.beginLease_core (s : State) (t : Nat) (m : Nat) (v : Nat) (st : LeaseState) (waits : List CmdRef) :
    (s.beginLease t m v st waits).core = s.core := by
  unfold State.beginLease
  split <;> simp
@[simp] theorem foilLeaseBody_core (s : State) (c : Cmd) : (foilLeaseBody s c).Keeps s.core := by
  simp only [foilLeaseBody]
  (repeat' split) <;> simp
@[simp] theorem State.streamLease_core (s : State) (t : Nat) (l : Lease) : (s.streamLease t l).core = s.core := by simp [State.streamLease]
@[simp] theorem State.activateLease_core (s : State) (t : Nat) (l : Lease) : (s.activateLease t l).core = s.core := by
  simp [State.activateLease]
@[simp] theorem State.moveBlocked_core (s : State) (t : Nat) (p : PoolId) (ratio : Word) : (s.moveBlocked t p ratio).core = s.core := by
  simp [State.moveBlocked]
@[simp] theorem State.modReq_core (s : State) (t : Nat) (tag : Nat) (f : GenReq → GenReq) : (s.modReq t tag f).core = s.core := by
  simp [State.modReq]
@[simp] theorem State.sendItem_core (s : State) (h : PageHeader) : (s.sendItem h).core = s.core := by simp [State.sendItem]
@[simp] theorem State.pumpShips_core (s : State) : s.pumpShips.core = s.core := by simp [State.pumpShips]
@[simp] theorem State.queueItem_core (s : State) (h : PageHeader) : (s.queueItem h).core = s.core := by simp [State.queueItem]
@[simp] theorem State.shipRequest_core (s : State) (r : GenReq) (kind : Nat) (old : List Nat) (new : List Nat) :
    (s.shipRequest r kind old new).core = s.core := by
  simp only [State.shipRequest]
  (repeat' split) <;> simp
@[simp] theorem State.migrateReqs_core (s : State) (t : Nat) (groups : List (List Nat)) : (s.migrateReqs t groups).core = s.core := by
  unfold State.migrateReqs
  refine State.core_foldl _ _ _ fun s r => ?_
  split
  · rfl
  · split <;> simp
@[simp] theorem State.setDecode_core (s : State) (t : Nat) (pool : List Nat) : (s.setDecode t pool).core = s.core := by simp [State.setDecode]
@[simp] theorem State.requeue_core (s : State) (t : Nat) : (s.requeue t).core = s.core := by
  unfold State.requeue
  refine State.core_foldl _ _ _ fun s r => ?_
  split <;> simp
@[simp] theorem State.setPrefill_core (s : State) (t : Nat) (pool : List Nat) : (s.setPrefill t pool).core = s.core := by
  simp [State.setPrefill]
@[simp] theorem State.leavePool_core (s : State) (t : Nat) (rs : List Nat) (src : PoolId) (dst : PoolId) : (s.leavePool t rs src dst).core = s.core := by
  unfold State.leavePool
  split <;> simp
@[simp] theorem State.rebalanced_core (s : State) (t : Nat) (p : PoolId) (n : Nat) (before : Nat) (after : Nat) (ratio : Word) :
    (s.rebalanced t p n before after ratio).core = s.core := by
  simp [State.rebalanced]
@[simp] theorem State.applyAlloc_core (s : State) (t : Nat) (new : BitVec 64) : (s.applyAlloc t new).core = s.core := by
  simp [State.applyAlloc]
@[simp] theorem State.freeShards_core (s : State) (t : Nat) (m : Model) (n : Nat) (ps : List ShardPlace) : (s.freeShards t m n ps).core = s.core := by
  unfold State.freeShards
  split <;> simp
theorem AllocRes.placed_core {r : AllocRes} {t1 : State} {x} (hr : r.Keeps x) (h : r.placed = some t1) : t1.core = x := by
  cases r <;> cases h
  exact hr
theorem State.deviceAlloc_core {v1 : Nat} {t1 : State} (s : State) (t : Nat) (bytes : Nat) (w : Want) (h : (s.deviceAlloc t bytes w) = some (v1, t1)) :
    t1.core = s.core := by
  obtain ⟨s', h1, h2⟩ := Option.map_eq_some_iff.1 h
  cases h2
  exact AllocRes.placed_core (State.placeUnits_core _ _ _ _ rfl) h1
theorem State.allocShards_core {v1 : List ShardPlace} {t1 : State} (s : State) (t : Nat) (m : Model) (n : Nat) (h : (s.allocShards t m n) = some (v1, t1)) :
    t1.core = s.core := by
  obtain ⟨⟨w, s1⟩, h1, h⟩ := Option.bind_eq_some_iff.1 h
  obtain ⟨⟨g, s2⟩, h2, h⟩ := Option.bind_eq_some_iff.1 h
  obtain ⟨⟨st, s3⟩, h3, h⟩ := Option.map_eq_some_iff.1 h
  cases h
  rw [State.deviceAlloc_core _ _ _ _ h3, State.deviceAlloc_core _ _ _ _ h2, State.deviceAlloc_core _ _ _ _ h1]
@[simp] theorem State.restoreMember_core (s : State) (t : Nat) (m : Model) (l : Learn) (ckpt : List Byte) (mirror : Option (List Byte)) :
    (s.restoreMember t m l ckpt mirror).core = s.core := by
  have put : ∀ (s : State) (at' : ShardPlace → Nat) (sizes : List Nat) (bs : List Byte),
      ((sizes.zip l.shards).foldl (fun (acc : State × List Byte) (z, p) =>
        (acc.1.writeCommittedAll t (at' p) (acc.2.take z), acc.2.drop z)) (s, bs)).1.core = s.core :=
    fun s at' sizes bs => State.core_foldl_fst _ (fun p a => by simp) _ _
  unfold State.restoreMember
  cases mirror <;> simp only [Option.elim, put]
@[simp] theorem State.reshardModel_core (s : State) (t : Nat) (mid : Nat) (m : Model) (l : Learn) (members : List Nat) (data : List Byte × List Byte) :
    (s.reshardModel t mid m l members data).core = s.core := by
  unfold State.reshardModel
  extract_lets s1
  have h1 : s1.core = s.core := State.freeShards_core ..
  split
  · exact (State.setLearn_core ..).trans h1
  · split
    · exact h1
    · next h =>
      refine (State.restoreMember_core ..).trans ((State.setLearn_core ..).trans ?_)
      exact (State.allocShards_core _ _ _ _ h).trans h1
@[simp] theorem State.submitWaits_core (s : State) (c : CmdRef) : (s.submitWaits c).core = s.core := by simp [State.submitWaits]
@[simp] theorem State.lookup_core (s : State) (t m v : Nat) (x : Model) (tokens : List Nat) : (s.lookup t m v x tokens).2.2.core = s.core := by
  simp [State.lookup]
@[simp] theorem State.submitDone_core (s : State) (c : CmdRef) : (s.submitDone c).core = s.core := by simp [State.submitDone]
@[simp] theorem State.modStats_core (s : State) (t : Nat) (f : GenStats → GenStats) : (s.modStats t f).core = s.core := by
  simp [State.modStats]
@[simp] theorem State.addReq_core (s : State) (r : GenReq) : (s.addReq r).core = s.core := by simp [State.addReq]
@[simp] theorem genSubmitBody_core (s : State) (c : Cmd) : (genSubmitBody s c).Keeps s.core := by
  have hlookup : ∀ (s : State) (b : Bool) (t m v : Nat) (x : Model) (p : List Nat),
      (if b then s.lookup t m v x p else ([], 0, s)).2.2.core = s.core := by
    intro s b t m v x p
    cases b
    · rfl
    · exact State.lookup_core ..
  unfold genSubmitBody
  extract_lets t m flags draft
  split
  · exact trivial
  split
  · exact trivial
  next x _ =>
  split
  · exact trivial
  split
  · exact trivial
  next v _ =>
  split
  · exact trivial
  split
  · exact trivial
  split
  · exact trivial
  split
  · exact trivial
  · exact trivial
  split
  · exact CmdRes.ofErr_core ..
  · exact trivial
  next bs home _ _ =>
  split
  · exact State.submitWaits_core ..
  next q _ =>
  extract_lets prompt
  have hl := hlookup s (bit flags 0 && s.cacheOn t) t m v x prompt
  generalize (if bit flags 0 && s.cacheOn t then s.lookup t m v x prompt else ([], 0, s)) = found at hl ⊢
  obtain ⟨path, hit, s'⟩ := found
  dsimp only at hl ⊢
  split
  · next ho => exact (State.addReq_core ..).trans ((State.output_core _ _ _ _ ho).trans ((State.submitDone_core ..).trans hl))
  · exact hl ▸ CmdRes.ofErr_core ..
@[simp] theorem State.endReq_core (s : State) (t : Nat) (tag : Nat) (st : ReqState) (status : Nat) (flags : Nat) :
    (s.endReq t tag st status flags).core = s.core := by
  simp [State.endReq]
@[simp] theorem State.processCancel_core (s : State) (r : GenReq) : (s.processCancel r).core = s.core := by
  unfold State.processCancel
  split <;> simp
@[simp] theorem State.cancelNow_core (s : State) (r : GenReq) : (s.cancelNow r).core = s.core := by simp [State.cancelNow]
@[simp] theorem genCancelBody_core (s : State) (c : Cmd) : (genCancelBody s c).Keeps s.core := by
  simp only [genCancelBody]
  (repeat' split) <;> simp
@[simp] theorem State.sendOutput_core (s : State) (r : GenReq) (first : Nat) (recs : List TokRec) : (s.sendOutput r first recs).core = s.core := by
  simp [State.sendOutput]
@[simp] theorem State.reqEvent_core (s : State) (r : GenReq) (kind : Nat) (cause : Nat) (waitMs : Nat) : (s.reqEvent r kind cause waitMs).core = s.core := by
  simp [State.reqEvent]
@[simp] theorem State.dropPath_core (s : State) (r : GenReq) : (s.dropPath r).core = s.core := by simp [State.dropPath]
@[simp] theorem State.freeKv_core (s : State) (r : GenReq) : (s.freeKv r).core = s.core := by simp [State.freeKv]
@[simp] theorem State.finalise_core (s : State) (r : GenReq) : (s.finalise r).core = s.core := by
  simp only [State.finalise]
  (repeat' split) <;> simp
@[simp] theorem State.finaliseAll_core (s : State) (p : GenReq → Bool) : (s.finaliseAll p).core = s.core := by simp [State.finaliseAll]
@[simp] theorem genPhaseBody_core (s : State) (c : Cmd) : (genPhaseBody s c).Keeps s.core := by
  simp only [genPhaseBody]
  (repeat' split) <;> simp
@[simp] theorem State.setPhase_core (s : State) (t : Nat) (p : TenantPhase) : (s.setPhase t p).core = s.core := by simp [State.setPhase]
@[simp] theorem genScoreBody_core (s : State) (c : Cmd) : (genScoreBody s c).Keeps s.core := by
  simp only [genScoreBody]
  (repeat' split) <;> simp
@[simp] theorem genStatsBody_core (s : State) (c : Cmd) : (genStatsBody s c).Keeps s.core := by
  unfold genStatsBody
  split
  · exact State.output_core _ _ _ _ ‹_›
  · exact CmdRes.ofErr_core ..
@[simp] theorem State.stallCheck_core (s : State) (t : Nat) : (s.stallCheck t).core = s.core := by simp [State.stallCheck]
@[simp] theorem State.poolRan_core (s : State) (t : Nat) (rank : Nat) : (s.poolRan t rank).core = s.core := by simp [State.poolRan]
@[simp] theorem State.failReq_core (s : State) (r : GenReq) (status : Nat) : (s.failReq r status).core = s.core := by simp [State.failReq]
@[simp] theorem State.countBatch_core (s : State) (t : Nat) (group : List Nat) (keys : List Nat) : (s.countBatch t group keys).core = s.core := by
  simp [State.countBatch]
theorem State.takePage_core {v1 : Nat} {t1 : State} (s : State) (t : Nat) (m : Nat) (h : (s.takePage t m) = some (v1, t1)) : t1.core = s.core := by
  unfold State.takePage at h
  extract_lets g s1 n a room at h
  have h1 : s1.core = s.core := by
    unfold s1
    split
    · rfl
    · exact State.setGen_core ..
  obtain ⟨s2, h2, h⟩ := Option.map_eq_some_iff.1 h
  have h2 : s2.core = s1.core := by
    unfold room at h2
    split at h2
    · cases h2; rfl
    · exact AllocRes.placed_core (State.placeUnit_core ..) h2
  obtain ⟨-, rfl⟩ := Prod.mk.inj h
  refine (State.setGen_core ..).trans (Eq.trans ?_ (h2.trans h1))
  split
  · exact State.setMem_core ..
  · rfl
theorem State.takePages_core {v1 : List Nat} {t1 : State} (t m n : Nat) (s : State) (h : State.takePages t m n s = some (v1, t1)) : t1.core = s.core := by
  induction n generalizing s v1 t1 with
  | zero => cases h; rfl
  | succ n ih =>
    obtain ⟨⟨p, s2⟩, h2, h⟩ := Option.bind_eq_some_iff.1 h
    obtain ⟨⟨ps, s3⟩, h3, h⟩ := Option.map_eq_some_iff.1 h
    cases h
    rw [ih _ h3, State.takePage_core _ _ _ h2]
theorem KvAcc.layer_core {b : KvAcc} (r : GenReq) (extra flush : Nat) (writes : List (Nat × Nat × List Byte)) (a : KvAcc) (l : Nat)
    (h : KvAcc.layer r extra flush writes a l = some b) : b.s.core = a.s.core := by
  unfold KvAcc.layer at h
  extract_lets old slotRes at h
  obtain ⟨⟨slot, s2⟩, h2, h⟩ := Option.bind_eq_some_iff.1 h
  obtain ⟨⟨more, s3⟩, h3, h⟩ := Option.bind_eq_some_iff.1 h
  obtain ⟨⟨fresh, s4⟩, h4, h⟩ := Option.map_eq_some_iff.1 h
  have e2 : s2.core = a.s.core := by
    unfold slotRes at h2
    split at h2
    · cases h2; rfl
    · exact State.takePage_core _ _ _ h2
  have e4 : s4.core = s3.core := by
    generalize slot :: _ = chain at h4
    by_cases hf : flush ≥ chain.length
    · rw [if_pos hf] at h4
      exact State.takePage_core _ _ _ h4
    · rw [if_neg hf] at h4
      cases h4; rfl
  cases h
  refine (State.givePages_core ..).trans ?_
  rw [State.core_foldl, e4, State.takePages_core _ _ _ _ h3, e2]
  intro s w
  split
  · exact State.setMem_core ..
  · rfl
theorem State.growKv_core {t1 : State} (s : State) (x : Model) (r : GenReq) (n : Nat) (c : Nat) (writes : List (Nat × Nat × List Byte)) (h : (s.growKv x r n c writes) = some t1) :
    t1.core = s.core := by
  obtain ⟨k, hk, rfl⟩ := Option.map_eq_some_iff.1 h
  refine (State.modReq_core ..).trans ?_
  generalize hl : List.range x.layers = ls at hk
  clear hl
  have hfold : ∀ (ls : List Nat) (a k : KvAcc), ls.foldlM (KvAcc.layer r ((r.len % x.pagePos + n - 1) / x.pagePos) ((r.len % x.pagePos + c) / x.pagePos) writes) a = some k →
      k.s.core = a.s.core := by
    intro ls
    induction ls with
    | nil => intro a k h; cases h; rfl
    | cons l ls ih =>
      intro a k h
      obtain ⟨b, h1, h2⟩ := Option.bind_eq_some_iff.1 (show (KvAcc.layer _ _ _ _ a l).bind _ = some k from h)
      rw [ih _ _ h2, KvAcc.layer_core _ _ _ _ _ _ h1]
  exact hfold _ _ _ hk
@[simp] theorem State.trimTree_core (n : Nat) (s : State) (t : Nat) : (State.trimTree n s t).core = s.core := by
  induction n generalizing s with
  | zero => rfl
  | succ n ih =>
    unfold State.trimTree
    dsimp only
    split
    · rfl
    · split
      · rfl
      · rw [ih]
        split
        · exact (State.givePages_core ..).trans (State.setGen_core ..)
        · exact State.setGen_core ..
@[simp] theorem State.addNode_core (s : State) (n : PrefixNode) : (s.addNode n).core = s.core := by simp [State.addNode]
@[simp] theorem State.publish_core (s : State) (x : Model) (r : GenReq) (group : List Nat) (cache : Nat) : (s.publish x r group cache).core = s.core := by
  simp [State.publish]
@[simp] theorem State.commitRecords_core (s : State) (x : Model) (r : GenReq) (recs : List TokRec) : (s.commitRecords x r recs).core = s.core := by
  simp [State.commitRecords]
@[simp] theorem State.commitChunk_core (s : State) (group : List Nat) (colocated : Bool) (cache : Nat) (rs : List StepResult) (x : Model) (r : GenReq) (n : Nat) :
    (s.commitChunk group colocated cache rs x r n).core = s.core := by
  unfold State.commitChunk
  extract_lets q grown
  have hg : ∀ s1, grown = some s1 → s1.core = s.core := by
    intro s1 h
    by_cases hh : s.here group = true
    · exact State.growKv_core _ _ _ _ _ _ ((if_pos hh).symm.trans h)
    · cases (if_neg hh).symm.trans h
      rfl
  clear_value grown
  split
  · exact State.failReq_core ..
  · next s1 =>
    rw [← hg _ rfl]
    extract_lets s2 r1 s3 s4
    have h2 : s2.core = s1.core := State.modReq_core ..
    have h3 : s3.core = s1.core := (State.publish_core ..).trans h2
    have h4 : s4.core = s1.core := (State.modReq_core ..).trans h3
    clear_value s4
    split
    · exact h2
    · split
      extract_lets s5
      have h5 : s5.core = s1.core := (State.commitRecords_core ..).trans h4
      clear_value s5
      split
      · split
        · exact (State.shipRequest_core ..).trans h5
        · exact h5
      · exact h5
@[simp] theorem State.runChunks_core (s : State) (t : Nat) (rank : Nat) (group : List Nat) (colocated : Bool) (cache : Nat) (rs : List StepResult) :
    (s.runChunks t rank group colocated cache rs).core = s.core := by
  unfold State.runChunks
  dsimp only
  rw [State.core_foldl]
  · simp
  · rintro s ⟨r, n⟩
    dsimp only
    split <;> simp
@[simp] theorem State.boundary_core (s : State) (p : GenReq → Bool) : (s.boundary p).core = s.core := by simp [State.boundary]
@[simp] theorem State.spill_core (s : State) (x : Model) (r : GenReq) (cache : Nat) : (s.spill x r cache).core = s.core := by
  simp [State.spill]
@[simp] theorem State.commitDecode_core (s : State) (group : List Nat) (cache : Nat) (rs : List StepResult) (r : GenReq) :
    (s.commitDecode group cache rs r).core = s.core := by
  unfold State.commitDecode
  split
  · rfl
  · extract_lets q ds room recs
    have hg : ∀ s1, (if s.here group then s.growKv ‹Model› r (1 + ds.length) recs.length q.writes else some s) = some s1 → s1.core = s.core := by
      intro s1 h
      by_cases hh : s.here group = true
      · exact State.growKv_core _ _ _ _ _ _ ((if_pos hh).symm.trans h)
      · cases (if_neg hh).symm.trans h
        rfl
    split
    · exact State.failReq_core ..
    · next s1 h1 =>
      have h1 : s1.core = s.core := hg _ h1
      extract_lets s2 s3
      have h2 : s2.core = s.core := (State.modReq_core ..).trans h1
      have h3 : s3.core = s.core := (State.modStats_core ..).trans h2
      exact (State.spill_core ..).trans ((State.commitRecords_core ..).trans h3)
@[simp] theorem State.installItem_core (s : State) (h : PageHeader) (data : List Byte) (poison : List Nat) :
    (s.installItem h data poison).core = s.core := by
  unfold State.installItem
  dsimp only
  split
  · exact State.modReq_core ..
  · split
    · split
      · exact (State.failReq_core ..).trans (State.modReq_core ..)
      · exact State.modReq_core ..
    · next h =>
      refine (State.modReq_core ..).trans ?_
      have h := (State.takePage_core _ _ _ h).trans (State.modReq_core ..)
      split
      · exact (State.setMem_core ..).trans h
      · exact h
@[simp] theorem State.arrive_core (s : State) (r : GenReq) : (s.arrive r).core = s.core := by simp [State.arrive]
@[simp] theorem State.installLanded_core (s : State) (t : Nat) (group : List Nat) : (s.installLanded t group).core = s.core := by
  simp [State.installLanded]
@[simp] theorem State.applyOutput_core (s : State) (u : OutputUpdate) : (s.applyOutput u).core = s.core := by simp [State.applyOutput]
@[simp] theorem State.mapPeer_core (s : State) (h : PageHeader) (n : Nat) (place : Nat) : (s.mapPeer h n place).core = s.core := by
  simp [State.mapPeer]
@[simp] theorem learnSetupBody_core (s : State) (c : Cmd) : (learnSetupBody s c).Keeps s.core := by
  simp only [learnSetupBody]
  (repeat' split) <;> simp
@[simp] theorem State.modLearn_core (s : State) (t : Nat) (m : Nat) (f : Learn → Learn) : (s.modLearn t m f).core = s.core := by
  simp [State.modLearn]
@[simp] theorem State.syncClass_core (s : State) (k : StrideClass) : (s.syncClass k).core = s.core := by simp [State.syncClass]
@[simp] theorem State.syncStride_core (s : State) : s.syncStride.core = s.core := by simp [State.syncStride]
@[simp] theorem State.served_core (s : State) (c : Cmd) (k : StrideClass) : (s.served c k).core = s.core := by simp [State.served]
@[simp] theorem startCommand_core (op : Nat) (c : CmdRef) (body : State → Cmd → CmdRes) (s : State) (h : ∀ s k, (body s k).Keeps s.core) :
    (startCommand op c body s).core = s.core := by
  unfold startCommand
  split
  · rfl
  · next k _ =>
    extract_lets s1 cls go
    have h1 : s1.core = s.core := State.syncStride_core ..
    have hg : ∀ s, (go s).core = s.core := by
      intro s
      unfold go
      clear_value cls
      split
      · split
        · rfl
        · exact State.served_core ..
      · rfl
    clear_value go
    split
    · rfl
    · split
      · exact State.finish_core ..
      · split
        · exact h1
        · refine (hg _).trans ?_
          have hb := h s1 k
          cases hr : body s1 k <;> simp_all
@[simp] theorem State.declare_core (s : State) (t : Nat) (bs : List Byte) (n : Nat) : (s.declare t bs n).core = s.core := by
  unfold State.declare
  dsimp only
  rw [State.core_foldl]
  · exact State.modTp_core ..
  · intro s x
    split
    · rfl
    · exact State.core_foldl _ _ _ fun s i => State.modUnit_core ..
@[simp] theorem State.startTiles_core (s : State) (c : CmdRef) (tenant : Nat) (img : Image) (params : List Byte) (more : List Byte) (tiles : List (Nat × Nat)) :
    (s.startTiles c tenant img params more tiles).core = s.core := by
  unfold State.startTiles
  refine State.core_foldl _ _ _ ?_
  rintro s ⟨⟨r, i⟩, k⟩
  dsimp only
  split
  · split
    · exact State.setTile_core ..
    · rfl
  · rfl
@[simp] theorem State.launch_core (s : State) (c : Cmd) (img : Image) (params : List Byte) (more : List Byte) (tiles : List (Nat × Nat)) (groups : List Nat) (image : List Byte) :
    (s.launch c img params more tiles groups image).core = s.core := by
  simp [State.launch]
@[simp] theorem State.runStep_core (s : State) (c : Cmd) (m : Model) (l : Learn) : (s.runStep c m l).Keeps s.core := by
  simp only [State.runStep]
  (repeat' split) <;> simp
@[simp] theorem learnStepBody_core (s : State) (c : Cmd) : (learnStepBody s c).Keeps s.core := by
  unfold learnStepBody
  (repeat' split) <;> simp
@[simp] theorem State.startPart_core (s : State) (c : CmdRef) (p : TilePart) (params : List Byte) (more : List Byte) (groups : List Nat) :
    (s.startPart c p params more groups).core = s.core := by
  unfold State.startPart
  (repeat' split) <;> simp
@[simp] theorem State.abortOverlap_core (s : State) (t : Nat) (mid : Nat) : (s.abortOverlap t mid).core = s.core := by simp [State.abortOverlap]
@[simp] theorem State.failUpdate_core (s : State) (t : Nat) (j : UpdateJob) (report : List Byte) (status : Nat) (detail : Nat) :
    (s.failUpdate t j report status detail).core = s.core := by
  simp [State.failUpdate]
@[simp] theorem State.endStep_core (s : State) (t : Nat) (mid : Nat) (m : Model) (l : Learn) : (s.endStep t mid m l).core = s.core := by
  simp [State.endStep]
@[simp] theorem State.dropStep_core (s : State) (t : Nat) (mid : Nat) (m : Model) (l : Learn) (j : UpdateJob) (decision : Nat) (status : Nat) (detail : Nat) :
    (s.dropStep t mid m l j decision status detail).core = s.core := by
  simp [State.dropStep]
@[simp] theorem State.swapLearn_core (s : State) (t : Nat) (mid : Nat) (m : Model) (l : Learn) : (s.swapLearn t mid m l).core = s.core := by
  simp [State.swapLearn]
@[simp] theorem State.commitUpdate_core (s : State) (t : Nat) (mid : Nat) (m : Model) (l : Learn) (j : UpdateJob) :
    (s.commitUpdate t mid m l j).core = s.core := by
  have hout : ∀ {s s' : State} {c : Cmd} {r n : Nat} {bs cs : List Byte},
      (do let s ← s.output c r bs; if n == 0 then return s else s.output c n cs : Except MemErr State) = .ok s' → s'.core = s.core := by
    intro s s' c r n bs cs h
    obtain ⟨s1, h1, h⟩ := exceptBind_eq_ok h
    rw [← State.output_core _ _ _ _ h1]
    by_cases hn : (n == 0) = true
    · rw [if_pos hn] at h
      cases h; rfl
    · rw [if_neg hn] at h
      exact State.output_core _ _ _ _ h
  unfold State.commitUpdate
  extract_lets ps gs gb sum
  split
  extract_lets nums report redos v s1 s2 src s3 s4 s5 s6
  have h6 : s6.core = s.core := by simp [s6, s5, s4, s3, s2, s1]
  clear_value s6
  rw [← h6]
  split
  · rfl
  · next k _ =>
    extract_lets out
    have ho : ∀ s', out = .ok s' → s'.core = s6.core := fun s' h => hout h
    clear_value out
    split
    · exact (State.vote_core ..).trans (ho _ rfl)
    · exact State.finish_core ..
    · exact State.finish_core ..
@[simp] theorem State.addDone_core (s : State) (t : Nat) (mid : Nat) (r : DoneRec) : (s.addDone t mid r).core = s.core := by
  unfold State.addDone
  (repeat' split) <;> simp
@[simp] theorem State.checkSwept_core (s : State) (t : Nat) (mid : Nat) : (s.checkSwept t mid).core = s.core := by
  unfold State.checkSwept
  (repeat' split) <;> simp
@[simp] theorem State.beginSweep_core (s : State) (t : Nat) (mid : Nat) (l : Learn) (g : GoRecord) : (s.beginSweep t mid l g).core = s.core := by
  simp [State.beginSweep]
@[simp] theorem State.decideUpdate_core (s : State) (t : Nat) (mid : Nat) (m : Model) (l : Learn) (j : UpdateJob) (u : LearnSetup) :
    (s.decideUpdate t mid m l j u).core = s.core := by
  simp [State.decideUpdate]
@[simp] theorem State.addReady_core (s : State) (t : Nat) (mid : Nat) (r : ReadyRec) : (s.addReady t mid r).core = s.core := by
  unfold State.addReady
  (repeat' split) <;> simp
@[simp] theorem State.checkReady_core (s : State) (t : Nat) (mid : Nat) : (s.checkReady t mid).core = s.core := by
  unfold State.checkReady
  (repeat' split) <;> simp
@[simp] theorem State.takePrepare_core (s : State) (t : Nat) (mid : Nat) (l : Learn) : (s.takePrepare t mid l).core = s.core := by
  simp [State.takePrepare]
@[simp] theorem State.sendPrepare_core (s : State) (t : Nat) (mid : Nat) (l : Learn) (j : UpdateJob) : (s.sendPrepare t mid l j).core = s.core := by
  simp [State.sendPrepare]
@[simp] theorem learnUpdateBody_core (s : State) (c : Cmd) : (learnUpdateBody s c).Keeps s.core := by
  simp only [learnUpdateBody]
  (repeat' split) <;> simp
@[simp] theorem State.pokeCodes_core (s : State) (t : Nat) (places : List (Nat × Nat)) (codes : List Nat) : (s.pokeCodes t places codes).core = s.core := by
  simp [State.pokeCodes]
@[simp] theorem State.updateBlock_core (s : State) (t : Nat) (mid : Nat) (m : Model) (l : Learn) (g : GoRecord) (k : Nat) (b : Nat) (upto : Nat) (p : ShardPlace) :
    (s.updateBlock t mid m l g k b upto p).1.core = s.core := by
  simp [State.updateBlock]
@[simp] theorem State.resumeTakeover_core (s : State) (t : Nat) (mid : Nat) (m : Model) (l : Learn) (x : Takeover) :
    (s.resumeTakeover t mid m l x).core = s.core := by
  simp only [State.resumeTakeover]
  (repeat' split) <;> simp
@[simp] theorem State.rerunOver_core (s : State) (t : Nat) (mid : Nat) (l : Learn) : (s.rerunOver t mid l).core = s.core := by
  simp only [State.rerunOver]
  (repeat' split) <;> simp
@[simp] theorem State.undoBlock_core (s : State) (t : Nat) (m : Model) (l : Learn) (u : LearnSetup) (x : UndoEntry) (p : ShardPlace) :
    (s.undoBlock t m l u x p).core = s.core := by
  unfold State.undoBlock
  refine State.core_foldl _ _ _ ?_
  rintro s ⟨e, i⟩
  refine (State.writeCommittedAll_core ..).trans ?_
  exact State.core_foldl_fst _ (fun p a => State.writeCommittedAll_core ..) _ _
@[simp] theorem State.rebuildBlock_core (s : State) (t : Nat) (m : Model) (l : Learn) (u : LearnSetup) (k : Nat) (b : Nat) (p : ShardPlace) (w : List Byte) (st : List Byte) (g : List Byte) :
    (s.rebuildBlock t m l u k b p w st g).core = s.core := by
  simp [State.rebuildBlock]
@[simp] theorem State.granuleEvent_core (s : State) (kind : Nat) (source : Nat) (a : Nat) (detail : Nat) :
    (s.granuleEvent kind source a detail).core = s.core := by
  simp [State.granuleEvent]
@[simp] theorem State.setModel_core (s : State) (t : Nat) (m : Nat) (x : Model) : (s.setModel t m x).core = s.core := by simp [State.setModel]
theorem State.addModel_core {t1 : State} (s : State) (t : Nat) (mid : Nat) (m : Model) (h : (s.addModel t mid m) = .ok t1) : t1.core = s.core := by
  unfold State.addModel at h
  split at h
  · cases h; exact State.setModel_core ..
  · extract_lets members at h
    split at h
    · cases h; exact State.setModel_core ..
    · split at h
      · next h1 =>
        cases h
        obtain ⟨⟨ps, s2⟩, h2, h1⟩ := Option.bind_eq_some_iff.1 h1
        obtain ⟨⟨tv, s3⟩, h3, h1⟩ := Option.map_eq_some_iff.1 h1
        cases h1
        rw [State.setModel_core, State.deviceAlloc_core _ _ _ _ h3, State.allocShards_core _ _ _ _ h2]
      · cases h
@[simp] theorem modelCreateBody_core (s : State) (c : Cmd) : (modelCreateBody s c).Keeps s.core := by
  unfold modelCreateBody
  dsimp only
  split
  · exact trivial
  split
  · exact trivial
  split
  · exact CmdRes.ofErr_core ..
  · exact CmdRes.ofErr_core ..
  split
  · exact trivial
  split
  · exact CmdRes.ofErr_core ..
  · exact trivial
  split
  · next h => exact State.addModel_core _ _ _ _ h
  · exact trivial
@[simp] theorem State.beginLoad_core (s : State) (c : CmdRef) (mid : Nat) (target : Nat) (v : Nat) : (s.beginLoad c mid target v).core = s.core := by
  simp [State.beginLoad]
@[simp] theorem modelLoadBody_core (s : State) (c : Cmd) : (modelLoadBody s c).Keeps s.core := by
  simp only [modelLoadBody]
  (repeat' split) <;> simp
/-- An allocation that is not unfolded: the kernel else evaluates it where a proof splits what it answers. -/
theorem State.exists_deviceAlloc : ∃ alloc, alloc = @State.deviceAlloc ∧
    ∀ {s : State} {t n w a s'}, alloc s t n w = some (a, s') → s'.core = s.core :=
  ⟨_, rfl, State.deviceAlloc_core _ _ _ _⟩
theorem State.beginFreeze_core {t1 : State} (s : State) (c : CmdRef) (home : Nat) (p : FreezePlan) (h : s.beginFreeze c home p = .ok t1) :
    t1.core = s.core := by
  obtain ⟨alloc, he, halloc⟩ := State.exists_deviceAlloc
  unfold State.beginFreeze at h
  rw [← he] at h
  split at h
  · cases h
  · next m _ =>
    extract_lets part landed j src s1 s2 at h
    have h2 : s2.core = s.core := by
      unfold s2
      split
      · exact (State.setPhase_core ..).trans (State.core_mk ..)
      · exact State.core_mk ..
    clear_value s2
    split at h
    · cases h
      exact h2
    · clear_value part
      split at h
      · cases h
        exact (State.modModel_core ..).trans h2
      · split at h
        · cases h
        · next hd =>
          cases h
          exact (State.modModel_core ..).trans ((halloc hd).trans h2)
@[simp] theorem State.movePointer_core (s : State) (t : Nat) (mid : Nat) (v : Nat) : (s.movePointer t mid v).core = s.core := by
  unfold State.movePointer
  (repeat' split) <;> simp
@[simp] theorem State.requeueReq_core (s : State) (r : GenReq) (v : Nat) (refill : Bool) : (s.requeueReq r v refill).core = s.core := by
  simp only [State.requeueReq]
  (repeat' split) <;> simp
@[simp] theorem State.relookup_core (s : State) (x : Model) (r : GenReq) : (s.relookup x r).core = s.core := by
  unfold State.relookup
  split
  · rfl
  · exact (State.modReq_core ..).trans (State.lookup_core ..)
@[simp] theorem State.publishReq_core (s : State) (x : Model) (v : Nat) (policy : Nat) (n : PolicyCount) (r : GenReq) :
    (s.publishReq x v policy n r).1.core = s.core := by
  unfold State.publishReq
  (repeat' split) <;> simp
@[simp] theorem State.resumeReq_core (s : State) (x : Model) (v : Nat) (n : PolicyCount) (r : GenReq) : (s.resumeReq x v n r).1.core = s.core := by
  simp only [State.resumeReq]
  (repeat' split) <;> simp
@[simp] theorem State.publishFoil_core (s : State) (j : FreezeJob) : (s.publishFoil j).1.core = s.core := by
  simp only [State.publishFoil]
  (repeat' split) <;> simp
@[simp] theorem State.publishHere_core (s : State) (j : FreezeJob) : (s.publishHere j).core = s.core := by
  unfold State.publishHere
  extract_lets p t s1 src s2 s3 s4 policy live
  have h4 : s4.core = s.core := by simp [s4, s3, s2, s1]
  clear_value s4
  split
  · rfl
  · rw [← h4]
    extract_lets prev x
    split
    next s5 n5 e5 =>
    have h5 : s5.core = s4.core := by
      have := State.core_foldl_fst (fun (a : State × PolicyCount) r => a.1.publishReq x p.version policy a.2 r)
        (fun a r => State.publishReq_core ..) live (s4, ⟨0, 0, 0⟩)
      exact (congrArg (fun a => State.core a.1) e5).symm.trans this
    extract_lets parked
    split
    next s6 n6 e6 =>
    have h6 : s6.core = s4.core := by
      have := State.core_foldl_fst (fun (a : State × PolicyCount) r => a.1.resumeReq x p.version a.2 r)
        (fun a r => State.resumeReq_core ..) parked (s5, n5)
      exact ((congrArg (fun a => State.core a.1) e6).symm.trans this).trans h5
    extract_lets src' s7
    have h7 : s7.core = s4.core := by
      unfold s7
      split
      · exact h6
      · exact (State.core_mk ..).trans h6
    clear_value s7
    split
    next s8 st e8 =>
    have h8 : s8.core = s4.core := by
      split at e8
      · exact ((congrArg (fun a => State.core a.1) e8).symm.trans (State.publishFoil_core ..)).trans h7
      · exact ((congrArg (fun a => State.core a.1) e8).symm).trans h7
    simp [h8]
@[simp] theorem State.publishFromLearn_core (s : State) (j : FreezeJob) : (s.publishFromLearn j).core = s.core := by
  simp [State.publishFromLearn]
@[simp] theorem State.startFreeze_core (s : State) (c : CmdRef) (p : FreezePlan) : (s.startFreeze c p).Keeps s.core := by
  unfold State.startFreeze
  split
  · exact trivial
  · next h =>
    have h := State.beginFreeze_core _ _ _ _ h
    split
    · simp [h]
    · exact h
@[simp] theorem State.freezeVersion_core (s : State) (c : Cmd) (m : Model) (v : Nat) (overlap : Bool) : (s.freezeVersion c m v overlap).Keeps s.core := by
  simp only [State.freezeVersion]
  (repeat' split) <;> simp
@[simp] theorem State.overlapFreeze_core (s : State) (c : Cmd) : (s.overlapFreeze c).core = s.core := by
  unfold State.overlapFreeze
  extract_lets t mid mine started s1 src s2
  have h1 : s1.core = s.core := State.start_core ..
  have h2 : s2.core = s.core := by
    unfold s2
    split
    · rfl
    · exact State.start_core ..
  clear_value s1 s2
  split
  · rfl
  split
  · rfl
  split
  · rfl
  split
  · split
    · rfl
    · exact (State.core_mk ..).trans h1
  · split
    · have hv := State.freezeVersion_core s2 c
      split
      · next hf => exact (State.vote_core ..).trans (((CmdRes.keeps_ok ..).1 (hf ▸ hv _ _ _)).trans h2)
      · exact (State.finish_core ..).trans h2
      · next hf => exact (State.finish_core ..).trans (((CmdRes.keeps_failWith ..).1 (hf ▸ hv _ _ _)).trans h2)
      · next hf => exact ((CmdRes.keeps_wait ..).1 (hf ▸ hv _ _ _)).trans h2
    · rfl
@[simp] theorem freezeBody_core (s : State) (c : Cmd) : (freezeBody s c).Keeps s.core := by simp only [freezeBody]; (repeat' split) <;> simp
@[simp] theorem thawBody_core (s : State) (c : Cmd) : (thawBody s c).Keeps s.core := by simp only [thawBody]; (repeat' split) <;> simp
@[simp] theorem versionHoldBody_core (s : State) (c : Cmd) : (versionHoldBody s c).Keeps s.core := by
  simp only [versionHoldBody]
  (repeat' split) <;> simp
@[simp] theorem versionQueryBody_core (s : State) (c : Cmd) : (versionQueryBody s c).Keeps s.core := by
  unfold versionQueryBody
  split
  · exact trivial
  · split
    · exact State.output_core _ _ _ _ ‹_›
    · exact CmdRes.ofErr_core ..
@[simp] theorem State.deleteModel_core (s : State) (t : Nat) (mid : Nat) (m : Model) : (s.deleteModel t mid m).core = s.core := by
  unfold State.deleteModel
  split <;> simp
@[simp] theorem modelDeleteBody_core (s : State) (c : Cmd) : (modelDeleteBody s c).Keeps s.core := by
  unfold modelDeleteBody
  (repeat' split) <;> simp
@[simp] theorem State.storePart_core (s : State) (t : Nat) (m : Model) (l : Learn) (g : GenPart) (x : TensorDef) (j : Nat) (u : Nat) (data : List Byte) :
    (s.storePart t m l g x j u data).core = s.core := by
  simp [State.storePart]
@[simp] theorem State.modFreeze_core (s : State) (c : CmdRef) (f : FreezeJob → FreezeJob) : (s.modFreeze c f).core = s.core := by
  simp [State.modFreeze]
@[simp] theorem State.addLanded_core (s : State) (j : FreezeJob) (r : Nat) : (s.addLanded j r).core = s.core := by simp [State.addLanded]
@[simp] theorem State.partHere_core (s : State) (j : FreezeJob) (m : Model) (l : Learn) (i : Nat) (k : Nat) (src : Nat) (u : Nat) (tsc : Word) (data : List Byte) :
    (s.partHere j m l i k src u tsc data).core = s.core := by
  simp only [State.partHere]
  (repeat' split) <;> simp
@[simp] theorem State.dropStaging_core (s : State) (t : Nat) (mid : Nat) (v : Nat) : (s.dropStaging t mid v).core = s.core := by
  unfold State.dropStaging
  split <;> simp
@[simp] theorem State.failFreeze_core (s : State) (j : FreezeJob) (status : Nat) (detail : Nat) : (s.failFreeze j status detail).core = s.core := by
  simp [State.failFreeze]
@[simp] theorem State.sendParts_core (s : State) (j : FreezeJob) (m : Model) (l : Learn) (k : Nat) (u : Nat) (tsc : Word) :
    (s.sendParts j m l k u tsc).core = s.core := by
  simp [State.sendParts]
@[simp] theorem State.parkReq_core (s : State) (r : GenReq) (refill : Bool) : (s.parkReq r refill).core = s.core := by
  simp only [State.parkReq]
  (repeat' split) <;> simp
@[simp] theorem State.thawReq_core (s : State) (policy : Nat) (n : PolicyCount) (r : GenReq) : (s.thawReq policy n r).1.core = s.core := by
  unfold State.thawReq
  (repeat' split) <;> simp
@[simp] theorem State.thawPolicy_core (s : State) (t : Nat) (policy : Nat) : (s.thawPolicy t policy).1.core = s.core := by
  unfold State.thawPolicy
  exact State.core_foldl_fst _ (fun p r => State.thawReq_core ..) _ _
@[simp] theorem State.endThaw_core (s : State) (j : ThawJob) : (s.endThaw j).core = s.core := by simp [State.endThaw]
@[simp] theorem State.linkFailed_core (s : State) (l : Nat) (n : Nat) : (s.linkFailed l n).core = s.core := by simp [State.linkFailed]
@[simp] theorem State.queueOn_core (s : State) (peer : Nat) (ws : List Waiting) : (s.queueOn peer ws).core = s.core := by
  unfold State.queueOn
  refine State.core_foldl _ _ _ fun s w => ?_
  split
  · exact State.modLink_core ..
  · exact (State.modLink_core ..).trans (State.setLnk_core ..)
@[simp] theorem State.detourEvent_core (s : State) (kind : Nat) (peer : Nat) (via : Nat) : (s.detourEvent kind peer via).core = s.core := by
  simp [State.detourEvent]
@[simp] theorem State.markDetour_core (s : State) (peer : Nat) (b : Bool) : (s.markDetour peer b).core = s.core := by simp [State.markDetour]
@[simp] theorem State.endDetour_core (s : State) (d : Detour) : (s.endDetour d).core = s.core := by simp [State.endDetour]
@[simp] theorem State.drainDetour_core (s : State) (peer : Nat) : (s.drainDetour peer).core = s.core := by
  simp only [State.drainDetour]
  (repeat' split) <;> simp
@[simp] theorem State.linkUp_core (s : State) (l : Nat) (grant : Bool) : (s.linkUp l grant).core = s.core := by simp [State.linkUp]
@[simp] theorem State.dropWaiting_core (s : State) (peer : Nat) : (s.dropWaiting peer).core = s.core := by simp [State.dropWaiting]
@[simp] theorem State.switchDetour_core (s : State) (peer : Nat) (via : Nat) : (s.switchDetour peer via).core = s.core := by
  simp [State.switchDetour]
@[simp] theorem State.route_core (s : State) (w : Waiting) : (s.route w).core = s.core := by
  simp only [State.route]
  (repeat' split) <;> simp
@[simp] theorem State.inject_core (s : State) (f : Frame) : (s.inject f).core = s.core := by simp [State.inject]
@[simp] theorem State.sendFrame_core (s : State) (l : Nat) (x : Link) (w : Waiting) : (s.sendFrame l x w).core = s.core := by
  unfold State.sendFrame
  (repeat' split) <;> simp
@[simp] theorem State.chooseFrame_core (s : State) (l : Nat) : (s.chooseFrame l).core = s.core := by
  simp only [State.chooseFrame]
  (repeat' split) <;> simp
@[simp] theorem State.loseFrame_core (s : State) (l : Nat) (uncorrectable : Bool) : (s.loseFrame l uncorrectable).core = s.core := by
  simp [State.loseFrame]
@[simp] theorem State.deliverFrame_core (s : State) (f : Frame) : (s.deliverFrame f).core = s.core := by simp [State.deliverFrame]
@[simp] theorem State.deliverReady_core (n : Nat) (s : State) (k : Nat × Nat) : (State.deliverReady n s k).core = s.core := by
  induction n generalizing s with
  | zero => rfl
  | succ n ih =>
    unfold State.deliverReady
    dsimp only
    split
    · rfl
    · rw [ih, State.deliverFrame_core, State.setLnk_core]
@[simp] theorem State.arriveFrame_core (s : State) (f : Frame) : (s.arriveFrame f).core = s.core := by simp [State.arriveFrame]
@[simp] theorem State.acceptFrame_core (s : State) (l : Nat) (f : Frame) : (s.acceptFrame l f).core = s.core := by simp [State.acceptFrame]
@[simp] theorem State.receiveFrame_core (s : State) (l : Nat) (f : Frame) : (s.receiveFrame l f).core = s.core := by simp [State.receiveFrame]
@[simp] theorem State.joinLoad_core (s : State) (c : CmdRef) (params : List Byte) : (s.joinLoad c params).core = s.core := by
  simp [State.joinLoad]
@[simp] theorem State.failLoad_core (s : State) (c : CmdRef) (reason : Nat) (seg : Nat) : (s.failLoad c reason seg).core = s.core := by
  simp [State.failLoad]
@[simp] theorem State.modLoad_core (s : State) (c : CmdRef) (f : RelayLoad → RelayLoad) : (s.modLoad c f).core = s.core := by
  simp [State.modLoad]
@[simp] theorem State.completeLoad_core (s : State) (c : CmdRef) (r : RelayLoad) (m : Model) : (s.completeLoad c r m).core = s.core := by
  obtain ⟨alloc, he, halloc⟩ := State.exists_deviceAlloc
  unfold State.completeLoad
  rw [← he]
  extract_lets t ready
  have hr : ∀ s u w, (ready s u w).core = s.core := by
    intro s u w
    unfold ready
    dsimp only
    split
    · simp
    · split <;> simp
  clear_value ready
  split
  · exact hr ..
  · split
    · split
      · simp
      · next h =>
        exact (hr ..).trans ((State.modModel_core ..).trans (halloc h))
    · exact hr ..
@[simp] theorem State.checkLoad_core (s : State) (c : CmdRef) : (s.checkLoad c).core = s.core := by
  simp only [State.checkLoad]
  (repeat' split) <;> simp
@[simp] theorem State.passOn_core (s : State) (c : CmdRef) (k : Nat) (params : List Byte) (data : List Byte) :
    (s.passOn c k params data).core = s.core := by
  simp [State.passOn]
@[simp] theorem State.takeHead_core (s : State) (c : CmdRef) (r : RelayLoad) (params : List Byte) (h : List Byte) (tagOk : Bool) (digestOk : Bool) :
    (s.takeHead c r params h tagOk digestOk).core = s.core := by
  simp [State.takeHead]
@[simp] theorem State.takeSegment_core (s : State) (c : CmdRef) (r : RelayLoad) (params : List Byte) (h : List Byte) (cipher : List Byte) (plain : Option (List Byte)) :
    (s.takeSegment c r params h cipher plain).core = s.core := by
  simp only [State.takeSegment]
  (repeat' split) <;> simp
@[simp] theorem State.endImage_core (s : State) (c : CmdRef) (r : RelayLoad) : (s.endImage c r).core = s.core := by
  simp only [State.endImage]
  (repeat' split) <;> simp
@[simp] theorem State.tellMembers_core (s : State) (c : Cmd) : (s.tellMembers c).core = s.core := by simp [State.tellMembers]
@[simp] theorem State.addGroup_core (s : State) (g : CollGroup) : (s.addGroup g).core = s.core := by simp [State.addGroup]
@[simp] theorem State.dropGroup_core (s : State) (t : Nat) (g : Nat) : (s.dropGroup t g).core = s.core := by simp [State.dropGroup]
@[simp] theorem State.collGroupEvent_core (s : State) (t : Nat) (g : Nat) (parts : Nat) : (s.collGroupEvent t g parts).core = s.core := by
  simp [State.collGroupEvent]
@[simp] theorem State.takeFail_core (s : State) (k : CollKey) (code : Nat) (cause : Nat) : (s.takeFail k code cause).core = s.core := by
  unfold State.takeFail
  split <;> simp
@[simp] theorem State.abortLost_core (s : State) (rank : Nat) : (s.abortLost rank).core = s.core := by simp [State.abortLost]
@[simp] theorem State.emitDomain_core (s : State) (kind : Nat) (subject : Nat) (value : Nat) (cause : Nat) :
    (s.emitDomain kind subject value cause).core = s.core := by
  simp [State.emitDomain]
@[simp] theorem State.loseCommands_core (s : State) (rank : Nat) : (s.loseCommands rank).core = s.core := by simp [State.loseCommands]
@[simp] theorem State.freezeLoss_core (s : State) (rank : Nat) : (s.freezeLoss rank).core = s.core := by
  unfold State.freezeLoss
  refine State.core_foldl _ _ _ fun s j => ?_
  dsimp only
  split
  · rfl
  · split
    · rfl
    · split
      · split
        · exact State.failFreeze_core ..
        · rfl
      · split
        · exact State.modFreeze_core ..
        · split
          · simp
          · simp
@[simp] theorem State.loseMember_core (s : State) (r : Nat) : (s.loseMember r).core = s.core := by
  unfold State.loseMember
  refine State.core_foldl _ _ _ ?_
  rintro s ⟨k, _⟩
  dsimp only
  split
  · rfl
  · split
    · rfl
    · split
      · exact State.loseMemberOf_core ..
      · rfl
@[simp] theorem State.leavePools_core (s : State) (t : Nat) (rank : Nat) (spare : Option Nat) : (s.leavePools t rank spare).core = s.core := by
  unfold State.leavePools
  (repeat' split) <;> simp
@[simp] theorem State.loseRelay_core (s : State) (rank : Nat) (held : List CmdRef) (spare : Option Nat) :
    (s.loseRelay rank held spare).core = s.core := by
  unfold State.loseRelay
  refine State.core_foldl _ _ _ fun s r => ?_
  split
  · rfl
  · (repeat' split) <;> simp
@[simp] theorem State.poisonPeer_core (s : State) (rank : Nat) : (s.poisonPeer rank).core = s.core := by simp [State.poisonPeer]
@[simp] theorem State.loseRequests_core (s : State) (rank : Nat) : (s.loseRequests rank).core = s.core := by simp [State.loseRequests]
theorem State.outputAny_core {t1 : State} (s : State) (c : Cmd) (a : Nat) (bs : List Byte) (h : (s.outputAny c a bs) = .ok t1) : t1.core = s.core := by
  unfold State.outputAny at h
  split at h
  · split at h
    · cases h; exact State.hostWrite_core ..
    · cases h
  · exact State.output_core _ _ _ _ h
@[simp] theorem State.finishConfig_core (s : State) (j : ConfigJob) : (s.finishConfig j).core = s.core := by
  unfold State.finishConfig
  extract_lets src s1
  have h1 : s1.core = s.core := State.setCmd_core ..
  clear_value s1
  split
  · exact h1
  · split
    · next h =>
      exact (State.vote_core ..).trans ((State.outputAny_core _ _ _ _ h).trans h1)
    · exact (State.finish_core ..).trans h1
    · exact (State.finish_core ..).trans h1
@[simp] theorem State.modJob_core (s : State) (c : CmdRef) (f : ConfigJob → ConfigJob) : (s.modJob c f).core = s.core := by
  simp [State.modJob]
@[simp] theorem State.meetMinimum_core (s : State) (t : Nat) (p : PoolId) : (s.meetMinimum t p).core = s.core := by simp [State.meetMinimum]
@[simp] theorem State.applyFields_core (s : State) (t : Nat) (epoch : Nat) (fs : List (Nat × Nat)) : (s.applyFields t epoch fs).core = s.core := by
  simp [State.applyFields]
@[simp] theorem State.pumpConfig_core (n : Nat) (s : State) (c : CmdRef) : (State.pumpConfig n s c).core = s.core := by
  induction n generalizing s c with
  | zero => rfl
  | succ n ih =>
    unfold State.pumpConfig
    split
    · rfl
    · split
      · rfl
      · split
        · dsimp only
          split <;> simp [ih]
        · split
          · simp [ih]
          · dsimp only
            (repeat' split) <;> simp [ih]
@[simp] theorem State.pump_core (s : State) (c : CmdRef) : (s.pump c).core = s.core := by simp [State.pump]
@[simp] theorem State.pumpAll_core (s : State) : s.pumpAll.core = s.core := by simp [State.pumpAll]
@[simp] theorem State.resettle_core (s : State) : s.resettle.core = s.core := by simp [State.resettle]
@[simp] theorem State.beginRound_core (s : State) (round : Nat) : (s.beginRound round).core = s.core := by simp [State.beginRound]
@[simp] theorem State.memberLost_core (s : State) (rank : Nat) (cause : Nat) : (s.memberLost rank cause).core = s.core := by
  simp [State.memberLost]
@[simp] theorem sqCreateBody_core (s : State) (c : Cmd) : (sqCreateBody s c).Keeps s.core := by
  simp only [sqCreateBody]
  (repeat' split) <;> simp
@[simp] theorem State.endWaiting_core (s : State) (fn : Nat) (idx : Nat) : (s.endWaiting fn idx).core = s.core := by simp [State.endWaiting]
@[simp] theorem sqDestroyBody_core (s : State) (c : Cmd) : (sqDestroyBody s c).Keeps s.core := by
  simp only [sqDestroyBody]
  (repeat' split) <;> simp
@[simp] theorem cqCreateBody_core (s : State) (c : Cmd) : (cqCreateBody s c).Keeps s.core := by
  simp only [cqCreateBody]
  (repeat' split) <;> simp
@[simp] theorem cqDestroyBody_core (s : State) (c : Cmd) : (cqDestroyBody s c).Keeps s.core := by
  simp only [cqDestroyBody]
  (repeat' split) <;> simp
@[simp] theorem configSetBody_core (s : State) (c : Cmd) : (configSetBody s c).Keeps s.core := by
  unfold configSetBody
  (repeat' split) <;> simp
@[simp] theorem configGetBody_core (s : State) (c : Cmd) : (configGetBody s c).Keeps s.core := by
  unfold configGetBody
  dsimp only
  split
  · exact State.outputAny_core _ _ _ _ ‹_›
  · exact CmdRes.ofErr_core ..
@[simp] theorem eventRingBody_core (s : State) (c : Cmd) : (eventRingBody s c).Keeps s.core := by
  simp only [eventRingBody]
  (repeat' split) <;> simp
@[simp] theorem tenantResetBody_core (s : State) (c : Cmd) : (tenantResetBody s c).Keeps s.core := by
  simp only [tenantResetBody]
  (repeat' split) <;> simp
@[simp] theorem captureReadBody_core (s : State) (c : Cmd) : (captureReadBody s c).Keeps s.core := by
  unfold captureReadBody
  split
  · exact trivial
  · split
    · exact State.outputAny_core _ _ _ _ ‹_›
    · exact CmdRes.ofErr_core ..
@[simp] theorem State.recalAll_core (s : State) : s.recalAll.core = s.core := by simp [State.recalAll]
@[simp] theorem State.stepEvents_core (s : State) (f n : Nat) : (s.stepEvents f n).core = s.core := by
  induction n generalizing s f with
  | zero => rfl
  | succ n ih =>
    unfold State.stepEvents
    rw [ih, State.faultEvent_core]
@[simp] theorem State.driveFault_core (s : State) : s.driveFault.core = s.core := by simp [State.driveFault]
@[simp] theorem State.withdraw_core (s : State) (unit : Nat) (cause : Nat) : (s.withdraw unit cause).core = s.core := by simp [State.withdraw]
@[simp] theorem domainStatusBody_core (s : State) (c : Cmd) : (domainStatusBody s c).Keeps s.core := by
  unfold domainStatusBody
  split
  · exact trivial
  · split
    · exact CmdRes.ofErr_core ..
    · next h =>
      simp [State.outputAny_core _ _ _ _ h]
@[simp] theorem State.completeInvalidations_core (s : State) (c : CmdRef) : (s.completeInvalidations c).core = s.core := by
  simp [State.completeInvalidations]
theorem State.copySource_core {r : CmdRes} (s : State) (c : Cmd) (src len : Nat) (host : Option (List Byte × Bool))
    (h : s.copySource c src len host = .error r) : r.Keeps s.core := by
  unfold State.copySource at h
  split at h
  · extract_lets a at h
    split at h
    · cases h; exact CmdRes.ofErr_core ..
    · split at h <;> cases h
      · exact rfl
      · exact trivial
  · split at h <;> cases h
    exact CmdRes.ofErr_core ..
@[simp] theorem memCopyBody_core (host : Option (List Byte × Bool)) (s : State) (c : Cmd) : (memCopyBody host s c).Keeps s.core := by
  unfold memCopyBody
  dsimp only
  split
  · simp
  · split
    · exact trivial
    · split
      · exact State.copySource_core _ _ _ _ _ ‹_›
      · split
        · split
          · exact CmdRes.ofErr_core ..
          · exact State.setHost_core ..
        · split
          · exact State.stageWrite_core _ _ _ _ _ ‹_›
          · exact CmdRes.ofErr_core ..
@[simp] theorem tileRunBody_core (others : List Nat) (s : State) (c : Cmd) : (tileRunBody others s c).Keeps s.core := by
  simp only [tileRunBody]
  (repeat' split) <;> simp
@[simp] theorem rndFillBody_core (s : State) (c : Cmd) : (rndFillBody s c).Keeps s.core := by
  unfold rndFillBody
  dsimp only
  split
  · exact trivial
  · split
    · exact State.output_core _ _ _ _ ‹_›
    · exact CmdRes.ofErr_core ..
theorem selfTest_core (inRange : Nat → Bool) (drained : State → Nat → Bool) (drain failed' : State → Nat → Nat → State)
    (passed : State → Nat → State) (result : Option (Bool × Nat × Nat)) (s : State) (c : Cmd)
    (hd : ∀ s a b, (drain s a b).core = s.core) (hf : ∀ s a b, (failed' s a b).core = s.core) (hp : ∀ s a, (passed s a).core = s.core) :
    (selfTest inRange drained drain failed' passed result s c).Keeps s.core := by
  unfold selfTest
  dsimp only
  (repeat' split) <;> simp [hd, hf, hp]
@[simp] theorem tileTest_core (result : Option (Bool × Nat × Nat)) (x1 : State) (x2 : Cmd) : (tileTest result x1 x2).Keeps x1.core := by
  exact selfTest_core _ _ _ _ _ _ _ _ (fun _ _ _ => rfl) (fun _ _ _ => State.tileOut_core ..) fun _ _ => rfl
@[simp] theorem engineTest_core (result : Option (Bool × Nat × Nat)) (x1 : State) (x2 : Cmd) : (engineTest result x1 x2).Keeps x1.core := by
  exact selfTest_core _ _ _ _ _ _ _ _ (fun _ _ _ => rfl) (fun _ _ _ => State.beginReset_core ..) fun _ _ => rfl
@[simp] theorem State.drainForTest_core (s : State) (pc : Nat) : (s.drainForTest pc).core = s.core := by simp [State.drainForTest]
@[simp] theorem State.endTestDrain_core (s : State) (pc : Nat) : (s.endTestDrain pc).core = s.core := by simp [State.endTestDrain]
@[simp] theorem pcTest_core (result : Option (Bool × Nat × Nat)) (x1 : State) (x2 : Cmd) : (pcTest result x1 x2).Keeps x1.core := by
  exact selfTest_core _ _ _ _ _ _ _ _ (fun _ _ _ => State.drainForTest_core ..)
    (fun _ _ _ => (State.beginDrain_core ..).trans (State.endTestDrain_core ..)) fun _ _ => State.endTestDrain_core ..
@[simp] theorem bsramTest_core (result : Option (Bool × Nat × Nat)) (x1 : State) (x2 : Cmd) : (bsramTest result x1 x2).Keeps x1.core := by
  exact selfTest_core _ _ _ _ _ _ _ _ (fun _ _ _ => State.core_foldl _ _ _ fun _ _ => State.revokeLease_core ..)
    (fun _ _ _ => State.withdrawLease_core ..) fun _ _ => rfl
@[simp] theorem linkTest_core (result : Option (Bool × Nat × Nat)) (x1 : State) (x2 : Cmd) : (linkTest result x1 x2).Keeps x1.core := by
  exact selfTest_core _ _ _ _ _ _ _ _ (fun _ _ _ => by split <;> simp)
    (fun _ _ _ => State.linkFailed_core ..) fun _ _ => State.releaseLink_core ..
@[simp] theorem State.doorbellInvalid_core (s : State) (f : Fin 513) (idx : Nat) (die : Nat) (v : Word) :
    (s.doorbellInvalid f idx die v).core = s.core := by
  simp [State.doorbellInvalid]
@[simp] theorem State.sqDoorbell_core (s : State) (f : Fin 513) (idx : Nat) (v : Word) : (s.sqDoorbell f idx v).core = s.core := by
  unfold State.sqDoorbell
  (repeat' split) <;> simp
@[simp] theorem State.settleCq_core (s : State) (f : Fin 513) (cq : Nat) : (s.settleCq f cq).core = s.core := by simp [State.settleCq]
@[simp] theorem State.cqDoorbell_core (s : State) (f : Fin 513) (idx : Nat) (v : Word) : (s.cqDoorbell f idx v).core = s.core := by
  unfold State.cqDoorbell
  (repeat' split) <;> simp
@[simp] theorem State.admitCmd_core (s : State) (q : Sq) (c : Cmd) : (s.admitCmd q c).core = s.core := by
  unfold State.admitCmd
  split <;> simp
@[simp] theorem State.afterCommit_core (s : State) (c : Cmd) : (s.afterCommit c).core = s.core := by simp [State.afterCommit]
@[simp] theorem State.applyPhase_core (s : State) (t : Nat) (epoch : Nat) (fs : List (Nat × Nat)) : (s.applyPhase t epoch fs).core = s.core := by
  simp only [State.applyPhase]
  (repeat' split) <;> simp
@[simp] theorem State.resumeRings_core (s : State) (f : Fin 513) : (s.resumeRings f).core = s.core := by simp [State.resumeRings]
@[simp] theorem State.resetPf0Queues_core (s : State) : s.resetPf0Queues.core = s.core := by simp [State.resetPf0Queues]
@[simp] theorem State.notReady_core (s : State) : s.notReady.core = s.core := by simp [State.notReady]
@[simp] theorem State.becomeQuarantined_core (s : State) (cause : Nat) : (s.becomeQuarantined cause).core = s.core := by
  simp [State.becomeQuarantined]
@[simp] theorem State.sendElected_core (s : State) (f : Form) (cause : Nat) (lost : BitVec 64) : (s.sendElected f cause lost).core = s.core := by
  simp [State.sendElected]
@[simp] theorem State.admissionEvents_core (s : State) (f : Form) (cause : Nat) (joined : Bool) : (s.admissionEvents f cause joined).core = s.core := by
  simp [State.admissionEvents]
@[simp] theorem State.discardTenant_core (s : State) (t : Nat) (disable : Bool) : (s.discardTenant t disable).core = s.core := by
  simp [State.discardTenant]
@[simp] theorem State.discardHeld_core (s : State) : s.discardHeld.core = s.core := by simp [State.discardHeld]
@[simp] theorem State.applyAdmission_core (s : State) (a : Admission) (discard : Bool) : (s.applyAdmission a discard).core = s.core := by
  simp [State.applyAdmission]
@[simp] theorem State.slew_core (s : State) (offset : Int) : (s.slew offset).core = s.core := by simp [State.slew]
@[simp] theorem State.countHang_core (s : State) : s.countHang.core = s.core := by simp [State.countHang]
@[simp] theorem State.failPort_core (s : State) (p : Nat) : (s.failPort p).core = s.core := by unfold State.failPort; split <;> simp
@[simp] theorem State.escalatedEvent_core (s : State) (l : ResetLevel) (u : Nat) (record : Nat) : (s.escalatedEvent l u record).core = s.core := by
  simp [State.escalatedEvent]
@[simp] theorem State.escalateDie_core (s : State) (d : Nat) : (s.escalateDie d).core = s.core := by simp [State.escalateDie]
@[simp] theorem State.failTest_core (s : State) : s.failTest.core = s.core := by
  unfold State.failTest
  extract_lets fail
  split
  · rfl
  · split
    · exact runCommand_core _ _ _ _ fun _ _ => tileTest_core ..
    · exact runCommand_core _ _ _ _ fun _ _ => engineTest_core ..
    · exact runCommand_core _ _ _ _ fun _ _ => pcTest_core ..
    · exact runCommand_core _ _ _ _ fun _ _ => bsramTest_core ..
    · exact runCommand_core _ _ _ _ fun _ _ => linkTest_core ..
    · rfl
@[simp] theorem State.settleMode_core (s : State) : s.settleMode.core = s.core := by simp [State.settleMode]
@[simp] theorem State.hangEvent_core (s : State) (l : ResetLevel) (u : Nat) (e : FaultEvent) : (s.hangEvent l u e).core = s.core := by
  simp [State.hangEvent]
@[simp] theorem State.guiltyOf_core (s : State) (x : HangReplay) (c : Cmd) : (s.guiltyOf x c).core = s.core := by simp [State.guiltyOf]
@[simp] theorem State.finishTenantReset_core (s : State) (x : TenantReset) : (s.finishTenantReset x).core = s.core := by
  simp [State.finishTenantReset]
@[simp] theorem State.powerEvent_core (s : State) (die : Nat) (kind : Nat) (unit : Nat) (level : Nat) (temp : Int) (mhz : Nat) (detail : Nat) :
    (s.powerEvent die kind unit level temp mhz detail).core = s.core := by
  simp [State.powerEvent]
@[simp] theorem State.noticeFrom_core (before : Option (Nat × Nat)) (s : State) : (State.noticeFrom before s).core = s.core := by
  simp [State.noticeFrom]
@[simp] theorem State.levelEvent_core (s : State) (k : Nat) : (s.levelEvent k).core = s.core := by simp [State.levelEvent]
@[simp] theorem State.tripDie_core (s : State) (d : Nat) : (s.tripDie d).core = s.core := by simp [State.tripDie]
@[simp] theorem State.setSig_core (s : State) (x : SigState) : (s.setSig x).core = s.core := by simp [State.setSig]
@[simp] theorem State.bootController_core (s : State) : s.bootController.core = s.core := by
  simp only [State.bootController]
  (repeat' split) <;> simp
@[simp] theorem State.takeBoard_core (s : State) : s.takeBoard.core = s.core := by unfold State.takeBoard; split <;> simp
@[simp] theorem State.railsOn_core (s : State) (t1 : Nat) : (s.railsOn t1).core = s.core := by simp [State.railsOn]
@[simp] theorem State.releaseHeld_core (s : State) : s.releaseHeld.core = s.core := by simp [State.releaseHeld]
@[simp] theorem State.endModuleReset_core (s : State) : s.endModuleReset.core = s.core := by unfold State.endModuleReset; split <;> simp
@[simp] theorem State.raiseSvn_core (s : State) : s.raiseSvn.core = s.core := by simp [State.raiseSvn]
@[simp] theorem State.setBoot_core (s : State) (x : BootState) : (s.setBoot x).core = s.core := by simp [State.setBoot]
@[simp] theorem State.keyRequest_core (s : State) (t : Nat) (k : Nat) (key : Option (List Byte)) : (s.keyRequest t k key).core = s.core := by
  simp [State.keyRequest]
@[simp] theorem State.sendKey_core (s : State) (t : Nat) (k : Nat) (key : Option (List Byte)) : (s.sendKey t k key).core = s.core := by
  simp [State.sendKey]
@[simp] theorem State.setTdi_core (s : State) (t : Nat) (x : TdiState) : (s.setTdi t x).core = s.core := by simp [State.setTdi]
@[simp] theorem State.doorbellWord_core (s : State) (f : Fin 513) (o : Nat) (v : Word) : (s.doorbellWord f o v).core = s.core := by
  simp [State.doorbellWord]
@[simp] theorem State.hostDoorbellWrite_core (s : State) (f : Fin 513) (offset : Nat) (data : List (Option Byte)) :
    (s.hostDoorbellWrite f offset data).core = s.core := by
  simp [State.hostDoorbellWrite]
@[simp] theorem State.readWord_core (s : State) (f : Fin 513) (o : Nat) (latch : Bool) : (s.readWord f o latch).2.core = s.core := by
  unfold State.readWord
  (repeat' split) <;> simp
@[simp] theorem State.readPart_core (s : State) (f : Fin 513) (bar2 : Bool) (o : Nat) (be : List Bool) : (s.readPart f bar2 o be).2.core = s.core := by
  simp only [State.readPart]
  (repeat' split) <;> simp
@[simp] theorem State.hostRegRead_core (s : State) (f : Fin 513) (bar2 : Bool) (offset : Nat) (be : List Bool) :
    (s.hostRegRead f bar2 offset be).core = s.core := by
  have hfold : ∀ (xs : List (Nat × List (Option Byte))) (acc : List Byte × State),
      (xs.foldl (fun (acc : List Byte × State) (x : Nat × List (Option Byte)) =>
        let (d, s) := acc.2.readPart f bar2 x.1 (x.2.map Option.isSome)
        (acc.1 ++ d, s)) acc).2.core = acc.2.core := by
    intro xs
    induction xs with
    | nil => intro acc; rfl
    | cons x xs ih => intro acc; rw [List.foldl_cons, ih]; exact State.readPart_core ..
  unfold State.hostRegRead
  split
  · rfl
  · split
    · exact State.reply_core ..
    · split
      · simp
      · exact (State.reply_core ..).trans (hfold ..)
@[simp] theorem State.mapOutAtStart_core (s : State) (pc : Nat) : (s.mapOutAtStart pc).core = s.core := by simp [State.mapOutAtStart]

end Sys2Proof.Machine
end

section
/-! PROOFS. The operations that put another legal clock in place of the clock, and resets. -/

namespace Sys2Proof.Machine

open Sys2Proof.Claims

/-! What else may change: the clocks, each time to another legal one. -/

/-- The queue is the same, and the clocks are legal where they were. -/
def State.Follows (t s : State) : Prop := t.pending = s.pending ∧ (ClocksLegal s → ClocksLegal t)

theorem State.pending_of_core {s t : State} (h : t.core = s.core) : t.pending = s.pending := congrArg (·.1) h
theorem State.pat_of_core {s t : State} (h : t.core = s.core) : t.pat = s.pat := congrArg (·.2.1) h
theorem State.pwr_of_core {s t : State} (h : t.core = s.core) : t.pwr = s.pwr := congrArg (·.2.2) h

theorem State.Follows.refl (s : State) : s.Follows s := ⟨rfl, id⟩
theorem State.Follows.trans {s t u : State} (h : u.Follows t) (h' : t.Follows s) : u.Follows s := ⟨h.1.trans h'.1, h.2 ∘ h'.2⟩
theorem State.Follows.of_core {s t : State} (h : t.core = s.core) : t.Follows s := by
  refine ⟨pending_of_core h, fun hs => ?_⟩
  rw [ClocksLegal, pat_of_core h, pwr_of_core h]
  exact hs
/-- An operation that keeps the core may come after. -/
theorem State.Follows.core {s t u : State} (h : t.Follows s) (hu : u.core = t.core) : u.Follows s := (of_core hu).trans h
theorem State.Follows.ite {s t u : State} {c : Prop} [Decidable c] (h : c → t.Follows s) (h' : ¬c → u.Follows s) :
    State.Follows (if c then t else u) s := by
  split
  · next hc => exact h hc
  · next hc => exact h' hc
theorem State.Follows.foldl {α : Type} {g : State → α → State} (hg : ∀ s a, (g s a).Follows s) (l : List α) (s : State) :
    (l.foldl g s).Follows s := by
  induction l generalizing s with
  | nil => exact .refl s
  | cons a l ih => exact (ih _).trans (hg s a)

/-- Patina's state anew: with f and a plan that waits as legal as they were. -/
theorem State.setPat_follows {s : State} {p : PatinaState} (hm : ClocksLegal s → 1500 ≤ p.maxMhz ∧ p.maxMhz ≤ 1950 ∧ p.maxMhz % 25 = 0)
    (hp : ClocksLegal s → ∀ q, p.pending = some q → 1500 ≤ q.maxMhz ∧ q.maxMhz ≤ 1950 ∧ q.maxMhz % 25 = 0) : (s.setPat p).Follows s :=
  ⟨rfl, fun h => ⟨hm h, hp h, h.2.2⟩⟩
/-- Patina's state anew, with the same f and the same plan. -/
theorem State.setPat_follows_same {s : State} {p : PatinaState} (hm : p.maxMhz = s.pat.maxMhz) (hp : p.pending = s.pat.pending) :
    (s.setPat p).Follows s :=
  setPat_follows (fun h => hm ▸ h.1) (fun h => hp ▸ h.2.1)

/-- The governor's state anew, with the same clock and ceilings. -/
theorem State.setPwr_follows_same {s : State} {x : PowerState} (hm : x.powerMhz = s.pwr.powerMhz) (hd : x.dies = s.pwr.dies) :
    (s.setPwr x).Follows s := by
  refine ⟨rfl, fun ⟨hf, hp, hg, hc⟩ => ⟨hf, hp, ?_, ?_⟩⟩
  · exact (show (s.setPwr x).pwr.powerMhz = s.pwr.powerMhz from hm) ▸ hg
  · exact (show (s.setPwr x).pwr.dies = s.pwr.dies from hd) ▸ hc

/-- The governor's clock anew. -/
theorem State.setPwr_follows_mhz {s : State} {x : PowerState} (hm : ClocksLegal s → 975 ≤ x.powerMhz ∧ x.powerMhz ≤ 1950 ∧ x.powerMhz % 25 = 0)
    (hd : x.dies = s.pwr.dies) : (s.setPwr x).Follows s := by
  refine ⟨rfl, fun h => ?_⟩
  obtain ⟨hf, hp, -, hc⟩ := id h
  exact ⟨hf, hp, hm h, (show (s.setPwr x).pwr.dies = s.pwr.dies from hd) ▸ hc⟩

/-- A die's thermal state anew. -/
theorem State.setDieTherm_follows {s : State} {d : Fin 6} {x : DieTherm}
    (hx : ClocksLegal s → ∀ c, x.ceil = some c → 975 ≤ c ∧ c ≤ 1950 ∧ c % 25 = 0) : (s.setDieTherm d x).Follows s := by
  refine ⟨rfl, fun h => ?_⟩
  obtain ⟨hf, hp, hg, hc⟩ := id h
  refine ⟨hf, hp, hg, fun e c he => ?_⟩
  have he : (s.pwr.dies.set d x)[e].ceil = some c := he
  by_cases hde : d = e
  · subst hde
    exact hx h c (by simpa using he)
  · have : (d : Nat) ≠ e := fun h => hde (Fin.ext h)
    exact hc e c (by simpa [Vector.getElem_set, this] using he)
theorem State.setStack_follows (s : State) (k : Fin 16) (x : StackTherm) : (s.setStack k x).Follows s := setPwr_follows_same rfl rfl

/-! The clocks that a state allows. -/

theorem State.dieAt_eq {s : State} {d : Nat} (h : d < 6) : s.dieAt d = s.pwr.dies[(⟨d, h⟩ : Fin 6)] := by
  simp [dieAt, h]

/-- What a list of a die's stacks has at most. -/
theorem stacks_filter_le (d : Nat) (f : Nat → ThermLevel) (p : ThermLevel → Bool) : (((stacksOf d).map f).filter p).length ≤ 4 :=
  Nat.le_trans (List.length_filter_le ..) (by simp [stacksOf])

theorem State.stackCeil_legal {s : State} {d c : Nat} (h : s.stackCeil d = some c) : 975 ≤ c ∧ c ≤ 1950 ∧ c % 25 = 0 := by
  unfold stackCeil at h
  extract_lets ls hot at h
  have hn : hot ≤ 4 := stacks_filter_le ..
  clear_value hot
  split at h
  · cases h
    decide
  · split at h
    · cases h
      omega
    · cases h

theorem State.dieCeil_legal {s : State} (h : ClocksLegal s) {d : Nat} (hd : d < 6) :
    975 ≤ s.dieCeil d ∧ s.dieCeil d ≤ s.pat.maxMhz ∧ s.dieCeil d % 25 = 0 := by
  obtain ⟨hf, -, -, hc⟩ := h
  have hs : 975 ≤ (s.stackCeil d).getD s.pat.maxMhz ∧ (s.stackCeil d).getD s.pat.maxMhz % 25 = 0 := by
    cases hs : s.stackCeil d with
    | none => exact ⟨by simp; omega, hf.2.2⟩
    | some c => exact ⟨(stackCeil_legal hs).1, (stackCeil_legal hs).2.2⟩
  have hx : 975 ≤ (s.dieAt d).ceil.getD s.pat.maxMhz ∧ (s.dieAt d).ceil.getD s.pat.maxMhz % 25 = 0 := by
    rw [dieAt_eq hd]
    cases hx : s.pwr.dies[(⟨d, hd⟩ : Fin 6)].ceil with
    | none => exact ⟨by simp; omega, hf.2.2⟩
    | some c => exact ⟨(hc _ c hx).1, (hc _ c hx).2.2⟩
  unfold dieCeil
  omega

/-- The tensor clock. -/
theorem State.dieMhz_legal {s : State} (h : ClocksLegal s) {d : Nat} (hd : d < 6) :
    s.dieMhz d = 0 ∨ (975 ≤ s.dieMhz d ∧ s.dieMhz d ≤ s.pat.maxMhz ∧ s.dieMhz d % 25 = 0) := by
  have hc := dieCeil_legal h hd
  obtain ⟨-, -, hg, -⟩ := h
  unfold dieMhz
  split
  · exact .inl rfl
  · right
    omega

theorem State.governorMhz_legal {s : State} (h : ClocksLegal s) : 975 ≤ s.governorMhz ∧ s.governorMhz ≤ 1950 ∧ s.governorMhz % 25 = 0 := by
  obtain ⟨hf, -, hg, -⟩ := h
  unfold governorMhz
  omega

theorem State.governorTop_legal {s : State} (h : ClocksLegal s) : 975 ≤ s.governorTop ∧ s.governorTop ≤ 1950 ∧ s.governorTop % 25 = 0 := by
  have hc := fun d hd => dieCeil_legal h (d := d) hd
  obtain ⟨hf, -⟩ := h
  have h0 := hc 0 (by omega)
  have h1 := hc 1 (by omega)
  have h2 := hc 2 (by omega)
  have h3 := hc 3 (by omega)
  unfold governorTop
  simp only [List.range, List.range.loop, List.foldl]
  omega

/-! Resets and what asks for them. -/

/-- Without a plan that waits, and the governor as at reset. -/
theorem State.follows_of_reset {s t : State} (hq : t.pending = s.pending) (hm : t.pat.maxMhz = s.pat.maxMhz) (hp : t.pat.pending = none)
    (hg : t.pwr.powerMhz = PowerState.reset.powerMhz) (hd : t.pwr.dies = PowerState.reset.dies) : t.Follows s := by
  refine ⟨hq, fun ⟨hf, _⟩ => ⟨hm ▸ hf, fun p h => ?_, hg ▸ ?_, fun d c h => ?_⟩⟩
  · rw [hp] at h
    cases h
  · decide
  · rw [hd] at h
    simp [PowerState.reset] at h
theorem State.wipeModule_follows (s : State) : s.wipeModule.Follows s := follows_of_reset rfl rfl rfl rfl rfl
theorem State.powerLoss_follows (s : State) : s.powerLoss.Follows s := follows_of_reset rfl rfl rfl rfl rfl

theorem State.moduleReset_follows (s : State) (cause : Nat) : (s.moduleReset cause).Follows s := by
  unfold moduleReset
  split
  · exact .refl s
  · have hc := beginCapture_core s (srcCore 0 7) cause .module 0xFFFF
    generalize s.beginCapture (srcCore 0 7) cause .module 0xFFFF = begun at hc ⊢
    obtain ⟨id, s1⟩ := begun
    replace hc : s1.core = s.core := hc
    exact ((wipeModule_follows _).core (setFlt_core ..)).trans (.of_core (by simp [hc]))
theorem State.restartModule_follows (s : State) (cause : Nat) : (s.restartModule cause).Follows s := by
  unfold restartModule
  exact .ite (fun _ => .refl s) fun _ => (moduleReset_follows ..).core (startPackage_core ..)
theorem State.escalate_follows (s : State) (l : ResetLevel) (u record : Nat) : (s.escalate l u record).Follows s := by
  have restart : ((s.escalatedEvent l u record).restartModule 2).Follows s := (restartModule_follows ..).trans (.of_core (escalatedEvent_core ..))
  cases l with
  | tile => exact .of_core (tileOut_core ..)
  | engine =>
    show State.Follows (if _ then _ else if _ then _ else _) s
    exact .ite (fun _ => .of_core (by simp)) fun _ => .ite (fun _ => .of_core (by simp)) fun _ => restart
  | linkGroup => exact .refl s
  | die => exact restart
  | tenant => exact .refl s
  | module => exact .of_core ((withdraw_core ..).trans (escalatedEvent_core ..))
theorem State.resetUnit_follows (s : State) (l : ResetLevel) (u cause : Nat) : (s.resetUnit l u cause).Follows s :=
  .ite (fun _ => escalate_follows ..) fun _ => .of_core (beginReset_core ..)
theorem State.hangInService_follows (s : State) (l : ResetLevel) (u : Nat) : (s.hangInService l u).Follows s :=
  .ite (fun _ => escalate_follows ..) fun _ => .of_core (by simp)
theorem State.hangInMode_follows (s : State) (l : ResetLevel) (u : Nat) : (s.hangInMode l u).Follows s :=
  .ite (fun _ => (escalate_follows ..).trans (.of_core (setFlt_core ..))) fun _ => .of_core (by simp)
theorem State.endReplay_follows (s : State) (x : HangReplay) : (s.endReplay x).Follows s := by
  unfold endReplay
  exact .ite (fun _ => .of_core (setFlt_core ..)) fun _ => .ite (fun _ => (escalate_follows ..).trans (.of_core (by simp))) fun _ => .of_core (by simp)
theorem State.settleReplays_follows (s : State) : s.settleReplays.Follows s := (Follows.foldl endReplay_follows ..).core (settleMode_core _)

/-! Register writes. -/

theorem State.writeReset_follows (s : State) (v : Nat) : (s.writeReset v).1.Follows s := by
  unfold writeReset
  split
  · exact .refl s
  · split
    · exact .refl s
    · exact restartModule_follows ..
    · exact .of_core (beginReset_core ..)
theorem State.writeFlt_follows (s : State) (o v : Nat) : (s.writeFlt o v).1.Follows s := by
  unfold writeFlt
  split
  · exact .of_core (setFlt_core ..)
  · exact writeReset_follows ..
  · exact .refl s
theorem applied_fst (s : State) : (applied s).1 = s := rfl
theorem State.regWrite_follows (s : State) (f : Fin 513) (r v : Nat) : (s.regWrite f r v).1.Follows s := by
  unfold regWrite
  extract_lets b o src src'
  clear_value b
  split
  case h_10 => exact writeFlt_follows ..
  case h_11 =>
    rw [applied_fst]
    exact .ite (fun _ => setPwr_follows_same rfl rfl) fun _ => .refl s
  all_goals exact .of_core (by simp)
theorem State.finishWrite_follows (s : State) (f : Fin 513) (offset be r v : Nat) : (s.finishWrite f offset be r v).Follows s :=
  .ite (fun _ => regWrite_follows ..) fun _ => (regWrite_follows ..).core (logAccess_core ..)
theorem State.writePart_follows (s : State) (f : Fin 513) (o : Nat) (bs : List (Option Byte)) : (s.writePart f o bs).Follows s := by
  unfold writePart
  extract_lets be drop
  have hdrop : ∀ reason, (drop reason).Follows s := fun _ => .of_core (logAccess_core ..)
  refine .ite (fun _ => .refl s) fun _ => .ite (fun _ => hdrop _) fun _ => ?_
  split
  · exact hdrop _
  · refine .ite (fun _ => hdrop _) fun _ => .ite (fun _ => ?_) fun _ => .ite (fun _ => hdrop _) fun _ => .ite (fun _ => hdrop _) fun _ =>
      .ite (fun _ => finishWrite_follows ..) fun _ => .ite (fun _ => .of_core (by simp)) fun _ =>
      (finishWrite_follows ..).trans (.of_core (by simp))
    exact .ite (fun _ => (finishWrite_follows ..).trans (finishWrite_follows ..)) fun _ => finishWrite_follows ..
theorem State.hostRegWrite_follows (s : State) (f : Fin 513) (offset : Nat) (data : List (Option Byte)) : (s.hostRegWrite f offset data).Follows s :=
  .ite (fun _ => .refl s) fun _ => .foldl (fun _ _ => .ite (fun _ => .of_core (core_mk ..)) fun _ => writePart_follows ..) ..
theorem State.hostWriteWord_follows (s : State) (f : Fin 513) (offset : Nat) (v : Word) :
    (s.hostWriteWord f offset v).Follows s := hostRegWrite_follows ..
theorem State.writeFltReset_follows (s : State) (level unit : Nat) : (s.writeFltReset level unit).Follows s := hostWriteWord_follows ..
theorem State.releaseWrites_follows (s : State) (d : Nat) : (s.releaseWrites d).Follows s :=
  (Follows.foldl (fun _ _ => writePart_follows ..) ..).trans (.of_core (core_mk ..))

/-! Forming the domain: a new member applies the settings of its configuration record. -/

theorem State.applySetting_follows (s : State) (o : Nat) (v : Word) : (s.applySetting o v).Follows s := by
  unfold applySetting
  split
  · exact .refl s
  · exact .ite (fun _ => .refl s) fun _ => .ite (fun _ => regWrite_follows ..) fun _ => .ite (fun _ => .of_core (by simp)) fun _ =>
      (regWrite_follows ..).trans (.of_core (by simp))
theorem State.applySettings_follows (s : State) : s.applySettings.Follows s := by
  unfold applySettings
  split
  · exact .refl s
  · exact (Follows.foldl (fun _ _ => applySetting_follows ..) ..).core (writeSpares_core ..)
theorem State.becomeMember_follows (s : State) : s.becomeMember.Follows s :=
  .ite (fun _ => .of_core (by simp)) fun _ => (applySettings_follows _).trans (.of_core (by simp))
theorem State.elect_follows (s : State) : s.elect.Follows s := by
  unfold elect
  extract_lets forms anchor ranks judged yes no before lostBefore kept members lowest ceil keepAnchor moved src s1 mine s2 s3 s4
  have h2 : s2.Follows s := by
    have h1 : s1.core = s.core := setDom_core ..
    exact .ite (fun _ => (becomeMember_follows _).trans (.of_core h1)) fun _ => .of_core ((becomeQuarantined_core ..).trans h1)
  refine h2.core ?_
  have h3 : s3.core = s2.core := by simp [s3]
  have h4 : s4.core = s3.core := by simp [s4]
  simp [h4, h3]
theorem State.pumpRound_follows (s : State) : s.pumpRound.Follows s := by
  unfold pumpRound
  extract_lets complete src s1
  have h1 : s1.core = s.core := by
    unfold s1
    split
    · rfl
    · split <;> simp
  exact .ite (fun _ => (elect_follows _).trans (.of_core h1)) fun _ => .of_core h1

/-! Patina's re-plans. -/

theorem State.applyReplan_follows {s : State} {p : Replan} (h : s.pat.pending = some p) : (s.applyReplan p).Follows s := by
  unfold applyReplan
  extract_lets src s1 s2 event s3 s4
  have h1 : s1.Follows s := setPat_follows (fun hs => hs.2.1 p h) (fun _ _ h => nomatch h)
  have he : ∀ s kind, (event s kind).core = s.core := fun _ _ => faultEvent_core ..
  have h4 : s4.core = s1.core := by
    unfold s4 s3 s2
    simp [he]
  exact h1.core (by simp [h4])
theorem State.replanBoundary_follows (s : State) : s.replanBoundary.Follows s := by
  unfold replanBoundary
  split
  · exact .refl s
  · next h => exact .ite (fun _ => .refl s) fun _ => applyReplan_follows h

theorem PatinaState.foldl_keeps {α : Type} {g : PatinaState → α → PatinaState}
    (hg : ∀ p a, (g p a).maxMhz = p.maxMhz ∧ (g p a).pending = p.pending) (l : List α) (p : PatinaState) :
    (l.foldl g p).maxMhz = p.maxMhz ∧ (l.foldl g p).pending = p.pending := by
  induction l generalizing p with
  | nil => exact ⟨rfl, rfl⟩
  | cons a l ih => exact ⟨(ih _).1.trans (hg p a).1, (ih _).2.trans (hg p a).2⟩
theorem PatinaState.sample_keeps (p : PatinaState) (k : MarginKind × Nat) (v : Int) :
    (p.sample k v).maxMhz = p.maxMhz ∧ (p.sample k v).pending = p.pending := by
  unfold sample
  extract_lets old
  split <;> exact ⟨rfl, rfl⟩
/-- Samples change neither f nor the plan that waits. -/
theorem PatinaState.takeReading_keeps (p : PatinaState) (r : PlanReading) :
    (p.takeReading r).maxMhz = p.maxMhz ∧ (p.takeReading r).pending = p.pending := by
  unfold takeReading
  extract_lets p1 p2 p3
  have h1 : p1.maxMhz = p.maxMhz ∧ p1.pending = p.pending := foldl_keeps (fun p d => by
    cases p.average d with
    | none => exact ⟨rfl, rfl⟩
    | some m => exact sample_keeps ..) ..
  have h2 : p2.maxMhz = p1.maxMhz ∧ p2.pending = p1.pending := foldl_keeps (fun _ _ => sample_keeps ..) ..
  have h3 : p3.maxMhz = p2.maxMhz ∧ p3.pending = p2.pending := foldl_keeps (fun _ _ => sample_keeps ..) ..
  have h4 := foldl_keeps (g := fun p (l, mv) => p.sample (.eye, l) mv) (fun _ _ => sample_keeps ..) r.eyes p3
  exact ⟨h4.1.trans (h3.1.trans (h2.1.trans h1.1)), h4.2.trans (h3.2.trans (h2.2.trans h1.2))⟩

/-- The loop goes down by whole steps, at most `n` of them. -/
theorem PatinaState.planClock_eq (p : PatinaState) (h n f : Nat) : ∃ k ≤ n, (p.planClock h n f).1 = f - 25 * k := by
  induction n generalizing f with
  | zero => exact ⟨0, Nat.le_refl 0, rfl⟩
  | succ n ih =>
    unfold planClock
    split
    · obtain ⟨k, hk, he⟩ := ih (f - 25)
      exact ⟨k + 1, by omega, by rw [he]; omega⟩
    · exact ⟨0, by omega, rfl⟩
/-- With the steps that there are to 1,500 MHz it ends at a legal clock. -/
theorem PatinaState.planClock_legal (p : PatinaState) (h : Nat) {f : Nat} (hf : 1500 ≤ f ∧ f ≤ 1950 ∧ f % 25 = 0) :
    1500 ≤ (p.planClock h ((f - 1500) / 25) f).1 ∧ (p.planClock h ((f - 1500) / 25) f).1 ≤ 1950 ∧ (p.planClock h ((f - 1500) / 25) f).1 % 25 = 0 := by
  obtain ⟨k, hk, he⟩ := p.planClock_eq h ((f - 1500) / 25) f
  omega

end Sys2Proof.Machine
end

section
/-! PROOFS. Re-plans, the governor, temperatures: what an event answers follows the state before. -/

namespace Sys2Proof.Machine

open Sys2Proof.Claims

theorem State.replan_follows (s : State) (cmds : List CmdRef) (r : PlanReading) : (s.replan cmds r).Follows s := by
  obtain ⟨hmax, hpend⟩ := PatinaState.takeReading_keeps s.pat r
  unfold replan
  extract_lets p h
  have hf := fun hs : ClocksLegal s => p.planClock_legal h (hmax ▸ hs.1 : 1500 ≤ p.maxMhz ∧ p.maxMhz ≤ 1950 ∧ p.maxMhz % 25 = 0)
  generalize p.planClock h ((p.maxMhz - 1500) / 25) p.maxMhz = clock at hf ⊢
  obtain ⟨f, exhausted⟩ := clock
  dsimp -zeta only
  extract_lets n s1
  have h1 : s1.Follows s := (setPat_follows_same hmax hpend).core (stepEvents_core ..)
  have hlegal : ClocksLegal s → 1500 ≤ f ∧ f ≤ 1950 ∧ f % 25 = 0 := hf
  have h0 : ClocksLegal s → 1500 ≤ p.maxMhz ∧ p.maxMhz ≤ 1950 ∧ p.maxMhz % 25 = 0 := fun hs => hmax ▸ hs.1
  split
  · exact h1.core (withdraw_core ..)
  · generalize s1.planHbm r.ratios = hbm
    obtain ⟨out, low, twice⟩ := hbm
    refine ⟨h1.1, fun hs => ⟨h0 hs, fun q hq => ?_, (h1.2 hs).2.2⟩⟩
    cases hq
    exact hlegal hs

/-- What a step may answer: the state after, its queue as it was and its clocks as legal. -/
def Follows (o : Out) (s : State) : Prop := ∃ t, o = .next t ∧ t.Follows s
theorem follows_next {s t : State} (h : t.Follows s) : Follows (.next t) s := ⟨t, rfl, h⟩
theorem follows_of_core {s t : State} (h : t.core = s.core) : Follows (.next t) s := ⟨t, rfl, .of_core h⟩

/-! Power. -/

theorem State.limitEvent_follows (s : State) (detail : Nat) : (s.limitEvent detail).Follows s :=
  .ite (fun _ => .refl s) fun _ => (Follows.of_core (powerEvent_core ..)).trans (setPwr_follows_same rfl rfl)
theorem State.reducePower_follows (s : State) (steps : Nat) : (s.reducePower steps).Follows s := by
  refine (limitEvent_follows ..).trans (setPwr_follows_mhz (fun h => ?_) rfl)
  have := governorMhz_legal h
  show 975 ≤ max _ _ ∧ max _ _ ≤ _ ∧ max _ _ % 25 = 0
  omega
theorem execGovernorSample_follows (pkgW inputW : Fin 4096) (mj : Nat) (tc : Fin 256) (predicted : List Nat) (steps : Nat) (s : State) :
    Follows (execGovernorSample pkgW inputW mj tc predicted steps s) s := by
  refine follows_next (.ite (fun _ => .refl s) fun _ => ?_)
  have h1 : ∀ x : PowerState, x.powerMhz = s.pwr.powerMhz → x.dies = s.pwr.dies → (s.setPwr x).Follows s := fun x => State.setPwr_follows_same
  exact .ite (fun _ => (State.reducePower_follows ..).trans (h1 _ rfl rfl)) fun _ => .ite
    (fun _ => .ite (fun _ => h1 _ rfl rfl) fun _ => h1 _ rfl rfl) fun _ => h1 _ rfl rfl
theorem execGovernorRelease_follows (s : State) : Follows (execGovernorRelease s) s := by
  refine follows_next (.ite (fun _ => .refl s) fun _ => ?_)
  extract_lets src s1 src1 f f' s2
  have h1 : s1.Follows s := State.setPwr_follows_same rfl rfl
  have h2 : s2.Follows s1 := State.setPwr_follows_mhz (fun h => by
    have hg := State.governorMhz_legal h
    have ht := State.governorTop_legal h
    show 975 ≤ f' ∧ f' ≤ 1950 ∧ f' % 25 = 0
    omega) rfl
  exact .ite (fun _ => (State.setPwr_follows_same rfl rfl).trans h1) fun _ => .ite (fun _ => h1) fun _ =>
    .ite (fun _ => (State.limitEvent_follows ..).trans (h2.trans h1)) fun _ => h2.trans h1
theorem execInputVoltage_follows (v : Fin 65536) (long : Bool) (s : State) : Follows (execInputVoltage v long s) s := by
  have h1 : ∀ x : PowerState, x.powerMhz = s.pwr.powerMhz → x.dies = s.pwr.dies → (s.setPwr x).Follows s := fun x => State.setPwr_follows_same
  refine follows_next (.ite (fun _ => h1 _ rfl rfl) fun _ => .ite (fun _ => ?_) fun _ => ?_)
  · exact State.follows_of_reset rfl rfl rfl rfl rfl
  · exact .ite (fun _ => h1 _ rfl rfl) fun _ => .ite (fun _ => h1 _ rfl rfl) fun _ => (State.Follows.of_core (State.powerEvent_core ..)).trans
      ((State.setPwr_follows_same rfl rfl).trans (h1 _ rfl rfl))

/-! Temperatures. -/

theorem State.countTrip_follows (s : State) : s.countTrip.Follows s := setPwr_follows_same rfl rfl
theorem State.moveStack_follows (s : State) (k : Fin 16) (x : StackTherm) (l : ThermLevel) : (s.moveStack k x l).Follows s := by
  unfold moveStack
  extract_lets d tripped before s1 s2 s3 s4
  have h2 : s2.Follows s := (Follows.of_core (t := s2) (s := s1) (by simp [s2])).trans (setStack_follows ..)
  have h4 : s4.core = s2.core := by
    unfold s4
    split
    · exact powerEvent_core ..
    · rfl
  clear_value s2 s4
  refine .ite (fun _ => .ite (fun _ => ?_) fun _ => ?_) fun _ => .ite (fun _ => ?_) fun _ => h2
  · exact (countTrip_follows _).trans h2
  · exact ((countTrip_follows _).trans h2).core (by simp [s3])
  · exact h2.core (by simp [h4])
theorem execStackTempSample_follows (k : Fin 16) (tj : Int) (s : State) : Follows (execStackTempSample k tj s) s := by
  refine follows_next (.ite (fun _ => .refl s) fun _ => ?_)
  extract_lets x n low since x1 s1 due
  have h1 : s1.Follows s := State.setStack_follows ..
  have hm : ∀ x l, (s1.moveStack k x l).Follows s := fun _ _ => (State.moveStack_follows ..).trans h1
  refine .ite (fun _ => hm ..) fun _ => .ite (fun _ => hm ..) fun _ => .ite (fun _ => ?_) fun _ => h1
  cases exitBound x1.level with
  | none => exact h1
  | some b => exact hm ..

/-- A die whose ceiling is taken over as it is. -/
theorem State.setDieTherm_follows_same {s : State} {d : Fin 6} {x : DieTherm} (h : x.ceil = (s.dieAt d).ceil) : (s.setDieTherm d x).Follows s :=
  setDieTherm_follows fun hs c hc => hs.2.2.2 d c (by rw [← hc, h, dieAt_eq d.2])
theorem State.sampleTripped_follows (s : State) (d : Fin 6) (x : DieTherm) (tj : Int) (h : x.ceil = (s.dieAt d).ceil) :
    (s.sampleTripped d x tj).Follows s := by
  refine .ite (fun _ => ?_) fun _ => setDieTherm_follows_same h
  refine (setDieTherm_follows fun hs c hc => ?_).core (powerEvent_core ..)
  cases hc
  have := hs.1
  omega
theorem State.lowerDie_legal {s : State} (h : ClocksLegal s) {d : Nat} (hd : d < 6) :
    975 ≤ s.lowerDie d ∧ s.lowerDie d ≤ 1950 ∧ s.lowerDie d % 25 = 0 := by
  have hc := dieCeil_legal h hd
  have := h.1
  unfold lowerDie
  omega
theorem State.sampleDie_follows (s : State) (d : Fin 6) (x : DieTherm) (tj : Int) (h : x.ceil = (s.dieAt d).ceil) : (s.sampleDie d x tj).Follows s := by
  unfold sampleDie
  extract_lets hot raisedAt
  refine .ite (fun _ => setDieTherm_follows fun hs c hc => ?_) fun _ => ?_
  · cases hc
    exact lowerDie_legal hs d.2
  · split
    · exact setDieTherm_follows_same h
    · next c0 hx =>
      refine .ite (fun _ => setDieTherm_follows fun hs c hc => ?_) fun _ => setDieTherm_follows_same h
      have hc0 := hs.2.2.2 d c0 (by rw [← hx, h, dieAt_eq d.2])
      have hf := hs.1
      dsimp only at hc
      split at hc
      · cases hc
      · cases hc
        omega
theorem execDieTempSample_follows (d : Fin 6) (tj : Int) (s : State) : Follows (execDieTempSample d tj s) s := by
  refine follows_next (.ite (fun _ => .refl s) fun _ => ?_)
  extract_lets x n x1 s1 before s2 s3
  have hx : x1.ceil = (s.dieAt d).ceil := rfl
  have h1 : s1.Follows s := State.setDieTherm_follows_same hx
  have hx1 : x1.ceil = (s1.dieAt d).ceil := by
    rw [State.dieAt_eq d.2]
    simp [s1, State.setDieTherm, State.setPwr]
  have h2 : s2.Follows s := (State.setDieTherm_follows_same (by exact hx1)).trans h1
  have h3 : s3.Follows s := (State.countTrip_follows _).trans ((State.setDieTherm_follows_same (by exact hx1)).trans h1)
  refine .ite (fun _ => .ite (fun _ => .ite (fun _ => ?_) fun _ => h1) fun _ => .ite (fun _ => h2) fun _ => ?_) fun _ =>
    .ite (fun _ => ?_) fun _ => .ite (fun _ => ?_) fun _ => ?_
  · exact (State.restartModule_follows ..).trans h1
  · exact ((State.countTrip_follows _).trans h2).core (by simp)
  · exact (State.sampleTripped_follows _ _ _ _ hx1).trans h1
  · exact h3.core (by simp)
  · exact ((State.sampleDie_follows _ _ _ _ hx1).trans h1).core (State.noticeFrom_core ..)
theorem execThermalShutdown_follows (s : State) : Follows (execThermalShutdown s) s := by
  refine follows_next (.ite (fun _ => .refl s) fun _ => ?_)
  extract_lets src s1 s2 src2
  have h1 : s1.Follows s := State.setPwr_follows_same rfl rfl
  have h2 : s2.Follows s := (State.Follows.of_core (State.driveFault_core ..)).trans ((State.powerLoss_follows _).trans h1)
  exact h2.core (State.core_mk ..)

end Sys2Proof.Machine
end

section
/-! PROOFS. Commands, the domain, resets and hangs, start-up. -/

namespace Sys2Proof.Machine

open Sys2Proof.Claims

/-! Commands. -/

/-- What a command's effect may answer. -/
def CmdRes.Follows (r : CmdRes) (s : State) : Prop :=
  match r with
  | .ok t _ _ => t.Follows s
  | .fail _ _ => True
  | .failWith t _ _ => t.Follows s
  | .wait t => t.Follows s
theorem CmdRes.Follows.of_keeps {r : CmdRes} {s : State} (h : r.Keeps s.core) : r.Follows s := by
  cases r with
  | ok t a b => exact .of_core h
  | fail a b => exact trivial
  | failWith t a b => exact .of_core h
  | wait t => exact .of_core h

theorem runCommand_follows (op : Nat) (c : CmdRef) {body : State → Cmd → CmdRes} (s : State) (h : ∀ s k, (body s k).Follows s) :
    (runCommand op c body s).Follows s := by
  unfold runCommand
  split
  · exact .refl s
  · next k _ =>
    extract_lets go
    have hg : ∀ s, (go s).Follows s := by
      intro s
      have hb := h s ((s.cmdAt c).getD k)
      unfold go
      cases hr : body s ((s.cmdAt c).getD k) with
      | ok t d f =>
        rw [hr] at hb
        exact (State.Follows.of_core (State.vote_core ..)).trans hb
      | fail st d => exact .of_core (State.finish_core ..)
      | failWith t st d =>
        rw [hr] at hb
        exact (State.Follows.of_core (State.finish_core ..)).trans hb
      | wait t =>
        rw [hr] at hb
        exact hb
    clear_value go
    refine .ite (fun _ => .refl s) fun _ => ?_
    split
    · exact .ite (fun _ => .of_core (State.finish_core ..)) fun _ => .ite (fun _ => (hg _).trans (.of_core (State.start_core ..))) fun _ => .refl s
    · exact .ite (fun _ => hg s) fun _ => .refl s
    · exact .refl s

theorem patinaReplanBody_follows (r : Option PlanReading) (s : State) (c : Cmd) : (patinaReplanBody r s c).Follows s := by
  unfold patinaReplanBody
  split
  · next p hp =>
    exact .ite (fun _ => .refl s) fun _ => State.setPat_follows (fun h => h.1) fun h q hq => by
      cases hq
      exact h.2.1 p hp
  · exact .refl s
  · split
    · exact .refl s
    · exact State.replan_follows ..

theorem execPatinaReplan_follows (c : CmdRef) (r : Option PlanReading) (s : State) : Follows (execPatinaReplan c r s) s :=
  follows_next ((State.replanBoundary_follows _).trans (runCommand_follows _ _ _ (patinaReplanBody_follows r)))
theorem execPatinaDailyReplan_follows (r : PlanReading) (s : State) : Follows (execPatinaDailyReplan r s) s :=
  follows_next (.ite (fun _ => .refl s) fun _ => (State.replanBoundary_follows _).trans (State.replan_follows ..))

theorem execForm_follows (record : List Byte) (s : State) : Follows (execForm record s) s := by
  refine follows_next (.ite (fun _ => .refl s) fun _ => ?_)
  extract_lets s1 src
  have h1 : s1.core = s.core := by
    unfold s1
    split <;> simp
  exact (State.pumpRound_follows _).trans (.of_core ((State.setDom_core ..).trans h1))
theorem execAccept_follows (rank : Fin 64) (round : Nat) (s : State) : Follows (execAccept rank round s) s :=
  follows_next (.ite (fun _ => .refl s) fun _ => (State.pumpRound_follows _).trans (.of_core (State.setDom_core ..)))
theorem execElected_follows (coord : Fin 64) (round : Nat) (a : Admission) (s : State) : Follows (execElected coord round a s) s := by
  refine follows_next (.ite (fun _ => .refl s) fun _ => ?_)
  extract_lets wasMember discard src s1 s2
  have h1 : s1.core = s.core := State.setDom_core ..
  have h2 : s2.Follows s1 := .ite (fun _ => .of_core (State.becomeQuarantined_core ..)) fun _ => .ite (fun _ => State.becomeMember_follows _)
    fun _ => (State.becomeMember_follows _).trans (.of_core (State.applyAdmission_core ..))
  exact (State.Follows.of_core (State.resettle_core _)).trans (h2.trans (.of_core h1))

theorem execHang_follows (level : Fin 5) (unit : Fin 65536) (s : State) : Follows (execHang level unit s) s := by
  unfold execHang
  extract_lets l s1
  refine follows_next ?_
  cases l with
  | none => exact .refl s
  | some l =>
    refine .ite (fun _ => .refl s) fun _ => ?_
    have h1 : s1.core = s.core := State.countHang_core _
    refine State.Follows.trans ?_ (.of_core h1)
    refine .ite (fun _ => State.resetUnit_follows ..) fun _ => ?_
    cases s1.flt.mode with
    | service => exact State.hangInService_follows ..
    | test => exact .of_core (State.failTest_core _)
    | startUp => exact State.hangInMode_follows ..
    | recovery => exact State.hangInMode_follows ..
theorem execSuspectReplay_follows (level : Fin 5) (unit : Fin 65536) (hangs : Bool) (s : State) :
    Follows (execSuspectReplay level unit hangs s) s := by
  refine follows_next ?_
  split
  · exact .refl s
  · split
    · exact State.settleReplays_follows s
    · extract_lets next
      have hn : ∀ s g, (next s g).core = s.core := fun _ _ => State.setFlt_core ..
      clear_value next
      have hs : ∀ g, (next s g).settleReplays.Follows s := fun g => (State.settleReplays_follows _).trans (.of_core (hn ..))
      split
      · exact .ite (fun _ => .refl s) fun _ => (State.settleReplays_follows _).trans (.of_core (by simp [hn]))
      · exact .ite (fun _ => hs _) fun _ => .refl s
      · exact hs _
theorem execResetDone_follows (level : Fin 7) (unit : Fin 65536) (ok : Bool) (s : State) : Follows (execResetDone level unit ok s) s := by
  refine follows_next ?_
  split
  · exact .refl s
  · next r _ =>
    extract_lets drop src s1 s2 s3
    have hd : (drop s).core = s.core := State.setFlt_core ..
    clear_value drop
    have h2 : s2.Follows s := .of_core (by simp [s2, s1, hd])
    have h3 : s3.Follows s := .ite (fun _ => ((State.releaseWrites_follows ..).trans h2).core (State.core_mk ..)) fun _ => h2
    have he : ∀ l u record, ((drop s).escalate l u record).Follows s := fun _ _ _ => (State.escalate_follows ..).trans (.of_core hd)
    exact .ite (fun _ => .ite (fun _ => he ..) fun _ => (State.settleReplays_follows _).trans (he ..)) fun _ => .ite (fun _ => .refl s) fun _ =>
      (State.settleReplays_follows _).trans h3
theorem execTenantResetDone_follows (tenant : Fin 512) (s : State) : Follows (execTenantResetDone tenant s) s := by
  refine follows_next ?_
  split
  · exact .refl s
  · exact (State.settleReplays_follows _).trans (.of_core (State.finishTenantReset_core ..))
theorem execPatinaMeasure_follows (margins : List Int) (s : State) : Follows (execPatinaMeasure margins s) s :=
  follows_next (.ite (fun _ => .refl s) fun _ => State.setPat_follows_same rfl rfl)
theorem execEyeMeasure_follows (l : Fin 96) (mv : Nat) (s : State) : Follows (execEyeMeasure l mv s) s := by
  refine follows_next (.ite (fun _ => .refl s) fun _ => ?_)
  extract_lets src s1
  have h1 : s1.Follows s := State.setPat_follows_same rfl rfl
  exact .ite (fun _ => h1.core (State.linkSettle_core ..)) fun _ => h1
theorem execPowerOnHour_follows (outside : BitVec 5) (s : State) : Follows (execPowerOnHour outside s) s := by
  refine follows_next (.ite (fun _ => .refl s) fun _ => ?_)
  extract_lets detail src s1 src1 s2
  have h1 : s1.Follows s := State.setPat_follows_same rfl rfl
  have h2 : s2.Follows s := (State.setPwr_follows_same rfl rfl).trans h1
  exact .ite (fun _ => h2) fun _ => h2.core (State.powerEvent_core ..)
theorem execPowerOn_follows (s : State) : Follows (execPowerOn s) s := by
  refine follows_next (.ite (fun _ => .refl s) fun _ => ?_)
  extract_lets src s1 src1 s2 src2 s3 s4
  have h1 : s1.Follows s := .of_core (State.setDom_core ..)
  have h2 : s2.Follows s := (State.setPwr_follows_same rfl rfl).trans h1
  have h4 : s4.core = s2.core := by simp [s4, s3]
  exact .ite (fun _ => h2.core ((State.railsOn_core ..).trans h4)) fun _ => h2.core h4
theorem execPwrEnFall_follows (s : State) : Follows (execPwrEnFall s) s := by
  unfold execPwrEnFall
  extract_lets src s1 s2 src1
  have h2 : s2.Follows s := State.Follows.trans (t := s1) (.ite (fun _ => .refl s1) fun _ => State.powerLoss_follows s1) (.of_core (State.setSig_core ..))
  exact follows_next (h2.core (State.setSig_core ..))
theorem execPerstNFall_follows (s : State) : Follows (execPerstNFall s) s :=
  follows_next ((State.moduleReset_follows ..).trans (.of_core (State.core_mk ..)))
theorem execRegisterWrite_follows (f : Fin 513) (bar2 : Bool) (offset : Nat) (data : List (Option Byte)) (s : State) :
    Follows (execRegisterWrite f bar2 offset data s) s :=
  follows_next (.ite (fun _ => .of_core (State.hostDoorbellWrite_core ..)) fun _ => State.hostRegWrite_follows ..)
theorem execBridgeTrainingLost_follows (die : Fin 4) (iod : Fin 2) (s : State) : Follows (execBridgeTrainingLost die iod s) s := by
  refine follows_next (.ite (fun _ => .refl s) fun _ => ?_)
  extract_lets b src s1
  have h1 : s1.Follows s := .of_core (State.setSig_core ..)
  exact .ite (fun _ => h1) fun _ => (State.resetUnit_follows ..).trans h1
/-- A register write that has an event of its own. -/
theorem hostWriteWord_next_follows (f : Fin 513) (offset : Nat) (v : Word) (s : State) : Follows (.next (s.hostWriteWord f offset v)) s :=
  follows_next (State.hostWriteWord_follows ..)

end Sys2Proof.Machine
end

section
/-! PROOFS. The other events, and the step. -/

namespace Sys2Proof.Machine

open Sys2Proof.Claims

/-- A command that only writes at OUT. -/
theorem CmdRes.keeps_output (s : State) (k : Cmd) (a : Nat) (bs : List Byte) :
    (match s.output k a bs with
      | .ok s' => CmdRes.ok s' 0 0
      | .error e => .ofErr s e).Keeps s.core := by
  split
  · next h => exact State.output_core _ _ _ _ h
  · exact CmdRes.ofErr_core ..
/-- The taking of a page, not to be unfolded (as `State.exists_deviceAlloc`). -/
theorem State.exists_takePage : ∃ take, take = @State.takePage ∧ ∀ {s : State} {t m n s'}, take s t m = some (n, s') → s'.core = s.core :=
  ⟨_, rfl, State.takePage_core _ _ _⟩

theorem execRestorationDone_follows (granule : Nat) (remote : Option (Bool × List Byte)) (s : State) :
    Follows (execRestorationDone granule remote s) s := by
  refine follows_of_core ?_
  split
  · rfl
  · next r _ =>
    extract_lets a o copy done s1
    have hd : ∀ s, (done s).core = s.core := fun _ => State.setMem_core ..
    clear_value done
    split
    · next hr =>
      obtain ⟨⟨src, bs⟩, -, hm⟩ := Option.bind_eq_some_iff.1 hr
      obtain ⟨s2, h2, he⟩ := Option.map_eq_some_iff.1 hm
      cases he
      simp [hd, State.restore_core _ _ _ h2]
    · simp [hd, s1]
theorem execActPolicy_follows (tenant : Fin 512) (measured : List (Nat × Nat)) (s : State) : Follows (execActPolicy tenant measured s) s := by
  unfold execActPolicy
  extract_lets t xs held budget kept autos cs ys s1
  have h1 : s1.core = s.core := State.modTp_core ..
  refine follows_of_core ((State.core_foldl _ _ _ fun s c => ?_).trans h1)
  extract_lets n
  split <;> simp
theorem execRebalance_follows (tenant : Fin 512) (tPre : Nat) (tDec : Nat) (s : State) : Follows (execRebalance tenant tPre tDec s) s := by
  simp only [execRebalance]
  (repeat' split) <;> exact follows_of_core (by simp)
theorem execPhaseSwitch_follows (tenant : Fin 512) (s : State) : Follows (execPhaseSwitch tenant s) s := by
  simp only [execPhaseSwitch]
  (repeat' split) <;> exact follows_of_core (by simp)
theorem execPageShip_follows (h : PageHeader) (data : List Byte) (poison : List Nat) (place : Nat) (s : State) :
    Follows (execPageShip h data poison place s) s := by
  obtain ⟨take, he, htake⟩ := State.exists_takePage
  unfold execPageShip
  obtain ⟨page, hp⟩ := exists_eq (a' := @MemState.page)
  rw [← he, ← hp]
  extract_lets mineSrc src s1 src1 ps s2 s3
  have h1 : s1.core = s.core := by
    unfold s1
    split <;> simp
  have h2 : s2.core = s1.core := State.setGen_core ..
  have h3 : s3.core = s1.core := by
    unfold s3
    clear_value s1 s2
    split
    · split <;> simp
    split
    · split
      · rfl
      · next ht =>
        have ht := htake ht
        split <;> simp [ht]
    split
    · split <;> simp
    · split <;> simp [h2]
  exact follows_of_core ((State.pumpShips_core _).trans (h3.trans h1))
theorem execLearnStep_follows (c : CmdRef) (part : Option TilePart) (s : State) : Follows (execLearnStep c part s) s := by
  simp only [execLearnStep]
  (repeat' split) <;> exact follows_of_core (by simp)
theorem execUpdateBlock_follows (tenant : Fin 512) (model : Nat) (tensor : Nat) (block : Nat) (upto : Fin 5) (s : State) :
    Follows (execUpdateBlock tenant model tensor block upto s) s := by
  simp only [execUpdateBlock]
  (repeat' split) <;> exact follows_of_core (by simp)
theorem execSweepResume_follows (tenant : Fin 512) (model : Nat) (copies : List (Nat × Nat × List Byte × List Byte × List Byte)) (s : State) :
    Follows (execSweepResume tenant model copies s) s := by
  refine follows_of_core ?_
  split
  · rfl
  · split
    · rfl
    · extract_lets t n place poisoned torn rebuild copyOf half s1 s2 redone l2 src src1 s3 s4 s5
      have h1 : s1.core = s.core := State.core_foldl _ _ _ fun _ _ => State.undoBlock_core ..
      have h2 : s2.core = s1.core := State.core_foldl _ _ _ fun s x => by
        dsimp only
        split <;> simp
      have h3 : s3.core = s2.core := (State.core_mk ..).trans (State.setLearn_core ..)
      have h5 : s5.core = s4.core := State.core_foldl _ _ _ fun s x => by
        dsimp only
        split <;> simp
      split
      · rfl
      · split
        · exact State.loseModel_core ..
        · exact (State.checkSwept_core ..).trans (h5.trans ((State.setLearn_core ..).trans (h3.trans (h2.trans h1))))
theorem execModelCreate_follows (c : CmdRef) (part : Option (Fin 512 × List Byte × List Byte × List (Option (List Byte)))) (s : State) :
    Follows (execModelCreate c part s) s := by
  unfold execModelCreate
  refine follows_next ?_
  split
  · exact runCommand_follows _ _ _ fun _ _ => .of_keeps (modelCreateBody_core ..)
  · refine .ite (fun _ => .refl s) fun _ => ?_
    split
    · next h => exact .of_core (State.addModel_core _ _ _ _ h)
    · exact .of_core (State.send_core ..)
theorem execFreeze_follows (c : CmdRef) (part : Option (Nat × FreezePlan)) (s : State) : Follows (execFreeze c part s) s := by
  refine follows_next ?_
  split
  · refine .ite (fun _ => .refl s) fun _ => ?_
    split
    · next h => exact .of_core (State.beginFreeze_core _ _ _ _ h)
    · exact .of_core (State.send_core ..)
  · split
    · exact .ite (fun _ => .ite (fun _ => .refl s) fun _ => .of_core (State.overlapFreeze_core ..)) fun _ =>
        runCommand_follows _ _ _ fun _ _ => .of_keeps (freezeBody_core ..)
    · exact .refl s
theorem execThawDone_follows (tenant : Fin 512) (s : State) : Follows (execThawDone tenant s) s := by
  simp only [execThawDone]
  (repeat' split) <;> exact follows_of_core (by simp)
theorem execDrainLimit_follows (tenant : Fin 512) (model : Option Nat) (s : State) : Follows (execDrainLimit tenant model s) s := by
  refine follows_of_core ?_
  split
  · rfl
  · next d _ =>
    extract_lets t src s1 policy
    split
    · rfl
    · have h1 : s1.core = s.core := State.core_mk ..
      clear_value s1
      split
      · have h2 := State.thawPolicy_core s1 t policy
        generalize s1.thawPolicy t policy = got at h2 ⊢
        obtain ⟨s2, n⟩ := got
        replace h2 : s2.core = s1.core := h2
        simp [h1, h2]
      · split
        · exact h1
        · next mid x _ =>
          extract_lets v old
          have h2 := State.core_foldl_fst (fun (s, n) r => s.publishReq x v policy n r) (fun _ _ => State.publishReq_core ..) old (s1, (⟨0, 0, 0⟩ : PolicyCount))
          generalize old.foldl (fun (s, n) r => s.publishReq x v policy n r) (s1, (⟨0, 0, 0⟩ : PolicyCount)) = got at h2 ⊢
          obtain ⟨s2, n⟩ := got
          replace h2 : s2.core = s1.core := h2
          simp [h1, h2]
theorem execLinkNotReady_follows (peer : Nat) (cs : List CmdRef) (s : State) : Follows (execLinkNotReady peer cs s) s := by
  refine follows_of_core ?_
  split
  · rfl
  · split
    · rfl
    · extract_lets s1
      have h1 : s1.core = s.core := State.dropWaiting_core ..
      split
      · exact (State.linkEvent_core ..).trans h1
      · refine (State.core_foldl _ _ _ fun s c => ?_).trans h1
        split
        · split <;> simp
        · rfl
theorem execCollGroupCreate_follows (c : CmdRef) (stage : List Nat) (grid : List (Nat × Nat × List Nat)) (part : Option (Fin 512 × List Byte)) (s : State) :
    Follows (execCollGroupCreate c stage grid part s) s := by
  unfold execCollGroupCreate
  refine follows_next ?_
  split
  · refine runCommand_follows _ _ _ fun s k => .of_keeps ?_
    split <;> simp
  · split
    · exact .refl s
    · exact .of_core (State.addGroup_core ..)
theorem execCollGroupDestroy_follows (c : CmdRef) (part : Option (Fin 512 × Nat)) (s : State) : Follows (execCollGroupDestroy c part s) s := by
  unfold execCollGroupDestroy
  refine follows_next ?_
  split
  · refine runCommand_follows _ _ _ fun s k => .of_keeps ?_
    extract_lets g
    split
    · exact trivial
    · split <;> simp
  · exact .of_core (State.dropGroup_core ..)
theorem execAccountRead_follows (c : CmdRef) (s : State) :
    Follows (execAccountRead c s) s := follows_next (runCommand_follows _ _ _ fun _ _ => .of_keeps (CmdRes.keeps_output ..))
theorem execDiagEcho_follows (c : CmdRef) (s : State) :
    Follows (execDiagEcho c s) s := follows_next (runCommand_follows _ _ _ fun _ _ => .of_keeps (CmdRes.keeps_output ..))
theorem execAtsInvalidation_follows (f : Fin 513) (iova : Nat) (len : Nat) (refused : Bool) (s : State) :
    Follows (execAtsInvalidation f iova len refused s) s := by
  simp only [execAtsInvalidation]
  (repeat' split) <;> exact follows_of_core (by simp)
theorem execTimeSync_follows (offset : Int) (s : State) : Follows (execTimeSync offset s) s := by
  simp only [execTimeSync]
  (repeat' split) <;> exact follows_of_core (by simp)
theorem execReplanApply_follows (s : State) : Follows (execReplanApply s) s := follows_next (State.replanBoundary_follows s)
theorem execFaultSeen_follows (s : State) : Follows (execFaultSeen s) s := by
  simp only [execFaultSeen]
  (repeat' split) <;> exact follows_of_core (by simp)
theorem execHostLinkUp_follows (gen : Fin 8) (width : Fin 32) (s : State) : Follows (execHostLinkUp gen width s) s := by
  simp only [execHostLinkUp]
  (repeat' split) <;> exact follows_of_core (by simp)

/-- Whatever the command, its event follows the state before: those that are not named here have an effect that keeps the core. -/
theorem exec_follows (i : Instr) (s : State) : Follows (exec i s) s := by
  cases i
  case memMapoutReq | hstEvtHead | fltResetTile | fltResetEngine | fltResetLinkGroup | fltResetDie | fltResetModule | pwrCapWrite | smbRejoin |
    cmdAdmqEn | cfgLock | idAccClr | lnkGrpRecal | lnkGrpReset | lnkGrpDisable =>
    exact hostWriteWord_next_follows ..
  case dmaTransferDone | counterArrival | preemption | migrationCopyDone | mapoutTakesEffect | leaseSwap | leaseRelease | allocChange | boundaryCancel
    | prefillStep | decodeStep | scoreStep | learnSetup | prepare | go | landed | publish | layoutRelease | padputMsg | imageRelay | collGroupReformed
    | collContribution | collTimeout | heatNotice | heatNoticeHoldEnd | collAbort | moduleResetHoldExpiry | tenantReset | tileRun | deadlineMissed |
    strideCharge | cmdSliceExpiry | commit | abort | commitAck | cqCoalesceTimeout | applied | eventCoalesceTimeout | captureTaken =>
    refine follows_of_core ?_
    split <;> simp
  case collectiveDone | patrolScrub | bar4Write | poolJoin | outputAreaCommit | reqStarved | prepareTimeout | learnCommit | ckptDone |
    takeoverCopyDone | exchangeRerun | reshardPart | detourSwitch | padgetRequest | padgetData | memoryWrite | cmdFetch | vote | tickInEdge |
    cxlPortTrained | firmwareActivation =>
    refine follows_of_core ?_
    (repeat' split) <;> simp
  case restorationDone => exact execRestorationDone_follows ..
  case actPolicy => exact execActPolicy_follows ..
  case rebalance => exact execRebalance_follows ..
  case phaseSwitch => exact execPhaseSwitch_follows ..
  case pageShip => exact execPageShip_follows ..
  case learnStep => exact execLearnStep_follows ..
  case updateBlock => exact execUpdateBlock_follows ..
  case sweepResume => exact execSweepResume_follows ..
  case modelCreate => exact execModelCreate_follows ..
  case freeze => exact execFreeze_follows ..
  case thawDone => exact execThawDone_follows ..
  case drainLimit => exact execDrainLimit_follows ..
  case linkNotReady => exact execLinkNotReady_follows ..
  case collGroupCreate => exact execCollGroupCreate_follows ..
  case collGroupDestroy => exact execCollGroupDestroy_follows ..
  case accountRead => exact execAccountRead_follows ..
  case patinaReplan => exact execPatinaReplan_follows ..
  case diagEcho => exact execDiagEcho_follows ..
  case atsInvalidation => exact execAtsInvalidation_follows ..
  case form => exact execForm_follows ..
  case accept => exact execAccept_follows ..
  case elected => exact execElected_follows ..
  case timeSync => exact execTimeSync_follows ..
  case hang => exact execHang_follows ..
  case suspectReplay => exact execSuspectReplay_follows ..
  case resetDone => exact execResetDone_follows ..
  case tenantResetDone => exact execTenantResetDone_follows ..
  case patinaMeasure => exact execPatinaMeasure_follows ..
  case eyeMeasure => exact execEyeMeasure_follows ..
  case patinaDailyReplan => exact execPatinaDailyReplan_follows ..
  case replanApply => exact execReplanApply_follows ..
  case powerOnHour => exact execPowerOnHour_follows ..
  case governorSample => exact execGovernorSample_follows ..
  case governorRelease => exact execGovernorRelease_follows ..
  case inputVoltage => exact execInputVoltage_follows ..
  case stackTempSample => exact execStackTempSample_follows ..
  case dieTempSample => exact execDieTempSample_follows ..
  case thermalShutdown => exact execThermalShutdown_follows ..
  case powerOn => exact execPowerOn_follows ..
  case pwrEnFall => exact execPwrEnFall_follows ..
  case perstNFall => exact execPerstNFall_follows ..
  case faultSeen => exact execFaultSeen_follows ..
  case registerWrite => exact execRegisterWrite_follows ..
  case bridgeTrainingLost => exact execBridgeTrainingLost_follows ..
  case hostLinkUp => exact execHostLinkUp_follows ..
  all_goals exact follows_of_core (by simp)

/-- A step takes the front of the queue, and follows the state with the rest. -/
theorem step_follows (s : State) : ∃ t, step s = .next t ∧ t.Follows { s with pending := s.pending.tail } := by
  cases hp : s.pending with
  | nil =>
    refine ⟨s.tick, by simp [step, hp], ?_⟩
    rw [List.tail_nil, ← hp]
    exact .of_core (State.tick_core s)
  | cons c rest =>
    obtain ⟨t, ht, hf⟩ := exec_follows c { s with pending := rest }
    exact ⟨t, by simpa [step, hp] using ht, hf⟩

end Sys2Proof.Machine
end

section
/-! PROOFS. The clocks stay legal, and the queue is first in, first out. -/

open Sys2Proof Sys2Proof.Machine Sys2Proof.Claims

/-- Settles O59: each event's effect is an operation that keeps the clocks, or one that puts another legal clock in their place. -/
theorem clocksStayLegal : Obligations.ClocksStayLegal := by
  intro s t hs ht
  obtain ⟨t', ht', -, hc⟩ := step_follows s
  cases ht.symm.trans ht'
  have hl : ClocksLegal t := hc hs
  exact ⟨hl, fun d hd => State.dieMhz_legal hl (by omega)⟩

/-- Settles O60: every event answers a next state, and none touches the queue. -/
theorem queueIsFirstInFirstOut : Obligations.QueueIsFirstInFirstOut := by
  intro s
  obtain ⟨t, ht, hq, -⟩ := step_follows s
  exact ⟨t, ht, hq⟩

/-- Settles O58: the clock words of the reset state are what `ClocksLegal` asks of them. -/
theorem clocksLegalAtReset : Obligations.ClocksLegalAtReset := by
  refine ⟨by decide, fun p h => ?_, by decide, fun d c h => ?_⟩
  · cases h
  · simp [State.reset, PowerState.reset] at h

/-- Settles O1: `step` on a queue with a front command is its first branch. -/
theorem stepRunsFrontCommand : Obligations.StepRunsFrontCommand := by
  intro c rest s h
  simp [step, h]

end

section
/-! PROOFS. What an instruction that issues answers, by what its body answers. -/

namespace Sys2Proof.Machine

open Sys2Proof.Claims

/-- An opcode of 03 R86 that is not CPFX. -/
abbrev PlainOp (cls op : Nat) : Prop := cls < 16 ∧ op < 64 ∧ validOp cls op = true ∧ (cls == 0xB && op == 0) = false

theorem issue_of_issues_plain {cls op : Nat} {rsv : List (Nat × Nat)} {body : TileCtx → Tile → TileRes} {t : Fin 160} {w : Operand} {s : State}
    (h : Issues cls op rsv t w s) (hop : PlainOp cls op) :
    issue cls op rsv body t w s = s.applyRes t s.tiles[t] (wordOf cls op w) 1 (body (s.tileCtx t s.tiles[t]) s.tiles[t]) := by
  obtain ⟨hc, ho, hv, hx⟩ := hop
  exact issue_of_issues h hc ho hv hx

section
variable {cls op : Nat} {rsv : List (Nat × Nat)} {body : TileCtx → Tile → TileRes} {t : Fin 160} {w : Operand} {s : State}

/-- The body answers the tile as it goes on. -/
theorem issue_goes_on {y : Tile} (h : Issues cls op rsv t w s) (hb : body (s.tileCtx t s.tiles[t]) s.tiles[t] = .next y)
    (hop : PlainOp cls op := by decide) : issue cls op rsv body t w s = wentOn s t y 1 := by
  rw [issue_of_issues_plain h hop, hb]
  rfl

theorem issue_raises {e : Exc} (h : Issues cls op rsv t w s) (hb : body (s.tileCtx t s.tiles[t]) s.tiles[t] = .raise e)
    (hop : PlainOp cls op := by decide) : issue cls op rsv body t w s = s.raiseExc t e := by
  rw [issue_of_issues_plain h hop, hb]
  rfl

theorem issue_waits (h : Issues cls op rsv t w s) (hb : body (s.tileCtx t s.tiles[t]) s.tiles[t] = .wait)
    (hop : PlainOp cls op := by decide) : issue cls op rsv body t w s = s.setTile t (s.tiles[t].setStatus .blocked) := by
  rw [issue_of_issues_plain h hop, hb]
  rfl

theorem issue_finishes {y : Tile} (h : Issues cls op rsv t w s) (hb : body (s.tileCtx t s.tiles[t]) s.tiles[t] = .finish y)
    (hop : PlainOp cls op := by decide) : issue cls op rsv body t w s = (s.endTile t y).progressed 1 t := by
  rw [issue_of_issues_plain h hop, hb]
  rfl

theorem issue_jumps {y : Tile} {n : Nat} (h : Issues cls op rsv t w s) (hb : body (s.tileCtx t s.tiles[t]) s.tiles[t] = .jump y n)
    (hn : s.tiles[t].targetOk n = true) (hop : PlainOp cls op := by decide) : issue cls op rsv body t w s = wentTo s t y n := by
  rw [issue_of_issues_plain h hop, hb]
  exact if_pos hn

theorem issue_jumps_astray {y : Tile} {n : Nat} (h : Issues cls op rsv t w s) (hb : body (s.tileCtx t s.tiles[t]) s.tiles[t] = .jump y n)
    (hn : s.tiles[t].targetOk n = false) (hop : PlainOp cls op := by decide) :
    issue cls op rsv body t w s = s.raiseExc t (excIllegalInstruction (wordOf cls op w)) := by
  rw [issue_of_issues_plain h hop, hb]
  exact if_neg (Bool.eq_false_iff.1 hn)

end

theorem next_congr {s t : State} (h : s = t) : Host.Outcome.next (φ := Fault) (ρ := Refusal) s = .next t := by rw [h]

/-- Where a branch may go (03 R83, R104). -/
theorem Tile.targetOk_iff (x : Tile) (n : Nat) :
    x.targetOk n = true ↔ n < x.ctl.istore.length ∧ ¬(n ≠ 0 ∧ (x.ctl.istore[n - 1]?).any isCpfx = true) := by
  rw [targetOk, Bool.and_eq_true, decide_eq_true_iff, Bool.not_eq_true', Bool.and_eq_false_iff, bne_eq_false_iff_eq, Classical.not_and_iff_not_or_not, Classical.not_not,
    Bool.not_eq_true]
theorem Tile.targetOk_eq_false_iff (x : Tile) (n : Nat) :
    x.targetOk n = false ↔ ¬(n < x.ctl.istore.length ∧ ¬(n ≠ 0 ∧ (x.ctl.istore[n - 1]?).any isCpfx = true)) := by
  rw [← targetOk_iff, Bool.not_eq_true]

/-- SB[5:0]. -/
theorem shiftCount_eq (b : DWord) : shiftCount b = (b.extractLsb' 0 6).toNat := by
  simp [shiftCount, BitVec.extractLsb'_toNat]

/-! What SEG, END and FWAITALL find. -/

/-- The lowest FAILED fence raises its exception. -/
theorem Tile.failedFence_of_lowest {x : Tile} {f : Fin 64} {e : Exc} (h : x.sync.fences[f] = .failed e)
    (hl : ∀ g < f, ∀ e', x.sync.fences[g] ≠ .failed e') : x.failedFence = some e := by
  unfold failedFence
  rw [List.findSome?_eq_some_iff]
  refine ⟨(List.finRange 64).take f, f, (List.finRange 64).drop (f + 1), ?_, by rw [h], fun g hg => ?_⟩
  · have hf : (List.finRange 64).drop f = f :: (List.finRange 64).drop (f + 1) := by
      rw [List.drop_eq_getElem_cons (by simp)]
      simp
    rw [← hf, List.take_append_drop]
  · obtain ⟨i, hi, rfl⟩ := List.mem_take_iff_getElem.1 hg
    rw [List.length_finRange] at hi
    split
    · next e' he => exact absurd he (hl _ (by simpa [Fin.lt_def] using (Nat.lt_min.1 hi).1) e')
    · rfl

theorem Tile.failedFence_of_clean {x : Tile} (h : ∀ (f : Fin 64) (e : Exc), x.sync.fences[f] ≠ .failed e) : x.failedFence = none := by
  unfold failedFence
  rw [List.findSome?_eq_none_iff]
  intro f _
  split
  · next e he => exact absurd he (h f e)
  · rfl

theorem Tile.quiet_iff (x : Tile) : x.quiet = true ↔ x.sync.outstanding = [] ∧ ∀ f : Fin 64, x.sync.fences[f] ≠ .armed := by
  simp [quiet]

end Sys2Proof.Machine

open Sys2Proof Sys2Proof.Machine Sys2Proof.Claims

/-- Settles O2: `step` on an empty queue is its other branch. -/
theorem emptyQueueOnlyAdvancesTime : Obligations.EmptyQueueOnlyAdvancesTime := by
  intro s h
  exact ⟨fun hp => by simp [step, h, State.tick, hp], fun hp => by simp [step, h, State.tick, hp]⟩

/-- Settles O3: each instruction's body answers the tile with its destination written. -/
theorem scalarInstructions : Obligations.ScalarInstructions := by
  constructor
  · intro s t w x a b sh gives
    have hs : shiftCount b = sh := shiftCount_eq b
    exact ⟨fun h => next_congr (issue_goes_on h rfl), fun h => next_congr (issue_goes_on h rfl), fun h => next_congr (issue_goes_on h rfl),
      fun h => next_congr (issue_goes_on h rfl), fun h => next_congr (issue_goes_on h rfl), fun h => next_congr (issue_goes_on h rfl),
      fun h => next_congr (issue_goes_on h (hs ▸ rfl)), fun h => next_congr (issue_goes_on h (hs ▸ rfl)),
      fun h => next_congr (issue_goes_on h (hs ▸ rfl)), fun h => next_congr (issue_goes_on h rfl), fun h => next_congr (issue_goes_on h rfl),
      fun h => next_congr (issue_goes_on h rfl)⟩
  · intro s t w x a b gives
    have slt : BitVec.slt a b = decide (a.toInt < b.toInt) := BitVec.slt_eq_decide
    have ult : BitVec.ult a b = decide (a.toNat < b.toNat) := BitVec.ult_eq_decide
    have eq : (a == b) = decide (a = b) := Bool.beq_eq_decide_eq a b
    exact ⟨fun h => next_congr (issue_goes_on h (eq ▸ rfl)), fun h => next_congr (issue_goes_on h (slt ▸ rfl)),
      fun h => next_congr (issue_goes_on h (ult ▸ rfl))⟩

/-- Settles O5: a branch goes on where its target is one that the image has, and raises where not. -/
theorem controlInstructions : Obligations.ControlInstructions := by
  intro s t w x n y ok
  have hok : ok → x.targetOk n = true := (x.targetOk_iff n).2
  have hno : ¬ok → x.targetOk n = false := (x.targetOk_eq_false_iff n).2
  refine ⟨fun h => next_congr (issue_goes_on h rfl), fun h => ⟨fun hn => ?_, fun hn => ?_⟩, fun h => ⟨fun hn hy => ?_, fun hn hy => ?_, fun hn => ?_⟩,
    fun h => next_congr (issue_raises h rfl), fun h => next_congr (issue_goes_on h rfl)⟩
  · exact next_congr (issue_jumps h rfl (hok hn))
  · exact next_congr (issue_jumps_astray h rfl (hno hn))
  · exact next_congr (issue_jumps h (if_pos hy) (hok hn))
  · exact next_congr (issue_goes_on h ((if_neg (Classical.not_not.2 hy)).trans (if_pos (hok hn))))
  · by_cases hy : y.getS (opFin5 w 45) = 0
    · exact next_congr (issue_raises h ((if_neg (Classical.not_not.2 hy)).trans (if_neg (Bool.eq_false_iff.1 (hno hn)))))
    · exact next_congr (issue_jumps_astray h (if_pos hy) (hno hn))

/-- Settles O6: each goes by whether a fence has failed, one is armed, or none keeps it. -/
theorem segmentsEndAndWaitAll : Obligations.SegmentsEndAndWaitAll := by
  intro s t w x failed clean quiet waits
  have raises : ∀ (f : Fin 64) (e : Exc) (go : TileRes), x.sync.fences[f] = .failed e → (∀ g < f, ∀ e', x.sync.fences[g] ≠ .failed e') → x.waitAll go = .raise e :=
    fun f e go h hl => by rw [Tile.waitAll, Tile.failedFence_of_lowest h hl]
  have blocks : ∀ go, clean → ¬quiet → x.waitAll go = .wait := fun go hc hq => by
    rw [Tile.waitAll, Tile.failedFence_of_clean hc]
    exact if_neg (mt (x.quiet_iff).1 hq)
  have goes : ∀ go, clean → quiet → x.waitAll go = go := fun go hc hq => by
    rw [Tile.waitAll, Tile.failedFence_of_clean hc]
    exact if_pos ((x.quiet_iff).2 hq)
  refine ⟨fun h => ⟨fun f e hf hl => ?_, fun hc hq => ?_, fun hc hq => ?_⟩, fun h => ⟨fun f e hf hl => ?_, fun hc hq => ?_, fun hc hq => ?_⟩,
    fun h => ⟨fun f e hf hl => ?_, fun hc hq => ?_, fun hc hq => ?_⟩⟩
  · exact next_congr (issue_raises h (raises f e _ hf hl))
  · exact next_congr (issue_waits h (blocks _ hc hq))
  · exact next_congr (issue_goes_on h (goes _ hc hq))
  · exact next_congr (issue_raises h (raises f e _ hf hl))
  · exact next_congr (issue_waits h (blocks _ hc hq))
  · exact next_congr (issue_finishes h (goes _ hc hq))
  · exact next_congr (issue_raises h (raises f e _ hf hl))
  · exact next_congr (issue_waits h (blocks _ hc hq))
  · exact next_congr (issue_goes_on h (goes _ hc hq))
end

section
/-! PROOFS. Registers, lanes, predicates and exceptions. -/

namespace Sys2Proof.Machine

open Sys2Proof.Claims

/-- Bit i of a predicate register file with bit j written. -/
theorem getLsbD_setBit (p : BitVec 8) (i j : Fin 8) (b : Bool) :
    (if b then p ||| 1#8 <<< i.val else p &&& ~~~(1#8 <<< i.val)).getLsbD j = if j = i then b else p.getLsbD j := by
  have hone : (1#8 <<< i.val).getLsbD j = decide (j = i) := by
    rw [BitVec.getLsbD_shiftLeft, BitVec.getLsbD_one]
    simp only [Fin.ext_iff]
    have := i.isLt
    have := j.isLt
    rw [Bool.eq_iff_iff]
    simp
    omega
  cases b
  · simp only [Bool.false_eq_true, if_false, BitVec.getLsbD_and, BitVec.getLsbD_not, hone, j.isLt, decide_true, Bool.true_and]
    by_cases h : j = i <;> simp [h]
  · simp only [if_true, BitVec.getLsbD_or, hone]
    by_cases h : j = i <;> simp [h]

theorem Tile.getP_setP (x : Tile) (i j : Fin 8) (b : Bool) (hi : i ≠ 0) : (x.setP i b).getP j = if j = i then b else x.getP j := by
  by_cases hj : j = 0
  · subst hj
    simp [getP, hi.symm]
  · simp only [getP, setP, if_neg hi, if_neg hj]
    exact getLsbD_setBit ..
theorem Tile.getS_setS (x : Tile) (i j : Fin 32) (v : DWord) (hi : i ≠ 0) : (x.setS i v).getS j = if j = i then v else x.getS j := by
  by_cases hj : j = 0
  · subst hj
    simp [getS, hi.symm]
  · simp [getS, setS, hi, hj, Vector.getElem_set, Fin.ext_iff, eq_comm]
theorem Tile.getLM_setLM (x : Tile) (i j : Fin 8) (m : BitVec 512) (hi : i ≠ 0) : (x.setLM i m).getLM j = if j = i then m else x.getLM j := by
  by_cases hj : j = 0
  · subst hj
    simp [getLM, hi.symm]
  · simp [getLM, setLM, hi, hj, Vector.getElem_set, Fin.ext_iff, eq_comm]

/-- A lane-by-lane instruction that raises no flag goes on with VD written where LMASK selects. -/
theorem issue_lanes {op : Nat} {f : TileCtx → Tile → Fin 512 → Word} {t : Fin 160} {w : Operand} {s : State} (h : Issues 5 op rsvVec t w s)
    (hop : PlainOp 5 op := by decide) :
    let x := s.tiles[t]
    issue 5 op rsvVec (fun c x => .next (x.mapLanes w fun i => ⟨f c x i, 0⟩)) t w s = wentOn s t (x.setV (opFin5 w 45) (Vector.ofFn fun i =>
      if (x.getLM (opFin3 w 23)).getLsbD i then f (s.tileCtx t x) x i else x.regs.v[opFin5 w 45][i])) 1 := by
  intro x
  rw [issue_goes_on h rfl hop, Tile.mapLanes_plain]

/-- In a reserved rounding mode, or a stochastic one, lane arithmetic is an illegal operand. -/
theorem vecMode_of_illegal {w : Operand} (h : RMode.ofCode (opBits w 27 3) = none ∨ RMode.ofCode (opBits w 27 3) = some .sr) :
    vecMode w = .error (illField 27) := by
  unfold vecMode
  rcases h with h | h <;> rw [h]

/-- Bit i of a number whose bits are those of a list, the lowest first. -/
theorem testBit_ofBits {α : Type} (p : α → Bool) (l : List α) (i : Nat) (h : i < l.length) :
    (l.foldr (fun a n => 2 * n + (if p a then 1 else 0)) 0).testBit i = p l[i] := by
  induction l generalizing i with
  | nil => cases h
  | cons a l ih =>
    rw [List.foldr_cons]
    cases i with
    | zero =>
      rw [Nat.testBit_zero, Nat.mul_add_mod, List.getElem_cons_zero]
      cases p a <;> rfl
    | succ i =>
      have hbit : (if p a then 1 else 0) < 2 := by split <;> omega
      rw [Nat.testBit_succ, Nat.mul_add_div (by omega), Nat.div_eq_of_lt hbit]
      exact ih i (by simpa using h)

/-- What a hit of each lane gives as a mask. -/
theorem getLsbD_ofLanes (p : Fin 512 → Bool) (i : Fin 512) :
    (BitVec.ofNat 512 ((List.finRange 512).foldr (fun i n => 2 * n + (if p i then 1 else 0)) 0)).getLsbD i = p i := by
  rw [BitVec.getLsbD_ofNat, testBit_ofBits p (List.finRange 512) i (by simp)]
  simp

/-- An issue event at a tile that has a next word. -/
theorem issueThen_of_live {cls op : Nat} {rsv : List (Nat × Nat)} {body : TileCtx → Tile → TileRes} {after : Tile → State → State} {t : Fin 160}
    {w : Operand} {s : State} {word : DWord} (hl : s.tiles[t].ctl.status = .running ∨ s.tiles[t].ctl.status = .blocked)
    (hw : s.tiles[t].ctl.istore[s.tiles[t].ctl.pc]? = some word) :
    issueThen cls op rsv body after t w s =
      if s.tiles[t].enabled (operandOf word) = false then if word = wordOf cls op w then wentOn s t s.tiles[t] (if isCpfx word then 2 else 1) else s
      else if validOp (classOf word) (opcodeOf word) = false then s.raiseExc t (excIllegalInstruction word)
      else if word ≠ wordOf cls op w then s
      else if rsvClear rsv w = false then s.raiseExc t (excIllegalInstruction word)
      else match body (s.tileCtx t s.tiles[t]) s.tiles[t] with
        | .next y => after s.tiles[t] (s.applyRes t s.tiles[t] word (if isCpfx word then 2 else 1) (.next y))
        | r => s.applyRes t s.tiles[t] word (if isCpfx word then 2 else 1) r := by
  have hs : (s.tiles[t].ctl.status != .running && s.tiles[t].ctl.status != .blocked) = false := by
    rcases hl with h | h <;> rw [h] <;> rfl
  simp only [issueThen, hs, hw, Bool.not_eq_true']
  rfl

theorem isCpfx_wordOf {cls op : Nat} {w : Operand} (hc : cls < 16) (ho : op < 64) : isCpfx (wordOf cls op w) = (cls == 0xB && op == 0) := by
  rw [isCpfx, classOf_wordOf _ _ _ hc, opcodeOf_wordOf _ _ _ ho]

/-! Events reach the host and the other modules: all else of the state stays. -/

/-- A state beside what events change. -/
def State.besideHost (s : State) : State := { s with host := HostState.reset, outbox := [] }

@[simp] theorem State.setHost_besideHost (s : State) (h : HostState) : (s.setHost h).besideHost = s.besideHost := rfl
@[simp] theorem State.modFn_besideHost (s : State) (f : Fin 513) (g : FnState → FnState) : (s.modFn f g).besideHost = s.besideHost := rfl
@[simp] theorem State.send_besideHost (s : State) (m : Msg) : (s.send m).besideHost = s.besideHost := rfl
@[simp] theorem State.hostWrite_besideHost (s : State) (f : Fin 513) (a : Nat) (bs : List Byte) : (s.hostWrite f a bs).besideHost = s.besideHost := rfl
@[simp] theorem State.interrupt_besideHost (s : State) (f : Fin 513) (v : Nat) : (s.interrupt f v).besideHost = s.besideHost := by
  unfold interrupt
  split <;> rfl
@[simp] theorem State.writeRecord_besideHost (s : State) (f : Fin 513) (r : EvRing) (e : EventRec) :
    (s.writeRecord f r e).besideHost = s.besideHost := by
  unfold writeRecord
  extract_lets s1 n first
  split <;> simp [s1]
@[simp] theorem State.drainEvents_besideHost (n : Nat) (s : State) (f : Fin 513) : (State.drainEvents n s f).besideHost = s.besideHost := by
  induction n generalizing s with
  | zero => rfl
  | succ n ih =>
    unfold drainEvents
    split
    · split
      · rfl
      · extract_lets a fault
        split <;> simp [ih]
    · rfl
@[simp] theorem State.emit_besideHost (s : State) (f : Fin 513) (source type : Nat) (payload : List Byte) :
    (s.emit f source type payload).besideHost = s.besideHost := by
  unfold emit
  extract_lets e
  split <;> simp [deliverEvent]
theorem State.emit_dom (s : State) (f : Fin 513) (source type : Nat) (payload : List Byte) : (s.emit f source type payload).dom = s.dom := by
  have h := congrArg State.dom (s.emit_besideHost f source type payload)
  exact h

/-! Exceptions. -/

theorem raiseExc_of_no_command {s : State} {t : Fin 160} {e : Exc} (h : s.tiles[t].ctl.cmd.bind s.cmdAt = none) :
    s.raiseExc t e = s.setTile t (s.tiles[t].setStatus .stopped) := by
  simp only [State.raiseExc, h]

theorem raiseExc_of_command {s : State} {t : Fin 160} {e : Exc} {c : Cmd} (h : s.tiles[t].ctl.cmd.bind s.cmdAt = some c) :
    let x := s.tiles[t]
    let s1 := s.emitTenant c.tenant (srcEngine (t / 40)) 0x08
      (excPayload t s.dom.rank ((x.ctl.istore[x.ctl.pc]?).elim 0 classOf) x.ctl.segCount x.ctl.pc x.regs.flags e s.time)
    let s2 := s1.modCmd c.ref fun k => { k with
      records := k.records ++ [⟨s.dom.rank, t, x.ctl.pc, e⟩], flagSum := k.flagSum ||| x.regs.flags }
    s.raiseExc t e = (s2.setTile t (x.setStatus .stopped)).failCmd ((s2.cmdAt c.ref).getD c) e.code (locator x.ctl.pc t s.dom.rank) 0x100 := by
  have hd : ∀ a b d p, (s.emitTenant a b d p).dom = s.dom := fun _ _ _ _ => State.emit_dom ..
  simp only [State.raiseExc, h, hd, State.modCmd_dom]

end Sys2Proof.Machine

open Sys2Proof Sys2Proof.Machine Sys2Proof.Claims

/-- Settles O13: the hardwired registers by the accessors' guards, the others by the rules of reads after writes. -/
theorem hardwiredTileRegisters : Obligations.HardwiredTileRegisters := by
  intro x
  exact ⟨⟨rfl, rfl, rfl⟩, fun _ => rfl, fun _ => rfl, fun _ => rfl, fun i j v hi => x.getS_setS i j v hi, fun i j b hi => x.getP_setP i j b hi,
    fun i j m hi => x.getLM_setLM i j m hi⟩

/-- Settles O7: each lane's body is the operation it names, and none raises a flag. -/
theorem integerLanes : Obligations.IntegerLanes := by
  intro s t w x a b lm gives
  exact ⟨fun h => next_congr (issue_lanes h), fun h => next_congr (issue_lanes h), fun h => next_congr (issue_lanes h),
    fun h => next_congr (issue_lanes h), fun h => next_congr (issue_lanes h), fun h => next_congr (issue_lanes h),
    fun h => next_congr (issue_lanes h), fun h => next_congr (issue_lanes h), fun h => next_congr (issue_lanes h),
    fun h => next_congr (issue_lanes h), fun h => next_congr (issue_lanes h), fun h => next_congr (issue_lanes h),
    fun h => next_congr (issue_lanes h), fun h => next_congr (issue_lanes h)⟩

/-- Settles O8, by what each lane gives. -/
theorem floatingLanes : Obligations.FloatingLanes := by
  refine ⟨?lanes, ?compare, ?special⟩
  case lanes =>
    intro s t w x a b addend lm sat holds
    have good : ∀ {op : Nat} {f : RMode → Bool → Word → Word → Word → FRes} {m : RMode}, Issues 5 op rsvVec t w s → PlainOp 5 op →
        RMode.ofCode (opBits w 27 3) = some m → m ≠ .sr →
        issue 5 op rsvVec (fun _ x => floatBody w f x) t w s = wentOn s t ((x.setV (opFin5 w 45) (Vector.ofFn fun i =>
          if lm.getLsbD i then (f m sat a[i] b[i] addend[i]).val else x.regs.v[opFin5 w 45][i])).orFlags
            (laneFlags fun i => f m sat a[i] b[i] addend[i])) 1 := by
      intro op f m h hop hc hm
      rw [issue_floatBody h hop.2.1 hop.2.2.1 hc hm, Tile.mapLanes_eq]
      rfl
    have bad : ∀ {op : Nat} {f : RMode → Bool → Word → Word → Word → FRes}, Issues 5 op rsvVec t w s → PlainOp 5 op →
        (RMode.ofCode (opBits w 27 3) = none ∨ RMode.ofCode (opBits w 27 3) = some .sr) →
        issue 5 op rsvVec (fun _ x => floatBody w f x) t w s = s.raiseExc t (illField 27) := fun h hop hc =>
      issue_raises h (by rw [floatBody, vecMode_of_illegal hc]; rfl) hop
    refine ⟨?_, ?_, ?_, ?_, ?_, ?_, ?_, ?_⟩ <;>
      exact fun h => ⟨fun m hc hm => next_congr (good h (by decide) hc hm), fun hc => next_congr (bad h (by decide) hc)⟩
  case compare =>
    intro s t w h x
    refine ⟨_, next_congr (issue_goes_on h rfl), fun i => ?_⟩
    rw [BitVec.getLsbD_or, BitVec.getLsbD_and, BitVec.getLsbD_and, BitVec.getLsbD_not, getLsbD_ofLanes]
    cases (x.getLM (opFin3 w 23)).getLsbD i with
    | false =>
      simp
      rfl
    | true =>
      simp
      rfl
  case special =>
    intro s t w x lm gives
    have lanes : ∀ {op : Nat} {f : SfuFn}, Issues 6 op rsvVec t w s → PlainOp 6 op →
        issue 6 op rsvVec (fun _ x => sfuBody w f x) t w s = wentOn s t ((x.setV (opFin5 w 45) (Vector.ofFn fun i =>
          if lm.getLsbD i then (sfuF f (opBit w 26) x.regs.v[opFin5 w 40][i]).val else x.regs.v[opFin5 w 45][i])).orFlags
            (laneFlags fun i => sfuF f (opBit w 26) x.regs.v[opFin5 w 40][i])) 1 := by
      intro op f h hop
      rw [issue_goes_on h rfl hop, Tile.mapLanes_eq]
      rfl
    refine ⟨?_, ?_, ?_, ?_, ?_, ?_, ?_, ?_, ?_, ?_, ?_⟩ <;> exact fun h => next_congr (lanes h (by decide))

/-- Settles O14, along the order of the checks at issue. -/
theorem predicatesAndIllegalWords : Obligations.PredicatesAndIllegalWords := by
  constructor
  · intro cls op rsv body after s t w hc ho hlive hw he
    rw [issueThen_of_live hlive hw, operandOf_wordOf, he, isCpfx_wordOf hc ho]
    simp [wentOn]
  · intro cls op rsv body after s t w x live
    refine ⟨fun hl hc ho hv hw he hr => ?_, fun word hl hw he hv => ?_, fun hl => ?_⟩
    · rw [issueThen_of_live hl hw, operandOf_wordOf, he, classOf_wordOf _ _ _ hc, opcodeOf_wordOf _ _ _ ho, hv, hr]
      simp [excIllegalInstruction]
    · rw [issueThen_of_live hl hw, he, hv]
      simp [excIllegalInstruction]
    · have hl' : (x.ctl.status != .running && x.ctl.status != .blocked) = true := by simpa [live, not_or] using hl
      exact if_pos hl'

/-- Settles O15: the record's bytes are laid out by the lemma over a command's tile. -/
theorem exceptionsRecordAndStop : Obligations.ExceptionsRecordAndStop := by
  intro s t e x
  refine ⟨fun h => ?_, fun c h => ?_⟩
  · exact raiseExc_of_no_command h
  · exact raiseExc_of_command h

/-- Settles O16, along the branches of a row's turn. -/
theorem commandsActAtTheirTurn : Obligations.CommandsActAtTheirTurn := by
  intro op c body s
  refine ⟨fun h => runCommand_of_absent body h, fun k hk => ⟨fun h => ?_, fun h => ?_, fun ht hm => ?_, fun hp he hm => ?_, fun hp ho hm => ?_⟩⟩
  · simp [runCommand, hk, h]
  · rcases h with h | h | h <;> simp [runCommand, hk, h]
  · cases hp : k.phase <;> simp [runCommand, hk, hp, ht, hm]
  · simp [runCommand, hk, hp, he, hm]
  · simp [runCommand, hk, hp, ho, hm, stDeadlineMissed]
end

section
/-! PROOFS. The pad, its errors, and descriptor words. -/

namespace Sys2Proof.Machine

open Sys2Proof.Claims

theorem padAddr_ok {a : DWord} {size align : Nat} {write : Bool} {reg : Nat} (ha : a.toNat % align = 0)
    (hs : a.toNat + size ≤ if write then paramBase else padSize) : padAddr a size align write reg = .ok a.toNat := by
  rw [padAddr, if_neg (by simp [ha]), if_neg (by omega)]
theorem padAddr_outside {a : DWord} {size align : Nat} {write : Bool} {reg : Nat} (ha : a.toNat % align = 0)
    (hs : (if write then paramBase else padSize) < a.toNat + size) : padAddr a size align write reg = .error (excPadBounds a.toInt) := by
  rw [padAddr, if_neg (by simp [ha]), if_pos hs]
theorem padAddr_misaligned {a : DWord} {size align : Nat} {write : Bool} {reg : Nat} (ha : a.toNat % align ≠ 0) :
    padAddr a size align write reg = .error (illScalar reg) := by
  rw [padAddr, if_pos (by simpa using ha)]

/-- A body of several steps: the first answers. -/
theorem of_bind_ok {α : Type} {e : Except Exc α} {f : α → Except Exc Tile} {a : α} (h : e = .ok a) :
    TileRes.of (e >>= f) = TileRes.of (f a) := by
  rw [h]
  rfl
theorem of_bind_error {α : Type} {e : Except Exc α} {f : α → Except Exc Tile} {x : Exc} (h : e = .error x) :
    TileRes.of (e >>= f) = .raise x := by
  rw [h]
  rfl

/-- An access that raises does not read the pad. -/
theorem readsPad_of_raises {cls op : Nat} {rsv : List (Nat × Nat)} {body : TileCtx → Tile → TileRes} {t : Fin 160} {w : Operand}
    {s : State} {e : Exc} (h : body (s.tileCtx t s.tiles[t]) s.tiles[t] = .raise e) : s.readsPad cls op rsv body t w = false := by
  unfold State.readsPad
  rw [h, Bool.and_false]

/-- A read that the check of the pad lets through. -/
theorem issueRead_goes_on {cls op : Nat} {rsv : List (Nat × Nat)} {body : TileCtx → Tile → TileRes} {t : Fin 160} {w : Operand} {s : State} {y : Tile}
    (h : Issues cls op rsv t w s) (hb : body (s.tileCtx t s.tiles[t]) s.tiles[t] = .next y) (hf : tget s.mem.err.padFound t.val = none)
    (hop : PlainOp cls op := by decide) : issueRead cls op rsv body t w s = wentOn s t y 1 := by
  rw [issueRead_of_none hf, issue_goes_on h hb hop]
theorem issueRead_raises {cls op : Nat} {rsv : List (Nat × Nat)} {body : TileCtx → Tile → TileRes} {t : Fin 160} {w : Operand} {s : State} {e : Exc}
    (h : Issues cls op rsv t w s) (hb : body (s.tileCtx t s.tiles[t]) s.tiles[t] = .raise e) (hop : PlainOp cls op := by decide) :
    issueRead cls op rsv body t w s = s.raiseExc t e := by
  rw [issueRead_of_not_read (readsPad_of_raises hb), issue_raises h hb hop]

theorem tget_eq_none_of_forall {κ α : Type} [DecidableEq κ] {m : List (κ × α)} {k : κ} (h : ∀ p ∈ m, p.1 ≠ k) : tget m k = none := by
  induction m with
  | nil => rfl
  | cons p m ih =>
    obtain ⟨hp, hm⟩ := List.forall_mem_cons.1 h
    rw [tget, if_neg hp, ih hm]
theorem tget_tdel {κ α : Type} [DecidableEq κ] (m : List (κ × α)) (k : κ) : tget (tdel m k) k = none :=
  tget_eq_none_of_forall fun p hp => by simpa using (List.mem_filter.1 hp).2
theorem padCorrected_padFound (s : State) (t : Fin 160) : tget (s.padCorrected t).mem.err.padFound t.val = none := tget_tdel ..

/-- A read that meets a corrected error is the read on the state where it is counted. -/
theorem issueRead_corrected {cls op : Nat} {rsv : List (Nat × Nat)} {body : TileCtx → Tile → TileRes} {t : Fin 160} {w : Operand} {s : State} {y : Nat}
    (h : tget s.mem.err.padFound t.val = some (.correctable y)) (r : s.readsPad cls op rsv body t w = true) :
    issueRead cls op rsv body t w s = issueRead cls op rsv body t w (s.padCorrected t) := by
  rw [issueRead_of_corrected h r, issueRead_of_none (padCorrected_padFound s t)]

/-- What VLD takes into the lanes: n elements of a walk from the cursor on, widened (03 R93). -/
def Tile.loadedLanes (x : Tile) (d : Walk) (c n : Nat) (i : Fin 512) : FRes :=
  if i.val < n then ((d.value x.pad .lanes (c + i)).map d.lane).getD ⟨0, 0⟩ else ⟨0, 0⟩

theorem writeLanes_of_eq {x : Tile} {vd : Fin 32} {lm : BitVec 512} {dx : Fin 64} {n : Nat} {f g : Fin 512 → FRes} (h : f = g) :
    ((x.writeLanes vd lm ((Vector.ofFn f).map FRes.val)).advance dx n).orFlags ((Vector.ofFn f).foldl (fun a r => a ||| r.flags) 0)
      = ((x.setV vd (Vector.ofFn fun i => if lm.getLsbD i then (g i).val else x.regs.v[vd][i])).advance dx n).orFlags (laneFlags g) := by
  rw [h, foldl_ofFn]
  simp only [Tile.writeLanes, Fin.getElem_fin, Vector.getElem_map, Vector.getElem_ofFn]
  rfl
theorem vldBody_ok {w : Operand} {x : Tile} {d : Walk} {c n : Nat} (hd : x.walk (opFin6 w 39) = .ok d) (hc : x.cursorSpan (opFin6 w 39) d = .ok (c, n)) :
    vldBody w x = .next (((x.setV (opFin5 w 45) (Vector.ofFn fun i => if (x.getLM (opFin3 w 22)).getLsbD i then (x.loadedLanes d c n i).val
        else x.regs.v[opFin5 w 45][i])).advance (opFin6 w 39) n).orFlags (laneFlags (x.loadedLanes d c n))) := by
  refine (of_bind_ok hd).trans ((of_bind_ok hc).trans (congrArg TileRes.next (writeLanes_of_eq (funext fun i => ?_))))
  unfold Tile.loadedLanes
  cases d.value x.pad .lanes (c + i.val) <;> rfl
theorem mmaBody_ok {w : Operand} {x : Tile} {a b : Walk} {r : Bank × Word} (ha : x.walk (opFin6 w 44) = .ok a) (hb : x.walk (opFin6 w 38) = .ok b)
    (hr : mmaBank x.pad a b x.regs.banks[opFin2 w 36] w x.ctl.pewter = .ok r) :
    mmaBody w x = .next ((x.setBank (opFin2 w 36) r.1).orFlags r.2) :=
  (of_bind_ok ha).trans ((of_bind_ok hb).trans (of_bind_ok hr))

/-! Words of a descriptor. -/

/-- Bit i of a descriptor with word k replaced. -/
theorem getLsbD_setDescWord (d : BitVec 1024) (k i : Nat) (v : Word) (hi : i < 1024) :
    (setDescWord d k v).getLsbD i = if 32 * k ≤ i ∧ i < 32 * k + 32 then v.getLsbD (i - 32 * k) else d.getLsbD i := by
  have hv : 32 ≤ i - 32 * k → v.getLsbD (i - 32 * k) = false := fun h => BitVec.getLsbD_of_ge v _ h
  simp only [setDescWord, BitVec.getLsbD_or, BitVec.getLsbD_and, BitVec.getLsbD_not, BitVec.getLsbD_shiftLeft, BitVec.getLsbD_setWidth,
    BitVec.getLsbD_allOnes, hi, decide_true, Bool.true_and]
  by_cases hlo : i < 32 * k
  · simp [hlo, Nat.not_le.2 hlo]
  · by_cases hhi : i < 32 * k + 32
    · simp [hlo, hhi, Nat.not_lt.1 hlo, show i - 32 * k < 32 by omega, show i - 32 * k < 1024 by omega]
    · simp [hlo, hhi, Nat.not_lt.1 hlo, show ¬i - 32 * k < 32 by omega, hv (by omega)]

theorem extractLsb'_setDescWord_same (d : BitVec 1024) (k : Nat) (hk : k < 32) (v : Word) : (setDescWord d k v).extractLsb' (32 * k) 32 = v := by
  apply BitVec.eq_of_getLsbD_eq
  intro i hi
  rw [BitVec.getLsbD_extractLsb', getLsbD_setDescWord _ _ _ _ (by omega), if_pos (by omega)]
  simp [hi]
theorem extractLsb'_setDescWord_ne (d : BitVec 1024) (j k : Nat) (hj : j < 32) (hjk : j ≠ k) (v : Word) :
    (setDescWord d k v).extractLsb' (32 * j) 32 = d.extractLsb' (32 * j) 32 := by
  apply BitVec.eq_of_getLsbD_eq
  intro i hi
  rw [BitVec.getLsbD_extractLsb', getLsbD_setDescWord _ _ _ _ (by omega), if_neg (by omega), BitVec.getLsbD_extractLsb']

end Sys2Proof.Machine

open Sys2Proof Sys2Proof.Machine Sys2Proof.Claims

theorem padErrorsCountOrKill : PadErrorsCountOrKill := by
  refine ⟨fun s t w y => ?_, fun s t c k y hc hk hr hh => ?_⟩
  · intro x a one
    have hi : ∀ {cls op rsv}, Issues cls op rsv t w s → Issues cls op rsv t w one := fun h => h
    refine ⟨fun h ha hs => ⟨fun hf => ?_, fun hf => ?_⟩, fun h d c n hd hc => ⟨fun hf => ?_, fun hf => ?_⟩,
      fun h a b r ha hb hr => ⟨fun hf => ?_, fun hf => ?_⟩, rfl, padCorrected_padFound s t⟩
    · exact next_congr ((issueRead_corrected hf (readsPad_of_issues h (of_bind_ok (padAddr_ok ha hs)))).trans
        (issueRead_goes_on (hi h) (of_bind_ok (padAddr_ok ha hs)) (padCorrected_padFound s t)))
    · exact next_congr (issueRead_of_error hf (readsPad_of_issues h (of_bind_ok (padAddr_ok ha hs))))
    · exact next_congr (issueRead_corrected hf (readsPad_of_issues h (vldBody_ok hd hc)))
    · exact next_congr (issueRead_of_error hf (readsPad_of_issues h (vldBody_ok hd hc)))
    · exact next_congr (issueRead_corrected hf (readsPad_of_issues h (mmaBody_ok ha hb hr)))
    · exact next_congr (issueRead_of_error hf (readsPad_of_issues h (mmaBody_ok ha hb hr)))
  · intro earlier s1 told
    have hcmd : (s1.tiles[t].ctl.cmd.bind s1.cmdAt) = some k := by
      show s.tiles[t].ctl.cmd.bind s.cmdAt = some k
      rw [hc]
      exact hk
    have hkill : s1.killCmd k = s1.rerun k true := by
      rw [State.killCmd, hr, hh]
      exact if_pos (beq_self_eq_true _)
    have hp : s.padFailed t y =
        let s2 := ((s1.tiles[t].ctl.cmd.bind s1.cmdAt).elim s1 s1.killCmd).memEvent (t.val / 40) ⟨5, 4, 0, none, t.val, 0, 0, 0, y⟩
        if (s.dom.time :: earlier).length ≥ 2 then s2.tileOut t.val else s2 := rfl
    rw [hp, hcmd, Option.elim_some, hkill]
    cases earlier <;> simp [told]
theorem padAccessesLoadAndStore : PadAccessesLoadAndStore := by
  intro s t w x a d
  refine ⟨fun h => ⟨fun ha hs hf => ?_, fun ha hs => ?_, fun ha => ?_⟩, fun h => ⟨fun ha hs => ?_, fun ha hs => ?_, fun ha => ?_⟩,
    fun h => ⟨fun ha hs => ?_, fun ha hs => ?_, fun ha => ?_⟩, fun h => ⟨fun ha hs => ?_, fun ha hs => ?_, fun ha => ?_⟩⟩
  · exact next_congr (issueRead_goes_on h (of_bind_ok (padAddr_ok ha hs)) hf)
  · exact next_congr (issueRead_raises h (of_bind_error (padAddr_outside ha hs)))
  · exact next_congr (issueRead_raises h (of_bind_error (padAddr_misaligned ha)))
  · exact next_congr (issue_goes_on h (of_bind_ok (padAddr_ok ha hs)))
  · exact next_congr (issue_raises h (of_bind_error (padAddr_outside ha hs)))
  · exact next_congr (issue_raises h (of_bind_error (padAddr_misaligned ha)))
  · exact next_congr (issue_goes_on h (of_bind_ok (padAddr_ok ha hs)))
  · exact next_congr (issue_raises h (of_bind_error (padAddr_outside ha hs)))
  · exact next_congr (issue_raises h (of_bind_error (padAddr_misaligned ha)))
  · exact next_congr (issue_goes_on h (of_bind_ok (padAddr_ok ha hs)))
  · exact next_congr (issue_raises h (of_bind_error (padAddr_outside ha hs)))
  · exact next_congr (issue_raises h (of_bind_error (padAddr_misaligned ha)))
theorem descriptorWordsAndCursor : DescriptorWordsAndCursor := by
  intro s t w x v dx k
  have hk : k < 32 := BitVec.isLt _
  have hv : agenValue w x = v := by
    rw [agenValue, BitVec.setWidth_eq_extractLsb' (by decide)]
  refine ⟨fun h => ⟨_, next_congr (issue_goes_on h rfl), ?_, fun j hj hjk => ?_⟩, fun h => ⟨_, next_congr (issue_goes_on h rfl), ?_, fun j hj hjk => ?_⟩,
    fun h => next_congr (issue_goes_on h (hv ▸ rfl))⟩
  · exact (extractLsb'_setDescWord_same _ k hk _).trans hv
  · exact extractLsb'_setDescWord_ne _ j k hj hjk _
  · exact (extractLsb'_setDescWord_same _ k hk _).trans (hv ▸ rfl)
  · exact extractLsb'_setDescWord_ne _ j k hj hjk _
/-- Settles O4: the check of the pad, the accesses by their bounds and alignment, and the descriptor words. -/
theorem padAndDescriptorAccess : Obligations.PadAndDescriptorAccess := ⟨padErrorsCountOrKill, padAccessesLoadAndStore, descriptorWordsAndCursor⟩
end

section
/-! PROOFS. Moves, matrices, row instructions, conversions and draws. -/

namespace Sys2Proof.Machine

open Sys2Proof.Claims

/-- Where r answers a tile, it is x with another pad and flags more. -/
def WritesPad (x : Tile) (r : Except Exc Tile) : Prop := ∀ y, r = .ok y → ∃ m fl, y = (x.setPad m).orFlags fl

/-- Where r answers a tile, it is x with another of its banks and flags more. -/
def WritesBank (x : Tile) (k : Fin 4) (r : Except Exc Tile) : Prop := ∀ y, r = .ok y → ∃ b fl, y = (x.setBank k b).orFlags fl

theorem writesPad_error (x : Tile) (e : Exc) : WritesPad x (.error e) := fun _ h => nomatch h
theorem writesBank_error (x : Tile) (k : Fin 4) (e : Exc) : WritesBank x k (.error e) := fun _ h => nomatch h
theorem writesPad_ok (x : Tile) (m : Memory) (fl : Word) : WritesPad x (.ok ((x.setPad m).orFlags fl)) :=
  fun _ h => ⟨m, fl, (Except.ok.inj h).symm⟩
theorem writesBank_ok (x : Tile) (k : Fin 4) (b : Bank) (fl : Word) : WritesBank x k (.ok ((x.setBank k b).orFlags fl)) :=
  fun _ h => ⟨b, fl, (Except.ok.inj h).symm⟩
theorem writesPad_bind {α : Type} {x : Tile} {e : Except Exc α} {f : α → Except Exc Tile} (h : ∀ a, WritesPad x (f a)) : WritesPad x (e >>= f) := by
  cases e with
  | error e => exact writesPad_error x e
  | ok a => exact h a
theorem writesBank_bind {α : Type} {x : Tile} {k : Fin 4} {e : Except Exc α} {f : α → Except Exc Tile} (h : ∀ a, WritesBank x k (f a)) :
    WritesBank x k (e >>= f) := by
  cases e with
  | error e => exact writesBank_error x k e
  | ok a => exact h a
theorem writesPad_ite {x : Tile} {p : Prop} [Decidable p] {a b : Except Exc Tile} (ha : WritesPad x a) (hb : WritesPad x b) :
    WritesPad x (if p then a else b) := by
  split
  · exact ha
  · exact hb
theorem writesBank_ite {x : Tile} {k : Fin 4} {p : Prop} [Decidable p] {a b : Except Exc Tile} (ha : WritesBank x k a) (hb : WritesBank x k b) :
    WritesBank x k (if p then a else b) := by
  split
  · exact ha
  · exact hb

theorem rowWhole_writesPad (f : RowFn) (x : Tile) (w : Operand) : WritesPad x (rowWhole f x w) := by
  cases f <;>
  exact writesPad_bind fun _ => writesPad_bind fun _ => writesPad_bind fun _ => writesPad_bind fun _ =>
    writesPad_ite (writesPad_error _ _) (writesPad_bind fun _ => writesPad_ok _ _ _)
theorem convertWalk_writesPad (x : Tile) (w : Operand) : WritesPad x (convertWalk x w) := by
  refine writesPad_bind fun _ => writesPad_bind fun _ => writesPad_bind fun _ => writesPad_ite (writesPad_error _ _)
    (writesPad_ite (writesPad_error _ _) (writesPad_ite (writesPad_bind fun _ => writesPad_ok _ _ _) ?_))
  exact writesPad_ite (writesPad_error _ _) (writesPad_ite (writesPad_error _ _) (writesPad_bind fun _ => writesPad_ok _ _ _))
theorem dropOut_writesPad (x : Tile) (w : Operand) : WritesPad x (dropOut x w) :=
  writesPad_bind fun _ => writesPad_bind fun _ => writesPad_ite (writesPad_error _ _)
    (writesPad_ite (writesPad_error _ _) (writesPad_bind fun _ => writesPad_ok _ _ _))
theorem randInit_writesPad (x : Tile) (w : Operand) : WritesPad x (randInit x w) := by
  refine writesPad_bind fun a => writesPad_bind fun _ => ?_
  dsimp only
  cases (InitParams.parse x.pad a).refused with
  | some off => exact writesPad_error _ _
  | none => exact writesPad_bind fun _ => writesPad_ok _ _ _
theorem sample_writesPad (x : Tile) (w : Operand) : WritesPad x (sample x w) := by
  refine writesPad_bind fun dx => writesPad_bind fun _ => writesPad_ite (writesPad_error _ _) (writesPad_ite (writesPad_error _ _)
    (writesPad_ite (writesPad_error _ _) (writesPad_ite (writesPad_error _ _) (writesPad_bind fun a => ?_))))
  dsimp only
  cases firstRefused ((List.range dx.rows).map fun i => SampleRec.parse x.pad (a + 48 * i)) dx.len with
  | some r => exact writesPad_error _ _
  | none => exact writesPad_bind fun _ => writesPad_ok _ _ _

/-- A reduction writes the pad, or under CONT a bank, whatever its second operand is. -/
theorem rowReduce_writesPad (f : RedFn) (x : Tile) (w : Operand) (h : opBit w 13 = false) : WritesPad x (rowReduce f x w) := by
  unfold rowReduce
  simp only [h, Bool.false_eq_true, ↓reduceIte]
  have rest : ∀ {rows : Walk → Nat} {y : Walk → Exc} {v : Walk → List (Nat × FV)} {g : Walk → Word → Word},
      WritesPad x (x.walk (opFin6 w 38) >>= fun dy => if dy.total < rows dy then .error (y dy) else
        dy.storeHeld (Narrow.rne (opBit w 21)) (v dy) x.pad >>= fun p => .ok ((x.setPad p.1).orFlags (g dy p.2))) :=
    writesPad_bind fun _ => writesPad_ite (writesPad_error _ _) (writesPad_bind fun _ => writesPad_ok _ _ _)
  refine writesPad_bind fun dx => ?_
  cases f with
  | sum => exact writesPad_bind fun _ => rest
  | max => exact writesPad_bind fun _ => rest
  | dot =>
    cases optSlot (opFin6 w 32) with
    | none => exact writesPad_bind fun _ => rest
    | some d => exact writesPad_bind fun _ => writesPad_ite (writesPad_bind fun _ => rest) (writesPad_bind fun _ => rest)
theorem rowReduce_writesBank (f : RedFn) (x : Tile) (w : Operand) (h : opBit w 13 = true) :
    WritesBank x (opFin2 w 14) (rowReduce f x w) := by
  unfold rowReduce
  simp only [h, ↓reduceIte]
  have rest : ∀ {b : Except Exc (Bank × Word)} {g : Word → Word},
      WritesBank x (opFin2 w 14) (b >>= fun p => .ok ((x.setBank (opFin2 w 14) p.1).orFlags (g p.2))) :=
    writesBank_bind fun _ => writesBank_ok _ _ _ _
  refine writesBank_bind fun dx => ?_
  cases f with
  | sum => exact writesBank_bind fun _ => rest
  | max => exact writesBank_bind fun _ => rest
  | dot =>
    cases optSlot (opFin6 w 32) with
    | none => exact writesBank_bind fun _ => rest
    | some d => exact writesBank_bind fun _ => writesBank_ite (writesBank_bind fun _ => rest) (writesBank_bind fun _ => rest)

section
variable {cls op : Nat} {rsv : List (Nat × Nat)} {t : Fin 160} {w : Operand} {s : State} {r : Tile → Except Exc Tile}

/-- A body that only asks the tile: what it answers, and its exception. -/
theorem issue_of_answer (h : Issues cls op rsv t w s) (hop : PlainOp cls op := by decide) :
    (∀ y, r s.tiles[t] = .ok y → issue cls op rsv (fun _ x => .of (r x)) t w s = wentOn s t y 1)
      ∧ (∀ e, r s.tiles[t] = .error e → issue cls op rsv (fun _ x => .of (r x)) t w s = s.raiseExc t e) :=
  ⟨fun _ hy => issue_goes_on h (by rw [hy]; rfl) hop, fun _ he => issue_raises h (by rw [he]; rfl) hop⟩

/-- The same where a tile that it answers has the pad written. -/
theorem issue_writesPad (h : Issues cls op rsv t w s) (hw : WritesPad s.tiles[t] (r s.tiles[t])) (hop : PlainOp cls op := by decide) :
    (∀ y, r s.tiles[t] = .ok y → Host.Outcome.next (φ := Fault) (ρ := Refusal) (issue cls op rsv (fun _ x => .of (r x)) t w s) = .next (wentOn s t y 1)
        ∧ ∃ m fl, y = (s.tiles[t].setPad m).orFlags fl)
      ∧ (∀ e, r s.tiles[t] = .error e →
        Host.Outcome.next (φ := Fault) (ρ := Refusal) (issue cls op rsv (fun _ x => .of (r x)) t w s) = .next (s.raiseExc t e)) := by
  obtain ⟨hok, herr⟩ := issue_of_answer (r := r) h hop
  exact ⟨fun y hy => ⟨next_congr (hok y hy), hw y hy⟩, fun e he => next_congr (herr e he)⟩

end

/-- A reduction's outcome. -/
theorem issue_rowReduce {op : Nat} {t : Fin 160} {w : Operand} {s : State} (f : RedFn) (h : Issues 6 op rsvRow t w s) (hop : PlainOp 6 op := by decide) :
    let out := Host.Outcome.next (φ := Fault) (ρ := Refusal) (issue 6 op rsvRow (fun _ x => .of (rowReduce f x w)) t w s)
    (∀ y, rowReduce f s.tiles[t] w = .ok y → out = .next (wentOn s t y 1)
        ∧ (opBit w 13 = false → ∃ m fl, y = (s.tiles[t].setPad m).orFlags fl)
        ∧ (opBit w 13 = true → ∃ b fl, y = (s.tiles[t].setBank (opFin2 w 14) b).orFlags fl))
      ∧ (∀ e, rowReduce f s.tiles[t] w = .error e → out = .next (s.raiseExc t e)) := by
  obtain ⟨hok, herr⟩ := issue_of_answer (r := fun x => rowReduce f x w) h hop
  exact ⟨fun y hy => ⟨next_congr (hok y hy), fun hc => rowReduce_writesPad f _ w hc y hy, fun hc => rowReduce_writesBank f _ w hc y hy⟩,
    fun e he => next_congr (herr e he)⟩

/-- The lanes that RUNIF draws: bound to the elements' logical indices, +0 where a position has none (08 R236). -/
theorem randUniform_of_span {x : Tile} {w : Operand} {d : Walk} {c n : Nat} (hd : x.walk (opFin6 w 30) = .ok d)
    (hc : x.cursorSpan (opFin6 w 30) d = .ok (c, n)) :
    randUniform x w = .ok ((x.setV (opFin5 w 19) (Vector.ofFn fun i =>
      if i.val < n then ((d.d.locate (c + i)).map fun p => rngLane (x.draw (opFin4 w 46) p.2)).getD 0 else 0)).advance (opFin6 w 30) n) := by
  simp only [randUniform, hd, hc, bind, Except.bind]
  congr 4
  funext i
  cases d.d.locate (c + i.val) <;> rfl

/-! STORE. -/

theorem optSlot_of_none {f : Fin 64} (h : f = 63) : optSlot f = none := by
  rw [h]
  rfl
theorem optSlot_of_some {f : Fin 64} (h : f ≠ 63) : optSlot f = some f := if_neg (by simpa using h)

/-- The c_in operand that DC names, where it names one. -/
def Tile.addend (x : Tile) (dc : Option (Fin 64)) : Except Exc (Option Walk) :=
  dc.elim (.ok none) fun d => (x.walk d).map some

section
variable {x : Tile} {w : Operand} {b : Bank} {dd : Walk} {dc : Option Walk} {c : Narrow}

theorem storeBank_of_walks {m : Memory} {fl : Word} (hd : x.walk (opFin6 w 44) = .ok dd) (hdc : x.addend (optSlot (opFin6 w 38)) = .ok dc)
    (hn : x.narrow w 33 32 28 = .ok c) (hcl : b.assay = true → b.closed = true)
    (hs : storeRows x.pad dd dc b.tab c (b.shape dd).1 (b.shape dd).2 b.at = .ok (m, fl)) :
    storeBank x w b = .ok ((x.setPad m).orFlags fl) := by
  have hcl' : (b.assay && !b.closed) = false := by simpa using hcl
  unfold storeBank
  cases ho : optSlot (opFin6 w 38) with
  | none =>
    cases Except.ok.inj ((congrArg x.addend ho).symm.trans hdc)
    simp only [hd, hn, bind, Except.bind, pure, Except.pure, hcl', Bool.false_eq_true, ↓reduceIte, hs]
  | some d =>
    have h := (congrArg x.addend ho).symm.trans hdc
    simp only [Tile.addend, Option.elim_some] at h
    simp only [hd, h, hn, bind, Except.bind, hcl', Bool.false_eq_true, ↓reduceIte, hs]
theorem storeBank_of_open (hd : x.walk (opFin6 w 44) = .ok dd) (hdc : optSlot (opFin6 w 38) = none)
    (hn : x.narrow w 33 32 28 = .ok c) (ha : b.assay = true) (hcl : b.closed = false) :
    storeBank x w b = .error (excAssay (b.kNext / 64)) := by
  unfold storeBank
  simp only [hd, hdc, hn, bind, Except.bind, pure, Except.pure, ha, hcl, Bool.not_false, Bool.and_self, ↓reduceIte]

end

end Sys2Proof.Machine

open Sys2Proof Sys2Proof.Machine Sys2Proof.Claims

theorem movesBetweenPadAndLanes : MovesBetweenPadAndLanes := by
  intro s t w x dx lm
  refine ⟨fun h d c n hd hc => ?_, fun h d c k n m fl hd hn hc hs => ?_, fun h dst src c m fl hdst hsrc hn ht hs => ?_,
    fun e he => ⟨fun h => ?_, fun h => ?_, fun h => ?_⟩⟩
  · intro f hf
    exact next_congr (issueRead_goes_on h (vldBody_ok hd hc) hf)
  · exact next_congr (issue_goes_on h ((of_bind_ok hd).trans ((of_bind_ok hn).trans ((of_bind_ok hc).trans (of_bind_ok hs)))))
  · refine next_congr (issue_goes_on h ((of_bind_ok hdst).trans ((of_bind_ok hsrc).trans ((of_bind_ok hn).trans ?_))))
    rw [if_neg (by omega)]
    exact of_bind_ok hs
  · exact next_congr (issueRead_raises h (of_bind_error he))
  · exact next_congr (issue_raises h (of_bind_error he))
  · exact next_congr (issue_raises h (of_bind_error he))

theorem matrixBanks : MatrixBanks := by
  intro s t w x k
  refine ⟨fun h a b r fl ha hb hr hf => ?_, fun h dd c m fl hd h63 hn hcl hs => ?_, fun h dd dc c m fl hd h63 hdc hn hcl hs => ?_,
    fun h dd c hd h63 hn ha hcl => ?_, fun h => ?_⟩
  · exact next_congr (issueRead_goes_on h (mmaBody_ok ha hb hr) hf)
  · exact next_congr ((issue_of_answer h).1 _ (storeBank_of_walks hd (congrArg (Tile.addend _) (optSlot_of_none h63)) hn hcl hs))
  · refine next_congr ((issue_of_answer h).1 _ (storeBank_of_walks hd ?_ hn hcl hs))
    rw [optSlot_of_some h63]
    exact congrArg (Except.map some) hdc
  · exact next_congr ((issue_of_answer h).2 _ (storeBank_of_open hd (optSlot_of_none h63) hn ha hcl))
  · exact next_congr (issue_goes_on h rfl)

/-- Settles O9: the instruction's body answers what its walks give. -/
theorem movesAndMatrices : Obligations.MovesAndMatrices := ⟨movesBetweenPadAndLanes, matrixBanks⟩

theorem rowsAndConversions : RowsAndConversions := by
  intro s t w x holds reduces
  exact ⟨fun h => issue_writesPad (r := fun x => rowWhole .softmax x w) h (rowWhole_writesPad _ _ _),
    fun h => issue_writesPad (r := fun x => rowWhole .logSoftmax x w) h (rowWhole_writesPad _ _ _),
    fun h => issue_writesPad (r := fun x => rowWhole .rmsNorm x w) h (rowWhole_writesPad _ _ _),
    fun h => issue_writesPad (r := fun x => rowWhole .layerNorm x w) h (rowWhole_writesPad _ _ _),
    fun h => issue_rowReduce .sum h, fun h => issue_rowReduce .max h, fun h => issue_rowReduce .dot h,
    fun h => issue_writesPad (r := fun x => convertWalk x w) h (convertWalk_writesPad _ _)⟩

theorem randomInstructions : RandomInstructions := by
  intro s t w x padOnly
  refine ⟨fun h => ?_, fun h d c n hd hc => ?_, fun h e he => next_congr ((issue_of_answer h).2 e he),
    fun h => issue_writesPad (r := fun x => dropOut x w) h (dropOut_writesPad _ _),
    fun h => issue_writesPad (r := fun x => randInit x w) h (randInit_writesPad _ _),
    fun h => issue_writesPad (r := fun x => sample x w) h (sample_writesPad _ _)⟩
  · rw [← BitVec.setWidth_eq_extractLsb' (by decide)]
    exact next_congr (issue_goes_on h rfl)
  · exact next_congr ((issue_of_answer h).1 _ (randUniform_of_span hd hc))

/-- Settles O10: an answer of these bodies is the tile with its pad, or a bank, written, and a refusal is an exception. -/
theorem rowsConversionsAndDraws : Obligations.RowsConversionsAndDraws := ⟨rowsAndConversions, randomInstructions⟩

end

section
/-! PROOFS. Fences, transfers and fused collectives: what issues, and what completes. -/

namespace Sys2Proof.Machine

open Sys2Proof.Claims

theorem armFence_of_free {x : Tile} {f : Fin 64} (h : x.sync.fences[f] = .idle ∨ x.sync.fences[f] = .done) :
    armFence f x = .ok (x.setFence f .armed) := by
  rcases h with h | h <;> simp [armFence, h]
theorem armFence_of_armed {x : Tile} {f : Fin 64} (h : x.sync.fences[f] = .armed) : armFence f x = .error (excFenceBusy f) := by simp [armFence, h]
theorem armFence_of_failed {x : Tile} {f : Fin 64} {e : Exc} (h : x.sync.fences[f] = .failed e) : armFence f x = .error e := by simp [armFence, h]

/-- A format that the check of a descriptor finds is its code's. -/
theorem Desc.formatOf_of_check {d : Desc} {b : Bool} {f : Format} (h : d.check b = .ok f) : formatOf d.fmtCode = some f := by
  unfold check at h
  cases hf : formatOf d.fmtCode with
  | none => simp [hf] at h
  | some g =>
    simp only [hf] at h
    repeat' split at h
    all_goals cases h
    rfl

theorem exists_of_map_eq_ok {α β : Type} {e : Except Exc α} {f : α → β} {b : β} (h : e.map f = .ok b) : ∃ a, e = .ok a ∧ f a = b := by
  cases e with
  | error x => cases h
  | ok a => exact ⟨a, rfl, Except.ok.inj h⟩

theorem exists_of_bind_eq_ok {α β : Type} {e : Except Exc α} {f : α → Except Exc β} {b : β} (h : e >>= f = .ok b) :
    ∃ a, e = .ok a ∧ f a = .ok b := by
  cases e with
  | error x => cases h
  | ok a => exact ⟨a, rfl, h⟩

/-- A valid walk is its descriptor's, in the format that its code names. -/
theorem Tile.walk_desc {x : Tile} {f : Fin 64} {d : Walk} (h : x.walk f = .ok d) :
    d.d = Desc.ofBits f x.regs.descs[f] ∧ formatOf d.d.fmtCode = some d.f := by
  obtain ⟨g, hg, rfl⟩ := exists_of_map_eq_ok h
  exact ⟨rfl, Desc.formatOf_of_check hg⟩
theorem Tile.walkDm_desc {x : Tile} {f : Fin 64} {dp d : Walk} (h : x.walkDm dp f = .ok d) :
    d.d = Desc.ofBits f x.regs.descs[f] ∧ formatOf d.d.fmtCode = some d.f := by
  obtain ⟨g, hg, h⟩ := exists_of_bind_eq_ok h
  split at h
  · cases h
  split at h
  · cases h
  cases h
  exact ⟨rfl, Desc.formatOf_of_check hg⟩

/-- The walk with its descriptor's slot forgotten. -/
def Walk.unslotted (d : Walk) : Walk := ⟨{ d.d with slot := 0 }, d.f⟩

/-- The walks that a transfer captures are those of its operands; only the slots that a fault would name are forgotten. -/
theorem dmaOp_walks {kind : AsyncKind} {s : State} {t : Fin 160} {w : Operand} {dp dm : Walk} (h : TransferOk kind s t w dp dm) :
    (dmaOp kind w s.tiles[t]).walks = some (dp.unslotted, dm.unslotted) := by
  obtain ⟨hp, hm, -⟩ := h
  obtain ⟨hp, hpf⟩ := Tile.walk_desc hp
  obtain ⟨hm, hmf⟩ := Tile.walkDm_desc hm
  have hp0 : Desc.ofBits 0 s.tiles[t].regs.descs[dmaDp w] = dp.unslotted.d := by
    rw [Walk.unslotted, hp]
    rfl
  have hm0 : Desc.ofBits 0 s.tiles[t].regs.descs[dmaDm w] = dm.unslotted.d := by
    rw [Walk.unslotted, hm]
    rfl
  show (match formatOf (Desc.ofBits 0 s.tiles[t].regs.descs[dmaDp w]).fmtCode, formatOf (Desc.ofBits 0 s.tiles[t].regs.descs[dmaDm w]).fmtCode with
    | some f, some g => some ((⟨Desc.ofBits 0 s.tiles[t].regs.descs[dmaDp w], f⟩ : Walk), (⟨Desc.ofBits 0 s.tiles[t].regs.descs[dmaDm w], g⟩ : Walk))
    | _, _ => none) = _
  rw [hp0, hm0]
  simp only [show formatOf dp.unslotted.d.fmtCode = some dp.f from hpf, show formatOf dm.unslotted.d.fmtCode = some dm.f from hmf]
  rfl

/-- A transfer's operands are found valid: its body answers by its fence alone. -/
theorem dmaBody_of_ok {kind : AsyncKind} {s : State} {t : Fin 160} {w : Operand} {dp dm : Walk} (h : TransferOk kind s t w dp dm) :
    dmaBody kind w (s.tileCtx t s.tiles[t]) s.tiles[t]
      = .of ((armFence (dmaFence w) s.tiles[t]).map fun y => y.addAsync (dmaOp kind w s.tiles[t])) := by
  obtain ⟨hp, hm, hs, ha, hl⟩ := h
  have hs' : (if (kind == .get || kind == .padget) = true then dmaShape dm dp else dmaShape dp dm) = .ok () := by
    simpa using hs
  have ha' : (kind == .atomadd && dp.d.fmtCode != 0) = false := by
    cases hk : kind == .atomadd with
    | false => rfl
    | true => simp [ha (by simpa using hk)]
  unfold dmaBody
  simp only [hp, hm, bind, Except.bind, hl, ha', Bool.false_eq_true, ↓reduceIte]
  cases hg : kind == .get || kind == .padget <;>
  · simp only [hg, Bool.false_eq_true, ↓reduceIte] at hs' ⊢
    rw [hs']
    cases armFence (dmaFence w) s.tiles[t] <;> rfl

/-- What a transfer on valid operands answers, by its fence. -/
theorem issueThen_transfer {kind : AsyncKind} {op : Nat} {after : Tile → State → State} {s : State} {t : Fin 160} {w : Operand} {dp dm : Walk}
    (h : Issues 0xA op rsvDma t w s) (hok : TransferOk kind s t w dp dm) (hop : PlainOp 0xA op := by decide) :
    let x := s.tiles[t]
    let out := issueThen 0xA op rsvDma (dmaBody kind w) after t w s
    ((x.sync.fences[dmaFence w] = .armed → out = s.raiseExc t (excFenceBusy (dmaFence w)))
        ∧ (∀ e, x.sync.fences[dmaFence w] = .failed e → out = s.raiseExc t e))
      ∧ (x.sync.fences[dmaFence w] = .idle ∨ x.sync.fences[dmaFence w] = .done →
        out = after x (wentOn s t ((x.setFence (dmaFence w) .armed).addAsync (dmaOp kind w x)) 1)) := by
  obtain ⟨hc, ho, hv, hx⟩ := hop
  refine ⟨⟨fun hf => ?_, fun e hf => ?_⟩, fun hf => ?_⟩ <;> rw [issueThen_of_issues h hc ho hv hx, dmaBody_of_ok hok]
  · rw [armFence_of_armed hf]
    rfl
  · rw [armFence_of_failed hf]
    rfl
  · rw [armFence_of_free hf]
    rfl

/-! A walk reads alike whatever its slot is called. -/

theorem countersOf_unslotted (d : Walk) (cs : List Nat) (i : Nat) : countersOf d.unslotted.d cs i = countersOf d.d cs i := by
  induction cs generalizing i with
  | nil => rfl
  | cons c cs ih => exact congrArg (_ :: ·) (ih _)
theorem locate_unslotted (d : Walk) (i : Nat) : d.unslotted.d.locate i = d.d.locate i := by
  unfold Desc.locate
  rw [show countersOf d.unslotted.d d.unslotted.d.used i = countersOf d.d d.d.used i from countersOf_unslotted ..]
  rfl
theorem sourceCodes_unslotted (d : Walk) (read : Int → Except MemErr Nat) : sourceCodes d.unslotted read = sourceCodes d read := by
  unfold sourceCodes
  simp only [locate_unslotted]
  rfl

section
variable {kind : AsyncKind} {s s' : State} {t : Fin 160} {w : Operand} {dp dm : Walk}

/-- A pad transfer within this module sends no message. -/
theorem dmaSend_here (h : locRank (s.tiles[t].getS (opFin5 w 33)) = s'.dom.rank) : dmaSend kind t w s.tiles[t] s' = s' :=
  if_pos (Bool.or_eq_true_iff.2 (.inr (beq_iff_eq.2 h)))
theorem dmaSend_padget_away (hok : TransferOk .padget s t w dp dm) (h : locRank (s.tiles[t].getS (opFin5 w 33)) ≠ s'.dom.rank) :
    ∃ m, dmaSend .padget t w s.tiles[t] s' = s'.send m ∧ m.dst = locRank (s.tiles[t].getS (opFin5 w 33)) ∧ m.kind = .padgetRequest := by
  have hl : (locRank (dmaOp .padget w s.tiles[t]).loc == s'.dom.rank) = false := beq_eq_false_iff_ne.2 h
  simp only [dmaSend, hl, dmaOp_walks hok]
  exact ⟨_, rfl, rfl, rfl⟩
theorem dmaSend_padput_away (hok : TransferOk .padput s t w dp dm) (h : locRank (s.tiles[t].getS (opFin5 w 33)) ≠ s'.dom.rank)
    {cs : List (Nat × Nat)} (hc : sourceCodes dp (fun e => padReadCode s.tiles[t].pad dp dp.d.base e) = .ok cs) :
    ∃ m, dmaSend .padput t w s.tiles[t] s' = s'.send m ∧ m.dst = locRank (s.tiles[t].getS (opFin5 w 33)) ∧ m.kind = .padput := by
  have hl : (locRank (dmaOp .padput w s.tiles[t]).loc == s'.dom.rank) = false := beq_eq_false_iff_ne.2 h
  have hc' : sourceCodes dp.unslotted (fun e => padReadCode s.tiles[t].pad dp.unslotted dp.unslotted.d.base e) = .ok cs :=
    (sourceCodes_unslotted dp _).trans hc
  simp only [dmaSend, hl, dmaOp_walks hok, hc']
  exact ⟨_, rfl, rfl, rfl⟩

end

/-! Fused collectives (03 R105 to R108). -/

/-- CPFX, where it issues: its body decides, and two words are left behind. -/
theorem issueThen_cpfx {body : TileCtx → Tile → TileRes} {after : Tile → State → State} {t : Fin 160} {w : Operand} {s : State}
    (h : Issues 0xB 0x00 rsvCpfx t w s) :
    issueThen 0xB 0x00 rsvCpfx body after t w s = match body (s.tileCtx t s.tiles[t]) s.tiles[t] with
      | .next y => after s.tiles[t] (wentOn s t y 2)
      | r => s.applyRes t s.tiles[t] (wordOf 0xB 0x00 w) 2 r := by
  obtain ⟨hl, hw, he, hr⟩ := h
  rw [issueThen_of_live hl hw, operandOf_wordOf, he, classOf_wordOf _ _ _ (by decide), opcodeOf_wordOf _ _ _ (by decide), hr,
    isCpfx_wordOf (by decide) (by decide), if_neg Bool.noConfusion, if_neg (show ¬validOp 11 0 = false by decide), if_neg (Classical.not_not.2 rfl),
    if_neg Bool.noConfusion]
  cases body (s.tileCtx t s.tiles[t]) s.tiles[t] <;> rfl

/-- Only a SEQ out of order is reported. -/
theorem cpfxReport_of_code {m : Option Membership} {t : Fin 160} {w : Operand} {s : State}
    (h : ∀ e, cpfxCheck s.tiles[t] w m = .error e → e.code ≠ 0x08) : cpfxReport m t w s = s := by
  unfold cpfxReport
  dsimp only
  split
  next e _ _ _ hc =>
    rw [beq_eq_false_iff_ne.2 (h e (by assumption)), Bool.false_and, if_neg Bool.false_ne_true]
  next => rfl
theorem cpfxReport_of_disabled {m : Option Membership} {t : Fin 160} {w : Operand} {s : State} {inner : DWord}
    (hi : s.tiles[t].ctl.istore[s.tiles[t].ctl.pc + 1]? = some inner) (he : s.tiles[t].enabled (operandOf inner) = false) :
    cpfxReport m t w s = s := by
  unfold cpfxReport
  simp only [hi, Option.all_some, he, Bool.and_false, Bool.false_eq_true, ↓reduceIte]
  split <;> rfl

theorem execCpfx_of_report {t : Fin 160} {w : Operand} {s : State} (h : cpfxReport (s.cpfxGroup t s.tiles[t] w) t w s = s) :
    exec (.cpfx t w) s = .next (issueThen 0xB 0x00 rsvCpfx (fun _ x => cpfxBody (s.cpfxGroup t s.tiles[t] w) w x)
      (cpfxInst (s.cpfxGroup t s.tiles[t] w) t w) t w s) := by
  show execCpfx t w s = _
  simp only [execCpfx, h, ite_self]

section
variable {x : Tile} {w : Operand} {m : Option Membership} {inner : DWord}

theorem cpfxBody_of_disabled (hi : x.ctl.istore[x.ctl.pc + 1]? = some inner) (he : x.enabled (operandOf inner) = false) :
    cpfxBody m w x = .next x := by
  simp only [cpfxBody, hi, Option.any_some, he, Bool.not_false, ↓reduceIte]
theorem cpfxBody_of_enabled (hi : x.ctl.istore[x.ctl.pc + 1]? = some inner) (he : x.enabled (operandOf inner) = true) :
    cpfxBody m w x = match cpfxCheck x w m with
      | .error e => .raise e
      | .ok (_, inner, k, _) => .next (cpfxTile x w inner k) := by
  simp only [cpfxBody, hi, Option.any_some, he, Bool.not_true, Bool.false_eq_true, ↓reduceIte] <;> rfl
theorem cpfxInst_of_disabled {t : Fin 160} {s : State} (hi : x.ctl.istore[x.ctl.pc + 1]? = some inner)
    (he : x.enabled (operandOf inner) = false) : cpfxInst m t w x s = s := by
  simp only [cpfxInst, hi, Option.any_some, he, Bool.not_false, ↓reduceIte]

/-- The instance that a checked pair opens (03 R105, R107). -/
def fusedInst (t : Fin 160) (w : Operand) (x : Tile) (k : Membership) (c : Contribution) (cmd : Cmd) (now : Nat) : CollInst :=
  let kind := collKind (cxType w) (cxRop w) (cxAssay w && !x.ctl.pewter)
  { key := ⟨cmd.ref, cxGroup w, k.lane, cxSeq w⟩, tenant := cmd.tenant, tile := t, fence := cxFence w
    members := k.members, index := k.index, kind := kind, fmt := c.fmt, rows := c.rows, rowLen := c.rowLen
    own := ⟨k.index, 0, kind, c.fmt, c.rows, c.rowLen, c.c, c.h, c.data⟩, parts := []
    issuedAt := now, timeoutUs := k.timeoutUs, heldUntil := 0, held := 0 }

theorem cpfxInst_of_ok {t : Fin 160} {s : State} {i : Inner} {k : Membership} {c : Contribution} {cmd : Cmd}
    (hi : x.ctl.istore[x.ctl.pc + 1]? = some inner) (he : x.enabled (operandOf inner) = true)
    (hc : cpfxCheck x w m = .ok (i, inner, k, c)) (hcmd : x.ctl.cmd.bind s.cmdAt = some cmd) :
    cpfxInst m t w x s = match cpfxMisplaced x w i inner with
      | none => s.issueInst (fusedInst t w x k c cmd s.time)
      | some e =>
        if s.coll.earlyFail.any (·.1 == (fusedInst t w x k c cmd s.time).key) then s.issueInst (fusedInst t w x k c cmd s.time)
        else (s.setColl { s.coll with early := s.coll.early.filter (·.1 != (fusedInst t w x k c cmd s.time).key) }).detectFail
          (fusedInst t w x k c cmd s.time) e := by
  simp only [cpfxInst, hi, Option.any_some, he, Bool.not_true, Bool.false_eq_true, ↓reduceIte, hc, hcmd] <;> rfl

end

/-! A transfer that has moved its data (03 R101). -/

/-- The transfer's place is this module. -/
theorem landTransfer_here {s : State} {t : Fin 160} {c : Cmd} {a : AsyncOp} {f : Fin 64}
    (hg : (a.tvaRange.any fun (lo, n) => s.gradForbidden c a lo n) = false)
    (hl : a.kind = .padget ∨ a.kind = .padput → locRank a.loc = s.dom.rank) :
    s.landTransfer t c a f = match s.transfer t c.ref c.tenant a with
      | .ok s' =>
        let lands := ((s'.gradPut t c a).modTile t fun y => y.landed a f .done).touched t c.tenant a
        match a.ct with
        | some k => lands.addCounter (if a.kind = .padput then locTile a.loc else t) k 1
        | none => lands
      | .error (.fault e) => s.modTile t fun y => y.landed a f (.failed e)
      | .error .noRoom => s.modTile t fun y => y.landed a f (.failed ⟨stBulkFull, 0⟩)
      | .error .busy => s := by
  have hr : ((a.kind == .padget || a.kind == .padput) && locRank a.loc != s.dom.rank) = false := by
    cases hk : a.kind == .padget || a.kind == .padput with
    | false => rfl
    | true => simp [hl (by simpa using hk)]
  have hat : (if a.kind == .padput then (if locRank a.loc == s.dom.rank then some (locTile a.loc) else none) else some t.val)
      = some (if a.kind = .padput then locTile a.loc else t.val) := by
    by_cases hk : a.kind = .padput
    · simp [hk, hl (.inr hk)]
    · simp [hk]
  unfold State.landTransfer
  simp only [hg, hr, hat, Bool.false_eq_true, ↓reduceIte, Bool.false_and]
  cases s.transfer t c.ref c.tenant a with
  | ok s' => cases a.ct <;> rfl
  | error e => cases e <;> rfl

end Sys2Proof.Machine

open Sys2Proof Sys2Proof.Machine Sys2Proof.Claims

theorem fenceWaitTable : FenceWaitTable := by
  intro s t w h x f
  have hb : ∀ {r}, (match x.sync.fences[f] with
      | .idle => TileRes.next x
      | .armed => .wait
      | .done => .next (x.setFence f .idle)
      | .failed e => .raise e) = r → fwaitBody w s.tiles[t] = r := fun h => h
  refine ⟨fun hf => ?_, fun hf => ?_, fun hf => ?_, fun e hf => ?_⟩
  · exact next_congr (issue_goes_on h (hb (by rw [hf])))
  · exact next_congr (issue_waits h (hb (by rw [hf])))
  · exact next_congr (issue_goes_on h (hb (by rw [hf])))
  · exact next_congr (issue_raises h (hb (by rw [hf])))

theorem transfersIssue : TransfersIssue := by
  intro s t w dp dm x f issued free stops away
  refine ⟨fun h hok => ?_, fun h hok => ?_, fun h hok => ?_, fun h hok => ?_, fun h hok => ?_⟩
  · obtain ⟨⟨hb, hf⟩, hi⟩ := issueThen_transfer (after := fun _ s => s) h hok
    exact ⟨⟨fun a => next_congr (hb a), fun e a => next_congr (hf e a)⟩, fun a => next_congr (hi a)⟩
  · obtain ⟨⟨hb, hf⟩, hi⟩ := issueThen_transfer (after := fun _ s => s) h hok
    exact ⟨⟨fun a => next_congr (hb a), fun e a => next_congr (hf e a)⟩, fun a => next_congr (hi a)⟩
  · obtain ⟨⟨hb, hf⟩, hi⟩ := issueThen_transfer (after := fun _ s => s) h hok
    exact ⟨⟨fun a => next_congr (hb a), fun e a => next_congr (hf e a)⟩, fun a => next_congr (hi a)⟩
  · obtain ⟨⟨hb, hf⟩, hi⟩ := issueThen_transfer (after := dmaSend .padget t w) h hok
    refine ⟨⟨fun a => next_congr (hb a), fun e a => next_congr (hf e a)⟩, fun a hn => ?_, fun a hn => ?_⟩
    · exact next_congr ((hi a).trans (dmaSend_here (Classical.not_not.1 hn)))
    · obtain ⟨m, hm, hd, hk⟩ := dmaSend_padget_away (s' := issued .padget) hok hn
      exact ⟨m, next_congr ((hi a).trans hm), hd, hk⟩
  · obtain ⟨⟨hb, hf⟩, hi⟩ := issueThen_transfer (after := dmaSend .padput t w) h hok
    refine ⟨⟨fun a => next_congr (hb a), fun e a => next_congr (hf e a)⟩, fun a hn => ?_, fun a hn cs hc => ?_⟩
    · exact next_congr ((hi a).trans (dmaSend_here (Classical.not_not.1 hn)))
    · obtain ⟨m, hm, hd, hk⟩ := dmaSend_padput_away (s' := issued .padput) hok hn hc
      exact ⟨m, next_congr ((hi a).trans hm), hd, hk⟩

theorem fusedCollectiveIssues : FusedCollectiveIssues := by
  intro s t w inner h x m hi
  refine ⟨fun he => ?_, fun he => ⟨fun e hc hcode => ?_, fun i k c cmd hc hcmd => ?_⟩⟩
  · rw [execCpfx_of_report (cpfxReport_of_disabled hi he), issueThen_cpfx h, cpfxBody_of_disabled hi he]
    exact next_congr (cpfxInst_of_disabled hi he)
  · rw [execCpfx_of_report (cpfxReport_of_code fun e' he' => by cases hc.symm.trans he'; exact hcode), issueThen_cpfx h,
      cpfxBody_of_enabled hi he, hc]
    rfl
  · intro went
    have out : exec (.cpfx t w) s = .next (cpfxInst m t w x went) := by
      rw [execCpfx_of_report (cpfxReport_of_code fun e' he' => by cases hc.symm.trans he'), issueThen_cpfx h, cpfxBody_of_enabled hi he, hc]
    have inst := cpfxInst_of_ok (t := t) (s := went) hi he hc hcmd
    refine ⟨fusedInst t w x k c cmd went.time, fun hm => ?_, fun e hm hf => ?_, rfl, rfl, rfl, rfl, rfl, rfl, rfl, rfl, rfl, rfl⟩
    · rw [out, inst, hm]
    · have none : ¬(went.coll.earlyFail.any fun p => p.1 == (fusedInst t w x k c cmd went.time).key) = true := by
        rw [show went.coll.earlyFail = [] from hf]
        exact Bool.false_ne_true
      rw [out, inst, hm]
      exact next_congr (if_neg none)

theorem transfersAndSignalsComplete : TransfersAndSignalsComplete := by
  intro s t f a c ha hc hw hg hl steps lands
  have out : exec (.dmaTransferDone t f) s = .next (steps (s.landTransfer t c a f)) := by
    show execDmaTransferDone t f s = _
    simp only [execDmaTransferDone, ha, hc, hw]
    rfl
  refine ⟨fun s' hs => ⟨fun hct => ?_, fun k hct => ?_⟩, fun e hs => ?_⟩ <;> rw [out, landTransfer_here hg hl, hs]
  · simp only [hct]
    rfl
  · simp only [hct]
    rfl

/-- Settles O11: a transfer's body answers by its fence alone, a fused pair by CPFX's check, and what completes lands here. -/
theorem fencesAndTransfers : Obligations.FencesAndTransfers :=
  ⟨fenceWaitTable, transfersIssue, fusedCollectiveIssues, transfersAndSignalsComplete⟩
end

section
/-! PROOFS. A re-plan's clock, the run of accepted drafts, and the registers after reset. -/

namespace Sys2Proof.Machine

/-- The loop from a start `25 · m` above its floor: it ends short only there, and all above its end is short. -/
theorem PatinaState.planClock_highest (p : PatinaState) (h : Nat) {m f : Nat} (hf : 25 * m ≤ f) :
    let r := p.planClock h m f
    (r.2 = false → p.short h r.1 = false) ∧ (∀ x, r.1 < x → x ≤ f → x % 25 = f % 25 → p.short h x = true) ∧ (r.2 = true → r.1 = f - 25 * m) := by
  induction m generalizing f with
  | zero => exact ⟨id, fun x (hx : f < x) hxf => absurd hx (by omega), fun _ => rfl⟩
  | succ m ih =>
    unfold planClock
    cases hs : p.short h f with
    | false => exact ⟨fun _ => hs, fun x (hx : f < x) hxf => absurd hx (by omega), fun h => nomatch h⟩
    | true =>
      obtain ⟨hend, habove, hfloor⟩ := ih (f := f - 25) (by omega)
      refine ⟨hend, fun x hx hxf hmod => ?_, fun he => (hfloor he).trans (by omega)⟩
      rcases Nat.lt_or_eq_of_le hxf with hlt | rfl
      · exact habove x hx (by omega) (by omega)
      · exact hs

theorem acceptRun_longest (v : Nat) (ds : List Nat) (ps : List (Nat × Word)) (h : ps.length = ds.length + 1) : ∃ n ≤ ds.length,
    (acceptRun v ds ps).map (·.token) = (ps.take (n + 1)).map (·.1) ∧ ds.take n = (ps.take n).map (·.1)
      ∧ (n < ds.length → ds.getD n 0 ≠ (ps.getD n (0, 0)).1) := by
  induction ds generalizing ps with
  | nil =>
    obtain ⟨p, rfl⟩ := List.length_eq_one_iff.1 h
    exact ⟨0, Nat.le_refl _, rfl, rfl, fun h => nomatch h⟩
  | cons d ds ih =>
    obtain ⟨⟨t, q⟩, ps, rfl⟩ := List.exists_cons_of_length_eq_add_one h
    by_cases ht : t = d
    · obtain ⟨n, hn, hrun, htake, hdis⟩ := ih ps (by simpa using h)
      refine ⟨n + 1, by simpa using hn, ?_, ?_, fun hlt => hdis (by simpa using hlt)⟩
      · simp [acceptRun, ht, hrun]
      · simp [ht, htake]
    · refine ⟨0, Nat.zero_le _, ?_, rfl, fun _ => Ne.symm ht⟩
      simp [acceptRun, ht]

section
variable (r : GenReq)

theorem cutRun_eq_take (limit : Nat) (xs : List TokRec) : cutRun r limit xs = xs.take (cutRun r limit xs).length := by
  induction xs generalizing limit with
  | nil => rfl
  | cons x xs ih =>
    unfold cutRun
    split
    · rfl
    split
    · rfl
    · exact congrArg (x :: ·) (ih _)
theorem cutRun_length_le (limit : Nat) (xs : List TokRec) : (cutRun r limit xs).length ≤ limit := by
  induction xs generalizing limit with
  | nil => exact Nat.zero_le _
  | cons x xs ih =>
    unfold cutRun
    split
    · exact Nat.zero_le _
    next hl =>
      have hl : limit ≠ 0 := by simpa using hl
      split
      · exact Nat.one_le_iff_ne_zero.2 hl
      · have := ih (limit - 1)
        simp only [List.length_cons]
        omega
/-- A stop token stands at the end, and nowhere before. -/
theorem cutRun_stops_at_end (limit : Nat) (xs : List TokRec) (i : Nat) (y : TokRec) (hi : i + 1 < (cutRun r limit xs).length)
    (hy : (cutRun r limit xs)[i]? = some y) : y.token ∉ r.stops := by
  induction xs generalizing limit i with
  | nil => exact absurd hi (by simp [cutRun])
  | cons x xs ih =>
    unfold cutRun at hi hy
    split at hi
    · exact absurd hi (by simp)
    next hl =>
      rw [if_neg hl] at hy
      split at hi
      · exact absurd hi (by simp)
      next hs =>
        rw [if_neg hs] at hy
        cases i with
        | zero =>
          cases Option.some.inj hy
          simpa using hs
        | succ i => exact ih (limit - 1) i (by simpa using hi) hy
theorem cutRun_ends_at_stop (limit : Nat) (xs : List TokRec) (hl : (cutRun r limit xs).length < limit)
    (hx : (cutRun r limit xs).length < xs.length) : ∃ y, (cutRun r limit xs).getLast? = some y ∧ y.token ∈ r.stops := by
  induction xs generalizing limit with
  | nil => exact absurd hx (by simp)
  | cons x xs ih =>
    have h0 : ¬(limit == 0) = true := by
      simp only [beq_iff_eq]
      omega
    unfold cutRun at hl hx ⊢
    rw [if_neg h0] at hl hx ⊢
    by_cases hs : r.stops.contains x.token = true
    · rw [if_pos hs]
      exact ⟨x, rfl, by simpa using hs⟩
    · rw [if_neg hs] at hl hx ⊢
      simp only [List.length_cons] at hl hx
      obtain ⟨y, hy, hm⟩ := ih (limit - 1) (by omega) (by omega)
      exact ⟨y, by rw [List.getLast?_cons, hy]; rfl, hm⟩

end

end Sys2Proof.Machine

open Sys2Proof Sys2Proof.Machine Sys2Proof.Claims

/-- Settles O36, by induction on the steps that there are to 1,500 MHz. -/
theorem replanLowersClockBySteps : Obligations.ReplanLowersClockBySteps := by
  intro p h f hf hmod
  obtain ⟨k, hk, heq⟩ := p.planClock_eq h ((f - 1500) / 25) f
  obtain ⟨hend, habove, hfloor⟩ := p.planClock_highest h (m := (f - 1500) / 25) (f := f) (by omega)
  refine ⟨?_, ?_, ?_, hend, fun x hx hxf hx25 => habove x hx hxf (by omega), fun he => (hfloor he).trans (by omega)⟩ <;> omega

/-- Settles O48, along the drafts and along the records. -/
theorem acceptedRun : Obligations.AcceptedRun :=
  ⟨acceptRun_longest, fun r limit xs => ⟨cutRun_eq_take r limit xs, cutRun_length_le r limit xs, cutRun_stops_at_end r limit xs,
    cutRun_ends_at_stop r limit xs⟩⟩

/-- Settles O57: the registers are read, and the parts of the state are what reset puts there. -/
theorem registersAfterReset : Obligations.RegistersAfterReset := by
  refine ⟨⟨?_, ?_⟩, ⟨?_, ?_, ?_⟩, ⟨?_, ?_, ?_, ?_, ?_⟩, ⟨?_, ?_, ?_, ?_⟩, ?_, rfl, rfl, rfl, rfl, fun t => Vector.getElem_replicate t.isLt, rfl⟩
  all_goals decide
end

section
/-! PROOFS. Queues, doorbells and the fetch of one entry. -/

namespace Sys2Proof.Machine

open Sys2Proof.Claims

/-! What a row of a command answers, by what its body answers. -/

section
variable {op : Nat} {c : CmdRef} {k : Cmd} {s s0 s' : State} {body : State → Cmd → CmdRes} {st d f : Nat}

theorem runCommand_votes (h : Acts op c k s s0) (hb : body s0 k = .ok s' d f) : runCommand op c body s = s'.vote c d f [] := by
  rw [runCommand_of_acts body h, hb, ended]
theorem runCommand_refuses (h : Acts op c k s s0) (hb : body s0 k = .fail st d) : runCommand op c body s = s0.finish c st d 0 := by
  rw [runCommand_of_acts body h, hb, ended]
theorem runCommand_fails_with (h : Acts op c k s s0) (hb : body s0 k = .failWith s' st d) : runCommand op c body s = s'.finish c st d 0 := by
  rw [runCommand_of_acts body h, hb, ended]
theorem runCommand_waits (h : Acts op c k s s0) (hb : body s0 k = .wait s') : runCommand op c body s = s' := by
  rw [runCommand_of_acts body h, hb, ended]

end

/-! The bodies of the queue commands (12 R351 to R354). -/

/-- The operands that SQ_CREATE refuses. -/
def sqRefused (s : State) (k : Cmd) : Prop :=
  slotOf (s.pewterFn k.ref.fn.val) (k.u 8 1) = none ∨ queueLimit k.ref.fn.val ≤ k.u 0 2 ∨ (s.sqAt k.ref.fn.val (k.u 0 2)).isSome
    ∨ s.cqAt k.ref.fn.val (k.u 2 2) = none ∨ ¬(2 ≤ k.u 4 4 ∧ k.u 4 4 ≤ 65536) ∨ ¬(k.u 0x10 8 % 4096 = 0 ∧ k.u 0x10 8 < 2 ^ 56)
    ∨ (bit (k.u 9 1) 0 = true ∧ s.pewterFn k.ref.fn.val = true)

/-- The operands that CQ_CREATE refuses. -/
def cqRefused (s : State) (k : Cmd) : Prop :=
  queueLimit k.ref.fn.val ≤ k.u 0 2 ∨ (s.cqAt k.ref.fn.val (k.u 0 2)).isSome ∨ ¬(2 ≤ k.u 4 4 ∧ k.u 4 4 ≤ 65536)
    ∨ ¬(k.u 0x10 8 % 4096 = 0 ∧ k.u 0x10 8 < 2 ^ 56) ∨ ¬(k.u 2 2 = 0xFFFF ∨ k.u 2 2 < vectorLimit k.ref.fn.val)

theorem sqCheck_iff (s : State) (k : Cmd) :
    (k.u 0 2 ≥ queueLimit k.ref.fn.val || (s.sqAt k.ref.fn.val (k.u 0 2)).isSome || (s.cqAt k.ref.fn.val (k.u 2 2)).isNone || !depthOk (k.u 4 4)
        || !ringOk (k.u 0x10 8) || (bit (k.u 9 1) 0 && s.pewterFn k.ref.fn.val)) = true
      ∨ slotOf (s.pewterFn k.ref.fn.val) (k.u 8 1) = none ↔ sqRefused s k := by
  simp only [sqRefused, depthOk, ringOk, Bool.or_eq_true, Bool.and_eq_true, Bool.not_eq_true', ← Bool.not_eq_true, decide_eq_true_iff, beq_iff_eq,
    Option.isNone_iff_eq_none, ge_iff_le]
  exact or_comm.trans (by simp only [or_assoc])
theorem cqCheck_iff (s : State) (k : Cmd) :
    (k.u 0 2 ≥ queueLimit k.ref.fn.val || (s.cqAt k.ref.fn.val (k.u 0 2)).isSome || !depthOk (k.u 4 4) || !ringOk (k.u 0x10 8)
        || !vectorOk k.ref.fn.val (k.u 2 2)) = true ↔ cqRefused s k := by
  simp only [cqRefused, depthOk, ringOk, vectorOk, Bool.or_eq_true, Bool.and_eq_true, Bool.not_eq_true', ← Bool.not_eq_true, decide_eq_true_iff,
    beq_iff_eq, ge_iff_le]
  simp only [or_assoc]

theorem sqCreateBody_of_refused {s : State} {k : Cmd} (h : sqRefused s k) : sqCreateBody s k = .fail 0x02 0 := by
  unfold sqCreateBody
  cases hs : slotOf (s.pewterFn k.ref.fn.val) (k.u 8 1) with
  | none => simp only [hs, stIllegalOperand]
  | some slot =>
    have hc := ((sqCheck_iff s k).2 h).resolve_right (by simp [hs])
    simp only [hs]
    exact if_pos hc
theorem sqCreateBody_of_taken {s : State} {k : Cmd} {slot : Nat} (h : ¬sqRefused s k) (hs : slotOf (s.pewterFn k.ref.fn.val) (k.u 8 1) = some slot) :
    sqCreateBody s k = match s.newSqId k.ref.fn.val with
      | none => .fail 0x18 0
      | some id => .ok (s.addSq (newSq k.ref.fn.val (k.u 0 2) id (k.u 4 4) slot (bit (k.u 9 1) 0) (k.u 2 2) (k.u 0x10 8))) id 0 := by
  unfold sqCreateBody
  simp only [hs]
  exact if_neg fun hc => h ((sqCheck_iff s k).1 (.inl hc))
theorem cqCreateBody_of_refused {s : State} {k : Cmd} (h : cqRefused s k) : cqCreateBody s k = .fail 0x02 0 :=
  if_pos ((cqCheck_iff s k).2 h)
theorem cqCreateBody_of_taken {s : State} {k : Cmd} (h : ¬cqRefused s k) :
    cqCreateBody s k = match s.newCqId k.ref.fn.val with
      | none => .fail 0x18 0
      | some id => .ok (s.addCq (newCq k.ref.fn.val (k.u 0 2) id (k.u 4 4) (k.u 2 2) (k.u 8 2) (k.u 0xA 2) (k.u 0x10 8))) id 0 :=
  if_neg fun hc => h ((cqCheck_iff s k).1 hc)

theorem sqDestroyBody_of_present {s : State} {k : Cmd} (hq : (s.sqAt k.ref.fn.val (k.u 0 2)).isSome) (hne : k.u 0 2 ≠ k.ref.sq) :
    sqDestroyBody s k =
      let s1 := (s.modSq k.ref.fn.val (k.u 0 2) fun q => { q with closing := true }).endWaiting k.ref.fn.val (k.u 0 2)
      if (s1.cmd.cmds.any fun x => x.ref.fn.val == k.ref.fn.val && x.ref.sq == k.u 0 2) = true then .wait s1
      else .ok (s1.setCmd { s1.cmd with sqs := s1.cmd.sqs.filter fun q => !(q.fn == k.ref.fn.val && q.idx == k.u 0 2) }) 0 0 :=
  if_neg (by simpa [Option.isSome_iff_ne_none, hne] using hq)

section
variable {s : State} {f : Fin 513} {idx : Nat} {v : Word}

theorem sqDoorbell_of_queue {q : Sq} (h : s.doorbellOpen f = true) (hq : s.sqAt f idx = some q) (hc : q.closing = false) :
    s.sqDoorbell f idx v =
      if q.depth ≤ v.toNat ∨ q.depth - 1 < (v.toNat + q.depth - q.tail) % q.depth + (q.tail + q.depth - q.fetchPos) % q.depth then
        s.doorbellInvalid f idx (q.id % 4) v
      else s.modSq f idx fun q => { q with tail := v.toNat } := by
  simp [State.sqDoorbell, h, hq, hc]
theorem cqDoorbell_of_queue {q : Cq} (h : s.doorbellOpen f = true) (hq : s.cqAt f idx = some q) :
    s.cqDoorbell f idx v =
      if q.depth ≤ v.toNat ∨ q.written - q.returned < (v.toNat + q.depth - q.head) % q.depth then s.doorbellInvalid f idx (q.id % 4) v
      else (s.modCq f idx fun x => { x with
        head := v.toNat, returned := x.returned + (v.toNat + q.depth - q.head) % q.depth, faulted := false }).settleCq f idx := by
  simp [State.cqDoorbell, h, hq]

end

/-- CMD_FETCH on the queue that arbitration chose. -/
def State.fetched (s : State) (die : Fin 4) (data : List Byte) (q : Sq) : State :=
  let s1 := s.setCmd { s.cmd with fetchLast := s.cmd.fetchLast.set die (q.id / 4) }
  let a := q.ring + q.slotBytes * q.fetchPos
  let b := padTo q.slotBytes data
  let h := if s.pewterFn q.fn then pewterHeader q.slotBytes s.dom.time b else nativeHeader q.slotBytes b
  let c := fetchedCmd (Fin.ofNat 513 q.fn) q (q.expSeq.getD h.seq) h ((b.drop h.size).take h.plen) s.dom.rank s.dom.time
  let s2 := s1.modSq q.fn q.idx fun x => { x with
    fetchPos := (x.fetchPos + 1) % x.depth, expSeq := some (q.expSeq.getD h.seq + 1), firstSeq := some (x.firstSeq.getD (q.expSeq.getD h.seq)) }
  if s.translates q.fn a q.slotBytes then
    ((if s.headerOk q h then s2.admitCmd q c
      else s2.setCmds (s2.cmd.cmds ++ [{ c with phase := .done, status := 0x10, dupOf := none }])).settleQueue c.ref).syncStride
  else (s1.modSq q.fn q.idx fun x => { x with faulted := true }).emitHost (Fin.ofNat 513 q.fn) 0x0907 q.idx a 0

theorem exec_cmdFetch {s : State} {die : Fin 4} {data : List Byte}
    (hr : (s.flt.resets.any fun r => r.level == .module || (r.level == .die && r.unit == die.val)) = false) :
    exec (.cmdFetch die data) s = .next (match s.fetchChoice die with | none => s | some q => s.fetched die data q) := by
  refine next_congr ((if_neg (Bool.eq_false_iff.1 hr)).trans ?_)
  cases s.fetchChoice die with
  | none => rfl
  | some q =>
    cases ht : s.translates q.fn (q.ring + q.slotBytes * q.fetchPos) q.slotBytes with
    | false => exact (if_pos (by rw [Bool.not_eq_true']; exact ht)).trans (if_neg (Bool.eq_false_iff.1 ht)).symm
    | true => exact (if_neg (by rw [Bool.not_eq_true', Bool.not_eq_false]; exact ht)).trans (if_pos ht).symm

end Sys2Proof.Machine

open Sys2Proof Sys2Proof.Machine Sys2Proof.Claims

theorem queueCommands : QueueCommands := by
  intro c k s s0 fn refuse
  refine ⟨fun h => ?_, fun h => ⟨fun hb => ?_, fun hb hn => ?_, fun hb slot id hs hn => ?_⟩, fun h => ⟨fun hb => ?_, fun hb hn => ?_, fun hb id hn => ?_⟩,
    fun h => ⟨fun hb hk => ?_, fun hq hne hk => ⟨fun ha => ?_, fun ha => ?_⟩⟩, fun h => ⟨fun hq => ?_, fun hq ha => ?_, fun hq ha => ?_⟩⟩
  · exact next_congr (runCommand_votes h rfl)
  · exact next_congr (runCommand_refuses h (sqCreateBody_of_refused hb))
  · obtain ⟨slot, hs⟩ := Option.ne_none_iff_exists'.1 fun hs => hb (.inl hs)
    exact next_congr (runCommand_refuses h (by rw [sqCreateBody_of_taken hb hs, hn]))
  · exact next_congr (runCommand_votes h (by rw [sqCreateBody_of_taken hb hs, hn]))
  · exact next_congr (runCommand_refuses h (cqCreateBody_of_refused hb))
  · exact next_congr (runCommand_refuses h (by rw [cqCreateBody_of_taken hb, hn]))
  · exact next_congr (runCommand_votes h (by rw [cqCreateBody_of_taken hb, hn]))
  · exact next_congr (runCommand_refuses h (if_pos (by simpa [hk, fn] using hb)))
  · exact next_congr (runCommand_waits h (sqDestroyBody_of_present hq (by rwa [hk]) |>.trans (if_pos ha)))
  · exact next_congr (runCommand_votes h (sqDestroyBody_of_present hq (by rwa [hk]) |>.trans (if_neg (Bool.eq_false_iff.1 ha))))
  · exact next_congr (runCommand_refuses h (if_pos (Option.isNone_iff_eq_none.2 hq)))
  · exact next_congr (runCommand_refuses h ((if_neg (by simpa [Option.isSome_iff_ne_none] using hq)).trans (if_pos ha)))
  · exact next_congr (runCommand_votes h ((if_neg (by simpa [Option.isSome_iff_ne_none] using hq)).trans (if_neg (Bool.eq_false_iff.1 ha))))

theorem doorbells : Doorbells := by
  intro s f idx v
  refine ⟨fun hc => ⟨next_congr (if_pos (by rw [hc]; rfl)), next_congr (if_pos (by rw [hc]; rfl))⟩,
    fun ho => ⟨fun hq => ?_, fun q hq hcl => ⟨fun hv hn => ?_, fun hb => ?_⟩, fun hq => ?_, fun q hq => ⟨fun hv hn => ?_, fun hb => ?_⟩⟩⟩
  · exact next_congr (by simp [State.sqDoorbell, ho, hq, State.doorbellInvalid])
  · exact next_congr ((sqDoorbell_of_queue ho hq hcl).trans (if_neg (by omega)))
  · exact next_congr ((sqDoorbell_of_queue ho hq hcl).trans (if_pos (by omega)))
  · exact next_congr (by simp [State.cqDoorbell, ho, hq, State.doorbellInvalid])
  · exact next_congr ((cqDoorbell_of_queue ho hq).trans (if_neg (by omega)))
  · exact next_congr ((cqDoorbell_of_queue ho hq).trans (if_pos (by omega)))

theorem fetchTakesOneEntry : FetchTakesOneEntry := by
  intro s die data hr
  refine ⟨fun hq => by rw [exec_cmdFetch hr, hq], fun q hq => ?_⟩
  intro s1 a b h c s2
  refine ⟨fun ht => ?_, fun ht ho => ?_, fun ht ho => ?_⟩ <;> rw [exec_cmdFetch hr, hq]
  · exact next_congr (if_neg (Bool.eq_false_iff.1 ht))
  · exact next_congr ((if_pos ht).trans (by rw [if_pos ho]))
  · exact next_congr ((if_pos ht).trans (by rw [if_neg (Bool.eq_false_iff.1 ho)]))

/-- Settles O18: the bodies of the queue commands by their operands, the doorbells by the ring's places, and the fetch by its header. -/
theorem queuesDoorbellsAndFetch : Obligations.QueuesDoorbellsAndFetch := ⟨queueCommands, doorbells, fetchTakesOneEntry⟩
end

section
/-! PROOFS. Charges, deadlines and coalescing; replies, votes and commit. -/

namespace Sys2Proof.Machine

open Sys2Proof.Claims

@[simp] theorem State.interrupt_writes (s : State) (fn vector : Nat) : (s.interrupt fn vector).host.writes = s.host.writes := by
  unfold interrupt
  split <;> rfl
@[simp] theorem State.interrupt_cmd (s : State) (fn vector : Nat) : (s.interrupt fn vector).cmd = s.cmd := by
  unfold interrupt
  split <;> rfl
@[simp] theorem State.interrupt_tiles (s : State) (fn vector : Nat) : (s.interrupt fn vector).tiles = s.tiles := by
  unfold interrupt
  split <;> rfl
@[simp] theorem State.interrupt_mem (s : State) (fn vector : Nat) : (s.interrupt fn vector).mem = s.mem := by
  unfold interrupt
  split <;> rfl

/-- What an interrupt leaves as it was, an interrupt that may not come leaves as it was. -/
theorem interrupt_if {α : Type} (g : State → α) {fn v : Nat} (h : ∀ s, g (State.interrupt s fn v) = g s) {p : Prop} [Decidable p] {s : State} :
    g (if p then s.interrupt fn v else s) = g s := by
  split
  · exact h s
  · rfl

end Sys2Proof.Machine

open Sys2Proof Sys2Proof.Machine Sys2Proof.Claims

/-- Settles O19, part by part along the branches of the four rows. -/
theorem chargesDeadlinesAndCoalescing : Obligations.ChargesDeadlinesAndCoalescing := by
  refine ⟨fun s c k hk => ⟨fun hp hm => ?_, fun h => ?_⟩, fun s c k cls u hk => ?_, fun s c v k w hk hw hpre hwf hwe hwt hwa hne hsch hex => ⟨fun ht => ?_, fun ht hp => ?_⟩,
    fun s f i q hq hu => ⟨fun ht => ?_, fun ht => ?_⟩⟩
  · exact exec_deadlineMissed_of_missed hk hp hm
  · refine next_congr ?_
    rcases h with h | h <;> simp [hk, h]
  · dsimp only
    refine next_congr ?_
    simp only [hk]
    match cls with
    | 0 => rfl
    | 1 => rfl
    | 2 => rfl
  · refine next_congr ?_
    simp [hk, hw, hpre, hwf, hwe, hwt, hwa, hne, hsch, hex, ht]
  · have hin : ¬k.startedAt + k.sliceMs * ms < s.time := Nat.not_lt.2 ht
    refine next_congr ?_
    simp [hk, hw, hpre, hwf, hwe, hwt, hwa, hsch, hex, hin, hp]
  · have hpast : ¬s.time < q.firstAt + q.coalUs * us := Nat.not_lt.2 ht
    refine next_congr ?_
    simp [hq, hu, hpast]
  · refine next_congr ?_
    simp [hq, ht]

theorem replyWritten : ReplyWritten := by
  intro s c q cq hcq hd hr place st phase
  refine ⟨fun hf => ?_, fun hf ht => ?_⟩
  · simp [State.post, hcq, hf]
  · simp only [State.post, hcq, hf, hd, show s.translates q.fn (cq.ring + 32 * (cq.written % cq.depth)) 32 = true from ht, bne_iff_ne.2 hr,
      Bool.true_or, Bool.or_false, Bool.not_true, Bool.false_eq_true, ↓reduceIte, Option.bind_none, Option.isSome_none, beq_iff_eq,
      Bool.or_eq_true, decide_eq_true_iff, ge_iff_le]
    refine ⟨_, rfl, ?_, ?_, ?_, ?_, ?_⟩
    · rw [interrupt_if (fun s => s.host.writes) fun s => s.interrupt_writes _ _]
      rfl
    · rw [interrupt_if (fun s => s.cmd.cmds) fun s => by rw [s.interrupt_cmd]]
      rfl
    · rw [interrupt_if (fun s => s.cmd.cqs) fun s => by rw [s.interrupt_cmd]]
      rfl
    · rw [interrupt_if State.tiles fun s => s.interrupt_tiles _ _]
      rfl
    · rw [interrupt_if State.mem fun s => s.interrupt_mem _ _]
      rfl

theorem votesAndCommit : VotesAndCommit := by
  intro s c k hk
  refine ⟨fun hh hrun r d f cs => ⟨?_, fun st h0 hre hfr => ?_, fun hr => ?_, fun hr => ?_⟩, fun hh hp => ?_, fun hh => ?_, fun hh => ?_,
    fun hp hh r => ⟨fun ha => ?_, fun ha => ?_⟩⟩
  · refine next_congr ?_
    simp [hk, hh, hrun, voteRerun]
  · have hfr' : s.turn.freezes.find? (·.cmd == c) = none := by simpa using hfr
    refine next_congr ?_
    simp [hk, hh, hrun, h0, hre, hfr']
  · refine next_congr ?_
    simp [hk, hh, hrun, hr, voteRerun]
  · refine next_congr ?_
    simp [hk, hh, hrun, hr]
  · refine next_congr ?_
    simp [hk, hh, hp]
  · refine next_congr ?_
    simp [hk, hh]
  · refine next_congr ?_
    simp [hk, hh]
  · refine next_congr ?_
    simp [hk, hh, hp, ha]
  · refine next_congr ?_
    simp [hk, hp, ha]

/-- Settles O20: a reply by the branches of the post, a vote and a commit by those of their rows. -/
theorem repliesVotesAndCommit : Obligations.RepliesVotesAndCommit := ⟨replyWritten, votesAndCommit⟩
end

section
/-! PROOFS. Configuration, diagnostic and copy commands, resets, re-plans and self-tests, and the start of tiles. -/

namespace Sys2Proof.Machine

open Sys2Proof.Claims

/-! CONFIG_SET (12 R361, R376, R377). -/

theorem configTarget_of_illegal {s : State} {k : Cmd}
    (h : k.u 2 2 = 0 ∨ 251 < k.u 2 2 ∨ (k.ref.fn.val ≠ 0 ∧ k.u 0 2 ≠ 0xFFFF) ∨ (k.ref.fn.val = 0 ∧ 511 < k.u 0 2)) :
    s.configTarget k = .error 0x02 := by
  by_cases hn : k.u 2 2 = 0 ∨ 251 < k.u 2 2
  · simp [State.configTarget, hn]
  · obtain ⟨hf, ht⟩ | ⟨hf, ht⟩ := (or_assoc.2 h).resolve_left hn
    · simp [State.configTarget, hf, ht]
    · simp [State.configTarget, hf, ht]
theorem configTarget_of_disabled {s : State} {k : Cmd} (h1 : 1 ≤ k.u 2 2) (hn : k.u 2 2 ≤ 251) (hf : k.ref.fn.val = 0) (ht : k.u 0 2 ≤ 511)
    (he : (s.tntOf (k.u 0 2)).enable = false) : s.configTarget k = .error 0x19 := by
  have h0 : ¬(k.u 2 2 = 0 ∨ 251 < k.u 2 2) := by omega
  simp [State.configTarget, h0, hf, Nat.not_lt.2 ht, he]

section
variable {s : State} {k : Cmd}

theorem configSetBody_of_job (h : s.cmd.configJobs.any (·.cmd == k.ref) = true) : configSetBody s k = .wait (s.pump k.ref) := if_pos h
theorem configSetBody_of_error {st : Nat} (h : s.cmd.configJobs.any (·.cmd == k.ref) = false) (ht : s.configTarget k = .error st) :
    configSetBody s k = .fail st 0 := by
  refine (if_neg (Bool.eq_false_iff.1 h)).trans ?_
  rw [ht]
theorem configSetBody_of_ok {t : Nat} {s' : State} (h : s.cmd.configJobs.any (·.cmd == k.ref) = false) (ht : s.configTarget k = .ok t)
    (ho : s.outputAny k (k.u 8 8) (zeros 16) = .ok s') :
    configSetBody s k = .wait ((s.setCmd { s.cmd with configJobs := s.cmd.configJobs
      ++ [⟨k.ref, t, k.u 8 8, (s.splitClamp t (validate (s.tntOf t).pewter (configEntries (k.u 2 2) k.params)).1).1.map fun p => (p.1, p.2, s.phaseOfField t p.1 p.2),
        (validate (s.tntOf t).pewter (configEntries (k.u 2 2) k.params)).2
          ++ (s.splitClamp t (validate (s.tntOf t).pewter (configEntries (k.u 2 2) k.params)).1).2, 0, [], [], 0, 0⟩] }).pump k.ref) := by
  refine (if_neg (Bool.eq_false_iff.1 h)).trans ?_
  rw [ht]
  simp only [ho]

end

theorem staged_find_eq_none {l : List (Nat × Nat × List (Nat × Nat))} {t e : Nat} (h : ∀ x ∈ l, ¬(x.1 = t ∧ x.2.1 = e)) :
    (l.find? fun x => x.1 == t && x.2.1 == e) = none :=
  List.find?_eq_none.2 fun x hx => by simpa using h x hx

/-! Commands that write at OUT. -/

theorem CmdRes.ofErr_fault (s : State) (e : Exc) : CmdRes.ofErr s (.fault e) = .fail e.code e.detail := rfl

section
variable {op : Nat} {c : CmdRef} {k : Cmd} {s s0 : State} {body : State → Cmd → CmdRes} {a : Nat} {bs : List Byte}

/-- A command that only writes bytes at OUT through staging. -/
theorem runCommand_writes (h : Acts op c k s s0)
    (hb : body s0 k = match s0.output k a bs with | .ok s' => .ok s' 0 0 | .error e => .ofErr s0 e) :
    (∀ s', s0.output k a bs = .ok s' →
        Host.Outcome.next (φ := Fault) (ρ := Refusal) (runCommand op c body s) = .next (s'.vote c 0 0 []))
      ∧ (∀ e, s0.output k a bs = .error (.fault e) →
        Host.Outcome.next (φ := Fault) (ρ := Refusal) (runCommand op c body s) = .next (s0.finish c e.code e.detail 0)) :=
  ⟨fun s' ho => next_congr (runCommand_votes h (by rw [hb, ho])), fun e ho => next_congr (runCommand_refuses h (by rw [hb, ho]; rfl))⟩

end

/-- The rings that EVENT_RING refuses. -/
theorem eventRingCheck_iff (k : Cmd) :
    (!ringOk (k.u 0 8) || k.u 8 4 < 64 || k.u 8 4 > 65536 || k.u 8 4 != 2 ^ Nat.log2 (k.u 8 4) || !vectorOk k.ref.fn (k.u 0xC 2)) = true
      ↔ ¬(k.u 0 8 % 4096 = 0 ∧ k.u 0 8 < 2 ^ 56 ∧ 64 ≤ k.u 8 4 ∧ k.u 8 4 ≤ 65536 ∧ k.u 8 4 = 2 ^ Nat.log2 (k.u 8 4)
        ∧ (k.u 0xC 2 = 0xFFFF ∨ k.u 0xC 2 < vectorLimit k.ref.fn)) := by
  simp only [ringOk, vectorOk, Bool.or_eq_true, Bool.and_eq_true, Bool.not_eq_true', ← Bool.not_eq_true, decide_eq_true_iff, beq_iff_eq, bne_iff_ne,
    gt_iff_lt, ← Nat.not_le, ne_eq]
  simp only [Classical.not_and_iff_not_or_not, or_assoc]

/-! MEM_COPY (12 R387). -/

section
variable {s : State} {k : Cmd} {host : Option (List Byte × Bool)}

theorem memCopyBody_of_invalid (hc : s.host.copies.find? (·.1 == k.ref) = none)
    (h : k.u 0x10 8 = 0 ∨ 2 ^ 40 < k.u 0x10 8 ∨ 2 ^ 57 ≤ k.u 0 8 ∨ 2 ^ 57 ≤ k.u 8 8) : memCopyBody host s k = .fail 0x02 0 := by
  have hb : (k.u 0x10 8 == 0 || k.u 0x10 8 > 2 ^ 40 || k.u 0 8 ≥ 2 ^ 57 || k.u 8 8 ≥ 2 ^ 57) = true := by
    simpa only [Bool.or_eq_true, decide_eq_true_iff, beq_iff_eq, or_assoc] using h
  simp only [memCopyBody, hc, hb, ↓reduceIte]
theorem memCopyBody_of_source {bs : List Byte} (hc : s.host.copies.find? (·.1 == k.ref) = none)
    (h : 1 ≤ k.u 0x10 8 ∧ k.u 0x10 8 ≤ 2 ^ 40 ∧ k.u 0 8 < 2 ^ 57 ∧ k.u 8 8 < 2 ^ 57) (hbs : s.copySource k (k.u 0 8) (k.u 0x10 8) host = .ok bs) :
    memCopyBody host s k =
      if isHostTva (k.u 8 8) then
        if s.translates k.ref.fn (k.u 8 8 % 2 ^ 56) (k.u 0x10 8) then
          .wait (s.setHost { s.host with copies := s.host.copies ++ [(k.ref, k.u 8 8 % 2 ^ 56, bs)] })
        else .fail 0x05 (k.u 8 8)
      else match s.stageWrite k.ref k.tenant (k.u 8 8) bs with
        | .ok s' => .ok s' 0 0
        | .error e => .ofErr s e := by
  have hb : (k.u 0x10 8 == 0 || k.u 0x10 8 > 2 ^ 40 || k.u 0 8 ≥ 2 ^ 57 || k.u 8 8 ≥ 2 ^ 57) = false := by
    simp only [Bool.or_eq_false_iff, decide_eq_false_iff_not, beq_eq_false_iff_ne]
    omega
  simp only [memCopyBody, hc, hb, hbs, Bool.false_eq_true, ↓reduceIte]
  cases isHostTva (k.u 8 8) with
  | false => rfl
  | true => cases s.translates k.ref.fn (k.u 8 8 % 2 ^ 56) (k.u 0x10 8) <;> rfl

end

end Sys2Proof.Machine

open Sys2Proof Sys2Proof.Machine Sys2Proof.Claims

theorem configurationSet : ConfigurationSet := by
  intro c k s s0 h n t
  refine ⟨fun hj => ?_, fun hj => ⟨fun hb => ?_, fun h1 hn hf ht he => ?_, fun target s' ht ho => ?_⟩⟩
  · exact next_congr (runCommand_waits h (configSetBody_of_job hj))
  · exact next_congr (runCommand_refuses h (configSetBody_of_error hj (configTarget_of_illegal hb)))
  · exact next_congr (runCommand_refuses h (configSetBody_of_error hj (configTarget_of_disabled h1 hn hf ht he)))
  · exact next_congr (runCommand_waits h (configSetBody_of_ok hj ht ho))

theorem configurationBarrier : ConfigurationBarrier := by
  intro s t e
  refine ⟨fun fs hs hj he => ?_, fun fs hs he => ?_, fun j rest r hj => ⟨fun ht he hr hm => ?_, fun h => ?_⟩⟩
  · have hf := staged_find_eq_none hs
    have hj' : s.cmd.configJobs.any (·.tenant == t.val) = false := by simpa using hj
    refine next_congr ?_
    simp [State.applyPhase, hf, hj', Nat.not_le.2 he]
  · have hf := staged_find_eq_none hs
    refine next_congr ?_
    simp [State.applyPhase, hf, he]
  · have hnew : j.applied.contains r.val = false := by simpa using hr
    refine next_congr ?_
    simp only [hj, List.head?_cons, ht, he, bne_self_eq_false, hnew, hm, Bool.not_true, Bool.or_self, Bool.false_eq_true, ↓reduceIte]
  · refine next_congr ?_
    rcases h with h | h | h <;> simp [hj, h]

/-- Settles O21: the refusals by CONFIG_SET's checks in order, the phases by the branches of their messages. -/
theorem configurationPhases : Obligations.ConfigurationPhases := ⟨configurationSet, configurationBarrier⟩

theorem readingCommandsWriteOut : ReadingCommandsWriteOut := by
  intro c k s s0 u64 writes
  refine ⟨fun h => runCommand_writes h rfl, fun h => ⟨fun h1 h24 h8 => runCommand_writes h ?_, fun hb => ?_⟩, fun h => runCommand_writes h rfl,
    fun h => ⟨fun hf => ?_, fun hf ht => ?_⟩⟩
  · have hc : (k.u 0x18 8 == 0 || k.u 0x18 8 > 2 ^ 24 || k.u 0x20 8 % 8 != 0) = false := by
      have h24 : field 0x18 8 k.params ≤ 16777216 := h24
      simp [Cmd.u, u64, h24, h8, Nat.ne_of_gt h1]
    unfold rndFillBody
    simp only [hc, Bool.false_eq_true, ↓reduceIte]
    rfl
  · have hc : (k.u 0x18 8 == 0 || k.u 0x18 8 > 2 ^ 24 || k.u 0x20 8 % 8 != 0) = true := by
      simpa [Cmd.u, or_assoc] using hb
    exact next_congr (runCommand_refuses h (if_pos hc))
  · have hf' : (k.ref.fn.val == 0) = false := by simpa using hf
    refine runCommand_writes h ?_
    simp only [configGetBody, State.outputAny, hf', Bool.false_eq_true, ↓reduceIte]
    rfl
  · have ho : s0.outputAny k (k.u 0 8) [] = .ok (s0.hostWrite 0 (k.u 0 8) []) := by
      simp only [State.outputAny, hf]
      exact if_pos ht
    refine next_congr (runCommand_votes h ?_)
    simp only [configGetBody, hf, beq_self_eq_true, ↓reduceIte, ho]
    rfl

theorem ringStatusAndCapture : RingStatusAndCapture := by
  intro c k s s0
  refine ⟨fun h => ?_, fun h => ?_, fun h => ?_⟩
  · intro ok
    refine ⟨fun ho => ?_, fun ho => ?_⟩
    · exact next_congr (runCommand_votes h (if_neg fun hc => (eventRingCheck_iff k).1 hc ho))
    · exact next_congr (runCommand_refuses h (if_pos ((eventRingCheck_iff k).2 ho)))
  · intro record
    refine ⟨fun h1 => ?_, fun s' ho => ⟨fun h0 => ?_, fun h1 => ?_⟩⟩
    · exact next_congr (runCommand_refuses h (if_pos h1))
    · refine next_congr (runCommand_votes h ((if_neg (by omega)).trans ?_))
      rw [show s0.outputAny k (k.u 0 8) s0.statusRecord = .ok s' from ho, h0]
      rfl
    · refine next_congr (runCommand_votes h ((if_neg (by omega)).trans ?_))
      rw [show s0.outputAny k (k.u 0 8) s0.statusRecord = .ok s' from ho, h1]
      rfl
  · intro found
    refine ⟨fun hf => ?_, fun r s' hf ho => ?_⟩
    · exact next_congr (runCommand_refuses h (by rw [captureReadBody, show s0.flt.captures.find? _ = none from hf]))
    · exact next_congr (runCommand_votes h (by rw [captureReadBody, show s0.flt.captures.find? _ = some r from hf]; simp only [ho]))

theorem memoryCopy : MemoryCopy := by
  intro c k host s s0 h src dst len run
  refine ⟨fun a bs hc => ?_, fun hc => ⟨fun hb => ?_, fun h1 h40 hs hd bs hbs => ⟨fun hh s' hw => ?_, fun hh ht => ?_, fun hh ht => ?_⟩⟩⟩
  · exact next_congr (runCommand_votes h (by simp only [memCopyBody, hc]))
  · exact next_congr (runCommand_refuses h (memCopyBody_of_invalid hc hb))
  · exact next_congr (runCommand_votes h ((memCopyBody_of_source hc ⟨h1, h40, hs, hd⟩ hbs).trans ((if_neg (Bool.eq_false_iff.1 hh)).trans (by rw [hw]))))
  · exact next_congr (runCommand_waits h ((memCopyBody_of_source hc ⟨h1, h40, hs, hd⟩ hbs).trans ((if_pos hh).trans (if_pos ht))))
  · exact next_congr (runCommand_refuses h ((memCopyBody_of_source hc ⟨h1, h40, hs, hd⟩ hbs).trans
      ((if_pos hh).trans (if_neg (Bool.eq_false_iff.1 ht)))))

/-- Settles O22: each command that reports is one that writes at OUT, and MEM_COPY goes by its destination. -/
theorem diagnosticAndCopyCommands : Obligations.DiagnosticAndCopyCommands := ⟨readingCommandsWriteOut, ringStatusAndCapture, memoryCopy⟩
end

section
/-! PROOFS. Tenant resets, re-plans, self-tests, and the start of a tile command. -/

namespace Sys2Proof.Machine

open Sys2Proof.Claims

/-! Self-tests (12 R366; 14 R434). -/

/-- What the five self-tests share: `idle` and `valid` are of the target, `drain`, `passed` and `failed` what follows. -/
def SelfTestRules (c : CmdRef) (k : Cmd) (s0 : State) (result : Option (Bool × Nat × Nat)) (run : Host.Outcome State Fault Refusal)
    (valid idle : Bool) (drain passed : State → State) (failed : Nat → State → State) : Prop :=
  let out := k.u 4 8
  let test := s0.setFlt { s0.flt with mode := .test }
  let report := fun (pass : Bool) (at' dur : Nat) => s0.hostWrite 0 out (leBytes 64 (Config.testRecord k.opcode pass at' dur).toNat)
  let service := fun (s : State) => s.setFlt { s.flt with mode := .service }
  (valid = false → run = .next (s0.finish c 0x02 0 0))
  ∧ (valid = true → s0.translates 0 out 64 = false → run = .next (s0.finish c 0x05 out 0))
  ∧ (valid = true → s0.translates 0 out 64 = true → idle = false →
    (s0.dom.time < k.startedAt + 10000 * 1000000 → run = .next (drain test))
    ∧ (k.startedAt + 10000 * 1000000 ≤ s0.dom.time → run = .next ((service (passed s0)).finish c 0x601 0 0)))
  ∧ (valid = true → s0.translates 0 out 64 = true → idle = true →
    (result = none → run = .next (drain test))
    ∧ (∀ a d, result = some (true, a, d) → run = .next ((service (passed (report true a d))).vote c 0 0 []))
    ∧ (∀ a d, result = some (false, a, d) → run = .next ((service (failed a (report false a d))).vote c 0 0 [])))

section
variable {op : Nat} {c : CmdRef} {k : Cmd} {s s0 : State} {result : Option (Bool × Nat × Nat)} {inRange : Nat → Bool}
  {drained : State → Nat → Bool} {drain failed : State → Nat → Nat → State} {passed : State → Nat → State}

theorem selfTestRules_of_acts (h : Acts op c k s s0) {body : State → Cmd → CmdRes} (hb : body = selfTest inRange drained drain failed passed result) :
    SelfTestRules c k s0 result (.next (runCommand op c body s)) (inRange (k.u 0 4))
      (drained s0 (k.u 0 4)) (fun s => drain s (k.u 0 4) k.startedAt) (fun s => passed s (k.u 0 4)) (fun a s => failed s (k.u 0 4) a) := by
  rw [hb]
  refine ⟨fun hv => ?_, fun hv ht => ?_, fun hv ht hi => ⟨fun hn => ?_, fun hn => ?_⟩, fun hv ht hi => ⟨fun hr => ?_, fun a d hr => ?_, fun a d hr => ?_⟩⟩
  · exact next_congr (runCommand_refuses h (by simp [selfTest, hv]))
  · exact next_congr (runCommand_refuses h (by simp [selfTest, hv, ht, CmdRes.ofErr_fault, excAddress]))
  · exact next_congr (runCommand_waits h (by simp [selfTest, hv, ht, hi, Nat.not_le.2 hn]))
  · exact next_congr (runCommand_fails_with h (by simp [selfTest, hv, ht, hi, hn]))
  · exact next_congr (runCommand_waits h (by simp [selfTest, hv, ht, hi, hr]))
  · exact next_congr (runCommand_votes h (by simp [selfTest, hv, ht, hi, hr]))
  · exact next_congr (runCommand_votes h (by simp [selfTest, hv, ht, hi, hr]))

end

/-! TILE_RUN (12 R372; 03 R74, R75). -/

section
variable {c : CmdRef} {k : Cmd} {s s0 s' : State} {body : State → Cmd → CmdRes} {op st d : Nat}

theorem startCommand_refuses (h : Starts op c k s s0) (hb : body s0 k = .fail st d) :
    startCommand op c body s = served s0 c k ((s0.start k).finish c st d 0) := by
  rw [startCommand_of_starts body h, hb]
theorem startCommand_waits (h : Starts op c k s s0) (hb : body s0 k = .wait s') : startCommand op c body s = served s0 c k s' := by
  rw [startCommand_of_starts body h, hb]

end

/-- The modules' count of tiles in service, the least. -/
def leastTiles (s : State) (others ranks : List Nat) : Nat :=
  ((if ranks.contains s.dom.rank then [tilesInService s.flt.tileMap] else []) ++ others).min?.getD 160

/-- The operands of TILE_RUN within their limits, its groups of the tenant. -/
def tileRunFits (s : State) (k : Cmd) (ranks : List Nat) : Prop :=
  ranks ≠ [] ∧ k.u 9 1 ≤ 8 ∧ 1 ≤ k.u 0xA 2 ∧ k.u 0xA 2 ≤ 160
    ∧ ∀ g ∈ k.tileGroups, (s.coll.groups.any fun x => x.tenant == k.tenant && x.id == g) = true

theorem tileRunCheck_iff (s : State) (k : Cmd) (ranks : List Nat) :
    (ranks.isEmpty || k.u 9 1 > 8 || k.u 0xA 2 == 0 || k.u 0xA 2 > 160
      || k.tileGroups.any fun g => !(s.coll.groups.any fun x => x.tenant == k.tenant && x.id == g)) = true ↔ ¬tileRunFits s k ranks := by
  have hg : (k.tileGroups.any fun g => !(s.coll.groups.any fun x => x.tenant == k.tenant && x.id == g)) = false
      ↔ ∀ g ∈ k.tileGroups, (s.coll.groups.any fun x => x.tenant == k.tenant && x.id == g) = true := by
    rw [List.any_eq_false]
    simp only [Bool.not_eq_true', Bool.not_eq_false]
  rw [← Bool.not_eq_false]
  refine not_congr ?_
  simp only [tileRunFits, Bool.or_eq_false_iff, List.isEmpty_eq_false_iff, decide_eq_false_iff_not, beq_eq_false_iff_ne, hg,
    gt_iff_lt, Nat.not_lt, Nat.one_le_iff_ne_zero, and_assoc]

section
variable {s : State} {k : Cmd} {others ranks : List Nat}

theorem tileRunBody_of_unfit (hp : s.tilePool k.tenant (k.u 8 1) = some ranks) (h : ¬tileRunFits s k ranks) :
    tileRunBody others s k = .fail 0x02 0 := by
  simp only [tileRunBody, hp, (tileRunCheck_iff s k ranks).2 h, ↓reduceIte]
theorem tileRunBody_of_scarce (hp : s.tilePool k.tenant (k.u 8 1) = some ranks) (h : tileRunFits s k ranks)
    (hl : leastTiles s others ranks < k.u 0xA 2) : tileRunBody others s k = .fail 0x02 (leastTiles s others ranks) := by
  have hc := Bool.eq_false_iff.2 fun hc => (tileRunCheck_iff s k ranks).1 hc h
  simp only [tileRunBody, hp, hc, Bool.false_eq_true, ↓reduceIte]
  exact if_pos hl
theorem tileRunBody_of_image (hp : s.tilePool k.tenant (k.u 8 1) = some ranks) (h : tileRunFits s k ranks)
    (hl : k.u 0xA 2 ≤ leastTiles s others ranks) (hg : ∀ g ∈ k.tileGroups, s.groupCovered k.tenant g ranks = true) :
    tileRunBody others s k = match s.imageAt (some k.ref) k.tenant (k.u 0 8) with
      | .error e => .ofErr s e
      | .ok (.error o) => .fail stProgramInvalid o
      | .ok (.ok img) =>
        match s.assignTiles k.ref ranks (k.u 0xA 2) with
        | none => .wait s
        | some tiles => .wait (s.launch k img k.params (k.params.drop 4096) tiles k.tileGroups (s.imageBytes k.tenant (k.u 0 8) img)) := by
  have hc := Bool.eq_false_iff.2 fun hc => (tileRunCheck_iff s k ranks).1 hc h
  have hg' : (k.tileGroups.any fun g => !s.groupCovered k.tenant g ranks) = false := by simpa using hg
  simp only [tileRunBody, hp, hc, hg', Bool.false_eq_true, ↓reduceIte]
  exact if_neg (Nat.not_lt.2 hl)

end

end Sys2Proof.Machine

open Sys2Proof Sys2Proof.Machine Sys2Proof.Claims

theorem tenantResetAndReplan : TenantResetAndReplan := by
  intro c k s s0
  refine ⟨fun h hn => ⟨fun h1 ht hf => ?_, fun h1 => ?_, fun h1 hf => ?_⟩, fun t capture => rfl, fun h r => ⟨fun p hp hk => ?_, fun v hp hr hm => ?_⟩⟩
  · refine next_congr (runCommand_waits h ?_)
    simp [tenantResetBody, hn, Nat.not_lt.2 h1, Nat.not_lt.2 ht, hf]
  · refine next_congr (runCommand_refuses h ?_)
    simp [tenantResetBody, hn, h1]
  · refine next_congr (runCommand_refuses h ?_)
    simp [tenantResetBody, hn, Nat.not_lt.2 h1, hf]
  · refine next_congr (congrArg State.replanBoundary (runCommand_waits h ?_))
    simp [patinaReplanBody, hp, hk]
  · refine next_congr (congrArg State.replanBoundary (runCommand_waits h ?_))
    simp [patinaReplanBody, hp, hr, hm]

theorem selfTests : SelfTests := by
  intro c k s s0 result target out test report service rules
  exact ⟨fun h => (selfTestRules_of_acts h (rfl : tileTest result = _) :), fun h => (selfTestRules_of_acts h (rfl : engineTest result = _) :),
    fun h => (selfTestRules_of_acts h (rfl : pcTest result = _) :), fun h => (selfTestRules_of_acts h (rfl : bsramTest result = _) :),
    fun h => (selfTestRules_of_acts h (rfl : linkTest result = _) :)⟩

/-- Settles O23: the five self-tests are one body, whose branches the rules follow. -/
theorem resetReplanAndSelfTests : Obligations.ResetReplanAndSelfTests := ⟨tenantResetAndReplan, selfTests⟩

/-- Settles O24, along the checks of TILE_RUN's body. -/
theorem tileRunStarts : Obligations.TileRunStarts := by
  intro c others s
  refine ⟨fun k s0 h ranks hp => ?_, fun p => rfl⟩
  intro run fits least
  refine ⟨fun hf => ?_, fun hf hl => ?_, fun hf hl hg => ⟨fun o hi => ?_, fun img hi => ⟨fun ha => ?_, fun tiles ha => ?_⟩⟩⟩
  · exact next_congr (startCommand_refuses h (tileRunBody_of_unfit hp hf))
  · exact next_congr (startCommand_refuses h (tileRunBody_of_scarce hp hf hl))
  · exact next_congr (startCommand_refuses h (by rw [tileRunBody_of_image hp hf hl hg, hi]))
  · exact next_congr (startCommand_waits h (by rw [tileRunBody_of_image hp hf hl hg, hi]; simp only [ha]))
  · exact next_congr (startCommand_waits h (by rw [tileRunBody_of_image hp hf hl hg, hi]; simp only [ha]))
end

section
/-! PROOFS. The host port, the domain's formation, membership and time. -/

namespace Sys2Proof.Machine

open Sys2Proof.Claims

/-- The copies that still read or write a range of a function's pages (13 R409). -/
def State.copiesHit (s : State) (f : Fin 513) (a n : Nat) : List (CmdRef × Nat × List Byte) :=
  s.host.copies.filter fun (c, b, bs) => c.fn == f && b < a + n && a < b + bs.length

theorem atsInvalidation_of_open {s : State} {f : Fin 513} {a n : Nat} {refused : Bool} (ho : s.barOpen f = true) :
    exec (.atsInvalidation f a n refused) s = .next (
      let others := s.host.refused.filter fun (g, p) => !(g == f.val && (iovaPages a n).contains p)
      let s1 := s.setHost { s.host with refused := if refused then (iovaPages a n).map (fun p => (f.val, p)) ++ others else others }
      let s2 := match (s.copiesHit f a n).getLast? with
        | some (c, _, _) => s1.setHost { s1.host with invalidations := s1.host.invalidations ++ [(f.val, a, n, c)] }
        | none => s1.setHost { s1.host with invalidated := (f.val, a, n) :: s1.host.invalidated }
      if refused then s2 else s2.resumeRings f) :=
  next_congr (if_neg (by simp [ho]))

/-- Messages sent one after another stand in the outbox, the last one first. -/
theorem outbox_foldl_send {α : Type} (g : α → Msg) (l : List α) (s : State) :
    l.foldl (fun s a => s.send (g a)) s = { s with outbox := (l.map g).reverse ++ s.outbox } := by
  induction l generalizing s with
  | nil => rfl
  | cons a l ih =>
    rw [List.foldl_cons, ih]
    simp [State.send]

/-- What begins a round: its number, its time, this module's own record in it. -/
theorem State.beginRound_eq (s : State) (n : Nat) : ∃ (f : Form) (p : DomainPhase) (h : Bool),
    f.rank = s.dom.rank ∧ f.round = n ∧ f.reach = s.reachNow ∧ f.epoch = s.dom.epoch
      ∧ s.beginRound n = { s with
        dom := { s.dom with
          round := n, roundAt := s.dom.time, forms := [f], accepts := [], accepted := none, reach := s.reachNow, heldState := h, phase := p }
        outbox := (((ranksOf s.reachNow).filter (· != s.dom.rank)).map fun r => ⟨r, .form, [n], f.bytes⟩).reverse ++ s.outbox } := by
  refine ⟨_, _, _, ?_, ?_, ?_, ?_, outbox_foldl_send _ _ _⟩ <;> rfl

/-- A rate against an offset is a free value of at most 200 ppm (log entry 7). -/
theorem State.slew_free (s : State) {o : Int} (h : o ≠ 0) : ∃ v : Nat, v ≤ 200000 ∧
    s.slew o = { s.setDom { s.dom with ratePpb := if 0 < o then -(v : Int) else v } with fresh := s.fresh + 1 } := by
  exact ⟨s.freeValue.1 % 200001, by omega, if_neg (by simpa using h)⟩

section
variable {s : State} {o : Int}

/-- The state that TIME_SYNC of an offset leaves, on a member that follows a master. -/
def State.synced (s : State) (o : Int) : State :=
  let held := s.dom.ratePpb == -200000 && s.dom.timeOffset > 25
  let s := s.setDom { s.dom with timeOffset := o }
  if o < -1000 then
    let s := s.setDom { s.dom with time := s.dom.time + o.natAbs, ratePpb := 0 }
    if s.isCoord then s.emitDomain 0x0905 s.dom.rank (signed64 (-o)) 0
    else s.sendTo s.dom.coord .domainReport [3, s.dom.rank, o.natAbs]
  else if o > 1000 || (held && o > 25) then s.setDom { s.dom with ratePpb := -200000 }
  else s.slew o

theorem exec_timeSync (hp : s.dom.phase = .member) (hg : s.gridMaster = false) : exec (.timeSync o) s = .next (s.synced o) :=
  next_congr (if_neg (by simp [hp, hg]))
theorem State.synced_ahead (hb : -1000 ≤ o) (h : 1000 < o ∨ (s.dom.ratePpb = -200000 ∧ 25 < s.dom.timeOffset) ∧ 25 < o) :
    s.synced o = (s.setDom { s.dom with timeOffset := o, ratePpb := -200000 }) := by
  refine (if_neg (by omega)).trans (if_pos ?_)
  simpa using h
theorem State.synced_near (hb : -1000 ≤ o) (h : ¬(1000 < o ∨ (s.dom.ratePpb = -200000 ∧ 25 < s.dom.timeOffset) ∧ 25 < o)) :
    s.synced o = (s.setDom { s.dom with timeOffset := o }).slew o := by
  refine (if_neg (by omega)).trans (if_neg ?_)
  simpa using h

end

end Sys2Proof.Machine

open Sys2Proof Sys2Proof.Machine Sys2Proof.Claims

theorem hostPortEvents : HostPortEvents := by
  refine ⟨fun s g w hv hg hw => ⟨fun hne => ?_, fun he => ?_⟩, fun s f a n refused ho => ?_, fun s n e hv hr => ?_⟩
  · refine next_congr (if_neg ?_)
    have hw' : ¬w.val = 4 → ¬w.val = 8 → w.val = 16 := fun h4 h8 => (hw.resolve_left h4).resolve_left h8
    have hne' : g.val = s.host.gen → ¬w.val = s.host.width := fun hg => hne.resolve_left (Classical.not_not.2 hg)
    simpa [hv, Nat.not_lt.2 hg] using ⟨hw', hne'⟩
  · exact next_congr (if_pos (by simp [he]))
  · intro ps others s1 hits ends
    refine ⟨fun hh => ?_, fun c b bs hh => ?_⟩
    · refine (atsInvalidation_of_open ho).trans (next_congr ?_)
      rw [show s.copiesHit f a n = [] from hh]
      rfl
    · refine (atsInvalidation_of_open ho).trans (next_congr ?_)
      rw [show (s.copiesHit f a n).getLast? = some (c, b, bs) from hh]
  · exact next_congr (if_neg (by simp [hv, hr]))

theorem functionAndHostResets : FunctionAndHostResets := by
  intro s
  refine ⟨fun f => ⟨fun ho hf => ?_, fun ho => ?_⟩, fun ho => ?_, fun k hv hr => ⟨fun hk => ?_, fun hk => ?_⟩, fun k hr => ?_⟩
  · have hf' : f.val ≠ 0 := fun h => hf (Fin.ext h)
    refine next_congr ?_
    simp [ho, hf', fnTenant]
  · refine next_congr ?_
    simp [ho]
  · refine next_congr ?_
    simp [ho]
  · refine next_congr ?_
    simp [hv, hr, hk]
  · refine next_congr ?_
    simp [hv, hr, hk]
  · refine next_congr ?_
    simp [hr]

/-- Settles O25: row by row along the conditions that leave a function or a module alone. -/
theorem hostPortAndResets : Obligations.HostPortAndResets := ⟨hostPortEvents, functionAndHostResets⟩

theorem roundsBegin : RoundsBegin := by
  refine ⟨fun s n => ?_, fun s hg hp hf => ⟨fun hm => ?_, fun hm => ?_, fun ht => ?_, fun ht => ?_⟩, fun s hp hne hr => ?_, fun s hr hp => ?_,
    fun s hf he => ⟨fun ht => ?_, fun ht => ?_⟩, fun s hc hp => ⟨fun hm => ?_, fun hm => ?_⟩⟩
  · obtain ⟨f, p, h, hrank, hround, hreach, hepoch, heq⟩ := s.beginRound_eq n
    rw [heq]
    exact ⟨rfl, rfl, rfl, rfl, rfl, f, rfl, hrank, hround, hreach, hepoch, rfl⟩
  · refine next_congr ?_
    have hg : s.sig.groupsReleased ≠ 0#12 := hg
    simp [hg, hp, hf, hm]
  · refine next_congr ?_
    simp [hp, hf, Nat.not_le.2 hm]
  · refine next_congr ?_
    have hg : s.sig.groupsReleased ≠ 0#12 := hg
    simp [hg, hp, hf, ht]
  · refine next_congr ?_
    simp [hp, hf, Nat.not_le.2 ht]
  · refine next_congr ?_
    simp [hp, hne, hr, State.isCoord]
  · refine next_congr ?_
    simp [hp, hr]
  · refine next_congr ?_
    simp [hf, he, Nat.not_lt.2 ht]
  · refine next_congr ?_
    simp [ht]
  · refine next_congr ?_
    simp [hp, hc, State.isCoord, Nat.not_le.2 hm, noCoord]
  · refine next_congr ?_
    simp [hm]

theorem formAndAccept : FormAndAccept := by
  refine ⟨fun s b hr hs hne => ?_, fun s r n hr => ⟨fun hn ha => ?_, fun h => ?_⟩⟩
  · intro f
    refine ⟨fun he => ?_, fun hl => ?_, fun hl => ?_⟩
    · refine next_congr ?_
      simp [f, hr, Nat.not_le.2 hs, hne, he]
    · intro s1
      refine next_congr ?_
      simp [f, s1, hr, Nat.not_le.2 hs, hne, hl, Nat.not_lt.2 (Nat.le_of_lt hl)]
    · refine next_congr ?_
      simp [hl]
  · refine next_congr ?_
    simp [hr, hn, ha]
  · refine next_congr ?_
    rcases h with h | h <;> simp [h]

theorem electedDecides : ElectedDecides := by
  intro s coord n a hr hn hne s1
  refine ⟨fun ha => ?_, fun ha hp => ?_, fun ha hp => ?_, fun c => ⟨rfl, rfl, rfl⟩⟩
  · refine next_congr ?_
    simp [s1, hr, Nat.not_lt.2 hn, hne, ha]
  · refine next_congr ?_
    simp [s1, hr, Nat.not_lt.2 hn, hne, ha, hp]
  · refine next_congr ?_
    simp [s1, hr, Nat.not_lt.2 hn, hne, ha, hp]

/-- Settles O26, cause by cause and message by message. -/
theorem domainFormation : Obligations.DomainFormation := ⟨roundsBegin, formAndAccept, electedDecides⟩

theorem membershipChanges : MembershipChanges := by
  refine ⟨fun s hp hm => ?_, fun s hp hm => ?_, fun s hp => ⟨fun hm => ?_, fun hm => ?_⟩, fun s r k hp => ⟨fun hc hk ha => ?_, fun h => ?_, fun h => ?_⟩⟩
  · refine next_congr ?_
    simp [hp, Nat.not_le.2 hm]
  · refine next_congr ?_
    simp [hm]
  · refine next_congr ?_
    simp [hp, Nat.not_lt.2 hm]
  · refine next_congr ?_
    simp [hm]
  · refine next_congr ?_
    simp [hc, hk, ha]
  · refine next_congr ?_
    rcases h with h | h | h <;> simp [hp, h]
  · refine if_pos ?_
    rcases h with h | h
    · simp [h]
    · rw [h, Bool.not_false, Bool.or_true]

theorem timeSynchronisation : TimeSynchronisation := by
  intro s o hp hg s1 slow
  refine ⟨fun ho hc => ?_, fun ho hc => ?_, fun ho => ?_, fun ho hs => ?_, fun ho => ?_, fun hlo hhi h0 hs => ?_⟩
  · exact (exec_timeSync hp hg).trans (next_congr ((if_pos ho).trans (if_pos hc)))
  · exact (exec_timeSync hp hg).trans (next_congr ((if_pos ho).trans (if_neg (Bool.eq_false_iff.1 hc))))
  · exact (exec_timeSync hp hg).trans (next_congr (State.synced_ahead (by omega) (.inl ho)))
  · exact (exec_timeSync hp hg).trans (next_congr (State.synced_ahead (by omega) (.inr ⟨hs, ho⟩)))
  · refine (exec_timeSync hp hg).trans (next_congr ((State.synced_near (by omega) (by rintro (h | ⟨-, h⟩) <;> omega)).trans ?_))
    exact if_pos (beq_iff_eq.2 ho)
  · obtain ⟨v, hv, he⟩ := s1.slew_free h0
    refine ⟨v, hv, (exec_timeSync hp hg).trans (next_congr ((State.synced_near hlo ?_).trans he))⟩
    rintro (h | ⟨h, ho⟩)
    · omega
    · exact hs ⟨ho, h⟩

theorem eventCoalescing : EventCoalescing := by
  intro s f r hr hu
  refine ⟨fun ht => ?_, fun ht => ?_⟩
  · refine next_congr ?_
    simp [hr, hu, Nat.not_lt.2 ht]
  · refine next_congr ?_
    simp [hr, ht]

/-- Settles O27: the correction of device time goes by the size and the sign of the offset. -/
theorem membershipTimeAndEvents : Obligations.MembershipTimeAndEvents := ⟨membershipChanges, timeSynchronisation, eventCoalescing⟩
end

section
/-! PROOFS. Links, frames, and the messages between modules. -/

namespace Sys2Proof.Machine

open Sys2Proof.Claims

/-- A counter of a tile of this module takes an amount. -/
theorem State.addCounter_fin (s : State) (t : Fin 160) (k : Fin 32) (v : Word) :
    s.addCounter t k v = s.modTile t fun x => x.setCounter k (x.sync.counters[k] + v) := by
  unfold State.addCounter
  simp only [Fin.ofNat_val_eq_self]

/-- A condition of a phase and a time, as the rows write it. -/
theorem and_decide {α : Type} [BEq α] [LawfulBEq α] {a b : α} {p : Prop} [Decidable p] : (a == b && decide p) = true ↔ a = b ∧ p := by
  rw [Bool.and_eq_true, beq_iff_eq, decide_eq_true_iff]

@[simp] theorem State.modLink_dom (s : State) (l : Nat) (f : Link → Link) : (s.modLink l f).dom = s.dom := by
  unfold modLink setLink
  split <;> rfl

/-- FEC_DEGRADE counts, and tells of a link at most once an hour (11 R333). -/
theorem exec_fecDegrade (s : State) (l : Fin 96) (n total : Nat) : ∃ ratio,
    let s1 := s.modLink l fun x => { x with fecCorr := (x.fecCorr + n) % 2 ^ 64 }
    exec (.fecDegrade l n total) s = .next (
      if (decide (n * 1000 ≤ total) || (s1.linkAt l).degradedAt.any fun t => decide (s1.dom.time < t + day / 24)) = true then s1
      else (s1.modLink l fun x => { x with degradedAt := some s1.dom.time }).linkEvent 0x0608 l (s1.linkAt l).phase.code ratio) :=
  ⟨(fp32.roundMag .rne false 0 false n (max total 1)).code, rfl⟩

theorem fecDegrade_table (s : State) (l : Fin 96) (n total : Nat) :
    let s1 := s.modLink l fun x => { x with fecCorr := (x.fecCorr + n) % 2 ^ 64 }
    (n * 1000 ≤ total → exec (.fecDegrade l n total) s = .next s1)
    ∧ (total < n * 1000 → (s1.linkAt l).degradedAt = none → ∃ ratio, exec (.fecDegrade l n total) s
      = .next ((s1.modLink l fun x => { x with degradedAt := some s.dom.time }).linkEvent 0x0608 l (s1.linkAt l).phase.code ratio)) := by
  intro s1
  obtain ⟨ratio, hr⟩ := exec_fecDegrade s l n total
  have ht : s1.dom.time = s.dom.time := congrArg DomState.time (State.modLink_dom ..)
  refine ⟨fun hn => hr.trans (next_congr (if_pos ?_)), fun hn hd => ⟨ratio, ?_⟩⟩
  · rw [decide_eq_true hn, Bool.true_or]
  · rw [← ht]
    refine hr.trans (next_congr (if_neg ?_))
    rw [decide_eq_false (Nat.not_le.2 hn), Bool.false_or, show (State.linkAt _ l).degradedAt = none from hd]
    exact Bool.false_ne_true

theorem linkNotReady_table (s : State) (peer t : Nat) (hw : tget s.lnk.waiting peer = some t) :
    (s.dom.time < t + 10 * 1000000 → ∀ cs, exec (.linkNotReady peer cs) s = .next s)
    ∧ (t + 10 * 1000000 ≤ s.dom.time → ((s.pair peer).all fun l => (s.linkAt l).initial) = true →
      (∀ c k, (s.dropWaiting peer).cmdAt c = some k → k.running = true →
        exec (.linkNotReady peer [c]) s = .next ((s.dropWaiting peer).failCmd k 0x16 0 0))
      ∧ (let s1 := s.dropWaiting peer
        exec (.linkNotReady peer []) s = .next (s1.linkEvent 0x0607 ((s1.pair peer).headD 0) ((s1.linkAt ((s1.pair peer).headD 0)).phase.code) 0))) := by
  refine ⟨fun ht cs => next_congr ?_, fun ht ha => ⟨fun c k hk hr => next_congr ?_, next_congr ?_⟩⟩
  · simp [hw, ht]
  · simp [hw, Nat.not_lt.2 ht, ha, hk, hr]
  · simp [hw, Nat.not_lt.2 ht, ha]

theorem detourSwitch_table (s : State) (peer : Nat) (reported : List Nat) :
    let s1 := s.setLnk { s.lnk with reported := (s.lnk.reported.filter (·.2 != peer)) ++ reported.map fun m => (m, peer) }
    (s1.upLinks peer ≠ [] → exec (.detourSwitch peer reported) s = .next s1)
    ∧ (∀ t v, s1.upLinks peer = [] → ((s1.pair peer).any fun l => (s1.linkAt l).settles) = true → tget s.lnk.settling peer = some t →
      (∀ d ∈ s.lnk.detours, d.peer ≠ peer) → s1.via peer = some v →
      (t + 20 * 1000 ≤ s.dom.time → exec (.detourSwitch peer reported) s = .next (s1.switchDetour peer v))
      ∧ (s.dom.time < t + 20 * 1000 → exec (.detourSwitch peer reported) s = .next s1)) := by
  intro s1
  refine ⟨fun hu => next_congr (if_neg ?_), fun t v hu ha hs hd hv => ⟨fun ht => next_congr ?_, fun ht => next_congr (if_neg ?_)⟩⟩
  · have hu' : (s1.upLinks peer).isEmpty = false := by simpa using hu
    show ¬((s1.upLinks peer).isEmpty && _ && _ && _) = true
    rw [hu', Bool.false_and, Bool.false_and, Bool.false_and]
    exact Bool.false_ne_true
  · have ht : s1.time ≥ t + 20 * us := ht
    have hd' : s1.lnk.detours.find? (·.peer == peer) = none := List.find?_eq_none.2 fun d hm => by simpa using hd d hm
    refine (if_pos ?_).trans ?_
    · show ((s1.upLinks peer).isEmpty && (s1.pair peer).any _ && (tget s1.lnk.settling peer).any _ && _) = true
      rw [hu, ha, show tget s1.lnk.settling peer = some t from hs, Option.any_some, decide_eq_true ht, hd']
      rfl
    · show (match s1.via peer with | some v => s1.switchDetour peer v | none => s1) = s1.switchDetour peer v
      rw [hv]
  · have ht : ¬s1.time ≥ t + 20 * us := Nat.not_le.2 ht
    show ¬(((s1.upLinks peer).isEmpty && (s1.pair peer).any _) && (tget s1.lnk.settling peer).any _ && _) = true
    rw [show tget s1.lnk.settling peer = some t from hs, Option.any_some, decide_eq_false ht, Bool.and_false, Bool.false_and]
    exact Bool.false_ne_true

theorem peerUnreachable_table (s : State) (peer t : Nat) (hu : s.upLinks peer = []) (hd : ∀ d ∈ s.lnk.detours, d.peer ≠ peer)
    (hn : peer ∉ s.lnk.unreachable) (hs : tget s.lnk.settling peer = some t) :
    (s.dom.time < t + 50 * 1000000 → exec (.peerUnreachable peer) s = .next s)
    ∧ (t + 50 * 1000000 ≤ s.dom.time →
      let s1 := s.setLnk { s.lnk with unreachable := peer :: s.lnk.unreachable }
      (s.dom.rank = s.dom.coord → exec (.peerUnreachable peer) s = .next s1)
      ∧ (s.dom.rank ≠ s.dom.coord → exec (.peerUnreachable peer) s = .next (s1.sendTo s.dom.coord .peerUnreachable [peer]))) := by
  refine ⟨fun ht => next_congr (if_pos ?_), fun ht => ?_⟩
  · have ht : s.time < t + 50 * ms := ht
    rw [hs, Option.all_some, decide_eq_true ht, Bool.or_true]
  · have ht : ¬s.time < t + 50 * ms := Nat.not_lt.2 ht
    have hd' : (s.lnk.detours.any fun d => d.peer == peer && !(s.upLinks d.via).isEmpty) = false := by
      simpa using fun d hm he => absurd he (hd d hm)
    have hc : ((!(s.upLinks peer).isEmpty || s.lnk.detours.any fun d => d.peer == peer && !(s.upLinks d.via).isEmpty)
        || s.lnk.unreachable.contains peer || (tget s.lnk.settling peer).all fun u => s.time < u + 50 * ms) = false := by
      rw [hu, hd', hs, Option.all_some, decide_eq_false ht, List.contains_eq_mem, decide_eq_false hn]
      rfl
    intro s1
    refine ⟨fun hr => ?_, fun hr => ?_⟩
    · exact next_congr ((if_neg (Bool.eq_false_iff.1 hc)).trans (if_pos (beq_iff_eq.2 hr)))
    · exact next_congr ((if_neg (Bool.eq_false_iff.1 hc)).trans (if_neg (by simpa using hr)))

/-- What makes a link due for retraining, by its cause (11 R330). -/
theorem retrainDue_iff (cause : Fin 4) (n resends : Nat) :
    (match cause with | 1 => decide (n > 16) | 2 => decide (resends ≥ 8) | _ => true) = true ↔ (cause = 1 → 16 < n) ∧ (cause = 2 → 8 ≤ resends) := by
  match cause with
  | 0 => simp
  | 1 => simp
  | 2 => simp
  | 3 => simp

end Sys2Proof.Machine

open Sys2Proof Sys2Proof.Machine Sys2Proof.Claims

theorem linkTraining : LinkTraining := by
  intro s l x
  refine ⟨fun hp => ⟨?_, fun ht ha => ?_, fun ht ha => ?_, fun ht => ?_⟩, fun hp => ⟨?_, ?_⟩,
    fun hp => ⟨?_, fun ht => ?_, fun ht => ?_⟩, fun hp => ⟨?_, ?_⟩⟩ <;> refine next_congr ?_
  · exact if_pos (beq_iff_eq.2 hp)
  · exact (if_pos (and_decide.2 ⟨hp, ht⟩)).trans (if_neg (Nat.not_le.2 ha))
  · exact (if_pos (and_decide.2 ⟨hp, ht⟩)).trans (if_pos ha)
  · exact if_neg fun h => absurd (and_decide.1 h).2 (Nat.not_le.2 ht)
  · exact if_neg (by simpa using hp)
  · exact if_neg fun h => hp (and_decide.1 h).1
  · exact if_pos (beq_iff_eq.2 hp)
  · exact if_pos (and_decide.2 ⟨hp, ht⟩)
  · exact if_neg fun h => absurd (and_decide.1 h).2 (Nat.not_le.2 ht)
  · exact if_neg (by simpa using hp)
  · exact if_neg fun h => hp (and_decide.1 h).1

theorem identBringsUpOrMiswired : IdentBringsUpOrMiswired := by
  intro s l r s1
  refine ⟨fun hp => ⟨fun hi => ?_, fun hi => ?_⟩, fun hp => ?_⟩ <;> refine next_congr ?_
  · exact (if_neg (by simp [hp])).trans (if_pos hi)
  · rw [← show s1.dom.time = s.dom.time from congrArg DomState.time (State.modLink_dom ..)]
    exact (if_neg (by simp [hp])).trans (if_neg (Bool.eq_false_iff.1 hi))
  · exact if_pos (by simpa using hp)

theorem recalibrationAndRetraining : RecalibrationAndRetraining := by
  refine ⟨fun s g k => rfl, fun s g => ⟨fun hr => ?_, fun hr => ?_⟩, fun s l => ?_⟩
  · exact next_congr (if_neg (by simp [hr]))
  · exact next_congr (if_pos (by simp [hr]))
  · intro x
    refine ⟨fun hp ht => ?_, fun h => ?_, fun cause n => ?_, fun v => ⟨fun hp hv => ?_, fun h => ?_⟩, fun hp ht => ⟨fun ha => ?_, fun ha => ?_⟩⟩
    · exact next_congr (if_pos (and_decide.2 ⟨hp, ht⟩))
    · exact next_congr (if_neg fun hc => h.elim (absurd (and_decide.1 hc).1) (absurd (and_decide.1 hc).2 <| Nat.not_lt.2 ·))
    · intro s1 due
      have hdue := retrainDue_iff cause n x.resends
      refine ⟨fun ⟨hp, hd⟩ => ?_, fun h => ?_⟩
      · exact next_congr (if_pos (Bool.and_eq_true_iff.2 ⟨beq_iff_eq.2 hp, hdue.2 hd⟩))
      · refine next_congr (if_neg fun hc => h ?_)
        obtain ⟨hp, hd⟩ := Bool.and_eq_true_iff.1 hc
        exact ⟨beq_iff_eq.1 hp, hdue.1 hd⟩
    · exact next_congr (if_pos (by simp [x, hp, hv]))
    · exact next_congr (if_neg (by rcases h with h | h <;> simp [x, h]))
    · exact next_congr ((if_pos (and_decide.2 ⟨hp, ht⟩)).trans (if_neg (Nat.not_le.2 ha)))
    · exact next_congr ((if_pos (and_decide.2 ⟨hp, ht⟩)).trans (if_pos ha))

theorem linkLossEvents : LinkLossEvents :=
  ⟨fecDegrade_table, linkNotReady_table, detourSwitch_table, peerUnreachable_table⟩

/-- Settles O30, event by event along the conditions of its row. -/
theorem linkStates : Obligations.LinkStates := ⟨linkTraining, identBringsUpOrMiswired, recalibrationAndRetraining, linkLossEvents⟩

theorem frameEvents : FrameEvents := by
  intro s l f
  refine ⟨fun hp => ⟨?_, fun e he => ⟨?_, ?_⟩, ?_, ?_, ?_, ?_⟩, fun hp => ⟨fun e => ⟨?_, ?_⟩, ?_, ?_, fun fs hfs => ?_⟩⟩ <;> refine next_congr ?_
  · exact (if_neg (by simp [hp])).trans (if_neg (by simp))
  · exact (if_neg (by simp [hp])).trans (if_pos (by simpa using he))
  · exact (if_neg (by simp [hp])).trans (if_pos (by simpa using he))
  · exact (if_neg (by simp [hp])).trans (if_neg (by simp))
  · exact if_neg (by simp [hp])
  · exact if_pos (by simp [hp])
  · exact if_pos (by simp [hp])
  · exact if_pos (by simpa using hp)
  · exact if_pos (by simpa using hp)
  · exact if_pos (by simpa using hp)
  · exact if_neg (by simpa using hp)
  · subst hfs
    exact if_neg (by simpa using hp)

theorem endToEndAcknowledgement : EndToEndAcknowledgement := by
  intro s dst vc n s1
  refine ⟨rfl, fun h => next_congr ?_⟩
  have none : s1.lnk.detours.filter (fun d => d.draining && d.unacked.isEmpty) = [] :=
    List.filter_eq_nil_iff.2 fun d hd => by simpa using (h d hd).resolve_left
  exact congrArg (List.foldl State.endDetour s1) none

theorem padAndCounterMessages : PadAndCounterMessages := by
  intro s c l
  refine ⟨fun t ht => ⟨fun width codes ct hw => ?_, fun ct v => ?_, fun dm f origin tile fence cs hf hc => ?_⟩,
    fun hn => ⟨fun width codes ct => ?_, fun ct v => ?_, fun dm origin tile fence => ?_⟩⟩
  · intro m s1
    have hall : (codes.all fun e => decide (0 ≤ (elemSpan (locPad l) e.1 width).1)
        && decide ((elemSpan (locPad l) e.1 width).1 + (elemSpan (locPad l) e.1 width).2.2 ≤ paramBase)) = true :=
      List.all_eq_true.2 fun e he => Bool.and_eq_true_iff.2 ⟨decide_eq_true (hw e he).1, decide_eq_true (hw e he).2⟩
    have out : exec (.padputMsg c l width codes ct) s = .next (ct.elim s1 fun k => s1.addCounter t k 1) := by
      refine next_congr ?_
      rw [ht]
      exact if_neg (show ¬(!codes.all _) = true by rw [Bool.not_eq_true', Bool.not_eq_false]; exact hall)
    exact ⟨fun hct => by rw [out, hct]; rfl, fun k hct => by rw [out, hct]; rfl⟩
  · refine next_congr ?_
    rw [ht]
    exact s.addCounter_fin t ct v
  · refine next_congr ?_
    simp only [ht, hf, hc]
  · refine next_congr ?_
    simp only [hn]
  · refine next_congr ?_
    simp only [hn, Option.elim_none]
  · refine next_congr ?_
    simp only [hn]

theorem memoryMessages : MemoryMessages := by
  refine ⟨fun s c t f a codes ha hc hk hl => ?_, fun s t a bs => ⟨fun h => ?_, fun h => ?_, fun h h' => ?_, fun h => ?_⟩,
    fun s x n o tag => rfl, fun s a bs bad => ⟨fun h => ?_, fun h => ?_⟩⟩
  · intro settled
    refine ⟨fun code d => ?_, fun dp dm m hw hm => ?_⟩
    · refine next_congr ?_
      rw [ha]
      simp only [hc, hk, hl, bne_self_eq_false, Bool.or_self, Option.isSome_none, Bool.false_eq_true, ↓reduceIte, beq_iff_eq, settled]
    · refine next_congr ?_
      rw [ha]
      simp only [hc, hk, hl, hw, hm, bne_self_eq_false, Bool.or_self, Option.isSome_none, Bool.false_eq_true, ↓reduceIte, beq_iff_eq, settled]
  · exact next_congr (if_pos (by simp [h]))
  · exact next_congr (if_neg (by simpa [Option.isNone_iff_eq_none] using h))
  · exact next_congr (if_pos (by simp [h, h']))
  · exact next_congr (if_neg (by simp [h]))
  · exact next_congr (if_neg (by simp [h]))
  · exact next_congr (if_pos (by simpa using h))

/-- Settles O31, frame by frame and message by message along the conditions of its row. -/
theorem framesAndMessages : Obligations.FramesAndMessages := ⟨frameEvents, endToEndAcknowledgement, padAndCounterMessages, memoryMessages⟩
end

section
/-! PROOFS. Collective groups and messages, hangs and resets, and Patina's measurements. -/

namespace Sys2Proof.Machine

open Sys2Proof.Claims

/-! Tables: a read after a write. -/

theorem tget_tset_same {κ α : Type} [DecidableEq κ] (m : List (κ × α)) (k : κ) (v : α) : tget (tset m k v) k = some v := by
  induction m with
  | nil => simp [tset, tget]
  | cons p m ih =>
    unfold tset
    split
    · simp [tget]
    next h => rw [tget, if_neg h, ih]
theorem tget_tset_ne {κ α : Type} [DecidableEq κ] (m : List (κ × α)) {j k : κ} (h : k ≠ j) (v : α) : tget (tset m k v) j = tget m j := by
  induction m with
  | nil => simp [tset, tget, h]
  | cons p m ih =>
    unfold tset
    split
    next hk => simp [tget, h, hk]
    · simp only [tget, ih]

/-- The averages after one measurement of each path from path k on. -/
theorem measured_fold (ms : List Int) (k : Nat) (m : List (Nat × (Int × Nat))) (d : Nat) :
    tgetD ((ms.zipIdx k).foldl (fun m x => tset m x.2 ((tgetD m x.2 (0, 0)).1 + x.1, (tgetD m x.2 (0, 0)).2 + 1)) m) d (0, 0)
      = if k ≤ d ∧ d < k + ms.length then ((tgetD m d (0, 0)).1 + ms.getD (d - k) 0, (tgetD m d (0, 0)).2 + 1) else tgetD m d (0, 0) := by
  induction ms generalizing k m with
  | nil => simp [show ¬(k ≤ d ∧ d < k) by omega]
  | cons x ms ih =>
    rw [List.zipIdx_cons, List.foldl_cons, ih]
    by_cases hd : d = k
    · subst hd
      rw [if_neg (by omega), if_pos (by rw [List.length_cons]; omega)]
      simp [tgetD, tget_tset_same]
    · have hne : tgetD (tset m k ((tgetD m k (0, 0)).1 + x, (tgetD m k (0, 0)).2 + 1)) d (0, 0) = tgetD m d (0, 0) := by
        rw [tgetD, tget_tset_ne _ (Ne.symm hd), tgetD]
      rw [hne]
      by_cases hk : k < d
      · have hsub : d - k = d - (k + 1) + 1 := by omega
        simp [hsub, Nat.succ_le_of_lt hk, Nat.le_of_lt hk, Nat.add_assoc, Nat.add_comm 1]
      · simp [show ¬(k + 1 ≤ d) by omega, show ¬(k ≤ d) by omega]

/-! A member's failure report: to its instance, or kept for one that is to come. -/

theorem failExc_of_ne {code : Nat} (h : code ≠ 0x0A) (g q cause : Nat) : failExc code g q cause = excColl code g q 0 := by
  simp [failExc, h]
theorem State.takeFail_of_inst {s : State} {k : CollKey} {i : CollInst} (hi : s.instAt k = some i) (code cause : Nat) :
    s.takeFail k code cause = s.failFence i (failExc code k.group k.seq cause) := by
  simp only [State.takeFail, hi]
theorem State.takeFail_kept {s : State} {k : CollKey} (hi : s.instAt k = none) (hc : (s.cmdAt k.cmd).isSome = true)
    (he : s.coll.earlyFail.any (·.1 == k) = false) (hd : tgetD s.coll.done (k.cmd, k.group, k.lane) 0 ≤ k.seq) (code cause : Nat) :
    s.takeFail k code cause = s.setColl { s.coll with earlyFail := s.coll.earlyFail ++ [(k, code, cause)] } := by
  have hcond : ¬((s.cmdAt k.cmd).isNone || s.coll.earlyFail.any (·.1 == k) || k.seq < tgetD s.coll.done (k.cmd, k.group, k.lane) 0) = true := by
    rw [he, Option.isNone_eq_false_iff.2 hc, decide_eq_false (Nat.not_lt.2 hd)]
    exact Bool.false_ne_true
  simp only [State.takeFail, hi, if_neg hcond]
theorem State.takeFail_of_no_command {s : State} {k : CollKey} (hi : s.instAt k = none) (hc : s.cmdAt k.cmd = none) (code cause : Nat) :
    s.takeFail k code cause = s := by
  simp [State.takeFail, hi, hc]

end Sys2Proof.Machine

open Sys2Proof Sys2Proof.Machine Sys2Proof.Claims

theorem collectiveGroups : CollectiveGroups := by
  intro s c stage grid
  refine ⟨fun k s0 h => ⟨fun st hg => ?_, fun g hg => ?_⟩, fun t p g hg => ?_, fun k s0 h hz => ?_, fun t g => rfl, fun t g x hx => ?_⟩
  · exact next_congr (runCommand_refuses h (by rw [hg]))
  · exact next_congr (runCommand_votes h (by rw [hg]))
  · refine next_congr ?_
    dsimp only
    rw [hg]
  · have hz' : ((k.params.drop 1).take 7).any (· != 0) = false := by simpa using hz
    intro g
    refine ⟨fun hf => ?_, fun hf => ⟨fun hb => ?_, fun hb => ?_⟩⟩
    · exact next_congr (runCommand_refuses h (if_pos (show (!s0.coll.groups.any _ || _) = true by rw [hf]; rfl)))
    · exact next_congr (runCommand_refuses h ((if_neg (show ¬(!s0.coll.groups.any _ || _) = true by rw [hf, hz']; exact Bool.false_ne_true)).trans
        (if_pos hb)))
    · exact next_congr (runCommand_votes h ((if_neg (show ¬(!s0.coll.groups.any _ || _) = true by rw [hf, hz']; exact Bool.false_ne_true)).trans
        (if_neg (Bool.eq_false_iff.1 hb))))
  · refine next_congr ?_
    simp only [hx]

theorem collectiveMessages : CollectiveMessages := by
  intro s c g l q k
  refine ⟨fun i hi => ⟨fun p => ?_, fun code hcode => ?_, fun cause r => ?_⟩, fun hi hc hd => ⟨fun p => ?_, fun he code => ?_⟩,
    fun hi hc => ⟨fun p => ?_, fun code => ?_⟩, fun cause r => rfl, fun t f i hi => ⟨fun h => ?_, fun hu ht => ?_⟩⟩ <;> refine next_congr ?_
  · rw [hi]
  · rw [State.takeFail_of_inst hi, failExc_of_ne hcode]
  · exact State.takeFail_of_inst hi _ _
  · have hc' : ((s.cmdAt c).isNone || q < tgetD s.coll.done (c, g, l) 0) = false := by simp [hc, Nat.not_lt.2 hd]
    rw [hi]
    exact if_neg (Bool.eq_false_iff.1 hc')
  · exact State.takeFail_kept hi hc he hd code 0
  · have hc' : ((s.cmdAt c).isNone || q < tgetD s.coll.done (c, g, l) 0) = true := by simp [hc]
    rw [hi]
    exact if_pos hc'
  · exact State.takeFail_of_no_command hi hc code 0
  · rw [hi]
    exact if_pos (by simpa only [Bool.or_eq_true, decide_eq_true_iff] using h)
  · rw [hi]
    exact if_neg (by simp only [Bool.or_eq_true, decide_eq_true_iff]; exact not_or.2 ⟨Nat.not_lt.2 hu, Nat.not_le.2 ht⟩)

/-- Settles O32: the groups by their checks, the messages by the instance that they find. -/
theorem groupsAndCollectiveMessages : Obligations.GroupsAndCollectiveMessages := ⟨collectiveGroups, collectiveMessages⟩

theorem hangsResetAndReplay : HangsResetAndReplay := by
  intro s u l n hn
  have hexec : exec (.hang n u) s = .next (if s.inReset || s.flt.withdrawn || s.underReset l u || s.unitHeld l u || !s.unitBusy l u then s
      else match s.flt.mode with
        | .service => s.countHang.hangInService l u
        | .test => s.countHang.failTest
        | .startUp | .recovery => s.countHang.hangInMode l u) := by
    rcases hn with ⟨rfl, rfl⟩ | ⟨rfl, rfl⟩ | ⟨rfl, rfl⟩ <;> rfl
  rw [hexec]
  refine ⟨fun h => congrArg _ (if_pos ?_), fun hr hw hu hh hb => ?_⟩
  · rcases h with h | h | h | h | h <;> simp [h]
  · have hc : ¬(s.inReset || s.flt.withdrawn || s.underReset l u || s.unitHeld l u || !s.unitBusy l u) = true := by simp [hr, hw, hu, hh, hb]
    intro s1
    refine ⟨fun hm hrec => ?_, fun hm hrec => ?_, fun hm => ?_⟩ <;> refine congrArg _ ((if_neg hc).trans ?_)
    · rw [hm]
      exact if_pos hrec
    · rw [hm]
      exact if_neg (Bool.eq_false_iff.1 hrec)
    · refine Eq.trans (b := s.countHang.hangInMode l u) ?_ rfl
      rcases hm with hm | hm <;> rw [hm]

theorem suspectsReplayInOrder : SuspectsReplayInOrder := by
  intro s n u x c rest hx hs next
  refine ⟨fun k hk => ⟨fun hr => ?_, fun hr => ?_, fun hp => ?_, fun hp => ?_⟩, fun hk b => ?_⟩ <;> refine next_congr ?_
  · simp only [hx, hs, hk, hr, next, beq_iff_eq]
    rfl
  · simp only [hx, hs, hk, hr]
    rfl
  · simp only [hx, hs, hk, hp, next, beq_iff_eq]
    rfl
  · simp only [hx, hs, hk]
    exact if_neg (by simpa using hp)
  · simp only [hx, hs, hk, next, beq_iff_eq]

theorem captureCollected : CaptureCollected := by
  intro s id xs found
  refine ⟨fun hf => ?_, fun c hf h1 h16 => ?_⟩
  · exact next_congr (by rw [show s.flt.captures.find? _ = none from hf])
  · have hc : (xs.isEmpty || xs.length > 16) = false := by
      cases xs with
      | nil => exact absurd h1 (by simp)
      | cons x xs => simpa using h16
    intro c' q
    refine next_congr ?_
    rw [show s.flt.captures.find? _ = some c from hf]
    simp only [hc, Bool.false_eq_true, ↓reduceIte, beq_iff_eq]
    rfl

theorem resetsEnd : ResetsEnd := by
  refine ⟨fun s n u r hr => ?_, fun s n u ok hr => ?_, fun s t x hx => ?_⟩
  · intro s1
    refine ⟨fun hl => ⟨?_, ?_⟩, fun hl => ?_, fun hl hd => ?_⟩ <;> refine next_congr ?_ <;> rw [hr]
    · exact if_pos (beq_iff_eq.2 hl)
    · exact if_pos (beq_iff_eq.2 hl)
    · exact if_neg (mt beq_iff_eq.1 hl)
    · refine (if_neg (mt beq_iff_eq.1 hl)).trans ?_
      simp only [beq_iff_eq, if_neg hd]
      rfl
  · exact next_congr (by rw [hr])
  · exact next_congr (by rw [hx])

/-- Settles O34: hangs, suspects, captures and the ends of resets, each along the branches of its row. -/
theorem hangsResetsAndCaptures : Obligations.HangsResetsAndCaptures :=
  ⟨hangsResetAndReplay, suspectsReplayInOrder, captureCollected, resetsEnd⟩

theorem measurementsAndHours : MeasurementsAndHours := by
  intro s hr
  refine ⟨fun ms hm => ?_, fun l mv hl => ?_, fun b => ?_⟩
  · refine ⟨_, next_congr (if_neg (by simp [hr, hm])), rfl, fun d hd => ?_⟩
    refine (measured_fold ms 0 s.pat.measured d).trans ((if_pos (by omega)).trans ?_)
    rfl
  · have hc : (s.inReset || (s.peerAddr l).isNone) = false := by
      rw [hr, Bool.false_or]
      simpa [Option.isNone_iff_eq_none, Option.isSome_iff_ne_none] using hl
    intro s1
    refine ⟨fun hmv hp => ?_, fun h => ?_⟩
    · exact next_congr ((if_neg (Bool.eq_false_iff.1 hc)).trans (if_pos (Bool.and_eq_true_iff.2 ⟨decide_eq_true hmv, beq_iff_eq.2 hp⟩)))
    · refine next_congr ((if_neg (Bool.eq_false_iff.1 hc)).trans (if_neg fun ht => ?_))
      obtain ⟨hmv, hp⟩ := Bool.and_eq_true_iff.1 ht
      exact h.elim (Nat.not_le.2 (of_decide_eq_true hmv)) fun hn => hn (beq_iff_eq.1 hp)
  · intro d s1 s2
    refine next_congr ((if_neg (Bool.eq_false_iff.1 hr)).trans ?_)
    simp only [beq_iff_eq]
    rfl

theorem replansApply : ReplansApply := by
  refine ⟨fun s r => ⟨fun hr hw hm hp ht => ?_, fun h => ?_⟩, fun s p hp hr => ⟨fun hi hs => ?_, fun h => ?_⟩⟩ <;> refine next_congr ?_
  · simp [hr, hw, hm, hp, Nat.not_lt.2 ht]
  · rcases h with h | h | h <;> simp [h]
  · simp [State.replanBoundary, hp, hi, hs]
  · rcases h with h | h <;> simp [State.replanBoundary, hp, h]

/-- Settles O35: the measurements by what they join, the re-plans by when they may apply. -/
theorem patinaMeasuresAndReplans : Obligations.PatinaMeasuresAndReplans := ⟨measurementsAndHours, replansApply⟩
end

section
/-! PROOFS. The governor, the input voltage, temperatures and trips. -/

namespace Sys2Proof.Machine

open Sys2Proof.Claims

/-- What the governor may run at does not turn on how long the power has been calm. -/
theorem State.governorTop_calmSince (s : State) (t : Option Nat) : (s.setPwr { s.pwr with calmSince := t }).governorTop = s.governorTop := by
  unfold State.governorTop
  rfl

/-- GOVERNOR_RELEASE of a module that has been calm for 100 µs, without a duty cycle and below its highest clock (15 R446). -/
theorem execGovernorRelease_raises {s : State} {t : Nat} (hr : s.inReset = false) (hc : s.pwr.calmSince = some t)
    (ht : t + 100 * 1000 ≤ s.dom.time) (hd : s.pwr.duty = false) (hlo : s.governorMhz < s.governorTop) :
    exec .governorRelease s = .next (
      let f := min (s.governorMhz + 25) s.governorTop
      let s1 := s.setPwr { s.pwr with calmSince := some s.dom.time, powerMhz := f, limiting := decide (f < s.governorTop) }
      if f = s.governorTop then s1.limitEvent 0 else s1) := by
  have hgo : ¬(s.inReset || !(s.pwr.calmSince.any fun t => s.time ≥ t + 100 * us)) = true := by
    rw [hr, hc, Option.any_some, decide_eq_true (show s.time ≥ t + 100 * us from ht)]
    exact Bool.false_ne_true
  refine next_congr ((if_neg hgo).trans ((if_neg (Bool.eq_false_iff.1 hd)).trans ?_))
  simp only [State.governorTop_calmSince, show (s.setPwr { s.pwr with calmSince := some s.time }).governorMhz = s.governorMhz from rfl,
    ge_iff_le, if_neg (Nat.not_le.2 hlo), beq_iff_eq]
  rfl

/-- TRIP_TIMEOUT of a stack (15 R454). -/
theorem execTripTimeout_stack (s : State) {k : Fin 20} (hk : k.val < 16) : exec (.tripTimeout k) s = .next (
    if s.inReset || !((s.stackAt k).level == .trip) || (s.stackAt k).belowSince.isSome || s.time < (s.stackAt k).tripAt + 60 * second then s
    else s.withdraw (srcCore (k.val / 4) 7) 5) := by
  show execTripTimeout k s = _
  unfold execTripTimeout
  rw [if_pos hk, if_pos hk]

end Sys2Proof.Machine

open Sys2Proof Sys2Proof.Machine Sys2Proof.Claims

theorem governorMovesClock : GovernorMovesClock := by
  refine ⟨fun s w i mj tc ps n hr hl => ?_, fun s hr => ⟨fun t hc ht => ?_, fun h => next_congr (if_pos ?_)⟩⟩
  · have hskip : ¬(s.inReset || ps.length != 4) = true := by simp [hr, hl]
    intro s1 pairs run f
    have hany : (∃ p ∈ pairs, p.2 < p.1) ↔ (pairs.any fun (p, l) => decide (p > l)) = true := by simp
    have hall : (∀ p ∈ pairs, p.1 + 50 ≤ p.2) ↔ (pairs.all fun (p, l) => decide (p + 50 ≤ l)) = true := by simp
    refine ⟨fun h => ?_, fun h => ?_, fun h h50 => ?_⟩ <;> refine next_congr ((if_neg hskip).trans ?_)
    · exact if_pos (hany.1 h)
    · refine (if_neg (mt hany.2 fun ⟨p, hp, hlt⟩ => ?_)).trans (if_pos (hall.1 h))
      have := h p hp
      omega
    · refine (if_neg (mt hany.2 fun ⟨p, hp, hlt⟩ => Nat.not_lt.2 (h p hp) hlt)).trans (if_neg (mt hall.2 fun ha => ?_))
      obtain ⟨p, hp, hlt⟩ := h50
      exact Nat.not_le.2 hlt (ha p hp)
  · have hc' : ¬(s.inReset || !(s.pwr.calmSince.any fun t => s.time ≥ t + 100 * us)) = true := by
      rw [hr, hc, Option.any_some, decide_eq_true (show s.time ≥ t + 100 * us from ht)]
      exact Bool.false_ne_true
    intro s1
    refine ⟨fun hd => ?_, fun hd htop => ?_, fun hd htop => ?_, fun hd hlo hhi => ?_⟩
    · exact next_congr ((if_neg hc').trans (if_pos hd))
    · exact next_congr ((if_neg hc').trans ((if_neg (Bool.eq_false_iff.1 hd)).trans (if_pos htop)))
    · have hmin : min (s.governorMhz + 25) s.governorTop = s.governorMhz + 25 := by omega
      rw [execGovernorRelease_raises hr hc ht hd (by omega), hmin]
      dsimp only
      rw [decide_eq_true htop, if_neg (Nat.ne_of_lt htop)]
      rfl
    · have hmin : min (s.governorMhz + 25) s.governorTop = s.governorTop := by omega
      rw [execGovernorRelease_raises hr hc ht hd hlo, hmin]
      dsimp only
      rw [decide_eq_false (Nat.lt_irrefl _), if_pos rfl]
      rfl
  · cases hc : s.pwr.calmSince with
    | none => simp
    | some t =>
      have hshort : ¬s.time ≥ t + 100 * us := Nat.not_le.2 (h t hc)
      rw [Option.any_some, decide_eq_false hshort, Bool.not_false, Bool.or_true]

theorem inputVoltageBands : InputVoltageBands := by
  intro s v long s1 band
  refine ⟨fun hp => next_congr (if_pos (beq_iff_eq.2 hp)), fun hp => ⟨fun h => ⟨_, next_congr ((if_neg (mt beq_iff_eq.1 hp)).trans (if_pos ?_)), rfl, rfl, rfl⟩,
    fun hv hl => ?_, fun hlo hhi => ⟨fun hb => ?_, fun hb => ?_⟩⟩⟩
  · simpa using h
  · refine next_congr ((if_neg (mt beq_iff_eq.1 hp)).trans ((if_neg ?_).trans (if_pos hv)))
    simp [hl]
    omega
  · refine next_congr ((if_neg (mt beq_iff_eq.1 hp)).trans ((if_neg ?_).trans ((if_neg (Nat.not_lt.2 hlo)).trans (if_pos (beq_iff_eq.2 hb)))))
    simp
    omega
  · refine next_congr ((if_neg (mt beq_iff_eq.1 hp)).trans ((if_neg ?_).trans ((if_neg (Nat.not_lt.2 hlo)).trans (if_neg (mt beq_iff_eq.1 hb)))))
    simp
    omega

/-- Settles O37: the governor by the size of its step, the input voltage by its bands. -/
theorem governorAndInputVoltage : Obligations.GovernorAndInputVoltage := ⟨governorMovesClock, inputVoltageBands⟩

theorem stackLevels : StackLevels := by
  intro s k tj hr x n since y s1 run rises
  have hrun : run = .next (
      if (x.level != .trip && n ≥ 2) = true then s1.moveStack k y .trip
      else if (x.level != .trip && (entryLevel tj).code > x.level.code) = true then s1.moveStack k y (entryLevel tj)
      else if (since.any fun t => s.dom.time ≥ t + 100 * ms) = true then (exitBound x.level).elim s1 fun b => s1.moveStack k y b.2
      else s1) := next_congr (if_neg (Bool.eq_false_iff.1 hr))
  rw [hrun]
  have hstay : (x.level = .trip ∨ (n < 2 ∧ ¬rises)) → ¬(x.level != .trip && n ≥ 2) = true ∧ ¬(x.level != .trip && (entryLevel tj).code > x.level.code) = true := by
    rintro (h | ⟨h, hnr⟩)
    · simp [h]
    · simp [Nat.not_le.2 h, show ¬(entryLevel tj).code > x.level.code from hnr]
  refine ⟨fun hl hn => ?_, fun hl hn hrise => ?_, fun b t hq hb hs ht => ?_, fun hq hs => ?_, fun h1 h2 => ?_, fun h1 h2 => ?_, fun h => ?_⟩
  · exact congrArg _ (if_pos (by simp [hl, hn]))
  · exact congrArg _ ((if_neg (by simp [Nat.not_le.2 hn])).trans (if_pos (by simp [hl, show (entryLevel tj).code > x.level.code from hrise])))
  · obtain ⟨h1, h2⟩ := hstay hq
    have hdue : (since.any fun t => s.dom.time ≥ t + 100 * ms) = true := by
      rw [hs, Option.any_some]
      exact decide_eq_true ht
    rw [if_neg h1, if_neg h2, if_pos hdue, hb, Option.elim_some]
  · obtain ⟨h1, h2⟩ := hstay hq
    have hdue : ¬(since.any fun t => s.dom.time ≥ t + 100 * ms) = true := by
      rw [Option.any_eq_true]
      rintro ⟨t, ht, hge⟩
      exact Nat.not_le.2 (hs t ht) (of_decide_eq_true hge)
    rw [if_neg h1, if_neg h2, if_neg hdue]
  · rw [entryLevel, if_neg (by omega), if_neg (by omega), if_pos h1]
  · rw [entryLevel, if_neg (by omega), if_pos h1]
  · exact if_pos h

theorem dieTemperaturesAndTrips : DieTemperaturesAndTrips := by
  refine ⟨fun s d tj hr hd htrip => ?_, fun s k hr hk hl hb => ⟨fun ht => ?_, fun ht => ?_⟩, fun s => ⟨fun h => ?_, fun h1 h2 => ?_⟩⟩
  · intro n y s1
    have hrun : exec (.dieTempSample d tj) s = .next (
        if n ≥ 2 then ((s1.setDieTherm d { y with trip := true, tripAt := s.dom.time, belowSince := none }).countTrip.tripDie
          d).powerEvent d 0x0B02 (16 + d) 4 tj 0 0
        else (s1.sampleDie d y tj).noticeFrom s1.heatLevel) :=
      next_congr ((if_neg (Bool.eq_false_iff.1 hr)).trans ((if_neg (Nat.not_le.2 hd)).trans (if_neg (Bool.eq_false_iff.1 htrip))))
    rw [hrun]
    refine ⟨fun hn => congrArg _ (if_pos hn), fun hn ht => congrArg _ ((if_neg (Nat.not_le.2 hn)).trans ?_),
      fun hn ht hc => congrArg _ ((if_neg (Nat.not_le.2 hn)).trans ?_)⟩ <;> refine congrArg (State.noticeFrom _) ?_
    · exact if_pos (by simp [ht])
    · refine (if_neg (by simp; omega)).trans ?_
      rw [hc]
  · rw [execTripTimeout_stack s hk, hr, hl, hb]
    exact congrArg _ (if_neg (by simp; exact ht))
  · rw [execTripTimeout_stack s hk]
    exact congrArg _ (if_pos (by rw [decide_eq_true (show s.time < _ + 60 * second from ht), Bool.or_true]))
  · exact next_congr (if_pos (by simpa using h))
  · exact ⟨_, next_congr (if_neg (by simp [h1, h2])), rfl, rfl, rfl⟩

/-- Settles O38: a level, a ceiling and a trip each go by the sample's thresholds. -/
theorem temperaturesAndTrips : Obligations.TemperaturesAndTrips := ⟨stackLevels, dieTemperaturesAndTrips⟩
end

section
/-! PROOFS. Power-on, start-up and the sideband signals. -/

namespace Sys2Proof.Machine

open Sys2Proof.Claims

/-- What a module's own checks ask of it before READY (16 R468). -/
theorem State.readyNow_iff (s : State) : s.readyNow = true ↔ s.dom.phase = .member ∧ s.flt.mode = .service ∧ s.sig.portsTrained = BitVec.allOnes 8
    ∧ (∀ k : Fin 16, s.sig.stacksTrained.getLsbD k = true ∨ (s.mem.die (k.val / 4)).retired = true)
    ∧ (s.dom.rank = s.dom.anchor → s.sig.visible = true) := by
  simp [State.readyNow, and_assoc, Decidable.imp_iff_not_or]

/-! While the rails are off an event waits: of the time and the signals only the list of held events changes. -/

theorem State.sigEvent_held {s : State} (h : s.inReset = true) (kind value : Nat) :
    (s.sigEvent kind value).dom = s.dom ∧ ∃ held, (s.sigEvent kind value).sig = { s.sig with held := held } := by
  simp only [State.sigEvent, h, Bool.not_true, Bool.false_eq_true, ↓reduceIte]
  split
  · exact ⟨rfl, _, rfl⟩
  · exact ⟨rfl, s.sig.held, rfl⟩
theorem State.bootEvent_held {s x : State} (hdom : x.dom = s.dom) (hsig : x.sig = s.sig) (h : s.inReset = true) (i : Nat) :
    (x.bootEvent i).dom = s.dom ∧ ∃ held, (x.bootEvent i).sig = { s.sig with held := held } := by
  rw [← hdom, ← hsig]
  exact State.sigEvent_held (by rw [State.inReset, hsig]; exact h) _ _
theorem State.bootController_held {s : State} (h : s.inReset = true) :
    s.bootController.dom = s.dom ∧ ∃ held, s.bootController.sig = { s.sig with held := held } := by
  unfold State.bootController
  dsimp only
  split
  · split
    · refine State.bootEvent_held ?_ ?_ h 0 <;> rfl
    · exact ⟨rfl, s.sig.held, rfl⟩
  · exact ⟨rfl, s.sig.held, rfl⟩
theorem State.takeBoard_dom_sig (s : State) : s.takeBoard.dom = s.dom ∧ s.takeBoard.sig = s.sig := by
  unfold State.takeBoard
  split
  · exact ⟨rfl, rfl⟩
  · exact ⟨rfl, rfl⟩

/-- The end of a power-on: with the board and the controller taken, the rails come on if PWR_EN already asks for them (16 R465). -/
theorem State.railsOn_after_boot (s : State) (h : s.inReset = true) :
    let b := s.takeBoard.bootController
    let t := if b.sig.pwrEn then b.railsOn (200 * ms) else b
    t.dom = s.dom ∧ ∃ held, t.sig = if s.sig.pwrEn then { s.sig with phase := .held, t2 := 200 * ms, held := held } else { s.sig with held := held } := by
  obtain ⟨hdom, hsig⟩ := s.takeBoard_dom_sig
  obtain ⟨hdom', held, hsig'⟩ := State.bootController_held (s := s.takeBoard) (by rw [State.inReset, hsig]; exact h)
  rw [hdom] at hdom'
  rw [hsig] at hsig'
  intro b t
  have hpins : b.sig.pwrEn = s.sig.pwrEn := by rw [show b.sig = _ from hsig']
  cases hp : s.sig.pwrEn
  · have ht : t = b := if_neg (by simp [hpins, hp])
    rw [ht]
    exact ⟨hdom', held, hsig'⟩
  · have ht : t = b.railsOn (200 * ms) := if_pos (hpins.trans hp)
    rw [ht]
    refine ⟨hdom', held, ?_⟩
    show ({ b.sig with phase := .held, t2 := 200 * ms } : SigState) = _
    rw [show b.sig = _ from hsig']
    rfl

/-- What a power-on leaves in device time and the signals, from what it set them to before the boot. -/
theorem State.railsOn_after_boot_signals {s : State} (h : s.sig.phase = .standby) (htime : s.dom.time = 0) (ht2 : s.sig.t2 = 200 * 1000000)
    (hiso : s.sig.smbIso = false) (hlock : s.sig.smbLock = false) (hfree : s.sig.tickFree = true) :
    let b := s.takeBoard.bootController
    let t := if b.sig.pwrEn then b.railsOn (200 * ms) else b
    t.dom.time = 0 ∧ t.sig.t2 = 200 * 1000000 ∧ t.sig.phase = (if s.sig.pwrEn then .held else .standby) ∧ t.sig.smbIso = false
      ∧ t.sig.smbLock = false ∧ t.sig.tickFree = true ∧ t.sig.smbAddr = s.sig.smbAddr := by
  intro b t
  obtain ⟨hdom, held, hsig⟩ := State.railsOn_after_boot s (by rw [State.inReset, h]; rfl)
  rw [show t.dom = s.dom from hdom, show t.sig = _ from hsig]
  cases s.sig.pwrEn
  · exact ⟨htime, ht2, h, hiso, hlock, hfree, rfl⟩
  · exact ⟨htime, rfl, rfl, hiso, hlock, hfree, rfl⟩

/-! TICK_IN's edge by the interval that it ends (16 R473). -/

theorem execTickInEdge_invalid {s : State} (hp : s.sig.phase ≠ .off)
    (h : ∀ a, (if s.sig.tickFree then s.sig.lastEdge else some s.sig.tickNs) = some a → validTick a (s.time / 4 * 4) = false) :
    exec .tickInEdge s = .next (s.setSig { s.sig with
      lastEdge := some (s.time / 4 * 4), tickRun := if s.sig.tickFree then 0 else s.sig.tickRun }) := by
  have hnone : ((if s.sig.tickFree then s.sig.lastEdge else some s.sig.tickNs).filter fun a => validTick a (s.time / 4 * 4)) = none := by
    rw [Option.filter_eq_none_iff]
    exact fun a ha hv => Bool.false_ne_true ((h a ha).symm.trans hv)
  refine next_congr ((if_neg (by simp [hp])).trans ?_)
  rw [hnone]
theorem execTickInEdge_valid {s : State} (hp : s.sig.phase ≠ .off) {a : Nat}
    (ha : (if s.sig.tickFree then s.sig.lastEdge else some s.sig.tickNs) = some a) (hv : validTick a (s.time / 4 * 4) = true) :
    exec .tickInEdge s = .next (
      let ends := s.sig.tickFree && s.sig.tickRun ≥ 2
      let rate : Int := (second : Int) - (s.time / 4 * 4 - a : Nat)
      let s1 := s.setSig { s.sig with
        lastEdge := some (s.time / 4 * 4), tickNs := s.time / 4 * 4, tickRun := if ends || !s.sig.tickFree then 0 else s.sig.tickRun + 1
        tickFree := s.sig.tickFree && !ends }
      if !s1.gridMaster || s1.sig.tickFree then s1
      else
        let s2 := s1.setDom { s1.dom with ratePpb := s1.dom.ratePpb + rate }
        if ends then s2.sigEvent 0x0917 (signed64 rate) else s2) := by
  have hsome : ((if s.sig.tickFree then s.sig.lastEdge else some s.sig.tickNs).filter fun a => validTick a (s.time / 4 * 4)) = some a := by
    rw [ha, Option.filter_some, if_pos hv]
  refine next_congr ((if_neg (by simp [hp])).trans ?_)
  rw [hsome]

theorem State.keeps_rate_of_not_master {s : State} (h : s.gridMaster = false) : (!s.gridMaster || s.sig.tickFree) = true := by
  rw [h]
  rfl
theorem State.takes_rate_of_master {s : State} (h : s.gridMaster = true) (hf : s.sig.tickFree = false) :
    ¬(!s.gridMaster || s.sig.tickFree) = true := by
  rw [h, hf]
  exact Bool.false_ne_true

end Sys2Proof.Machine

open Sys2Proof Sys2Proof.Machine Sys2Proof.Claims

theorem powerAndReset : PowerAndReset := by
  intro s
  refine ⟨fun h => next_congr (if_pos (bne_iff_ne.2 h)), fun h => ⟨_, next_congr (if_neg (by simp [h])), ?_⟩, ?_, ?_, rfl, fun b => ?_⟩
  · refine State.railsOn_after_boot_signals ?_ ?_ ?_ ?_ ?_ ?_ <;> rfl
  · exact ⟨fun h => next_congr (if_pos (beq_iff_eq.2 h)), fun h => next_congr (if_neg (mt beq_iff_eq.1 h))⟩
  · refine ⟨fun h => next_congr ?_, fun h1 h2 => next_congr ?_⟩
    · rw [if_pos (by simpa [State.setSig] using h)]
    · rw [if_neg (by simp [State.setSig, h1, h2])]
  · exact ⟨fun h => next_congr (if_pos (beq_iff_eq.2 h)), fun h => next_congr (if_neg (mt beq_iff_eq.1 h))⟩

theorem startupReady : StartupReady := by
  intro s ready
  have hready : s.readyNow = true ↔ ready := s.readyNow_iff
  refine ⟨fun h => next_congr (if_pos ?_), fun hp hr h => ?_, fun hp hr h => ?_⟩
  · rw [Bool.or_eq_true, Bool.or_eq_true, Bool.not_eq_true', Bool.eq_false_iff, Ne, hready, or_assoc]
    exact h
  · refine next_congr ((if_neg ?_).trans ?_)
    · simp [hp, hr, hready.2 h]
    · simp only [show (s.sig.phase == .starting) = false by rw [hp]; rfl, Bool.false_eq_true, ↓reduceIte, bne_iff_ne, ne_eq, ite_not]
  · refine next_congr ((if_neg ?_).trans ?_)
    · simp [hp, hr, hready.2 h]
    · simp only [show (s.sig.phase == .starting) = true by rw [hp]; rfl, ↓reduceIte, bne_iff_ne, ne_eq, ite_not]
      rfl

theorem startupTraining : StartupTraining := by
  intro s hr
  refine ⟨fun g w hc hg hw => ?_, fun g w hc => next_congr (if_pos (by simp [hc])), fun g hg => ?_, fun k cs hk => ?_, fun p hp => ?_,
    fun d i hw hb => ?_⟩
  · have hw' : ([4, 8, 16].contains w.val) = true := by simpa using hw
    intro s1
    refine ⟨fun hv => next_congr ((if_neg ?_).trans (if_neg (Bool.eq_false_iff.1 hv))), fun hv hgen => next_congr ((if_neg ?_).trans (if_pos hv))⟩
    · rw [hw', hr, hc, hv]
      simpa using hg
    · rw [hw', hr, hc, hv, hgen]
      simpa using hg
  · refine next_congr ((if_neg (by rw [hr, hg]; exact Bool.false_ne_true)).trans ?_)
    simp only [beq_iff_eq]
  · exact next_congr (if_neg (by rw [hr, hk]; exact Bool.false_ne_true))
  · have hgo : ¬(s.inReset || s.sig.portsTrained.getLsbD p) = true := by
      rw [hr, hp]
      exact Bool.false_ne_true
    intro s1
    refine ⟨next_congr (if_neg hgo), fun gib => ⟨next_congr (if_neg hgo), next_congr (if_neg hgo), next_congr (if_neg hgo)⟩, fun n r gib ok h => ?_⟩
    refine next_congr ((if_neg hgo).trans (if_neg ?_))
    rcases h with h | h | h
    · simp [h]
    · simp [h]
    · simp [h]
  · refine next_congr ((if_neg (by simp [hr, hw])).trans ?_)
    simp only [List.contains_eq_mem, hb, decide_false, Bool.false_eq_true, ↓reduceIte]

/-- Settles O39: power-on and training by their times, READY by the lemma on its condition. -/
theorem powerTrainingAndReadiness : Obligations.PowerTrainingAndReadiness := ⟨powerAndReset, startupReady, startupTraining⟩

theorem faultInput : FaultInput := by
  intro s
  refine ⟨fun h => ⟨next_congr (if_pos ?_), next_congr (if_pos ?_), next_congr (if_pos ?_)⟩, fun hp hd => ⟨fun hl => ⟨fun hm => ?_, fun hm => ?_⟩,
    fun hl hm => ⟨fun ht => ?_, fun ht => ?_⟩, ⟨fun hm => ?_, fun hm => ?_⟩⟩⟩
  · rcases h with h | h <;> simp [h]
  · rcases h with h | h <;> simp [h]
  · rcases h with h | h <;> simp [h]
  · exact next_congr ((if_neg (by simp [hp, hd, hl])).trans (if_neg (Bool.eq_false_iff.1 hm)))
  · exact next_congr ((if_neg (by simp [hp, hd, hl])).trans (if_pos hm))
  · exact next_congr (if_neg (by simp [hp, hd, hl, hm]; exact ht))
  · exact next_congr (if_pos (by rw [decide_eq_true (show s.time < s.sig.faultSince + second from ht), Bool.or_true]))
  · exact next_congr ((if_neg (by simp [hp, hd])).trans (if_pos hm))
  · exact next_congr ((if_neg (by simp [hp, hd])).trans (if_neg (Bool.eq_false_iff.1 hm)))

theorem tickInAndOut : TickInAndOut := by
  intro s hp t valid rate
  have hvalid : ∀ a, validTick a t = true ↔ valid a := fun a => by
    rw [validTick, Bool.and_eq_true, decide_eq_true_iff, decide_eq_true_iff]
    exact Iff.rfl
  have hinvalid : ∀ a, ¬valid a → validTick a t = false := fun a h => Bool.eq_false_iff.2 (mt (hvalid a).1 h)
  refine ⟨fun hf h => ?_, fun hf h => ?_, fun a hf ha hv => ⟨fun hrun => ?_, fun hrun => ⟨fun hg => ?_, fun hg => ?_⟩⟩, fun hf hv => ⟨fun hg => ?_, fun hg => ?_⟩,
    fun hf ht => ⟨fun hg => ?_, fun hg => ?_⟩, fun h => ?_, fun ht => ?_, fun ht => ?_⟩
  · rw [execTickInEdge_invalid hp fun a ha => hinvalid a (h a (by rwa [hf] at ha)), hf]
    rfl
  · rw [execTickInEdge_invalid hp fun a ha => hinvalid a (by rw [hf] at ha; exact Option.some.inj ha ▸ h), hf]
    rfl
  · rw [execTickInEdge_valid hp (by rw [hf]; exact ha) ((hvalid a).2 hv)]
    dsimp only
    rw [hf, decide_eq_false (Nat.not_le.2 hrun)]
    exact congrArg _ (if_pos (Bool.or_true _))
  · rw [execTickInEdge_valid hp (by rw [hf]; exact ha) ((hvalid a).2 hv), hf, decide_eq_true hrun]
    exact congrArg _ (if_pos (State.keeps_rate_of_not_master hg))
  · rw [execTickInEdge_valid hp (by rw [hf]; exact ha) ((hvalid a).2 hv), hf, decide_eq_true hrun]
    exact congrArg _ ((if_neg (State.takes_rate_of_master hg rfl)).trans (if_pos rfl))
  · rw [execTickInEdge_valid hp (by rw [hf]; rfl) ((hvalid _).2 hv)]
    dsimp only at hg ⊢
    rw [hf] at hg ⊢
    exact congrArg _ (if_pos (State.keeps_rate_of_not_master hg))
  · rw [execTickInEdge_valid hp (by rw [hf]; rfl) ((hvalid _).2 hv)]
    dsimp only at hg ⊢
    rw [hf] at hg ⊢
    exact congrArg _ ((if_neg (State.takes_rate_of_master hg rfl)).trans (if_neg Bool.false_ne_true))
  · exact next_congr ((if_neg (by simp [hp, hf]; exact ht)).trans (if_pos hg))
  · exact next_congr ((if_neg (by simp [hp, hf]; exact ht)).trans (if_neg (Bool.eq_false_iff.1 hg)))
  · refine next_congr (if_pos ?_)
    rcases h with h | h
    · simp [h]
    · rw [decide_eq_true (show s.time < s.sig.tickNs + 2 * second from h), Bool.or_true]
  · exact next_congr (if_neg (by simp [hp]; exact ht))
  · exact next_congr (if_pos (by rw [decide_eq_true (show s.time / second ≤ s.sig.tickSec from ht), Bool.or_true]))

theorem sidebandPorts : SidebandPorts := by
  intro s
  refine ⟨fun h b => next_congr (if_neg (by simp [h])), fun hp => ⟨fun a b hab hi hr => ?_, fun hr ht => ⟨?_, fun a b hab => ?_⟩, fun h a b => ?_,
    fun hi => ⟨fun hl => ?_, fun hl => ?_⟩, fun b => next_congr (if_pos (by simp [hp]))⟩, fun a b n => ⟨fun h => ?_, fun h1 h2 => ?_⟩,
    fun ir => ⟨rfl, rfl⟩⟩
  · exact next_congr (if_neg (by rcases hab with h | h <;> simp [hp, hi, hr, h]))
  · exact next_congr ((if_neg (by simp [hp, hr]; exact ht)).trans (if_pos rfl))
  · refine next_congr ((if_neg (by simp [hp, hr]; exact ht)).trans ((if_neg ?_).trans ?_))
    · rcases hab with h | h <;> simp [h]
    · cases a <;> cases b <;> rfl
  · refine next_congr (if_pos ?_)
    rcases h with h | h
    · simp [h]
    · rw [decide_eq_true (show s.time < s.sig.stuckAt + 1090 * us from h), Bool.or_true]
  · exact next_congr ((if_neg (by simp [hp, hi])).trans (if_neg (Bool.eq_false_iff.1 hl)))
  · exact next_congr ((if_neg (by simp [hp, hi])).trans (if_pos hl))
  · refine next_congr (if_neg ?_)
    rcases h with h | h
    · simp [State.setSig, h]
    · exact fun hc => bne_iff_ne.1 (Bool.and_eq_true_iff.1 hc).2 h
  · exact next_congr (if_pos (Bool.and_eq_true_iff.2 ⟨h1, bne_iff_ne.2 h2⟩))

/-- Settles O40: each signal goes by the time that its line has been held. -/
theorem sidebandSignals : Obligations.SidebandSignals := ⟨faultInput, tickInAndOut, sidebandPorts⟩
end

section
/-! PROOFS. Firmware components, sessions and keys. -/

namespace Sys2Proof.Machine

@[simp] theorem BootState.store_transferred (b : BootState) (p : FwPayload) : (b.store p).transferred = b.transferred := by
  cases p with
  | controller i => exact apply_ite BootState.transferred _ _ _ |>.trans (ite_self _)
  | package i => exact apply_ite BootState.transferred _ _ _ |>.trans (ite_self _)
  | record r => rfl
  | board pmd d => rfl

end Sys2Proof.Machine

open Sys2Proof Sys2Proof.Machine Sys2Proof.Claims

theorem firmwareComponents : FirmwareComponents := by
  intro s
  refine ⟨fun p h => next_congr (if_pos ?_), fun p hp hv hc => ?_, fun k hp hf => next_congr ?_, fun k p hp hf => ?_⟩
  · rcases h with h | h | ⟨h1, h2⟩
    · simp [h]
    · simp [h]
    · simp [h1, h2]
  · have hgo : ¬(!s.standby || !s.verifies p || (componentOf p != 0 && !s.controllerRuns)) = true := by
      rcases hc with h | h <;> simp [hp, hv, h]
    intro b
    refine next_congr ((if_neg hgo).trans ?_)
    show s.setBoot { s.boot.store p with transferred := p :: (s.boot.store p).transferred.filter _ } = _
    rw [BootState.store_transferred]
    cases p <;> rfl
  · rw [hf]
    split
    next h => exact absurd h.symm (Option.some_ne_none _)
    · rfl
  · have hon : s.standby = true := bne_iff_ne.2 hp
    intro b
    cases p <;> refine next_congr ?_ <;> rw [hon, hf] <;> rfl

theorem sessionsAndInterfaces : SessionsAndInterfaces := by
  intro s
  refine ⟨fun f m => ⟨fun h => ⟨fun i => ?_, ?_⟩, fun h => ⟨?_, fun i hi d hd => ?_, fun hc => ?_, fun he hl => ?_⟩, rfl⟩,
    fun t => ⟨fun h => ⟨fun ht => ?_, fun ht => ?_, fun ht => ?_, fun ht => ?_⟩, fun h => ⟨?_, ?_⟩, fun h => ?_, fun h => ?_⟩⟩
  · exact next_congr (if_pos (by rw [h]; rfl))
  · exact next_congr (if_pos (by simp [h]))
  · exact next_congr (if_neg (by simp [h]))
  · refine next_congr ((if_neg (by simp [h])).trans ?_)
    dsimp only
    rw [if_neg (mt beq_iff_eq.1 hi), hd]
    rfl
  · refine next_congr (if_pos ?_)
    rcases hc with hc | hc
    · simp [hc]
    · rw [decide_eq_true (show _ ≥ (if (f.val == 0) = true then 4 else 1) by simpa only [beq_iff_eq] using hc), Bool.or_true]
  · refine next_congr (if_neg ?_)
    rw [h, he, decide_eq_false (show ¬_ ≥ (if (f.val == 0) = true then 4 else 1) by simpa only [beq_iff_eq, ge_iff_le, Nat.not_le] using hl)]
    exact Bool.false_ne_true
  · exact next_congr (if_pos (by simp [h, ht]))
  · exact next_congr (if_neg (by simp [h, ht]))
  · exact next_congr (if_pos (by simp [h, ht]))
  · exact next_congr (if_neg (by simp [h, ht]))
  · exact next_congr (if_neg (by simp [h]))
  · exact next_congr (if_neg (by simp [h]))
  · exact next_congr (if_pos (beq_iff_eq.2 h))
  · exact next_congr (if_neg (mt beq_iff_eq.1 h))

theorem keysUnlockAndEntropy : KeysUnlockAndEntropy := by
  intro s
  refine ⟨fun t k key => ?_, fun ok => ?_, fun hp he => next_congr (if_neg (by simp [hp, he])), fun h => next_congr (if_pos ?_)⟩
  · intro put toPeers
    have hput : ∀ b, s.keyRequest t k b = put b := fun b => by
      unfold State.keyRequest
      simp only [Bool.or_eq_true]
      rfl
    have hsend : ∀ b, (s.keyRequest t k b).sendKey t k b = toPeers b := fun b => by
      rw [hput]
      rfl
    refine ⟨fun h r => next_congr (if_pos h), fun h => ⟨?_, fun hs he => ?_, fun hc => ?_⟩, next_congr (hput none), fun hs => ?_, fun hs => ?_⟩
    · exact next_congr ((if_neg (Bool.eq_false_iff.1 h)).trans (hput _))
    · exact next_congr ((if_neg (Bool.eq_false_iff.1 h)).trans ((if_neg Bool.false_ne_true).trans ((if_neg (by simp [hs, he])).trans (hsend _))))
    · refine next_congr ((if_neg (Bool.eq_false_iff.1 h)).trans ((if_neg Bool.false_ne_true).trans (if_pos ?_)))
      rcases hc with hc | hc <;> simp [hc]
    · exact next_congr ((if_neg Bool.false_ne_true).trans ((if_neg (by simp [hs])).trans (hsend _)))
    · exact next_congr ((if_neg Bool.false_ne_true).trans (if_pos (by simp [hs])))
  · intro may
    have hmay : (ok && s.boot.sessions.any (·.fn == 0)) = true ↔ may := by
      simp [may]
    exact ⟨fun h => next_congr (if_pos (hmay.2 h)), fun h => next_congr (if_neg (mt hmay.1 h))⟩
  · rcases h with h | h <;> simp [h]

/-- Settles O41: each of its clauses is a branch of the row that it speaks of. -/
theorem firmwareSessionsAndKeys : Obligations.FirmwareSessionsAndKeys := ⟨firmwareComponents, sessionsAndInterfaces, keysUnlockAndEntropy⟩
end

section
/-! PROOFS. Scrubbing and restoration, repair and retirement, and the host's window on memory. -/

namespace Sys2Proof.Machine

open Sys2Proof.Claims

@[simp] theorem State.emit_mem (s : State) (f : Fin 513) (source type : Nat) (payload : List Byte) : (s.emit f source type payload).mem = s.mem := by
  have h := congrArg State.mem (s.emit_besideHost f source type payload)
  exact h

@[simp] theorem State.memEvent_mem (s : State) (die : Nat) (e : MemEvent) : (s.memEvent die e).mem = s.mem := by
  unfold State.memEvent State.emitPf0 State.emitTenant
  split <;> simp

theorem State.correctable_ce (s : State) (g y : Nat) : (s.correctable g y).mem.regs.ce = (s.mem.regs.ce + 1) % 2 ^ 64 := by
  unfold State.correctable
  dsimp only
  split
  · rfl
  · split
    · rw [State.memEvent_mem]
      rfl
    · rfl

end Sys2Proof.Machine

open Sys2Proof Sys2Proof.Machine Sys2Proof.Claims

theorem migrationScrubAndRestoration : MigrationScrubAndRestoration := by
  intro s
  refine ⟨fun t u g e hg he => ⟨fun h => ?_, fun h => ?_⟩, fun t u hg => ?_, fun g => ⟨fun h f => ?_, fun x hx hp => ⟨?_, fun y => ⟨?_, s.correctable_ce g y⟩,
    fun y => ?_⟩⟩, fun k => rfl, fun g x h => next_congr (by rw [h]), fun g r hr => ?_⟩
  · refine next_congr ?_
    rw [hg, he]
    exact if_neg (Bool.eq_false_iff.1 h)
  · refine next_congr ?_
    rw [hg, he]
    exact if_pos h
  · exact next_congr (by rw [hg])
  · refine next_congr ?_
    rcases h with h | h <;> rw [h]
  · refine next_congr ?_
    rw [hx]
    cases x <;> rfl
  · refine next_congr ?_
    rw [hx]
    cases x with
    | peer => exact absurd rfl hp
    | _ => rfl
  · refine next_congr ?_
    rw [hx]
    cases x with
    | peer => exact absurd rfl hp
    | _ => rfl
  · intro o done
    refine ⟨fun x src d s1 hc h1 => ?_, fun b bs s1 hc hl h1 => ?_, fun hc => ?_⟩
    · refine next_congr ?_
      rw [hr]
      simp only [hc, Option.bind_some, h1, Option.map_some]
      rfl
    · refine next_congr ?_
      rw [hr]
      simp only [hc, Option.filter_some, hl, beq_self_eq_true, ↓reduceIte, Option.map_some, Option.bind_some, h1]
      rfl
    · refine next_congr ?_
      rw [hr]
      simp only [hc, Option.filter_none, Option.map_none, Option.bind_none]
      rfl

theorem repairAndRetirement : RepairAndRetirement := by
  intro s
  refine ⟨fun pc row => ?_, fun d => ?_, fun p => ?_⟩
  · intro bank used e
    refine ⟨fun h => next_congr (if_pos ?_), fun h hu => next_congr ((if_neg ?_).trans (if_pos hu)),
      fun h hu => next_congr ((if_neg ?_).trans (if_neg (Nat.not_lt.2 hu)))⟩ <;> simpa using h
  · intro r
    have hdrains : r.retired = false → r.draining = true → r.retiring = true → ∀ {a b c d : State},
        (if r.retired then a else if !r.draining then b else if !r.retiring then c else d) = d := by
      intro h hd ht a b c d
      simp [h, hd, ht]
    refine ⟨fun h => next_congr ?_, fun m hm hd ht => ⟨fun he => next_congr ?_, fun he => next_congr ?_⟩, fun h => next_congr (if_pos h),
      fun h hd => next_congr ?_, fun h hd ht => next_congr ?_, fun h hd ht => ⟨fun he => next_congr ?_, fun he => next_congr ?_⟩⟩
    · rw [show (s.mem.die d).request = none from h]
    · rw [show (s.mem.die d).request = some m from hm]
      exact (if_neg (by rw [hd, ht]; exact Bool.false_ne_true)).trans (if_pos he)
    · rw [show (s.mem.die d).request = some m from hm]
      exact (if_neg (by rw [hd, ht]; exact Bool.false_ne_true)).trans (if_neg (Bool.eq_false_iff.1 he))
    · exact (if_neg (Bool.eq_false_iff.1 h)).trans (if_pos (by rw [show (s.mem.die d).draining = false from hd]; rfl))
    · refine (if_neg (Bool.eq_false_iff.1 h)).trans ((if_neg ?_).trans (if_pos ?_))
      · rw [show (s.mem.die d).draining = true from hd]
        exact Bool.false_ne_true
      · rw [show (s.mem.die d).retiring = false from ht]
        rfl
    · exact (hdrains h hd ht).trans (if_pos he)
    · exact (hdrains h hd ht).trans (if_neg (Bool.eq_false_iff.1 he))
  · intro x
    exact ⟨fun h => next_congr (if_pos (by rw [h]; rfl)), fun h => next_congr (if_neg (by rw [h]; exact Bool.false_ne_true))⟩

theorem hostWindow : HostWindow := by
  intro s t o a out
  have hout : ∀ n, (!s.fnExists t || o + n > 2 ^ s.host.bar4Log) = true ↔ out n := fun n => by
    rw [Bool.or_eq_true, Bool.not_eq_true', decide_eq_true_iff]
  refine ⟨fun n => ⟨fun h => next_congr (if_pos ((hout n).2 h)), fun h => ?_⟩, fun bs => ⟨fun h => ?_, fun h ht => ?_⟩⟩
  · have hin := mt (hout n).1 h
    have hmapped : s.tdiError t = false → s.mem.unmapped t a n = none → ∀ {b c d e : State},
        (if (!s.fnExists t || o + n > 2 ^ s.host.bar4Log) = true then b else if s.tdiError t = true then c
          else if (s.mem.unmapped t a n).isSome = true then d else e) = e := by
      intro ht hx b c d e
      rw [if_neg hin, if_neg (Bool.eq_false_iff.1 ht), hx]
      rfl
    refine ⟨fun ht => next_congr ((if_neg hin).trans (if_pos ht)), fun ht x hx => ?_, fun ht hx => ⟨fun hr => ?_, fun hr hp => ?_, fun hr hp => ?_⟩⟩
    · exact next_congr ((if_neg hin).trans ((if_neg (Bool.eq_false_iff.1 ht)).trans (if_pos (by rw [hx]; rfl))))
    · exact next_congr ((hmapped ht hx).trans (if_pos hr))
    · exact next_congr ((hmapped ht hx).trans ((if_neg (Bool.eq_false_iff.1 hr)).trans (if_pos hp)))
    · exact next_congr ((hmapped ht hx).trans ((if_neg (Bool.eq_false_iff.1 hr)).trans (if_neg (Bool.eq_false_iff.1 hp))))
  · refine next_congr (if_pos ?_)
    rw [Bool.or_eq_true, hout]
    exact h
  · have hin : ¬(!s.fnExists t || o + bs.length > 2 ^ s.host.bar4Log || s.tdiError t) = true := by
      rw [Bool.or_eq_true, hout]
      exact not_or.2 ⟨h, Bool.eq_false_iff.1 ht⟩
    refine ⟨fun x hx => next_congr ((if_neg hin).trans ?_), fun hx => next_congr ((if_neg hin).trans ?_)⟩
    · rw [show s.mem.unmapped t (s.bar4Tva t o) bs.length = some x from hx]
      rfl
    · rw [show s.mem.unmapped t (s.bar4Tva t o) bs.length = none from hx]

/-- Settles O42: the tiers by their unit's state, the host's window by what is mapped there. -/
theorem memoryTiersAndHostWindow : Obligations.MemoryTiersAndHostWindow := ⟨migrationScrubAndRestoration, repairAndRetirement, hostWindow⟩
end

section
/-! PROOFS. The generation commands, their steps, and what they put out. -/

namespace Sys2Proof.Machine

/-- The request of a GEN_SUBMIT without a prefix hit, as it joins the table (07 R197). -/
def GenReq.ofSubmit (s : State) (k : Cmd) (x : Model) (v : Nat) (bs : List Byte) (home : List Nat) (q : Nat) : GenReq :=
  { GenReq.new k.tenant (k.u 0 8) false (k.u 8 4) v (tokensOf bs) (k.u 0x20 8) home ((s.freeDie (home.headD 0)).getD 0) q s.gen.nextOrder s.time with
    selector := k.verSel, flags := k.u 0xC 4, maxNew := k.u 0x1C 4, seed := BitVec.ofNat 64 (k.u 0x28 8), stream := k.u 0x30 4
    temperature := BitVec.ofNat 32 (k.u 0x34 4), topK := k.u 0x38 2, specK := min (k.u 0x3A 2) (s.cfg k.tenant 0x0306)
    topP := BitVec.ofNat 32 (k.u 0x3C 4), draftModel := k.u 0x40 4, stops := k.stops, pages := prefixPages x [] 0 }

/-- REQ_STARVED of a request (07 R220). -/
theorem execReqStarved_of_request {s : State} {t : Fin 512} {g : Nat} {r : GenReq} (hr : s.reqAt t g = some r) :
    exec (.reqStarved t (some g)) s = .next (
      if (r.state == .queued || r.state == .shipping) && !r.starved && s.time > r.since + s.cfg t 0x0304 * ms then
        (s.modReq t g fun x => { x with starved := true }).reqEvent r 0x0302 (if r.state == .queued then 1 else 2) ((s.time - r.since) / ms)
      else s) := by
  refine next_congr ?_
  dsimp only
  rw [hr]

theorem State.applyOutput_eq (s : State) (u : OutputUpdate) :
    s.applyOutput u = (if u.records = [] then s else s.writeCommittedAll u.tenant (u.outTva + 64 + 16 * u.first)
      (u.records.flatMap recBytes)).writeCommittedAll u.tenant u.outTva u.header := by
  simp only [State.applyOutput, List.isEmpty_iff]

/-- PAGE_SHIP first takes a page of its own off the list of those on their way. -/
theorem ship_taken (s : State) (h : PageHeader) :
    (if (h.src == s.dom.rank && s.gen.ships.contains h) = true then s.setGen { s.gen with ships := s.gen.ships.filter (· != h) } else s)
      = if h.src = s.dom.rank ∧ h ∈ s.gen.ships then s.setGen { s.gen with ships := s.gen.ships.filter (· != h) } else s := by
  simp only [Bool.and_eq_true, beq_iff_eq, List.contains_iff_mem]

theorem reqStarved_of_queued {s : State} {t : Fin 512} {g : Nat} {r : GenReq} (hr : s.reqAt t g = some r) (hq : r.state = .queued) :
    let late := r.since + s.cfg t 0x0304 * ms < s.time ∧ r.starved = false
    (late → exec (.reqStarved t (some g)) s
      = .next ((s.modReq t g fun x => { x with starved := true }).reqEvent r 0x0302 1 ((s.time - r.since) / ms)))
    ∧ (¬late → exec (.reqStarved t (some g)) s = .next s) := by
  intro late
  rw [execReqStarved_of_request hr, hq]
  refine ⟨fun hl => congrArg _ (if_pos ?_), fun hl => congrArg _ (if_neg fun hc => hl ?_)⟩
  · rw [hl.2, decide_eq_true hl.1]
    rfl
  · simpa [late, and_comm] using hc

/-- POOL_STARVED of a pool whose steps have run (07 R220). -/
theorem poolStarved_of_pool (s : State) (t : Fin 512) (pool : Fin 2) :
    let ranks := if pool = 0 then (s.tp t).pools.prefillPool else (s.tp t).pools.decodePool
    let mine := s.gen.runs.filter fun p => p.tenant == t.val && ranks.contains p.rank
    let waits := s.gen.reqs.filter fun r => r.tenant == t.val && (r.state == .queued || r.state == .shipping)
    let last := max (mine.foldl (fun a p => max a p.lastAt) 0) ((waits.map (·.since)).min?.getD 0)
    (ranks = [] ∨ waits = [] ∨ s.time ≤ last + s.cfg t 0x0304 * ms → exec (.poolStarved t pool) s = .next s)
    ∧ (ranks ≠ [] → waits ≠ [] → last + s.cfg t 0x0304 * ms < s.time → mine ≠ [] → (mine.any (·.starved)) = false →
      exec (.poolStarved t pool) s = .next ((s.setGen { s.gen with runs := s.gen.runs.map fun p =>
        if (p.tenant == t.val && ranks.contains p.rank) = true then { p with starved := true } else p }).reqEvent
        (GenReq.new t 0 false 0 0 [] 0 [ranks.headD 0] 0 0 0 0) 0x0304 4 ((s.time - last) / ms))) := by
  intro ranks mine waits last
  have hexec : exec (.poolStarved t pool) s = .next (
      if ranks.isEmpty || waits.isEmpty || mine.any (·.starved) || s.time ≤ last + s.cfg t 0x0304 * ms then s
      else (if mine.isEmpty then s.setGen { s.gen with runs := s.gen.runs ++ [⟨t, ranks.headD 0, 0, 0, true⟩] }
          else s.setGen { s.gen with runs := s.gen.runs.map fun p =>
            if (p.tenant == t.val && ranks.contains p.rank) = true then { p with starved := true } else p }).reqEvent
        (GenReq.new t 0 false 0 0 [] 0 [ranks.headD 0] 0 0 0 0) 0x0304 4 ((s.time - last) / ms)) := rfl
  rw [hexec]
  refine ⟨fun h => congrArg _ (if_pos ?_), fun h1 h2 h3 h4 h5 => congrArg _ ((if_neg ?_).trans ?_)⟩
  · rcases h with h | h | h <;> simp [h]
  · rw [h5, decide_eq_false (Nat.not_le.2 h3), List.isEmpty_eq_false_iff.2 h1, List.isEmpty_eq_false_iff.2 h2]
    exact Bool.false_ne_true
  · rw [List.isEmpty_eq_false_iff.2 h4]
    rfl

end Sys2Proof.Machine

open Sys2Proof Sys2Proof.Machine Sys2Proof.Claims

/-- Settles O46: GEN_SUBMIT by its checks in order, the others by the requests that they name. -/
theorem generationCommands : Obligations.GenerationCommands := by
  intro c k s s0
  dsimp only
  refine ⟨fun h => ⟨fun hp => ?_, fun hp hw => ⟨fun hm => ?_, fun x v hm hd hv => ⟨fun hb => ?_, fun hb => ⟨fun ho => ?_, fun ho hl => ?_,
      fun ho hl hu hu' bs hbs => ⟨fun hh => ?_, fun home hh => ⟨fun hq => ?_, fun q hq hf => ?_⟩⟩⟩⟩⟩⟩,
    fun h => ⟨fun hr => ?_, fun r hr => ⟨fun hc => ?_, fun hc hs hg hg' => ?_, fun hc hs => ?_⟩⟩,
    fun h hj => ⟨fun hp => ?_, fun hp hg hs => ?_, fun hc => ?_, fun hp hg => ⟨fun hm => ?_, fun hm => ?_⟩, fun hp hs => ?_⟩,
    fun h => ⟨fun hp => ?_, fun m v x bs home hp hw hm hx hr h1 h2 h3 h4 h5 h6 hu hu' hbs hh => ⟨fun hq => ?_, fun hq => ?_⟩⟩,
    fun h s' ho => ?_⟩
  · exact next_congr (runCommand_refuses h (if_pos (by rw [Bool.or_eq_true, bne_iff_ne]; exact Or.inl hp)))
  · exact next_congr (runCommand_refuses h (by simp [genSubmitBody, hp, hw, hm]))
  · exact next_congr (runCommand_refuses h (by simp [genSubmitBody, hp, hw, hm, hd, hv, hb]))
  · exact next_congr (runCommand_refuses h (by simp [genSubmitBody, hp, hw, hm, hd, hv, hb, ho]))
  · exact next_congr (runCommand_refuses h (by simp [genSubmitBody, hp, hw, hm, hd, hv, hb, ho, hl]))
  · exact next_congr (runCommand_refuses h (by simp [genSubmitBody, hp, hw, hm, hd, hv, hb, ho, Nat.not_lt.2 hl, hu, hu', hbs, hh]))
  · exact next_congr (runCommand_waits h (by simp [genSubmitBody, hp, hw, hm, hd, hv, hb, ho, Nat.not_lt.2 hl, hu, hu', hbs, hh, hq]))
  · refine ⟨GenReq.ofSubmit s0 k x v bs home q, rfl, rfl, rfl, fun s' hs => next_congr (runCommand_votes h ?_)⟩
    simp only [genSubmitBody, hp, hw, hm, hv, hb, ho, gt_iff_lt, Nat.not_lt.2 hl, hu, hu', hbs, hh, hq, hf, bne_self_eq_false, beq_false_of_ne hd,
      Option.isSome_none, Bool.not_true, Bool.or_false, Bool.false_and, Bool.false_eq_true, ↓reduceIte, List.map_nil]
    generalize hw : State.output _ k _ _ = w
    obtain rfl : w = .ok s' := hw.symm.trans hs
    rfl
  · exact next_congr (runCommand_refuses h (by rw [genCancelBody, hr]))
  · exact next_congr (runCommand_waits h (by simp [genCancelBody, hr, hc]))
  · exact next_congr (runCommand_waits h (by simp [genCancelBody, hr, hc, hs, hg']))
  · exact next_congr (runCommand_waits h (by simp [genCancelBody, hr, hc, hs]))
  · exact next_congr (runCommand_refuses h (by simp [genPhaseBody, hj, hp]))
  · refine next_congr (runCommand_refuses h ?_)
    simp only [genPhaseBody, hj, Nat.not_lt.2 hp, Bool.false_eq_true, ↓reduceIte]
  · refine next_congr (runCommand_votes h ?_)
    rcases hc with ⟨hp, hg⟩ | ⟨hp, hg⟩ <;> simp [genPhaseBody, hj, hp, hg]
  · exact next_congr (runCommand_waits h (by simp [genPhaseBody, hj, hp, hg, hm]))
  · exact next_congr (runCommand_refuses h (by simp [genPhaseBody, hj, hp, hg, hm]))
  · exact next_congr (runCommand_waits h (by simp [genPhaseBody, hj, hp, hs]))
  · exact next_congr (runCommand_refuses h (if_pos (by rw [Bool.or_eq_true, bne_iff_ne]; exact Or.inl hp)))
  · refine next_congr (runCommand_waits h ?_)
    simp [genScoreBody, hp, hw, hm, hx, hr, Nat.pos_iff_ne_zero.1 h1, Nat.not_lt.2 h2, h3, h4, Nat.div_eq_of_lt h5, Nat.div_eq_of_lt h6, hu, hu', hbs, hh, hq,
      -List.headD_eq_head?_getD, -Nat.reducePow]
  · refine next_congr (runCommand_votes h ?_)
    simp [genScoreBody, hp, hw, hm, hx, hr, Nat.pos_iff_ne_zero.1 h1, Nat.not_lt.2 h2, h3, h4, Nat.div_eq_of_lt h5, Nat.div_eq_of_lt h6, hu, hu', hbs, hh, hq,
      -List.headD_eq_head?_getD, -Nat.reducePow]
  · exact next_congr (runCommand_votes h (by rw [genStatsBody, ho]))

/-- Settles O47: a step by its phase, a boundary by what is due at it. -/
theorem generationSteps : Obligations.GenerationSteps := by
  intro s t
  refine ⟨fun tag h => next_congr (by rw [h]), fun tag r hr => ?_, fun h => next_congr (by rw [h]), fun j hj => ⟨fun hb => ?_, fun hb => ?_⟩,
    fun rank cache rs => ?_⟩
  · intro final
    refine ⟨fun h => next_congr ?_, fun h ht => next_congr ?_, fun h ht => next_congr ?_⟩ <;> rw [hr]
    · simp only [h, Bool.true_or, ↓reduceIte]
      rfl
    · simp only [h, ht, Bool.or_true, Bool.false_eq_true, ↓reduceIte]
      rfl
    · simp only [h, ht, Bool.or_false, Bool.false_eq_true, ↓reduceIte]
  · refine next_congr ?_
    rw [hj]
    exact if_pos hb
  · intro s1
    refine ⟨fun x hs hx hok => next_congr ?_, fun hs hx => next_congr ?_, fun hs => next_congr ?_⟩ <;> rw [hj] <;>
      refine (if_neg (Bool.eq_false_iff.1 hb)).trans ?_
    · refine (if_pos hs).trans ?_
      rw [show (s1.modelAt t j.model).filter rewardOk = some x by rw [hx, Option.filter_some, if_pos hok]]
    · refine (if_pos hs).trans ?_
      rw [show (s1.modelAt t j.model).filter rewardOk = none by rw [hx]; rfl]
    · exact if_neg (Bool.eq_false_iff.1 hs)
  · intro stalled
    refine ⟨fun g hg => ⟨fun h => next_congr ?_, fun h => next_congr ?_⟩, fun g hg hp => next_congr ?_, fun g hg hp => ?_⟩
    · rw [hg]
      exact if_pos h
    · rw [hg]
      exact if_neg (Bool.eq_false_iff.1 h)
    · rw [hg]
      refine (if_neg (mt beq_iff_eq.1 hp)).trans ?_
      simp only [Bool.and_eq_true, beq_iff_eq, and_assoc]
    · intro chunks s1 s2
      refine ⟨next_congr ?_, next_congr ?_⟩ <;> rw [hg]
      · exact if_pos (beq_iff_eq.2 hp)
      · refine (if_neg ?_).trans ?_
        · simp [hp]
        · rfl

/-- Settles O49: output by who writes it, a landed item by who waits for it. -/
theorem outputShippingStarvation : Obligations.OutputShippingStarvation := by
  intro s
  refine ⟨fun h u => next_congr (if_pos (bne_iff_ne.2 h)), fun h => ?_, fun h bs ps place => ?_, fun t tag => ⟨fun hr => ?_, fun r hr hq => ?_,
    fun r hr h1 h2 => ?_⟩, fun t pool => ?_⟩
  · have hgo : ¬(s.dom.rank != s.dom.anchor) = true := by simpa using h
    refine ⟨fun u => next_congr ((if_neg hgo).trans (s.applyOutput_eq u)), fun u us hu => next_congr ((if_neg hgo).trans ?_),
      fun hu => next_congr ((if_neg hgo).trans ?_)⟩
    · rw [hu]
      exact State.applyOutput_eq _ u
    · rw [hu]
  · intro s1
    refine ⟨fun hk hr => next_congr ?_, fun h0 h3 hd hs n s2 p hp hpage => next_congr ?_, fun hs hin hk n hn => next_congr ?_⟩
    · simp only [ship_taken]
      generalize hx : (if h.src = s.dom.rank ∧ h ∈ s.gen.ships then _ else s) = x
      rw [show s1 = x from hx] at hr ⊢
      rw [if_pos (by simpa using hk), if_pos hr]
    · have hmine : (h.src == s.dom.rank && s.gen.ships.contains h) = false := by rw [beq_false_of_ne hs, Bool.false_and]
      have hkind : ¬(h.kind == 0 || h.kind == 3) = true := by simp [h0, h3]
      -- the lookup as an opaque function: the kernel would else compute the page's address
      obtain ⟨page, hlookup⟩ : ∃ page : State → Nat → Option Page,
          ∀ s n, s.mem.page h.tenant (s.arenaBase h.tenant h.model + entryBytes * n) = page s n := ⟨_, fun _ _ => rfl⟩
      rw [hlookup] at hpage
      simp only [hlookup]
      rw [hmine, if_neg Bool.false_ne_true, if_neg hkind, if_pos (by simp [hd]), hp]
      dsimp only
      rw [hpage]
    · have hmine : (h.src == s.dom.rank && s.gen.ships.contains h) = true := by simpa using And.intro hs hin
      simp only [ship_taken]
      generalize hx : (if h.src = s.dom.rank ∧ h ∈ s.gen.ships then _ else s) = x
      rw [show s1 = x from hx] at hn ⊢
      simp only [hmine, hk, hn, Bool.not_true, Bool.and_false, Nat.reduceBEq, Bool.or_self, Bool.false_eq_true, Bool.and_self, ↓reduceIte]
  · refine next_congr ?_
    dsimp only
    rw [hr]
  · exact reqStarved_of_queued hr hq
  · rw [execReqStarved_of_request hr]
    exact congrArg _ (if_neg (by simp [h1, h2]))
  · exact poolStarved_of_pool s t pool
end

section
/-! PROOFS. The learning commands and the start of a learning step. -/

namespace Sys2Proof.Machine

open Sys2Proof.Claims

/-- A gradient step runs no generation image. -/
theorem Cmd.gradient_not_generation {k : Cmd} (h : k.gradient = true) : bit k.learnFlags 3 = false := by
  unfold Cmd.gradient at h
  simpa using (Bool.and_eq_true_iff.1 h).2

theorem State.stepRefusal_of_idle {s : State} {k : Cmd} {l : Learn} (hp : l.phase = .idle) (hb : bit k.learnFlags 0 = false) :
    s.stepRefusal k l = some stStepNotOpen := by
  simp [State.stepRefusal, hp, hb]
theorem State.stepRefusal_of_closed {s : State} {k : Cmd} {l : Learn} (hp : l.phase = .closed) (hb : bit k.learnFlags 0 = true) :
    s.stepRefusal k l = some stStepClosed := by
  simp [State.stepRefusal, hp, hb]

end Sys2Proof.Machine

open Sys2Proof Sys2Proof.Machine Sys2Proof.Claims

theorem learningCommands : LearningCommands := by
  refine ⟨fun c k s s0 => ?_, fun c t mid u s => rfl, fun c k s s0 h => ?_⟩
  · dsimp only
    refine ⟨fun h => ⟨fun st hg => ?_, fun m l hg => ⟨fun hp => ?_, fun h1 h2 => ⟨fun hh => ?_, fun gm hh hgm => ⟨fun o ho => ?_, fun ps hps =>
      ⟨fun hok => ?_, fun hok => ?_⟩⟩⟩⟩⟩, fun h m l hg hj => ?_⟩
    · exact next_congr (runCommand_refuses h (by rw [learnSetupBody, hg]))
    · refine next_congr (runCommand_waits h ?_)
      rcases hp with hp | hp <;> simp [learnSetupBody, hg, hp]
    · exact next_congr (runCommand_refuses h (by simp [learnSetupBody, hg, h1, h2, hh]))
    · exact next_congr (runCommand_refuses h (by simp [learnSetupBody, hg, h1, h2, hh, ho, hgm]))
    · exact next_congr (runCommand_votes h (by simp [learnSetupBody, hg, h1, h2, hh, hps, hgm, hok]))
    · exact next_congr (runCommand_refuses h (by simp [learnSetupBody, hg, h1, h2, hh, hps, hgm, hok]))
    · have hnew : l.update.any (·.cmd == k.ref) = false := by
        cases hu : l.update with
        | none => rfl
        | some j => exact beq_false_of_ne (hj j hu)
      refine ⟨fun hc => ?_, fun hc hf => ⟨fun hp => ?_, fun hp hr ht => ?_, fun hp => ⟨fun hv => ?_, fun hv hu => ?_⟩⟩⟩
      · refine next_congr (runCommand_refuses h ?_)
        cases hset : l.setup with
        | none => simp [learnUpdateBody, hg, hnew, hset]
        | some u =>
          simp only [learnUpdateBody, hg, hnew, hset, Bool.false_eq_true, Option.isNone_some, ↓reduceIte]
          refine if_pos (Classical.byContradiction fun hok => hc ?_)
          simpa [hset] using hok
      all_goals
        obtain ⟨hclip, halign, hset⟩ := hc
        obtain ⟨u, hset⟩ := Option.isSome_iff_exists.1 hset
      · exact next_congr (runCommand_refuses h (by simp [learnUpdateBody, hg, hnew, hclip, halign, hset, hf, hp]))
      · have hcopied : ¬∃ x ∈ l.takeovers, x.copied = false := by simpa using ht
        exact next_congr (runCommand_refuses h (by simp [learnUpdateBody, hg, hnew, hclip, halign, hset, hf, hp, hr, hcopied]))
      · exact next_congr (runCommand_refuses h (by simp [learnUpdateBody, hg, hnew, hclip, halign, hset, hf, hp, hv]))
      · refine next_congr (runCommand_waits h ?_)
        simp [learnUpdateBody, hg, hnew, hclip, halign, hset, hf, hp, hv, hu]
  · dsimp only
    refine ⟨fun st hg => ?_, fun m l hg => ?_⟩
    · exact next_congr (startCommand_refuses h (by rw [learnStepBody, hg]))
    · have hranges : (k.u 0x10 4 == 0 || k.u 0x20 2 > 256 || k.u 0x22 2 > 3904) = false
          ↔ k.u 0x10 4 ≠ 0 ∧ k.u 0x20 2 ≤ 256 ∧ k.u 0x22 2 ≤ 3904 := by
        simp [and_assoc]
      refine ⟨fun hr => ?_, fun hr hw => ?_, fun hr hw hgr => ?_, fun hr hw hgr hb s' hs => ?_⟩
      · refine next_congr (startCommand_refuses h ?_)
        simp only [learnStepBody, hg]
        exact if_pos (Bool.not_eq_false _ ▸ mt hranges.1 hr)
      · exact next_congr (startCommand_waits h (by simp only [learnStepBody, hg, hranges.2 hr, hw, Bool.false_eq_true, ↓reduceIte]))
      · have hbit := Cmd.gradient_not_generation hgr
        have hbody : learnStepBody s0 k = match s0.stepRefusal k l with
            | some st => .fail st 0
            | none => s0.runStep k m l := by
          simp only [learnStepBody, hg, hranges.2 hr, hw, hbit, hgr, Bool.false_and, Bool.false_eq_true, ↓reduceIte] <;> rfl
        refine ⟨fun hp hb => ?_, fun hp hb => ?_, fun hn s' hs => ?_⟩
        · exact next_congr (startCommand_refuses h (hbody.trans (by rw [State.stepRefusal_of_idle hp hb])))
        · exact next_congr (startCommand_refuses h (hbody.trans (by rw [State.stepRefusal_of_closed hp hb])))
        · exact next_congr (startCommand_waits h (hbody.trans (by rw [hn]; exact hs)))
      · refine next_congr (startCommand_waits h ?_)
        simpa only [learnStepBody, hg, hranges.2 hr, hw, hb, hgr, Bool.false_and, Bool.false_eq_true, ↓reduceIte] using hs

theorem learningStepRuns : LearningStepRuns := by
  refine ⟨fun s k m l img hg h0 => ?_, fun s c p m l hm hl hp hb => ?_⟩
  · have hbit := Cmd.gradient_not_generation hg
    dsimp only
    refine ⟨fun h => ?_, fun ht hmem hok himg hp hph hdecl => ?_⟩
    · simp only [State.runStep, hbit, Bool.false_eq_true, ↓reduceIte]
      refine if_pos ?_
      rw [Bool.or_eq_true, Bool.or_eq_true, Bool.not_eq_true', List.isEmpty_iff, List.isEmpty_iff, or_assoc]
      exact h
    · have hopen : (l.phase == .idle) = false := beq_false_of_ne hph
      have hplan : (l.planned == 0) = false := beq_false_of_ne hp
      have hgo : ¬(((List.range 160).filter fun i => s.flt.tileMap.getLsbD i).isEmpty || l.members.isEmpty || !s.tilesOk k.ref
          (l.members.flatMap fun r => ((List.range 160).filter fun i => s.flt.tileMap.getLsbD i).map fun i => (r, i))) = true := by
        rw [hok, List.isEmpty_eq_false_iff.2 ht, List.isEmpty_eq_false_iff.2 hmem]
        exact Bool.false_ne_true
      simp only [State.runStep, hbit, h0, Bool.false_eq_true, ↓reduceIte]
      refine (if_neg hgo).trans ?_
      simp only [himg, hdecl, hopen, hplan, List.range_zero, List.any_nil, beq_self_eq_true, Bool.and_false, Bool.false_eq_true, ↓reduceIte]
  · refine next_congr ?_
    have hplan : (l.planned == 0) = false := beq_false_of_ne hp
    simp only [hm, hl, hb, hplan, Bool.false_eq_true, ↓reduceIte]

/-- Settles O50: each command by its checks in the order of R255. -/
theorem learningCommandsAndSteps : Obligations.LearningCommandsAndSteps := ⟨learningCommands, learningStepRuns⟩
end

section
/-! PROOFS. The update protocol, its sweep, and recovery. -/

namespace Sys2Proof.Machine

open Sys2Proof.Claims

/-- What a member knows of its model's learning. -/
theorem State.learnAt_of_model {s : State} {t mid : Nat} {m : Model} {l : Learn} (hm : s.modelAt t mid = some m) (hl : m.learn = some l) :
    s.learnAt t mid = some l := by
  rw [State.learnAt, show tget s.turn.models (t, mid) = some m from hm, Option.bind_some, hl]

@[simp] theorem Learn.addWork_kept (l : Learn) (xs : List (Nat × Nat × Nat × Nat)) : (l.addWork xs).kept = l.kept := by
  unfold Learn.addWork
  induction xs generalizing l with
  | nil => rfl
  | cons x xs ih =>
    obtain ⟨k, mg2, g2, nf⟩ := x
    rw [List.foldl_cons, ih]
    dsimp only
    split <;> rfl

end Sys2Proof.Machine

open Sys2Proof Sys2Proof.Machine Sys2Proof.Claims

theorem updateProtocol : UpdateProtocol := by
  intro s t mid m l hm hl
  have hlearn := State.learnAt_of_model hm hl
  refine ⟨fun v => ⟨fun h => next_congr ?_, fun hv h1 h2 => ⟨fun hp => next_congr ?_, fun hp hu => next_congr ?_⟩⟩, fun r j u hj hu => ⟨fun h => next_congr ?_,
    fun h1 h2 h3 => next_congr ?_⟩, fun r j hj => ⟨fun h => next_congr ?_, fun h1 h2 h3 => next_congr ?_⟩, fun j hj => ?_,
    fun g => ⟨fun h => next_congr ?_, fun h1 h2 h3 h4 => next_congr ?_⟩, fun hu => ⟨fun hg hs => next_congr ?_, fun hg hp => next_congr ?_,
    fun v h1 h2 => next_congr ?_⟩, fun hu v => next_congr ?_⟩
  · rw [hlearn]
    refine if_pos ?_
    rcases h with h | h | h
    · simp [Ne.symm h]
    · simp [h]
    · simp [h]
  · rw [hlearn]
    simp [hv, h1, h2, hp]
  · rw [hlearn]
    exact (if_neg (by simp [hv, h1, h2])).trans ((if_neg (by simp [hp])).trans (if_neg (by simp [hu])))
  · simp only [State.addReady, hm, hl, hj, hu]
    refine if_pos ?_
    rcases h with h | h | h <;> simp [h]
  · simp only [State.addReady, hm, hl, hj, hu]
    refine (if_neg ?_).trans rfl
    simp [h1, h2, h3]
  · simp only [State.addDone, hm, hl, hj]
    refine if_pos ?_
    rcases h with h | h | h <;> simp [h]
  · simp only [State.addDone, hm, hl, hj]
    refine (if_neg ?_).trans rfl
    simp [h1, h2, h3]
  · have hdue : (l.phase != .preparing || !(s.time ≥ j.tPrepare + s.turn.prepareMs * ms : Bool)
          || !(l.members.any fun r => s.dom.members.getLsbD r && !(j.readys.any (·.rank == r)))) = false
        ↔ l.phase = .preparing ∧ j.tPrepare + s.turn.prepareMs * ms ≤ s.time
          ∧ ∃ r ∈ l.members, s.dom.members.getLsbD r = true ∧ (j.readys.any (·.rank == r)) = false := by
      simp [-List.any_eq_false, and_assoc]
    intro due s1 s2
    refine ⟨fun h => next_congr ?_, fun h => next_congr ?_⟩ <;> simp only [hlearn, hj]
    · exact if_neg (Bool.eq_false_iff.1 (hdue.2 h))
    · exact if_pos (Bool.not_eq_false _ ▸ mt hdue.1 h)
  · rw [hlearn]
    refine if_pos ?_
    rcases h with h | h | h | h <;> simp [h]
  · rw [hlearn]
    refine if_neg ?_
    simp [h1, h2, h3, h4]
  · simp [hm, hl, hu, hg, hs]
  · simp [hm, hl, hu, hg, hp]
  · simp [hm, hl, hu, h1, h2]
  · simp [hm, hl, hu]

theorem sweepAndRecovery : SweepAndRecovery := by
  intro s t mid m l hm hl
  have hlearn := State.learnAt_of_model hm hl
  refine ⟨fun g p tensor block upto hg hp => ?_, fun hg => ⟨fun k b u => next_congr ?_, fun xs => next_congr ?_⟩, fun g xs hg => ?_,
    fun bs => ⟨fun h => next_congr ?_, fun h => ⟨next_congr ?_, next_congr ?_⟩⟩, fun h hv => next_congr ?_, fun a b h1 h2 => next_congr ?_,
    fun x hx hp => next_congr ?_, fun h => next_congr ?_, fun h st ws xs => next_congr ?_, fun i k xs hi hk => ?_⟩
  · intro die may
    have hbind : (m.learn.bind fun l => l.go.map fun g => (l, g)) = some (l, g) := by rw [hl, Option.bind_some, hg, Option.map_some]
    have hmay : (l.stopped || l.swept || (l.undo.filter (·.die == die)).length ≥ 64 || s.nextBlock t m l g.setup die != some (tensor, block)
        || !s.blockReadable t m l.n tensor p (m.blockOf l.n tensor (groupOf g.setup tensor) block).2.2) = false ↔ may := by
      simp [may, and_assoc]
    refine ⟨fun h => next_congr ?_, fun h => ?_⟩
    · simp only [hm, hbind, hp]
      exact if_pos (Bool.not_eq_false _ ▸ mt hmay.1 h)
    · intro q
      refine ⟨fun hq => next_congr ?_, fun hq => next_congr ?_⟩ <;> simp only [hm, hbind, hp] <;>
        refine (if_neg (Bool.eq_false_iff.1 (hmay.2 h))).trans ?_
      · exact if_pos hq
      · exact if_neg (Bool.eq_false_iff.1 hq)
  · simp [hm, hl, hg]
  · simp [hm, hl, hg]
  · intro place readable
    have hbind : (m.learn.bind fun l => l.go.map fun g => (l, g)) = some (l, g) := by rw [hl, Option.bind_some, hg, Option.map_some]
    have hpoison : readable → ((l.sweepOrder m g.setup).filter fun (k, b) =>
        !s.blockReadable t m l.n k (place k) (m.blockOf l.n k (groupOf g.setup k) b).2.2) = [] := fun h => by
      rw [List.filter_eq_nil_iff]
      rintro ⟨k, b⟩ hx hno
      have := h (k, b) hx
      simp [this] at hno
    refine ⟨fun hs hread htag => next_congr ?_, fun hs hu hread => next_congr ?_⟩ <;> simp only [hm, hbind]
    · have htorn : (l.undo.filter fun x => l.tag x.tensor x.block == (l.version, l.version + 1)) = [] := by
        rw [List.filter_eq_nil_iff]
        exact fun x hx => mt beq_iff_eq.1 (htag x hx)
      rw [hpoison hread, htorn, hs]
      rfl
    · rw [hpoison hread, hu, hs]
      simp only [List.filter_nil, List.map_nil, List.append_nil, List.eraseDups_nil, List.any_nil, List.foldl_nil, List.length_nil, Nat.add_zero,
        Bool.not_true, Bool.false_and, Bool.false_eq_true, ↓reduceIte]
      rfl
  · simp [hlearn, h]
  · simp [hlearn, h]
  · simp [hlearn, h]
  · simp [hlearn, h, hv]
  · simp [hm, hl, h1, h2]
  · simp only [hm, hl, hx]
    exact if_neg (mt beq_iff_eq.1 hp)
  · simp only [hm, hl, h]
  · simp [hm, hl, h]
  · have hbind : (l.rerunAt.bind fun i => (l.kept[i]?).map fun k => (i, k)) = some (i, k) := by rw [hi, Option.bind_some, hk, Option.map_some]
    intro l1
    refine ⟨fun hlt => next_congr ?_, fun hge => next_congr ?_⟩ <;> simp only [hm, hl, hbind] <;>
      refine (if_neg (by simp)).trans ?_
    · exact if_pos (show i + 1 < (l.addWork xs).kept.length by rwa [Learn.addWork_kept])
    · exact if_neg (show ¬i + 1 < (l.addWork xs).kept.length by rw [Learn.addWork_kept]; exact Nat.not_lt.2 hge)

/-- Settles O51: the update protocol by the phase of the step, the sweep by the block that is next. -/
theorem updateSweepAndRecovery : Obligations.UpdateSweepAndRecovery := ⟨updateProtocol, sweepAndRecovery⟩
end

section
/-! PROOFS. Models, versions, FREEZE and THAW. -/

namespace Sys2Proof.Machine

open Sys2Proof.Claims

/-- A FREEZE that is not overlapped by an update runs as any command does. -/
theorem execFreeze_runs {c : CmdRef} {k : Cmd} {s s0 : State} (h : Acts 0x202 c k s s0) (ho : ∀ k', s.cmdAt c = some k' → s.overlapped k' = false) :
    exec (.freeze c none) s = .next (runCommand 0x202 c freezeBody s) := by
  obtain ⟨k', hk, _⟩ := h
  refine next_congr ?_
  dsimp only
  rw [hk]
  exact if_neg (by simp [ho k' hk])

section
variable {s : State} {k : Cmd} {m : Model} {v d : Nat}

theorem State.freezeVersion_mismatch (h : ¬(k.u 8 4 = 0 ∨ k.u 8 4 = v)) : s.freezeVersion k m v false = .fail stVersionMismatch 0 := by
  obtain ⟨h0, hv⟩ := not_or.1 h
  exact if_pos (by simp [h0, hv])
theorem State.freezeVersion_published (h : k.u 8 4 = 0 ∨ k.u 8 4 = v) (hp : m.published = some v) : s.freezeVersion k m v false = .ok s v 0 := by
  refine (if_neg ?_).trans (if_pos (beq_iff_eq.2 hp))
  rcases h with h | h <;> simp [h]
theorem State.freezeVersion_limit (h : k.u 8 4 = 0 ∨ k.u 8 4 = v) (hp : m.published ≠ some v) (hl : m.layout v = none)
    (hd : s.versionLimit k.tenant (k.u 0 4) m = some d) : s.freezeVersion k m v false = .fail stVersionLimit d := by
  refine (if_neg ?_).trans ((if_neg (mt beq_iff_eq.1 hp)).trans ?_)
  · rcases h with h | h <;> simp [h]
  · rw [if_neg (by simp [hl]), hd]
theorem State.freezeVersion_starts (h : k.u 8 4 = 0 ∨ k.u 8 4 = v) (hp : m.published ≠ some v)
    (hl : (m.layout v).isSome = true ∨ s.versionLimit k.tenant (k.u 0 4) m = none) :
    s.freezeVersion k m v false = s.startFreeze k.ref (s.planOf k.tenant (k.u 0 4) m v (bit (k.u 4 4) 0) false) := by
  have hroom : (if (m.layout v).isSome = true then none else s.versionLimit k.tenant (k.u 0 4) m) = none := by
    rcases hl with hl | hl
    · exact if_pos hl
    · rw [hl, ite_self]
  refine (if_neg ?_).trans ((if_neg (mt beq_iff_eq.1 hp)).trans ?_)
  · rcases h with h | h <;> simp [h]
  · rw [hroom]

end

end Sys2Proof.Machine

open Sys2Proof Sys2Proof.Machine Sys2Proof.Claims

theorem modelCommands : ModelCommands := by
  refine ⟨fun c k s s0 => ?_, fun c t p tbl xs s => ?_⟩
  · dsimp only
    refine ⟨fun h => ⟨fun hm => ?_, fun hm => ⟨fun hc => ?_, fun tbl pgs hc ht hp => ⟨fun st hr => ?_, fun hr => ⟨fun o hi => ?_, fun xs hi => ⟨fun s' ha => ?_,
        fun st ha => ?_⟩⟩⟩⟩⟩,
      fun h hl => ⟨fun hm => ?_, fun m hm => ?_⟩,
      fun h => ⟨fun hm => ?_, fun m hm => ⟨fun h0 => ⟨fun hv => ?_, fun hv hn => ?_, fun hv hn => ?_⟩, fun h1 => ⟨fun hv => ?_, fun hv => ?_⟩, fun h2 => ?_⟩⟩,
      fun h => ⟨fun hm => ?_, fun m s' hm ho => ?_⟩, fun h => ⟨fun hm => ?_, fun m hm => ⟨fun hb => ?_, fun hb => ?_⟩⟩⟩
    · exact next_congr (runCommand_refuses h (if_pos hm))
    · exact next_congr (runCommand_refuses h (by simp [modelCreateBody, hm, hc]))
    · exact next_congr (runCommand_refuses h (by simp [modelCreateBody, hm, hc, ht, hp, hr]))
    · exact next_congr (runCommand_refuses h (by simp only [modelCreateBody, hm, hc, ht, hp, hr, hi]; rfl))
    · exact next_congr (runCommand_votes h (by simp only [modelCreateBody, hm, hc, ht, hp, hr, hi, ha]; rfl))
    · exact next_congr (runCommand_refuses h (by simp only [modelCreateBody, hm, hc, ht, hp, hr, hi, ha]; rfl))
    · exact next_congr (runCommand_refuses h (by simp [modelLoadBody, hm, hl]))
    · have hvalid : (k.u 4 1 > 2 || (k.u 4 1 ≤ 1 && m.learn.isNone) || k.u 8 4 == 0 || k.u 8 4 == 0xFFFFFFFF || k.u 8 4 ≤ m.highest
          || !isHostTva (k.u 0x10 8)) = false
          ↔ k.u 4 1 ≤ 2 ∧ (k.u 4 1 ≤ 1 → m.learn.isSome = true) ∧ k.u 8 4 ≠ 0 ∧ k.u 8 4 ≠ 0xFFFFFFFF ∧ m.highest < k.u 8 4
            ∧ isHostTva (k.u 0x10 8) = true := by
        simp [and_assoc]
      have hopened : (k.u 4 1 ≤ 1 && m.learn.any (fun l => l.phase != .idle && l.phase != .lost)) = true
          ↔ k.u 4 1 ≤ 1 ∧ ∃ l, m.learn = some l ∧ l.phase ≠ .idle ∧ l.phase ≠ .lost := by
        simp [Option.any_eq_true]
      have hbody : ∀ {r}, (if (k.u 4 1 > 2 || (k.u 4 1 ≤ 1 && m.learn.isNone) || k.u 8 4 == 0 || k.u 8 4 == 0xFFFFFFFF || k.u 8 4 ≤ m.highest
          || !isHostTva (k.u 0x10 8)) = true then CmdRes.fail stIllegalOperand 0
        else if (k.u 4 1 ≤ 1 && m.learn.any (fun l => l.phase != .idle && l.phase != .lost)) = true then CmdRes.fail stStepNotIdle 0
        else match (if k.u 4 1 == 2 then s0.versionLimit k.tenant (k.u 0 4) m else none) with
          | some d => CmdRes.fail stVersionLimit d
          | none => CmdRes.wait ((s0.beginLoad k.ref (k.u 0 4) (k.u 4 1) (k.u 8 4)).modCmd k.ref fun x =>
            { x with tiles := (ranksOf (s0.beginLoad k.ref (k.u 0 4) (k.u 4 1) (k.u 8 4)).dom.members).map fun r => (r, 0) })) = r →
          modelLoadBody s0 k = r := fun hr => by
        rw [← hr]
        simp only [modelLoadBody, hl, hm, Bool.false_eq_true, ↓reduceIte] <;> rfl
      refine ⟨fun hv => ?_, fun hv ho => ?_, fun d hv ho ht hd => ?_, fun hv ho ht hd => ?_, fun hv ho ht => ?_⟩
      · exact next_congr (runCommand_refuses h (hbody (if_pos (Bool.not_eq_false _ ▸ mt hvalid.1 hv))))
      all_goals have hgo := Bool.eq_false_iff.1 (hvalid.2 hv)
      · exact next_congr (runCommand_refuses h (hbody ((if_neg hgo).trans (if_pos (hopened.2 ho)))))
      · refine next_congr (runCommand_refuses h (hbody ((if_neg hgo).trans ((if_neg (mt hopened.1 ho)).trans ?_))))
        rw [if_pos (beq_iff_eq.2 ht), hd]
      · refine next_congr (runCommand_waits h (hbody ((if_neg hgo).trans ((if_neg (mt hopened.1 ho)).trans ?_))))
        rw [if_pos (beq_iff_eq.2 ht), hd]
      · refine next_congr (runCommand_waits h (hbody ((if_neg hgo).trans ((if_neg (mt hopened.1 ho)).trans ?_))))
        rw [if_neg (mt beq_iff_eq.1 (by omega))]
    · exact next_congr (runCommand_refuses h (by simp [versionHoldBody, hm]))
    · exact next_congr (runCommand_refuses h (by simp [versionHoldBody, hm, h0, hv]))
    · exact next_congr (runCommand_refuses h (by simp [versionHoldBody, hm, h0, hv, hn]))
    · exact next_congr (runCommand_votes h (by simp [versionHoldBody, hm, h0, hv, Nat.not_le.2 hn]))
    · exact next_congr (runCommand_votes h (by simp only [versionHoldBody, hm, h1, hv, ↓reduceIte]))
    · exact next_congr (runCommand_refuses h (by simp only [versionHoldBody, hm, h1, hv, Bool.false_eq_true, ↓reduceIte]))
    · refine next_congr (runCommand_refuses h ?_)
      simp only [versionHoldBody, hm]
      split
      · omega
      · omega
      · rfl
    · exact next_congr (runCommand_refuses h (by rw [versionQueryBody, hm]))
    · exact next_congr (runCommand_votes h (by simp only [versionQueryBody, hm, ho]))
    · exact next_congr (runCommand_refuses h (by rw [modelDeleteBody, hm]))
    · exact next_congr (runCommand_refuses h (by simp only [modelDeleteBody, hm, hb, ↓reduceIte]))
    · exact next_congr (runCommand_votes h (by simp only [modelDeleteBody, hm, hb, Bool.false_eq_true, ↓reduceIte]))
  · dsimp only
    refine ⟨fun h => next_congr (if_pos ?_), fun hm hr => ⟨fun s' ha => next_congr ?_, fun st ha => next_congr ?_⟩⟩
    · rwa [Bool.or_eq_true]
    · refine (if_neg ?_).trans ?_
      · rw [hr]
        simp [hm]
      · rw [ha]
    · refine (if_neg ?_).trans ?_
      · rw [hr]
        simp [hm]
      · rw [ha]

theorem turnCommands : TurnCommands := by
  refine ⟨fun c k s s0 => ?_, fun c home p s => ⟨fun h => next_congr (if_pos ?_), fun h hh => ⟨fun s' hb => next_congr ?_, fun st hb => next_congr ?_⟩⟩⟩
  · dsimp only
    refine ⟨fun h ho hj => ?_, fun h hj => ?_⟩
    · rw [execFreeze_runs h ho]
      have hfirst : (s0.turn.freezes.any fun j => j.cmd == k.ref && j.since != 0) = false := by
        rw [List.any_eq_false]
        exact fun j hm => by simp [(hj j hm).1]
      have hother : (s0.turn.freezes.any fun j => j.plan.tenant == k.tenant && j.plan.model == k.u 0 4 && j.cmd != k.ref) = false := by
        rw [List.any_eq_false]
        intro j hm
        rcases (hj j hm).2 with h | h <;> simp [h]
      refine ⟨fun hp => ?_, fun h1 h2 => ⟨fun hm => ?_, fun m hm hl => ?_, fun m l hm hl => ?_⟩⟩
      · refine next_congr (runCommand_waits h ?_)
        rcases hp with hp | hp <;> simp [freezeBody, hfirst, hp]
      · exact next_congr (runCommand_refuses h (by simp [freezeBody, hfirst, hother, h1, h2, hm]))
      · have hbody : freezeBody s0 k = match ((m.layouts.filter (!·.staging)).map (·.version)).max? with
            | none => .fail stModelUnknown 0
            | some v => s0.freezeVersion k m v false := by
          simp [freezeBody, hfirst, hother, h1, h2, hm, hl] <;> rfl
        refine ⟨fun hv => ?_, fun v hv hn0 hn => ?_, fun v hv hn hp => ?_⟩
        · exact next_congr (runCommand_refuses h (hbody.trans (by rw [hv])))
        · exact next_congr (runCommand_refuses h (hbody.trans (by rw [hv]; exact State.freezeVersion_mismatch (not_or.2 ⟨hn0, hn⟩))))
        · exact next_congr (runCommand_votes h (hbody.trans (by rw [hv]; exact State.freezeVersion_published hn hp)))
      · refine ⟨fun hp => ?_, fun hp hs => ?_, fun hs hp => ?_, fun hs h3 h4 h5 => ?_⟩
        · exact next_congr (runCommand_refuses h (by simp [freezeBody, hfirst, hother, h1, h2, hm, hl, hp]))
        · exact next_congr (runCommand_refuses h (by simp [freezeBody, hfirst, hother, h1, h2, hm, hl, hp, hs]))
        · refine next_congr (runCommand_waits h ?_)
          rcases hp with hp | hp <;> simp [freezeBody, hfirst, hother, h1, h2, hm, hl, hp, hs]
        · have hbody : freezeBody s0 k = s0.freezeVersion k m l.version false := by
            simp [freezeBody, hfirst, hother, h1, h2, hm, hl, hs, h3, h4, h5]
          refine ⟨fun hn => ?_, fun hn hp => ?_, fun d hn hp hlay hd => ?_, fun hn hp hroom => ⟨fun st hst => ?_, fun s' hs' => ?_⟩⟩
          · exact next_congr (runCommand_refuses h (hbody.trans (State.freezeVersion_mismatch hn)))
          · exact next_congr (runCommand_votes h (hbody.trans (State.freezeVersion_published hn hp)))
          · exact next_congr (runCommand_refuses h (hbody.trans (State.freezeVersion_limit hn hp hlay hd)))
          · exact next_congr (runCommand_refuses h (hbody.trans ((State.freezeVersion_starts hn hp hroom).trans hst)))
          · exact next_congr (runCommand_waits h (hbody.trans ((State.freezeVersion_starts hn hp hroom).trans hs')))
    · have hnew : s0.turn.thaws.any (·.cmd == k.ref) = false := by
        rw [List.any_eq_false]
        exact fun j hm => by simp [hj j hm]
      refine ⟨fun hp => ?_, fun hp => ?_, fun hp => ?_⟩
      · exact next_congr (runCommand_votes h (by simp [thawBody, hnew, hp]))
      · refine next_congr (runCommand_waits h ?_)
        rcases hp with hp | hp <;> simp [thawBody, hnew, hp]
      · refine next_congr (runCommand_waits h ?_)
        rcases hp with hp | hp <;> simp [thawBody, hnew, hp] <;> rfl
  · simpa using h
  all_goals
    have hgo : ¬(s.turn.freezes.any (·.cmd == c) || home == s.dom.rank) = true := by simpa [hh] using h
  · exact (if_neg hgo).trans (by rw [hb])
  · exact (if_neg hgo).trans (by rw [hb])

/-- Settles O52: each command by its checks in order, a turn by the state of the model. -/
theorem modelAndTurnCommands : Obligations.ModelAndTurnCommands := ⟨modelCommands, turnCommands⟩
end

section
/-! PROOFS. The events of a Freeze and of a Thaw. -/

namespace Sys2Proof.Machine

open Sys2Proof.Claims

/-- A tenant's requests have ended: THAW_DONE finds none that is live, that scores, or that waits to be finalised (10 R309). -/
theorem thaw_ended_iff (rs : List GenReq) (t : Nat) :
    ((rs.any fun r => r.tenant == t && !r.state.terminal && r.state != .parked && r.state != .queued) || (rs.any fun r => r.tenant == t && r.score)
      || (rs.any fun r => r.tenant == t && r.state.terminal)) = false
    ↔ ∀ r ∈ rs, r.tenant = t → r.score = false ∧ (r.state = .parked ∨ r.state = .queued) := by
  simp only [Bool.or_eq_false_iff, List.any_eq_false, ← forall_and]
  refine forall_congr' fun r => ?_
  by_cases h : r.tenant = t <;> cases r.state <;> simp [h, ReqState.terminal]

end Sys2Proof.Machine

open Sys2Proof Sys2Proof.Machine Sys2Proof.Claims

/-- Settles O53: each event by the Freeze or the Thaw that it finds. -/
theorem turnEvents : Obligations.TurnEvents := by
  intro s t mid
  refine ⟨fun hf => ⟨fun k src u w d => next_congr ?_, fun r => next_congr ?_, fun v => next_congr ?_⟩, fun j hf => ⟨fun m l k u w hm hl => ?_, fun r => ⟨fun hh hr => next_congr ?_,
    fun h => next_congr ?_⟩, fun v hv => next_congr ?_, fun hh => next_congr ?_, fun hh => ⟨fun hp => next_congr ?_, fun hp => next_congr ?_⟩⟩,
    fun hf => next_congr ?_, fun j hf hd => ?_, fun o hf => next_congr ?_, fun o d hf => ⟨fun ht => next_congr ?_, fun ho ht => ?_⟩,
    fun v m l hm hl => ⟨fun h => next_congr ?_, fun h hr => next_congr ?_⟩, fun v hm => next_congr ?_⟩
  · simp only [hf]
  · simp only [hf]
  · simp only [hf]
  · have hin : ∀ src, (!l.members.contains src) = false ↔ src ∈ l.members := fun src => by simp
    refine ⟨fun src bs i hs hp hu => next_congr ?_, fun src bs hs hp => next_congr ?_, fun src d hs => next_congr ?_, fun x p hr hsrc hx hpl hth => ?_⟩
    · simp only [hf, hm, hl, (hin src).2 hs, hp, hu, Bool.false_eq_true, ↓reduceIte]
    · simp only [hf, hm, hl, (hin src).2 hs, hp, Bool.false_eq_true, ↓reduceIte]
    · simp only [hf, hm, hl]
      exact if_pos (by simpa using hs)
    · intro rows bad held
      have hgo : ¬(s.dom.rank != s.dom.rank || !sourceReady m l j k) = true := by simp [hsrc]
      refine ⟨fun hh => next_congr ?_, fun hh hb => next_congr ?_, fun hh hb => ?_⟩
      · simp only [hf, hm, hl, (hin _).2 hr, hx, hpl, Option.any_some, Option.elim_some, Bool.false_eq_true, ↓reduceIte, if_neg hgo]
        exact if_pos (by rw [show (List.any _ _) = true from hh]; rfl)
      · simp only [hf, hm, hl, (hin _).2 hr, hx, hpl, Option.any_some, Option.elim_some, Bool.false_eq_true, ↓reduceIte, if_neg hgo, hth]
        exact (if_neg (by rw [show (List.any _ _) = false from hh]; exact Bool.false_ne_true)).trans (if_pos hb)
      · intro s1
        refine ⟨fun hp => next_congr ?_, fun i hp => ⟨fun hu => next_congr ?_, fun hu => next_congr ?_⟩⟩ <;>
          simp only [hf, hm, hl, (hin _).2 hr, hx, hpl, Option.any_some, Option.elim_some, Bool.false_eq_true, ↓reduceIte, if_neg hgo, hth, hp] <;>
          refine (if_neg (by rw [show (List.any _ _) = false from hh]; exact Bool.false_ne_true)).trans ((if_neg (Bool.eq_false_iff.1 hb)).trans ?_)
        · rfl
        · exact if_pos hu
        · exact if_neg (Bool.eq_false_iff.1 hu)
  · rw [hf]
    exact if_pos (Bool.and_eq_true_iff.2 ⟨beq_iff_eq.2 hh, hr⟩)
  · rw [hf]
    refine if_neg ?_
    rintro hc
    obtain ⟨hhome, hr⟩ := Bool.and_eq_true_iff.1 hc
    rcases h with h | h
    · exact h (beq_iff_eq.1 hhome)
    · exact Bool.false_ne_true (h.symm.trans hr)
  · rw [hf]
    exact if_pos (bne_iff_ne.2 (Ne.symm hv))
  · rw [hf]
    exact (if_neg (by simp)).trans (if_pos (bne_iff_ne.2 hh))
  · rw [hf]
    exact (if_neg (by simp)).trans ((if_neg (by simp [hh])).trans (if_pos (by rw [hp]; rfl)))
  · rw [hf]
    exact (if_neg (by simp)).trans ((if_neg (by simp [hh])).trans (if_neg (by rw [hp]; exact Bool.false_ne_true)))
  · rw [hf]
  · intro s1 ended
    have hended := thaw_ended_iff s.gen.reqs t
    refine ⟨fun h => next_congr ?_, fun h => next_congr ?_⟩ <;> simp only [hf, hd, Bool.not_false, ↓reduceIte]
    · exact if_neg (Bool.eq_false_iff.1 (hended.2 h))
    · exact if_pos (Bool.not_eq_false _ ▸ mt hended.1 h)
  · rw [hf]
  · rw [hf]
    exact if_pos ht
  · subst ho
    intro s1 q s2
    refine next_congr ?_
    rw [hf]
    refine (if_neg (Nat.not_lt.2 ht)).trans ?_
    simp only [beq_iff_eq]
    rfl
  · rw [hm, Option.bind_some, hl, Option.map_some]
    refine if_pos ?_
    rcases h with h | h <;> simp [h]
  · rw [hm, Option.bind_some, hl, Option.map_some]
    exact if_neg (by simp [h, hr])
  · rw [hm]
    rfl
end

section
/-! PROOFS. Register accesses (18): what reaches the register, what is logged, and the writes that have a row. -/

namespace Sys2Proof.Machine
open Sys2Proof.Claims

/-! Bytes of a word. -/

theorem leNat_leBytes (n v : Nat) : leNat (leBytes n v) = v % 256 ^ n := by
  induction n generalizing v with
  | zero => simp [leBytes, leNat, Nat.mod_one]
  | succ n ih =>
    have hb : (BitVec.ofNat 8 v).toNat = v % 256 := rfl
    rw [leBytes, leNat, ih, hb, Nat.pow_succ', Nat.mod_mul]

theorem dataOf_map_some (bs : List Byte) : dataOf (bs.map some) = leNat bs := by
  simp [dataOf, Function.comp_def]

theorem dataOf_word (v : Word) : dataOf ((leBytes 4 v.toNat).map some) = v.toNat := by
  rw [dataOf_map_some, leNat_leBytes]
  exact Nat.mod_eq_of_lt v.isLt

theorem dataOf_dword (x : DWord) : dataOf ((leBytes 8 x.toNat).map some) = x.toNat := by
  rw [dataOf_map_some, leNat_leBytes]
  exact Nat.mod_eq_of_lt x.isLt

theorem bit_toNat (v : Word) (i : Nat) : bit v.toNat i = v.getLsbD i := by
  rw [bit, BitVec.getLsbD, Nat.testBit_eq_decide_div_mod_eq]
  rfl

/-! One access of at most 8 bytes, all enabled, is one part. -/

theorem trimAccess_map_some (o : Nat) (bs : List Byte) : trimAccess o (bs.map some) = (o, bs.map some) := by
  have hkeep : (bs.map some).reverse.dropWhile Option.isNone = (bs.map some).reverse := by
    rw [← List.map_reverse]
    cases bs.reverse <;> rfl
  cases bs with
  | nil => rfl
  | cons b bs => exact congrArg (Prod.mk o) ((congrArg List.reverse hkeep).trans (List.reverse_reverse _))

theorem accessParts_short {α : Type} (o : Nat) {bs : List α} (h : bs.length ≤ 8) : accessParts o bs = [(o, bs)] := if_pos h

/-- 18 R506: a full access of at most 8 bytes is one part; it is held while the register's die is under reset. -/
theorem hostRegWrite_part {s : State} {f : Fin 513} (o : Nat) {bs : List Byte} (hopen : s.barOpen f = true)
    (hfailed : s.barFailed f = false) (hn : bs.length ≤ 8) :
    s.hostRegWrite f o (bs.map some) = if s.holdsWrite f o then
      { s with regs := { s.regs with heldWrites := s.regs.heldWrites ++ [⟨f, o, bs.map some⟩] } } else s.writePart f o (bs.map some) := by
  simp [State.hostRegWrite, hopen, hfailed, trimAccess_map_some, accessParts_short o (bs := bs.map some) (by simpa using hn)]

theorem hostRegWrite_writable {s : State} {f : Fin 513} (o : Nat) {bs : List Byte} (hw : Writable s f) (hn : bs.length ≤ 8) :
    s.hostRegWrite f o (bs.map some) = s.writePart f o (bs.map some) := by
  obtain ⟨hopen, hfailed, hcopies⟩ := hw
  have hheld : s.holdsWrite f o = false := by simp [State.holdsWrite, State.copyFor, hcopies]
  rw [hostRegWrite_part o hopen hfailed hn, hheld]
  rfl

/-! Offsets of whole words. -/

theorem vfOffset_mod_four {o p : Nat} (ho : o % 4 = 0) (hp : vfOffset o = some p) : p % 4 = 0 := by
  unfold vfOffset at hp
  dsimp only at hp
  split at hp <;> simp only [Option.some.injEq, reduceCtorEq] at hp <;> omega

theorem mapOffset_mod_four {f : Fin 513} {o p : Nat} (ho : o % 4 = 0) (hp : mapOffset f o = some p) : p % 4 = 0 := by
  unfold mapOffset at hp
  split at hp
  · split at hp
    · cases hp; exact ho
    · cases hp
  · exact vfOffset_mod_four ho hp

/-- The register that an access part looks up, with the offset it maps to. -/
def regLookup (f : Fin 513) (o : Nat) : Option (Nat × Nat × Nat) :=
  (mapOffset f o).bind fun p => (regAt (p / 4 * 4)).map fun x => (p, x)

theorem regLookup_none {f : Fin 513} {o : Nat} (ho : o % 4 = 0) (h : (mapOffset f o).bind regAt = none) : regLookup f o = none := by
  unfold regLookup
  cases hm : mapOffset f o with
  | none => rfl
  | some p =>
    rw [hm] at h
    have hp : p / 4 * 4 = p := Nat.div_mul_cancel (Nat.dvd_of_mod_eq_zero (mapOffset_mod_four ho hm))
    simp only [Option.bind_some, hp] at h ⊢
    rw [h]
    rfl

theorem regLookup_some {f : Fin 513} {o p r n : Nat} (ho : o % 4 = 0) (hm : mapOffset f o = some p) (hr : regAt p = some (r, n)) :
    regLookup f o = some (p, r, n) := by
  have hp : p / 4 * 4 = p := Nat.div_mul_cancel (Nat.dvd_of_mod_eq_zero (mapOffset_mod_four ho hm))
  simp [regLookup, hm, hp, hr]

/-! Parts of a write (18 R506, R507). -/

theorem firstEnables_word {o : Nat} (ho : o % 4 = 0) (v : Word) : firstEnables o ((leBytes 4 v.toNat).map some) = 15 := by
  simp [firstEnables, ho, leBytes, packBits, flagBit]

theorem alignedAccess_word {o : Nat} (v : Word) : alignedAccess o ((leBytes 4 v.toNat).map some) = decide (o % 4 = 0) := by
  simp [alignedAccess]

theorem writePart_misaligned {s : State} {f : Fin 513} {o : Nat} {bs : List (Option Byte)} (hne : bs.isEmpty = false)
    (h : alignedAccess o bs = false) : s.writePart f o bs = s.logAccess f false o 2 (firstEnables o bs) := by
  simp [State.writePart, hne, h]

theorem writePart_nowhere {s : State} {f : Fin 513} {o : Nat} {bs : List (Option Byte)} (hne : bs.isEmpty = false)
    (ha : alignedAccess o bs = true) (hr : regLookup f o = none) :
    s.writePart f o bs = s.logAccess f false o 5 (firstEnables o bs) := by
  unfold regLookup at hr
  simp [State.writePart, hne, ha, hr]

section
variable {s : State} {f : Fin 513} {o p r n : Nat} {bs : List (Option Byte)} (hne : bs.isEmpty = false)
  (ha : alignedAccess o bs = true) (hr : regLookup f o = some (p, r, n))
include hne ha hr

theorem writePart_forbidden (hp : permitted f r = false) : s.writePart f o bs = s.logAccess f false o 4 (firstEnables o bs) := by
  unfold regLookup at hr
  simp [State.writePart, hne, ha, hr, hp]

theorem writePart_partial (hp : permitted f r = true) (hb : byteWritable r = false) (h4 : bs.length ≠ 4) (h8 : bs.length ≠ 8) :
    s.writePart f o bs = s.logAccess f false o 1 (firstEnables o bs) := by
  unfold regLookup at hr
  simp [State.writePart, hne, ha, hr, hp, hb, h4, h8]

theorem writePart_locked (hp : permitted f r = true) (hb : byteWritable r = false) (hn : bs.length = 4) (hall : bs.all Option.isSome = true)
    (hl : s.lockRefuses r (dataOf bs) = true) : s.writePart f o bs = s.logAccess f false o 7 (firstEnables o bs) := by
  unfold regLookup at hr
  simp only [State.writePart, hne, ha, hr, hp, hb, hn, hall, hl]
  rfl

/-- The whole register in one part: a word of a 4-byte register, or eight bytes of an 8-byte one. -/
theorem writePart_whole (hp : permitted f r = true) (hb : byteWritable r = false) (hn : bs.length = n) (h48 : n = 4 ∨ n = 8)
    (hall : bs.all Option.isSome = true) (hl : s.lockRefuses r (dataOf bs) = false) :
    s.writePart f o bs = s.finishWrite f o (firstEnables o bs) r (dataOf bs) := by
  unfold regLookup at hr
  rcases h48 with rfl | rfl <;> simp only [State.writePart, hne, ha, hr, hp, hb, hn, hall, hl] <;> rfl

/-- 18 R507: the low word of an 8-byte register is staged. -/
theorem writePart_low (hp : permitted f r = true) (hb : byteWritable r = false) (hn : bs.length = 4) (h8 : n = 8)
    (hall : bs.all Option.isSome = true) (hl : s.lockRefuses r (dataOf bs) = false) (hpr : p % 8 = r % 8) :
    s.writePart f o bs = s.modFn f fun x => { x with slot := some (r, BitVec.ofNat 32 (dataOf bs)) } := by
  subst h8
  unfold regLookup at hr
  simp only [State.writePart, hne, ha, hr, hp, hb, hn, hall, hl, hpr, beq_self_eq_true]
  rfl

/-- 18 R507: the high word, with the low one that is staged, writes both. -/
theorem writePart_high {w : Word} (hp : permitted f r = true) (hb : byteWritable r = false) (hn : bs.length = 4) (h8 : n = 8)
    (hall : bs.all Option.isSome = true) (hl : s.lockRefuses r (dataOf bs) = false) (hpr : p % 8 ≠ r % 8)
    (hslot : (s.fnOf f).slot = some (r, w)) :
    s.writePart f o bs
      = (s.modFn f fun x => { x with slot := none }).finishWrite f o (firstEnables o bs) r (w.toNat + 2 ^ 32 * dataOf bs) := by
  subst h8
  unfold regLookup at hr
  simp only [State.writePart, hne, ha, hr, hp, hb, hn, hall, hl, hslot, beq_eq_false_iff_ne.2 hpr, beq_self_eq_true]
  rfl

end

theorem finishWrite_accepted {s : State} {f : Fin 513} {o be r v : Nat} (h : (s.regWrite f r v).2 = 0) :
    s.finishWrite f o be r v = (s.regWrite f r v).1 := by
  simp [State.finishWrite, h]

theorem finishWrite_refused {s : State} {f : Fin 513} {o be r v : Nat} (h : (s.regWrite f r v).2 ≠ 0) :
    s.finishWrite f o be r v = (s.regWrite f r v).1.logAccess f false o (s.regWrite f r v).2 be := by
  simp [State.finishWrite, h]

/-! A write of a word. -/

section
variable {s : State} {f : Fin 513} {o : Nat} (v : Word) (hw : Writable s f)
include hw

theorem hostWriteWord_part : s.hostWriteWord f o v = s.writePart f o ((leBytes 4 v.toNat).map some) :=
  hostRegWrite_writable o hw (by simp)

theorem hostWriteWord_misaligned (ho : o % 4 ≠ 0) : ∃ be, s.hostWriteWord f o v = s.logAccess f false o 2 be :=
  ⟨_, (hostWriteWord_part v hw).trans (writePart_misaligned rfl (by rw [alignedAccess_word, decide_eq_false ho]))⟩

theorem hostWriteWord_nowhere (ho : o % 4 = 0) (hr : (mapOffset f o).bind regAt = none) :
    s.hostWriteWord f o v = s.logAccess f false o 5 15 := by
  rw [hostWriteWord_part v hw, writePart_nowhere rfl (by rw [alignedAccess_word, decide_eq_true ho]) (regLookup_none ho hr),
    firstEnables_word ho]

section
variable {p r n : Nat} (ho : o % 4 = 0) (hm : mapOffset f o = some p) (hr : regAt p = some (r, n))
include ho hm hr

theorem hostWriteWord_forbidden (hp : permitted f r = false) : s.hostWriteWord f o v = s.logAccess f false o 4 15 := by
  rw [hostWriteWord_part v hw, writePart_forbidden rfl (by rw [alignedAccess_word, decide_eq_true ho]) (regLookup_some ho hm hr) hp,
    firstEnables_word ho]

variable (hp : permitted f r = true) (hb : byteWritable r = false)
include hp hb

theorem hostWriteWord_locked (hl : s.lockRefuses r v.toNat = true) : s.hostWriteWord f o v = s.logAccess f false o 7 15 := by
  rw [hostWriteWord_part v hw, writePart_locked rfl (by rw [alignedAccess_word, decide_eq_true ho]) (regLookup_some ho hm hr) hp hb
    (by simp) (by simp) (by rw [dataOf_word, hl]), firstEnables_word ho]

theorem hostWriteWord_register (hl : s.lockRefuses r v.toNat = false) (hn : n = 4) :
    s.hostWriteWord f o v = s.finishWrite f o 15 r v.toNat := by
  rw [hostWriteWord_part v hw, writePart_whole rfl (by rw [alignedAccess_word, decide_eq_true ho]) (regLookup_some ho hm hr) hp hb
    (by simp [hn]) (.inl hn) (by simp) (by rw [dataOf_word, hl]), firstEnables_word ho, dataOf_word]

end
end

/-! Doorbell words of BAR2 (18 R509). -/

theorem hostDoorbellWrite_word {s : State} {f : Fin 513} {o : Nat} (v : Word) (hopen : s.doorbellOpen f = true) (ho : o % 4 = 0) :
    s.hostDoorbellWrite f o ((leBytes 4 v.toNat).map some) = s.doorbellWord f o v := by
  have ha : alignedAccess o ((leBytes 4 v.toNat).map some) = true := by rw [alignedAccess_word, decide_eq_true ho]
  have hne : ((leBytes 4 v.toNat).map some).isEmpty = false := rfl
  have hparts := accessParts_short o (bs := (leBytes 4 v.toNat).map some) (by simp)
  have hdata : BitVec.ofNat 32 (dataOf ((leBytes 4 v.toNat).map some)) = v := by rw [dataOf_word, BitVec.ofNat_toNat, BitVec.setWidth_eq]
  simp only [State.hostDoorbellWrite, hopen, trimAccess_map_some, hparts, List.foldl_cons, List.foldl_nil, hne, ha, hdata]
  rfl

theorem doorbellWord_sq {s : State} {f : Fin 513} {i : Nat} (v : Word) (hi : i < 512) :
    s.doorbellWord f (4 * i) v = s.sqDoorbell f i v := by
  rw [State.doorbellWord, if_pos (by omega), Nat.mul_div_cancel_left i (by omega)]

theorem doorbellWord_cq {s : State} {f : Fin 513} {i : Nat} (v : Word) (hi : i < 512) :
    s.doorbellWord f (0x800 + 4 * i) v = s.cqDoorbell f i v := by
  rw [State.doorbellWord, if_neg (by omega), if_pos (by omega), Nat.add_sub_cancel_left, Nat.mul_div_cancel_left i (by omega)]

/-! A read of a word (18 R505, R507, R508). -/

/-- The one part of a read of four bytes. -/
theorem readParts_word (o : Nat) : readParts o [true, true, true, true] = [(o, [0, 0, 0, 0].map some)] := by
  have ht := trimAccess_map_some o [0, 0, 0, 0]
  have hp := accessParts_short o (bs := ([0, 0, 0, 0] : List Byte).map some) (Nat.le_of_ble_eq_true rfl)
  have hd : ([true, true, true, true].map fun b => if b then some (0 : Byte) else none) = [0, 0, 0, 0].map some := rfl
  simp only [readParts, hd, ht, hp, List.map_cons (f := fun (x : Nat × List (Option Byte)) => trimAccess x.1 x.2), List.map_nil]

theorem unalignedPart_word (o : Nat) :
    unalignedPart o [true, true, true, true] = if o % 4 = 0 then none else some (o, [0, 0, 0, 0].map some) := by
  by_cases ho : o % 4 = 0 <;> simp [unalignedPart, readParts_word, alignedAccess, ho]

/-- The bytes of a word, as a read with all its bytes enabled takes them. -/
theorem enabledBytes_word (v : Nat) :
    (([true, true, true, true].zipIdx).map fun (b, i) => if b then BitVec.ofNat 8 (bits v (8 * (0 + i)) 8) else 0) = leBytes 4 v := by
  have hbyte : ∀ k, BitVec.ofNat 8 (bits v k 8) = BitVec.ofNat 8 (v / 2 ^ k) := fun k => BitVec.eq_of_toNat_eq (Nat.mod_mod _ _)
  simp [leBytes, hbyte, Nat.div_div_eq_div_mul]

theorem readPart_word {s : State} {f : Fin 513} {o : Nat} (ho : o % 4 = 0) :
    s.readPart f false o [true, true, true, true] = (leBytes 4 (s.readWord f o true).1, (s.readWord f o true).2) := by
  have hd : o / 4 * 4 = o := Nat.div_mul_cancel (Nat.dvd_of_mod_eq_zero ho)
  simp only [State.readPart, hd, ho]
  exact congrArg (·, _) (enabledBytes_word _)

theorem hostRegRead_word {s : State} {f : Fin 513} {o : Nat} (hopen : s.barOpen f = true) (hfailed : s.barFailed f = false)
    (ho : o % 4 = 0) :
    s.hostRegRead f false o [true, true, true, true] = (s.readWord f o true).2.reply (.data (leBytes 4 (s.readWord f o true).1)) := by
  have hp : s.readPart f false o (([0, 0, 0, 0] : List Byte).map some |>.map Option.isSome)
      = (leBytes 4 (s.readWord f o true).1, (s.readWord f o true).2) := readPart_word ho
  simp only [State.hostRegRead, State.barInUse, hopen, hfailed, unalignedPart_word, if_pos ho, readParts_word, List.foldl_cons,
    List.foldl_nil, hp]
  rfl

theorem readLatch_word {s : State} {f : Fin 513} {o : Nat} (hopen : s.barOpen f = true) (hfailed : s.barFailed f = false) (ho : o % 4 = 0) :
    exec (.readLatch f false o [true, true, true, true]) s
      = .next ((s.readWord f o true).2.reply (.data (leBytes 4 (s.readWord f o true).1))) := by
  refine next_congr ?_
  rw [unalignedPart_word, if_pos ho]
  exact hostRegRead_word hopen hfailed ho

theorem readWord_nowhere {s : State} {f : Fin 513} {o : Nat} {latch : Bool} (h : (mapOffset f o).bind regAt = none) :
    s.readWord f o latch = (0, s) := by
  have hl : ((mapOffset f o).bind fun p => (regAt p).map fun x => (p, x)) = none := by
    simpa only [Option.bind_eq_none_iff, Option.map_eq_none_iff] using h
  simp only [State.readWord, hl]

section
variable {s : State} {f : Fin 513} {o p r : Nat} (hm : mapOffset f o = some p)
include hm

theorem readWord_four {latch : Bool} (hr : regAt p = some (r, 4)) : s.readWord f o latch = (s.regRead f r, s) := by
  simp [State.readWord, hm, hr]

theorem readWord_low (hr : regAt p = some (r, 8)) (hp : p = r) : s.readWord f o true
    = (s.regRead f r % 2 ^ 32, s.modFn f fun x => { x with latch := some (r, BitVec.ofNat 32 (s.regRead f r / 2 ^ 32)) }) := by
  subst hp
  simp [State.readWord, hm, hr]

theorem readWord_high {w : Word} (hr : regAt p = some (r, 8)) (hp : p ≠ r) (hl : (s.fnOf f).latch = some (r, w)) :
    s.readWord f o true = (w.toNat, s.modFn f fun x => { x with latch := none }) := by
  simp [State.readWord, hm, hr, hp, hl]

end

theorem unalignedRead_word {s : State} {f : Fin 513} {o : Nat} (hopen : s.barOpen f = true) (hfailed : s.barFailed f = false)
    (ho : o % 4 ≠ 0) : ∃ be, exec (.unalignedRead f false o [true, true, true, true]) s
      = .next ((s.logAccess f false o 8 be).reply .unsupported) := by
  refine ⟨firstEnables o (([0, 0, 0, 0] : List Byte).map some), next_congr ?_⟩
  rw [unalignedPart_word, if_neg ho]
  refine (if_pos rfl).trans ?_
  simp only [State.hostRegRead, State.barInUse, hopen, hfailed, unalignedPart_word, if_neg ho]
  rfl

/-! The register writes that have a row: what an accepted or a refused value leaves. -/

/-- What a write of a 4-byte register with the map, the access and the lock in order leaves. -/
theorem hostWriteWord_accepted {s s' : State} {f : Fin 513} {o p : Nat} {v : Word} (hw : Writable s f) (ho : o % 4 = 0)
    (hm : mapOffset f o = some p) (hr : regAt p = some (p, 4)) (hp : permitted f p = true) (hb : byteWritable p = false)
    (hl : s.lockRefuses p v.toNat = false) (hv : s.regWrite f p v.toNat = applied s') : s.hostWriteWord f o v = s' := by
  rw [hostWriteWord_register v hw ho hm hr hp hb hl rfl, finishWrite_accepted (by rw [hv]; rfl), hv]
  rfl

theorem hostWriteWord_refused {s : State} {f : Fin 513} {o p reason : Nat} {v : Word} (hw : Writable s f) (ho : o % 4 = 0)
    (hm : mapOffset f o = some p) (hr : regAt p = some (p, 4)) (hp : permitted f p = true) (hb : byteWritable p = false)
    (hl : s.lockRefuses p v.toNat = false) (hv : s.regWrite f p v.toNat = (s, reason)) (hne : reason ≠ 0) :
    s.hostWriteWord f o v = s.logAccess f false o reason 15 := by
  have hv2 : (s.regWrite f p v.toNat).2 = reason := by rw [hv]
  rw [hostWriteWord_register v hw ho hm hr hp hb hl rfl, finishWrite_refused (by rw [hv2]; exact hne), hv]

theorem lockRefuses_unlocked {s : State} {r v : Nat} (h : s.regs.cfgLock = false) : s.lockRefuses r v = false := by
  simp [State.lockRefuses, h]

theorem lockRefuses_uncovered {s : State} {r v : Nat} (hc : lockCovers r = false) (hr : r ≠ 0x54008) : s.lockRefuses r v = false := by
  simp [State.lockRefuses, hc, hr]

theorem writeGroupCmd_recal (s : State) (g : Nat) :
    s.writeGroupCmd g 1 = (s.modGroup g fun x => { x with recalDue := true }).startRecal g := rfl

theorem writeGroupCmd_disable (s : State) (g : Nat) :
    s.writeGroupCmd g 4 = (groupLinks g).foldl State.disableLink
      (s.modGroup g fun x => { x with held := true, recalling := false, recalDue := false }) := rfl

/-- 11 R353: LNK_GRP_CMD of a group. -/
theorem hostWriteWord_groupCmd {s : State} {v : Word} (hw : Writable s 0) (hl : s.regs.cfgLock = false) (g : Fin 12) :
    s.hostWriteWord 0 (0x40040 + 4 * g.val) v = s.writeGroupCmd g v.toNat := by
  have hr : ∀ g : Fin 12, mapOffset 0 (0x40040 + 4 * g.val) = some (0x40040 + 4 * g.val)
      ∧ regAt (0x40040 + 4 * g.val) = some (0x40040 + 4 * g.val, 4) ∧ permitted 0 (0x40040 + 4 * g.val) = true
      ∧ byteWritable (0x40040 + 4 * g.val) = false ∧ blockOf (0x40040 + 4 * g.val) = 0x40000 := by decide
  obtain ⟨hm, hr, hp, hb, hblock⟩ := hr g
  refine hostWriteWord_accepted hw (by omega) hm hr hp hb (lockRefuses_unlocked hl) ?_
  have ho : 0x40040 + 4 * g.val - 0x40000 = 0x40 + 4 * g.val := by omega
  have hw : s.writeLnk (0x40 + 4 * g.val) v.toNat = applied (s.writeGroupCmd g v.toNat) := by
    have h4 : ¬ (0x40 + 4 * g.val = 4) := by omega
    have hin : 0x40 + 4 * g.val < 0x70 := by omega
    have hg : 4 * g.val / 4 = g.val := by omega
    simp [State.writeLnk, h4, hin, hg]
  simp only [State.regWrite, hblock, ho]
  exact hw

/-- The value of FLT_RESET that asks for a level and a unit (14 R443). -/
def fltReset (level unit : Nat) : Word := BitVec.ofNat 32 (packBits [(3, level), (1, 1), (12, 0), (16, unit)])

section
variable {level : Nat} (hlevel : level < 8) (u : Fin 65536)
include hlevel

theorem fltReset_toNat : (fltReset level u).toNat = level + 8 + 65536 * u.val := by
  simp only [fltReset, packBits, BitVec.toNat_ofNat]
  omega

theorem bits_fltReset_level : bits (fltReset level u).toNat 0 3 = level := by
  rw [fltReset_toNat hlevel, bits]
  omega

theorem bits_fltReset_unit : bits (fltReset level u).toNat 16 16 = u.val := by
  rw [fltReset_toNat hlevel, bits]
  omega

theorem bit_fltReset : bit (fltReset level u).toNat 3 = true := by
  rw [fltReset_toNat hlevel, bit, beq_iff_eq]
  omega

variable {s : State} (hw : Writable s 0) (hl : s.regs.cfgLock = false)
include hw hl

theorem writeFltReset_accepted {l : ResetLevel} {k : Nat} (hmod : l ≠ .module)
    (ht : resetTarget (fltReset level u).toNat = some (l, k)) : s.writeFltReset level u = s.beginReset l k 6 false := by
  refine hostWriteWord_accepted (v := fltReset level u) hw rfl rfl rfl rfl rfl (lockRefuses_unlocked hl) ?_
  change s.writeReset (fltReset level u).toNat = _
  rw [State.writeReset, bit_fltReset hlevel, ht]
  cases l <;> simp at hmod ⊢

theorem writeFltReset_module {k : Nat} (ht : resetTarget (fltReset level u).toNat = some (.module, k)) :
    s.writeFltReset level u = s.restartModule 6 := by
  refine hostWriteWord_accepted (v := fltReset level u) hw rfl rfl rfl rfl rfl (lockRefuses_unlocked hl) ?_
  change s.writeReset (fltReset level u).toNat = _
  rw [State.writeReset, bit_fltReset hlevel, ht]
  rfl

theorem writeFltReset_refused (ht : resetTarget (fltReset level u).toNat = none) :
    s.writeFltReset level u = s.logAccess 0 false 0x50008 6 15 := by
  refine hostWriteWord_refused (v := fltReset level u) hw rfl rfl rfl rfl rfl (lockRefuses_unlocked hl) ?_ (by decide)
  change s.writeReset (fltReset level u).toNat = _
  rw [State.writeReset, bit_fltReset hlevel, ht]
  rfl

end

theorem resetTarget_tile (u : Fin 65536) : resetTarget (fltReset 1 u).toNat = if u.val < 160 then some (.tile, u.val) else none := by
  simp only [resetTarget, bits_fltReset_level (by decide : 1 < 8), bits_fltReset_unit (by decide : 1 < 8)]

theorem resetTarget_engine (u : Fin 65536) : resetTarget (fltReset 2 u).toNat = if engineId u then some (.engine, u.val) else none := by
  simp only [resetTarget, bits_fltReset_level (by decide : 2 < 8), bits_fltReset_unit (by decide : 2 < 8)]

theorem resetTarget_linkGroup (u : Fin 65536) : resetTarget (fltReset 3 u).toNat = if u.val < 12 then some (.linkGroup, u.val) else none := by
  simp only [resetTarget, bits_fltReset_level (by decide : 3 < 8), bits_fltReset_unit (by decide : 3 < 8)]

theorem resetTarget_die (u : Fin 65536) : resetTarget (fltReset 4 u).toNat = if u.val < 4 then some (.die, u.val) else none := by
  simp only [resetTarget, bits_fltReset_level (by decide : 4 < 8), bits_fltReset_unit (by decide : 4 < 8)]

/-- 05 R160: MEM_MAPOUT_REQ goes to `writeMapout`. -/
theorem memMapoutReq_accepted {s s' : State} {v : Word} (hw : Writable s 0) (hl : s.regs.cfgLock = false)
    (hv : s.writeMapout v.toNat = applied s') : s.hostWriteWord 0 0x30080 v = s' :=
  hostWriteWord_accepted hw rfl rfl rfl rfl rfl (lockRefuses_unlocked hl) hv

/-! The administration pair and the event ring's head, at the offsets of the function's own map. -/

theorem mapOffset_adminEnable (f : Fin 513) : mapOffset f (ownOffset f 0x10000 0x4000 0x14) = some 0x10014 := by
  by_cases h : f.val = 0 <;> simp [mapOffset, ownOffset, vfOffset, h]

theorem permitted_adminEnable (f : Fin 513) : permitted f 0x10014 = true := by
  by_cases h : f.val = 0 <;> simp [permitted, h]

theorem mapOffset_eventHead (f : Fin 513) : mapOffset f (ownOffset f 0x11000 0x5000 0x18) = some 0x11018 := by
  by_cases h : f.val = 0 <;> simp [mapOffset, ownOffset, vfOffset, h]

theorem permitted_eventHead (f : Fin 513) : permitted f 0x11018 = true := by
  by_cases h : f.val = 0 <;> simp [permitted, h]

theorem ownOffset_mod_four {f : Fin 513} {pf0 vf o : Nat} (hp : pf0 % 4 = 0) (hv : vf % 4 = 0) (ho : o % 4 = 0) :
    ownOffset f pf0 vf o % 4 = 0 := by
  unfold ownOffset
  split <;> omega

section
variable {s s' : State} {f : Fin 513} {v : Word} (hw : Writable s f)
include hw

theorem cmdAdmqEn_accepted (hv : s.writeCmd f 0x14 v.toNat = applied s') : exec (.cmdAdmqEn f v) s = .next s' :=
  next_congr (hostWriteWord_accepted hw (ownOffset_mod_four rfl rfl rfl) (mapOffset_adminEnable f) rfl (permitted_adminEnable f) rfl
    (lockRefuses_uncovered rfl (by decide)) hv)

theorem cmdAdmqEn_refused {reason : Nat} (hv : s.writeCmd f 0x14 v.toNat = (s, reason)) (hne : reason ≠ 0) :
    exec (.cmdAdmqEn f v) s = .next (s.logAccess f false (ownOffset f 0x10000 0x4000 0x14) reason 15) :=
  next_congr (hostWriteWord_refused hw (ownOffset_mod_four rfl rfl rfl) (mapOffset_adminEnable f) rfl (permitted_adminEnable f) rfl
    (lockRefuses_uncovered rfl (by decide)) hv hne)

theorem hstEvtHead_accepted (hv : s.writeEvtHead f v.toNat = applied s') : exec (.hstEvtHead f v) s = .next s' :=
  next_congr (hostWriteWord_accepted hw (ownOffset_mod_four rfl rfl rfl) (mapOffset_eventHead f) rfl (permitted_eventHead f) rfl
    (lockRefuses_uncovered rfl (by decide)) hv)

theorem hstEvtHead_refused (hv : s.writeEvtHead f v.toNat = (s, 6)) :
    exec (.hstEvtHead f v) s = .next (s.logAccess f false (ownOffset f 0x11000 0x5000 0x18) 6 15) :=
  next_congr (hostWriteWord_refused hw (ownOffset_mod_four rfl rfl rfl) (mapOffset_eventHead f) rfl (permitted_eventHead f) rfl
    (lockRefuses_uncovered rfl (by decide)) hv (by decide))

end

section
variable {s : State} {f : Fin 513} {v : Word}

theorem bits_high_half (v : Word) : bits v.toNat 16 16 = v.toNat / 65536 := Nat.mod_eq_of_lt (by omega)

theorem bits_low_half (v : Word) : bits v.toNat 0 16 = v.toNat % 65536 := by simp [bits]

/-- 12 R386: ENABLE on a disabled pair. -/
theorem writeCmd_enable (he : (s.fnOf f).enable = false) (hv : v.getLsbD 0 = true)
    (ht : f.val ≠ 0 → (s.tntOf (fnTenant f)).enable = true) :
    s.writeCmd f 0x14 v.toNat = applied ((s.modFn f fun x => { x with vector := v.toNat / 65536 }).enableAdmin f) := by
  have hallowed : (f.val != 0 && !(s.tntOf (fnTenant f)).enable) = false := by
    by_cases h : f.val = 0
    · simp [h]
    · simp [ht h]
  simp only [State.writeCmd, he, bit_toNat, hv, Bool.true_and, hallowed, bits_high_half]
  rfl

theorem writeCmd_tenantDisabled (he : (s.fnOf f).enable = false) (hv : v.getLsbD 0 = true) (hf : f.val ≠ 0)
    (ht : (s.tntOf (fnTenant f)).enable = false) : s.writeCmd f 0x14 v.toNat = (s, 6) := by
  simp only [State.writeCmd, he, bit_toNat, hv, ht, bne_iff_ne.2 hf]
  rfl

theorem writeCmd_vector (he : (s.fnOf f).enable = false) (hv : v.getLsbD 0 = false) :
    s.writeCmd f 0x14 v.toNat = applied (s.modFn f fun x => { x with vector := v.toNat / 65536 }) := by
  simp only [State.writeCmd, he, bit_toNat, hv, bits_high_half]
  rfl

theorem writeCmd_disable (he : (s.fnOf f).enable = true) (hv : v.getLsbD 0 = false) : s.writeCmd f 0x14 v.toNat = (s, 3) := by
  have hdiff : ∀ a b, (packBits [flagBit false, (15, 0), (16, a)] == packBits [flagBit true, (15, 0), (16, b)]) = false := fun a b => by
    rw [beq_eq_false_iff_ne]
    simp [packBits, flagBit]
    omega
  simp only [State.writeCmd, he, bit_toNat, hv, hdiff]
  rfl

end

end Sys2Proof.Machine

open Sys2Proof Sys2Proof.Machine Sys2Proof.Claims

theorem registerWritesChecked : RegisterWritesChecked := by
  intro s f o v
  dsimp only
  refine ⟨fun hc => next_congr ?_, fun hw => ⟨fun ho => ⟨fun hn => next_congr (hostWriteWord_nowhere v hw ho hn), fun r n hr => ?_⟩,
    fun ho => ?_⟩, fun hopen hfailed hh => next_congr ?_⟩
  · exact if_pos (show (!s.barOpen f || s.barFailed f) = true by rw [hc]; rfl)
  · obtain ⟨p, hm, hr⟩ := Option.bind_eq_some_iff.1 hr
    refine ⟨fun hp => next_congr (hostWriteWord_forbidden v hw ho hm hr hp), fun hp hb =>
      ⟨fun hl => next_congr (hostWriteWord_locked v hw ho hm hr hp hb hl), fun hl hn => ?_⟩, fun hp hb => next_congr ?_⟩
    · have h := hostWriteWord_register v hw ho hm hr hp hb hl hn
      exact ⟨fun h0 => next_congr (h.trans (finishWrite_accepted h0)), fun h0 => next_congr (h.trans (finishWrite_refused h0))⟩
    · have ha : alignedAccess o [some (1 : Byte), some 2] = true := by simp [alignedAccess, ho]
      refine (hostRegWrite_writable (bs := [1, 2]) o hw (Nat.le_of_ble_eq_true rfl)).trans ?_
      refine (writePart_partial rfl ha (regLookup_some ho hm hr) hp hb (by simp) (by simp)).trans ?_
      simp [firstEnables, ho, packBits, flagBit]
  · obtain ⟨be, h⟩ := hostWriteWord_misaligned v hw ho
    exact ⟨be, next_congr h⟩
  · exact (hostRegWrite_part (bs := leBytes 4 v.toNat) o hopen hfailed (by simp)).trans (if_pos hh)

theorem wideWritesAndDoorbellWords : WideWritesAndDoorbellWords := by
  intro s f v o r ho8 hr8 hw hbind hm hm4 hr4 hp hb hl
  have ho : o % 4 = 0 := by omega
  have hr : regAt r = some (r, 8) := by rw [hm] at hbind; exact hbind
  have ha : ∀ o, o % 4 = 0 → alignedAccess o ((leBytes 4 v.toNat).map some) = true := fun o h => by
    rw [alignedAccess_word, decide_eq_true h]
  refine ⟨next_congr ?_, fun w hslot => ?_, fun x hlx h0 => next_congr ?_, fun hopen i hi => ⟨next_congr ?_, next_congr ?_⟩⟩
  · refine (hostWriteWord_part v hw).trans ((writePart_low rfl (ha o ho) (regLookup_some ho hm hr) hp hb (by simp) rfl (by simp)
      (by rw [dataOf_word, hl]) rfl).trans ?_)
    rw [dataOf_word, BitVec.ofNat_toNat, BitVec.setWidth_eq]
  · intro s1 q h0
    refine next_congr ((hostWriteWord_part v hw).trans ((writePart_high rfl (ha (o + 4) (by omega))
      (regLookup_some (by omega) hm4 hr4) hp hb (by simp) rfl (by simp) (by rw [dataOf_word, hl]) (by omega) hslot).trans ?_))
    rw [dataOf_word]
    exact finishWrite_accepted h0
  · refine (hostRegWrite_writable (bs := leBytes 8 x.toNat) o hw (by simp)).trans ((writePart_whole (by rfl) (by simp [alignedAccess, ho8])
      (regLookup_some ho hm hr) hp hb (by simp) (.inr rfl) (by simp) (by rw [dataOf_dword, hlx])).trans ?_)
    rw [dataOf_dword]
    exact finishWrite_accepted h0
  · exact (hostDoorbellWrite_word v hopen (by omega)).trans (doorbellWord_sq v hi)
  · exact (hostDoorbellWrite_word v hopen (by omega)).trans (doorbellWord_cq v hi)

theorem registerReads : RegisterReads := by
  intro s f o hopen hfailed
  dsimp only
  refine ⟨fun r p ho hm hr => ?_, fun ho hn => ?_, fun r ho hm hr => ?_, fun r w ho hm hr hl => ?_, unalignedRead_word hopen hfailed⟩
  · rw [readLatch_word hopen hfailed ho, readWord_four hm hr]
  · rw [readLatch_word hopen hfailed ho, readWord_nowhere hn]
  · rw [readLatch_word hopen hfailed ho, readWord_low hm hr rfl]
  · rw [readLatch_word hopen hfailed ho, readWord_high hm hr (by omega) hl]

/-- Settles O28: a full access is one part, which goes by the checks of R506 in order. -/
theorem registerAccess : Obligations.RegisterAccess := ⟨registerWritesChecked, wideWritesAndDoorbellWords, registerReads⟩

theorem namedRegisterWrites : NamedRegisterWrites := by
  intro s v hw hl
  have hfree : ∀ r v, s.lockRefuses r v = false := fun r v => lockRefuses_unlocked hl
  refine ⟨next_congr ?_, next_congr ?_, next_congr ?_, fun g => ⟨next_congr ?_, next_congr ?_, next_congr ?_⟩,
    fun u => ⟨fun h => next_congr ?_, fun h => next_congr ?_, fun h => next_congr ?_, fun h => next_congr ?_, fun h => next_congr ?_,
      fun h => next_congr ?_, fun h => next_congr ?_, fun h => next_congr ?_⟩, next_congr ?_, ?_, fun b hiso hscl hsda => next_congr ?_⟩
  · refine hostWriteWord_accepted hw rfl rfl rfl rfl rfl (hfree _ _) ?_
    rw [← bit_toNat]
    rfl
  · refine hostWriteWord_accepted hw rfl rfl rfl rfl rfl (hfree _ _) ?_
    rw [← bit_toNat]
    rfl
  · refine hostWriteWord_accepted hw rfl rfl rfl rfl rfl (hfree _ _) ?_
    rw [← show bits v.toNat 0 12 = v.toNat % 4096 by simp [bits]]
    rfl
  · exact (hostWriteWord_groupCmd hw hl g).trans (writeGroupCmd_recal s g)
  · exact hostWriteWord_groupCmd hw hl g
  · exact (hostWriteWord_groupCmd hw hl g).trans (writeGroupCmd_disable s g)
  · exact writeFltReset_accepted (by decide) u hw hl (by decide) ((resetTarget_tile u).trans (if_pos h))
  · exact writeFltReset_refused (by decide) u hw hl ((resetTarget_tile u).trans (if_neg (by omega)))
  · exact writeFltReset_accepted (by decide) u hw hl (by decide) ((resetTarget_engine u).trans (if_pos h))
  · exact writeFltReset_refused (by decide) u hw hl ((resetTarget_engine u).trans (if_neg (Bool.eq_false_iff.1 h)))
  · exact writeFltReset_accepted (by decide) u hw hl (by decide) ((resetTarget_linkGroup u).trans (if_pos h))
  · exact writeFltReset_refused (by decide) u hw hl ((resetTarget_linkGroup u).trans (if_neg (by omega)))
  · exact writeFltReset_accepted (by decide) u hw hl (by decide) ((resetTarget_die u).trans (if_pos h))
  · exact writeFltReset_refused (by decide) u hw hl ((resetTarget_die u).trans (if_neg (by omega)))
  · exact writeFltReset_module (by decide) (0 : Fin 65536) hw hl (k := 0) rfl
  · have hpc : bits v.toNat 0 10 = v.toNat % 1024 := by simp [bits]
    dsimp only
    refine ⟨fun hreq hmap hdr hre => next_congr (memMapoutReq_accepted hw hl ?_), fun hreq hmap hbusy => next_congr
      (hostWriteWord_refused hw rfl rfl rfl rfl rfl (hfree _ _) (reason := 6) ?_ (by decide)), fun h => next_congr (memMapoutReq_accepted hw hl ?_)⟩
    · simp only [State.writeMapout, bit_toNat, hpc, hreq, hmap, hdr, hre]
      rfl
    · change s.writeMapout v.toNat = _
      simp only [State.writeMapout, bit_toNat, hpc, hreq, hmap]
      rcases hbusy with h | h <;> simp [h]
    · simp only [State.writeMapout, bit_toNat, hpc]
      exact if_pos (by rcases h with h | h <;> simp only [h, Bool.not_false, Bool.true_or, Bool.or_true])
  · refine hostWriteWord_accepted hw rfl rfl rfl rfl rfl (hfree _ _) ?_
    change s.writeSig 8 _ = _
    cases b <;> simp [State.writeSig, bit, hiso, hscl, hsda]

theorem configurationLockHolds : ConfigurationLockHolds := by
  intro s v hw hl
  refine ⟨next_congr (hostWriteWord_locked v hw rfl rfl (r := 0x52000) (n := 4) rfl rfl rfl (by rw [State.lockRefuses, hl]; rfl)),
    next_congr (hostWriteWord_accepted hw rfl rfl rfl rfl rfl (lockRefuses_uncovered rfl (by decide)) ?_)⟩
  have hkeep : { s with regs := { s.regs with cfgLock := true } } = s := by rw [← hl]
  change applied (if bit v.toNat 0 then { s with regs := { s.regs with cfgLock := true } } else s) = applied s
  rw [hkeep, ite_self]

theorem administrationPairAndEventHead : AdministrationPairAndEventHead := by
  intro s f v hw
  have ho : (if f.val = 0 then 0x10000 else 0x4000) + 0x14 = ownOffset f 0x10000 0x4000 0x14 := by simp [ownOffset]
  have hh : (if f.val = 0 then 0x11000 else 0x5000) + 0x18 = ownOffset f 0x11000 0x5000 0x18 := by simp [ownOffset]
  dsimp only
  rw [ho, hh]
  refine ⟨fun he hv ht => cmdAdmqEn_accepted hw (writeCmd_enable he hv ht), fun he hv hf ht => cmdAdmqEn_refused hw (writeCmd_tenantDisabled he hv hf ht) (by decide),
    fun he hv => cmdAdmqEn_accepted hw (writeCmd_vector he hv), fun he hv => cmdAdmqEn_refused hw (writeCmd_disable he hv) (by decide),
    fun r hr => ⟨fun hd hn => hstEvtHead_accepted hw ?_, fun h => hstEvtHead_refused hw ?_⟩, fun hr => hstEvtHead_refused hw ?_⟩
  · simp only [State.writeEvtHead, hr, bits_low_half]
    exact if_neg (by simpa using ⟨hd, hn⟩)
  · simp only [State.writeEvtHead, hr, bits_low_half]
    exact if_pos (by simpa using h)
  · simp only [State.writeEvtHead, hr]

/-- Settles O29: each register's offset is looked up once, and the value goes to its block's write. -/
theorem namedRegisters : Obligations.NamedRegisters := ⟨namedRegisterWrites, configurationLockHolds, administrationPairAndEventHead⟩
end
